-- ==== Sys2Proof/Word.lean ====
section
/-! DEFINITION. The word types of the machine (R1, R2): bit patterns of fixed width. -/
namespace Sys2Proof

/-- One byte. -/
abbrev Byte := BitVec 8
/-- A 32-bit register value or memory word. -/
abbrev Word := BitVec 32
/-- A 64-bit value: a register pair, an address, an instruction word. -/
abbrev DWord := BitVec 64
/-- A set of lanes of a group: bit L is lane L. -/
abbrev Mask := BitVec 64

end Sys2Proof
end

