-- ==== Sys2Proof/Syntax.lean ====
section
/-! DEFINITION. The syntax of the machine: operands (R72 to R74), formats' fields as they are meant, and `Instr`, one
constructor per row of the opcode table. The rows of the second part are EVENTS: steps of the machine's other agents
(spec/95). They have no word (`Sys2Proof.encode` gives none); their arguments say which unit acts and carry what is
measured or supplied from outside. -/
namespace Sys2Proof

/-- A guard field (R71): `neg` is GUARD[3], `p` is GUARD[2:0]. -/
structure Guard where
  neg : Bool
  p : BitVec 3
  deriving DecidableEq, Repr

/-- 0b0111: no guard. -/
def Guard.always : Guard := ⟨false, 7⟩

/-- An operand code (Table 3-4). -/
inductive Opnd where
  | v (n : BitVec 8)        -- v0 to v255
  | s (n : BitVec 9)        -- s0 to s383
  | p (n : BitVec 3)        -- p0 to p7
  | special (k : BitVec 4)  -- Table 3-5
  | nat (k : BitVec 6)      -- integers 0 to 63
  | neg (k : BitVec 4)      -- integers −16 to −1, as k − 16
  | fp (k : BitVec 4)       -- Table 3-6
  deriving DecidableEq, Repr

/-- A source field (R72): an operand with its last-use and keep bits. -/
structure Src where
  op : Opnd
  lu : Bool
  kp : Bool
  deriving DecidableEq, Repr

/-- Uniform integer types (Table 6-5). -/
inductive STy where
  | i32 | n32
  deriving DecidableEq, Repr

/-- Packed integer types (Table 5-3). -/
inductive ITy where
  | i32 | n32 | i16 | n16 | i8 | n8 | i4 | n4
  deriving DecidableEq, Repr

/-- Float types of MOD[4:3] (Table 5-4). -/
inductive FTy where
  | f32 | f16 | bf16
  deriving DecidableEq, Repr

/-- Rounding selections of MOD[2:0] (Table 5-4). -/
inductive Rnd where
  | dyn | rne | rtz | rup | rdn | rna | sr
  deriving DecidableEq, Repr

/-- Element formats (Table 4-1). -/
inductive Fmt where
  | i8 | n8 | i16 | n16 | i32 | n32 | i4 | n4 | f32 | f16 | bf16 | e4m3 | e5m2 | e2m3 | e3m2 | e2m1 | ter
  | mxe4m3 | mxe5m2 | mxe2m1
  deriving DecidableEq, Repr

/-- MX block formats as SFMT, TFMT and FMT fields code them (Table 11-4, R194). -/
inductive MxFmt where
  | e4m3 | e5m2 | e2m1
  deriving DecidableEq, Repr

/-- Compare conditions (Table 5-5). -/
inductive Cond where
  | eq | ne | lt | le | gt | ge | ord | uno
  deriving DecidableEq, Repr

/-- Access sizes (Table 5-6). -/
inductive MSize where
  | n8 | i8 | n16 | i16 | b32 | b64 | b128
  deriving DecidableEq, Repr

/-- Scopes (Table 10-1). -/
inductive Scope where
  | g | t | k | d | f
  deriving DecidableEq, Repr

/-- Orders (Table 5-6). -/
inductive Order where
  | rlx | acq | rel | ar
  deriving DecidableEq, Repr

/-- Atomic operations (Table 5-7). -/
inductive AtomOp where
  | add32 | add64 | addF | minS | minU | maxS | maxU | and | or | xor | exch32 | exch64 | cas32 | cas64 | inc
  deriving DecidableEq, Repr

/-- V.SHFL modes (Table 7-5). -/
inductive ShMode where
  | idx | up | down | xor
  deriving DecidableEq, Repr

/-- Reduction and scan operations (Table 7-6). -/
inductive RedOp where
  | addI | addF | minI | minN | maxI | maxN | and | or | xor | minF | maxF
  deriving DecidableEq, Repr

/-- Vote operations (Table 7-7). -/
inductive VoteOp where
  | all | any | uni | ballot | count
  deriving DecidableEq, Repr

/-- WAITA conditions (Table 10-8). -/
inductive WaitCc where
  | eq | ne | ge | any
  deriving DecidableEq, Repr

/-- MX element width of a CPT scale plane (Table 14-2): none, FP8, FP4. -/
inductive MxF where
  | none | fp8 | fp4
  deriving DecidableEq, Repr

/-- Collective operations and types (Table 14-2). -/
inductive CollOp where
  | allred | allgath | redscat
  deriving DecidableEq, Repr

inductive CollTy where
  | f32 | bf16 | i32
  deriving DecidableEq, Repr

/-- A memory operand: BASE and OFFS (R76). -/
structure MAddr where
  base : Src
  offs : Src
  deriving DecidableEq, Repr

/-- The common fields of a Retriever command (R311, Table 14-1). `sig` is the signal pair and SIGV, or none. -/
structure CmdF where
  fs : Bool
  desc : BitVec 9
  sig : Option (BitVec 9 × BitVec 9)
  ssp : Bool
  prio : BitVec 2
  scope : Scope
  deriving DecidableEq, Repr

/-- Where an uncorrectable or correctable integrity error is found (R220, R222, R306). -/
inductive EccSite where
  | line (pa : Nat)                          -- a 128-byte line of HBM or L2
  | scratch (t : Nat) (off : Nat)            -- a scratchpad granule of a team
  | vreg (t grp lane : Nat) (n : BitVec 8)   -- a lane-register
  | sreg (t grp : Nat) (n : BitVec 9)        -- a uniform register
  | accRow (t tile row col : Nat)           -- an accumulator word
  | engine (t grp op : Nat)                  -- operand buffer or array during an MMA
  | sram (addr : Nat)                        -- a word of the Kennel's SRAM
  deriving DecidableEq, Repr

/-- What the scrubber or a hand-off finds. -/
inductive EccKind where
  | clean | corrected | uncorrectable
  deriving DecidableEq, Repr

/-- A pending-repair entry (Table 16-5). -/
structure Repair where
  time : BitVec 32
  addr : BitVec 32
  pin : BitVec 8
  bank : BitVec 8
  chan : BitVec 8
  hbm : BitVec 8
  kind : BitVec 8
  applied : Bool
  deriving DecidableEq, Repr

/-- One column's measured period (R360): the energy of each of its four layers in nJ, from layer 0 up. -/
structure ColPeriod where
  col : Nat
  layersNJ : List Nat
  deriving DecidableEq, Repr

/-- One team's energy in the last budget period, as the Shepherd ranks teams (R368). -/
structure TeamEnergy where
  team : Nat
  energyNJ : Nat
  deriving DecidableEq, Repr

/-- What a fabric peer contributes to a collective (R330): its rank, operation, type, length and bytes, and the positions of
those that were poisoned (R322). -/
structure PeerPart where
  rank : Nat
  op : CollOp
  ty : CollTy
  len : Nat
  data : List Byte
  bad : List Nat
  deriving DecidableEq, Repr

/-- The instructions and events of the machine: one constructor per row of the opcode table. -/
inductive Instr where
  -- Uniform and Control Class
  | sMov (w64 : Bool) (d : BitVec 9) (a : Src)
  | sLi (sx64 : Bool) (d : BitVec 9) (imm : Word)
  | sAdd (t : STy) (sat : Bool) (d : BitVec 9) (a b : Src)
  | sSub (t : STy) (sat : Bool) (d : BitVec 9) (a b : Src)
  | sMul (t : STy) (d : BitVec 9) (a b : Src)
  | sMulhi (t : STy) (d : BitVec 9) (a b : Src)
  | sAnd (t : STy) (d : BitVec 9) (a b : Src)
  | sOr (t : STy) (d : BitVec 9) (a b : Src)
  | sXor (t : STy) (d : BitVec 9) (a b : Src)
  | sNot (t : STy) (d : BitVec 9) (a : Src)
  | sShl (t : STy) (d : BitVec 9) (a b : Src)
  | sShr (t : STy) (d : BitVec 9) (a b : Src)
  | sSra (t : STy) (d : BitVec 9) (a b : Src)
  | sMin (t : STy) (d : BitVec 9) (a b : Src)
  | sMax (t : STy) (d : BitVec 9) (a b : Src)
  | sAdd64 (d : BitVec 9) (a b : Src)
  | sSub64 (d : BitVec 9) (a b : Src)
  | sShl64 (d : BitVec 9) (a b : Src)
  | sCmp (cc : Cond) (t : STy) (d : Opnd) (a b : Src)
  | sSel (g : Guard) (w64 : Bool) (d : BitVec 9) (a b c : Src)
  | sBfe (t : STy) (d : BitVec 9) (a : Src) (pos : BitVec 5) (len : BitVec 6)
  | sBfi (t : STy) (d : BitVec 9) (a b : Src) (pos : BitVec 5) (len : BitVec 6)
  | sClz (d : BitVec 9) (a : Src)
  | sPopc (d : BitVec 9) (a : Src)
  | sRsr (w64 : Bool) (d : BitVec 9) (num : BitVec 12)
  | sWsr (w64 : Bool) (num : BitVec 12) (a : Src)
  | sVget (w64 : Bool) (d : BitVec 9) (a i : Src)
  | br (g : Guard) (c : Option (Bool × Src)) (off : Word)
  | brx (g : Guard) (a : Src)
  | call (g : Guard) (link : Opnd) (off : Word)
  | ret (g : Guard) (a : Src)
  | reform (tgt : Option Src)
  | exit
  | nop
  | yield
  -- Vector Integer and Cross-Lane Class
  | vMov (w64 : Bool) (d : BitVec 8) (a : Src)
  | vLi (sx64 : Bool) (d : BitVec 8) (imm : Word)
  | vAdd (t : ITy) (sat : Bool) (d : BitVec 8) (a b : Src)
  | vSub (t : ITy) (sat : Bool) (d : BitVec 8) (a b : Src)
  | vMul (t : ITy) (d : BitVec 8) (a b : Src)
  | vMulhi (t : ITy) (d : BitVec 8) (a b : Src)
  | vMad (t : ITy) (sat : Bool) (d : BitVec 8) (a b c : Src)
  | vMadw (t : STy) (d : BitVec 8) (a b c : Src)
  | vAnd (t : ITy) (d : BitVec 8) (a b : Src)
  | vOr (t : ITy) (d : BitVec 8) (a b : Src)
  | vXor (t : ITy) (d : BitVec 8) (a b : Src)
  | vNot (t : ITy) (d : BitVec 8) (a : Src)
  | vShl (t : ITy) (d : BitVec 8) (a b : Src)
  | vShr (t : ITy) (d : BitVec 8) (a b : Src)
  | vSra (t : ITy) (d : BitVec 8) (a b : Src)
  | vMin (t : ITy) (d : BitVec 8) (a b : Src)
  | vMax (t : ITy) (d : BitVec 8) (a b : Src)
  | vAbs (t : ITy) (sat : Bool) (d : BitVec 8) (a : Src)
  | vCmp (cc : Cond) (t : ITy) (d : Opnd) (a b : Src)
  | vSel (g : Guard) (w64 : Bool) (d : BitVec 8) (a b c : Src)
  | vBfe (t : STy) (d : BitVec 8) (a : Src) (pos : BitVec 5) (len : BitVec 6)
  | vBfi (t : STy) (d : BitVec 8) (a b : Src) (pos : BitVec 5) (len : BitVec 6)
  | vPopc (t : ITy) (d : BitVec 8) (a : Src)
  | vClz (t : ITy) (d : BitVec 8) (a : Src)
  | vDot4 (asgn bsgn sat : Bool) (d : BitVec 8) (a b c : Src)
  | vReq (out4 : Bool) (d : BitVec 8) (a m q : Src)
  | vUnpk3 (byte : BitVec 2) (pdst : BitVec 3) (d : BitVec 8) (a : Src)
  | vCvt (df sf : Fmt) (d : BitVec 8) (a : Src)
  | vShfl (mode : ShMode) (seg : BitVec 3) (d : BitVec 8) (a k : Src) (off : BitVec 12)
  | vRed (op : RedOp) (d : Opnd) (a : Src)
  | vScan (excl : Bool) (op : RedOp) (d : BitVec 8) (a : Src)
  | vBcast (w64 : Bool) (seg : BitVec 3) (d : BitVec 8) (a i : Src)
  | vVote (op : VoteOp) (d : Opnd) (a : Src)
  -- Vector Floating-Point Class
  | vFadd (f : FTy) (r : Rnd) (d : BitVec 8) (a b : Src)
  | vFsub (f : FTy) (r : Rnd) (d : BitVec 8) (a b : Src)
  | vFmul (f : FTy) (r : Rnd) (d : BitVec 8) (a b : Src)
  | vFmin (f : FTy) (d : BitVec 8) (a b : Src)
  | vFfma (f : FTy) (r : Rnd) (d : BitVec 8) (a b c : Src)
  | vFmax (f : FTy) (d : BitVec 8) (a b : Src)
  | vFcmp (cc : Cond) (f : FTy) (d : Opnd) (a b : Src)
  | vFclass (f : FTy) (d : BitVec 8) (a : Src)
  | vFrnd (f : FTy) (r : Rnd) (d : BitVec 8) (a : Src)
  | vFcvt (df sf : Fmt) (r : Rnd) (d : BitVec 8) (a : Src) (rb : Option Src)
  | vFicvt (df sf : Fmt) (r : Rnd) (d : BitVec 8) (a : Src)
  | vFrcp (d : BitVec 8) (a : Src)
  | vFrsq (d : BitVec 8) (a : Src)
  | vFsqrt (r : Rnd) (d : BitVec 8) (a : Src)
  | vFexp2 (d : BitVec 8) (a : Src)
  | vFlog2 (d : BitVec 8) (a : Src)
  | vFsin (d : BitVec 8) (a : Src)
  | vFcos (d : BitVec 8) (a : Src)
  | vHfma2 (f : FTy) (r : Rnd) (d : BitVec 8) (a b c : Src)
  | vHadd2 (f : FTy) (r : Rnd) (d : BitVec 8) (a b : Src)
  | vHmul2 (f : FTy) (r : Rnd) (d : BitVec 8) (a b : Src)
  | vMxscl (m : MxFmt) (d : BitVec 8) (a : Src)
  | vMxpack (m : MxFmt) (r : Rnd) (d : BitVec 8) (a sc : Src) (rb : Option Src)
  -- Memory Access Class
  | ld (fs : Bool) (sz : MSize) (d : BitVec 8) (m : MAddr) (pol : BitVec 9)
  | st (g : Guard) (fs : Bool) (sz : MSize) (x : Src) (m : MAddr) (pol : BitVec 9)
  | lds (fs : Bool) (sz : MSize) (d : BitVec 8) (m : MAddr)
  | sts (g : Guard) (fs : Bool) (sz : MSize) (x : Src) (m : MAddr)
  | ldr (fs : Bool) (sz : MSize) (pk : BitVec 2) (d : BitVec 8) (m : MAddr)
  | str (g : Guard) (fs : Bool) (sz : MSize) (pk : BitVec 2) (x : Src) (m : MAddr)
  | ldu (fs : Bool) (sz : MSize) (d : BitVec 9) (m : MAddr) (pol : BitVec 9)
  | stu (g : Guard) (fs : Bool) (sz : MSize) (x : Src) (m : MAddr) (pol : BitVec 9)
  | ldc (fs : Bool) (sz : MSize) (d : Opnd) (m : MAddr)
  | pref (fs : Bool) (l1 : Bool) (m : MAddr) (pol : BitVec 9)
  | fence (fs : Bool) (sc : Scope) (o : Order)
  | phase (fs : Bool)
  | mxld (fs : Bool) (tf : MxFmt) (d : BitVec 8) (m : MAddr)
  | mxacc (g : Guard) (fs : Bool) (tf sf : MxFmt) (x : Src) (m : MAddr) (slu : Bool) (sreg : BitVec 8)
  | atom (g : Guard) (fs : Bool) (op : AtomOp) (sc : Scope) (o : Order) (ret : Bool) (x : Src) (m : MAddr)
  | atoms (g : Guard) (fs : Bool) (op : AtomOp) (sc : Scope) (o : Order) (ret : Bool) (pk : Option (BitVec 2)) (x : Src)
      (m : MAddr)
  | atomu (g : Guard) (fs : Bool) (op : AtomOp) (sc : Scope) (o : Order) (ret : Bool) (x : Src) (m : MAddr)
  -- Matrix Class
  | tdef (t : BitVec 4) (u : BitVec 9)
  | mma (fs : Bool) (acc ta tb : BitVec 4) (stat : Option (BitVec 9)) (za capf : Bool) (koff : BitVec 4)
  | accZero (fs : Bool) (acc : BitVec 4)
  | accLd (fs : Bool) (acc ta : BitVec 4)
  | accSt (fs : Bool) (acc ta : BitVec 4)
  | accRd (fs : Bool) (acc : BitVec 4) (v : BitVec 8) (cb : BitVec 3)
  | accWr (fs : Bool) (acc : BitVec 4) (v : BitVec 8) (cb : BitVec 3) (vlu : Bool)
  | accOut (fs : Bool) (acc ta : BitVec 4) (r : Rnd)
  | mstat (fs : Bool) (d : BitVec 9) (clr : Bool)
  -- Asynchronous Engine Class
  | cp (c : CmdF)
  | cpt (c : CmdF) (toGlobal : Bool) (mx : MxF)
  | cpg (c : CmdF) (idxg : Bool)
  | cpsc (c : CmdF) (idxg : Bool)
  | cpr (c : CmdF)
  | cpx (c : CmdF) (win : Bool)
  | coll (c : CmdF) (op : CollOp) (ty : CollTy)
  | cpq (c : CmdF)
  -- Synchronisation Class
  | barInit (fs : Bool) (m : MAddr) (n : Src)
  | barArr (fs : Bool) (m : MAddr) (drop : Bool)
  | barWait (fs : Bool) (m : MAddr)
  | barAw (fs : Bool) (m : MAddr) (drop : Bool)
  | tktTake (fs glob : Bool) (d : BitVec 9) (m : MAddr)
  | tktWait (fs glob : Bool) (sc : Scope) (m : MAddr) (t : Src)
  | tktPass (fs glob : Bool) (sc : Scope) (m : MAddr)
  | waita (fs glob : Bool) (sc : Scope) (cc : WaitCc) (m : MAddr) (x : Src)
  | waitf (fs : Bool) (mask : BitVec 12)
  | fifoPush (fs w64 : Bool) (b : Src) (x : Src)
  | fifoPop (fs w64 : Bool) (b : Src) (d : BitVec 8)
  -- Long-Integer Class
  | lbind (n : BitVec 12)
  | lfree
  | ladd (cin : Bool) (d : BitVec 8) (x y : Src)
  | lsub (cin : Bool) (d : BitVec 8) (x y : Src)
  | lneg (d : BitVec 8) (x : Src)
  | lshl (d : BitVec 8) (x a : Src)
  | lshr (arith : Bool) (d : BitVec 8) (x a : Src)
  | lmulw (d : BitVec 8) (x a : Src) (j : BitVec 6)
  | lcmp (cc : Cond) (sgn : Bool) (d : Opnd) (x y : Src)
  | lcarry (clr : Bool) (d : BitVec 9)
  -- System Class, and the Kennel's own instructions
  | trap (n : Word)
  | brk (n : Word)
  | launch (fs : Bool) (d : BitVec 9) (q a : Src)
  | perf (w64 clr : Bool) (d : BitVec 9) (num : BitVec 12)
  | icinv (fs all : Bool) (a l : Src)
  | clk (d : BitVec 9)
  | wfi
  | iret
  | mmld (fs b64 : Bool) (d : BitVec 9) (m : MAddr)
  | mmst (fs b64 : Bool) (x : Src) (m : MAddr)
  -- Events: steps of the slices, engines, arbiter and base dies
  | turn (core slice : Nat)
  | loadLand (t grp op : Nat)
  | frdoorRetry (token : Word)
  | frdoorKill (token : Word)
  | operandLogReplay (t grp : Nat)
  | parkWake (t grp lane : Nat)
  | reformFiling (t grp lane : Nat)
  | binReleaseFull (t bin : Nat)
  | binAgeExpire (t bin : Nat)
  | mmaCapture (t grp op : Nat)
  | mmaComplete (t grp op : Nat)
  | mxaccBlock (t grp op : Nat)
  | commandSignal (t cmd : Nat)
  | segmentReplay (t cmd : Nat)
  | collComplete (t cmd : Nat) (parts : List PeerPart)
  | collTimeout (t cmd : Nat)
  | phaseCommit (t : Nat)
  | phaseRestart (t : Nat)
  | teamExit (t : Nat)
  -- Events: host, queues and scheduler
  | push (q : Nat) (addr : DWord)
  | snapshot (q : Nat)
  | startConditionPoll (q : Nat)
  | dispatch
  | admission (t : Nat)
  | bankDrain (col bank : Nat)
  | rangeTranslation (t : Nat)
  | teamStart (t : Nat)
  | prioPreempt (t : Nat)
  | preempt (grid : Word) (team : BitVec 24) (hold : Bool)
  | preemptSave (t : Nat)
  | release (grid : Word) (team : BitVec 24)
  | kill (grid : Word)
  | regdataWrite (core slot : Nat) (x : DWord)
  | cmdResume (core slot : Nat)
  | cmdKillTeam (core slot : Nat)
  | cmdKillGrid (core slot : Nat)
  | registerWrite (kennel : Bool) (addr size : Nat) (x : DWord)
  -- Events: power, heat and containment
  | shepherdReading (energies : List TeamEnergy)
  | migrationEnd (t : Nat)
  | budgetPeriod (cols : List ColPeriod) (accs : List Nat)
  | hopBegin (core slice : Nat)
  | hopEnd (core slice : Nat)
  | droopStretch (core : Nat)
  | stretchEnd (core : Nat)
  | hopRetry (core slice : Nat)
  | leashTrigger (core slice demand : Nat)
  | leashStep (core slice : Nat)
  | scanVisit (core : Nat)
  | scanPreemptWithdraw (core : Nat)
  | scanComplete (core : Nat) (ok : Bool)
  | packKill (t grp : Nat)
  | eccEvent (site : EccSite) (kind : EccKind) (repair : Option Repair)
  | scrub (pa : Nat) (kind : EccKind) (repair : Option Repair)
  | flowChange (lid : Bool) (good : Bool)
  | flowLossBudgetCut
  | coolantShutdown
  | coolantRecovery
  -- Events: bring-up, reset and the Kennel's hardware
  | coldReset
  | computeRelease
  | warmReset
  | pcieHotReset
  | warmrst (x : Word)
  | lockupReset
  | interruptEntry
  | ktimerMatch
  | logcommit
  | sctlall (core : Nat) (x : Word)
  | enloRead (i : Nat)
  | upcmdVerify
  | upcmdAttest
  | updateDone
  | retrieverSegment (t cmd : Nat)
  | scanMoveTimeout (core t : Nat)
  deriving DecidableEq, Repr

end Sys2Proof
end

