-- ==== Sys2Proof/Config.lean ====
section
/-! DEFINITION. What an implementation fixes and the spec leaves open: free values (opaque: nothing can evaluate them)
and the functions of the update engine whose keys the spec does not give (R393). -/
namespace Sys2Proof.Config

/-- The value of an accumulator element that R306 leaves undefined after an uncorrectable error (log 12), and of a register
with such an error, which R379 lets some instructions read (log 133). The argument is a fresh number of the run. -/
opaque freeWord : Nat → Word

/-- R393: RSA-3072 PSS with SHA-384 under the vendor key fused at manufacture: message, signature (log 14). -/
opaque rsaVerify : List Byte → List Byte → Bool

/-- R393: SLH-DSA-SHA2-192s under the vendor key: message, signature (log 14). -/
opaque slhVerify : List Byte → List Byte → Bool

/-- R393: the report of UPCMD = 2 over the active firmware, the rollback counter and the nonce (log 14). -/
opaque attestReport : List Byte → Nat → List Byte → List Byte

/-- R347: the private bytes of a checked team's save area (log 17). -/
opaque privateByte : Nat → Byte

/-- R392: SEV of a hardware record whose severity the spec does not state, by its type, what happened and its SEQ (log
15). -/
opaque logSev : Nat → List Nat → Nat → Byte

/-- R392: SRC of an ECC record, which the spec does not state (log 15). -/
opaque logSrc : List Nat → Nat → BitVec 16

/-- R392: the four DATA words of a hardware record, by its type, what happened, its SEQ and the word's index (log 15). -/
opaque logWord : Nat → List Nat → Nat → Nat → Word

/-- R330: a word of OUT after a TIMEOUT that the collective has written; none where it keeps its old value (log 55). -/
opaque collWord : Nat → Option Word

/-- R381: the 4 KiB blocks of a bank: HBM4E stack, channel, bank (log 30). -/
opaque bankBlocks : Nat → Nat → Nat → List Nat

/-- R381: no spare is left for the repair at this address and pin: HBM4E stack, channel, bank, address, pin (log 30). -/
opaque spareExhausted : Nat → Nat → Nat → Nat → Nat → Bool

/-- The end of physical memory (R211): 768 × 10⁹. -/
def physEnd : Nat := 0xB2_D05E_0000

/-- R36: what a read of a dead lane or unbound name returns. -/
def poison : Word := 0xFFC0DEAD#32

/-- SLOTW of this part (Table 2-1). -/
def slotW : Nat := 64

end Sys2Proof.Config
end

