-- ==== Sys2Proof/Machine/State.lean ====
section
/-! DEFINITION. The state of the machine, as plain data, and its value at reset. INVENTORY.md lists every field with the
rule that names it. A map is a list of (key, value) pairs with rising keys; a key that is not listed has the default the
reader of the map names. -/
namespace Sys2Proof.Machine

/-- A map keyed by numbers: pairs in strictly rising order of key. -/
abbrev AMap (α : Type) := List (Nat × α)

/-- A memory: the listed bytes, in canonical form; every other byte reads 0 (log 1). -/
abbrev Memory := List Host.Cell

/-- A register value and its uncorrectable-error mark (R222, R379). -/
structure Reg where
  val : Word
  bad : Bool := false
  deriving DecidableEq, Repr

/-- Classes of declared ranges (R204). -/
inductive RClass where
  | rd | wr | acc | shr
  deriving DecidableEq, Repr

/-- Fault kinds (Table 9-9, bits 3:0 of KIND). -/
inductive PageFault where
  | notPresent | writeProt | malformed | nonCanon
  deriving DecidableEq, Repr

/-- Causes (Table 15-8). -/
inductive Cause where
  | illOp | illEnc | illHdr | badTarget | regBudget | safeOvr | divBound | bindState | mxAlign | mxMask | ckptFull
  | brkpt | trapN | uce
  | pageFault | uncontained | limit | badMap | hostKill | badCtx | failScan | coolant
  deriving DecidableEq, Repr

/-- A page translation (Table 9-6): a TLB entry or part of an extent. -/
structure PageT where
  va : Nat
  size : Nat
  pa : Nat
  w : Bool
  deriving DecidableEq, Repr

/-- A TLB entry with its address-space tag (R210). -/
structure TlbEntry where
  asid : Nat
  page : PageT
  deriving DecidableEq, Repr

/-- An L1 line (R204): who may use it and its 128 bytes. `cls` none is undeclared. -/
structure L1Line where
  line : Nat
  cls : Option RClass
  cwin : Bool
  team : Nat
  grid : Word
  data : List Byte
  deriving DecidableEq, Repr

/-- A cached instruction word (R358): core number, 576 for the Kennel. -/
structure IcWord where
  core : Nat
  grid : Word
  addr : Nat
  w : DWord
  deriving DecidableEq, Repr

/-! ## Groups -/

/-- A clause in progress: its header address, header, mask word and body words as fetched (R358), the index of the next
body word, and the lane set. -/
structure Clause where
  here : DWord
  hdr : DWord
  maskW : Option DWord
  words : List DWord
  pos : Nat
  lanes : Mask
  deriving DecidableEq, Repr

/-- The object a blocking instruction tests (R242): bytes of the scratchpad or of physical memory, flags, a FIFO bank. -/
inductive WaitObj where
  | scratch (off len : Nat) | glob (pa len : Nat) | flags (m : BitVec 12) | fifo (b : Nat)
  deriving DecidableEq, Repr

/-- What a parked lane set waits for (R242, R230, R243). -/
inductive Park where
  | sync (w : WaitObj) (seen : List Byte)  -- a blocking instruction whose condition failed, and the object as it stood
  | phase           -- a PHASE
  | replay (op : Nat)  -- a global object whose access faulted
  deriving DecidableEq, Repr

/-- A lane's thread. -/
inductive Thread where
  | none | running | exited
  deriving DecidableEq, Repr

/-- A register an instruction reads or writes, `n` names from `op` on, in the lanes given. -/
structure Use where
  op : Opnd
  n : Nat
  lanes : Mask
  wr : Bool
  deriving DecidableEq, Repr

/-- A fixed-latency result on its way (R117, R157, R179, R282): the cycle in which it lands, what it writes, the status
register it writes, and the flags a float instruction will OR into FPFLAGS (R181). -/
structure Flight where
  due : Nat
  uses : List Use
  stat : Option Nat
  float : Bool
  flags : Word
  deriving DecidableEq, Repr

/-- The bits that the hardware has set in cycle `at_`: W1C bits of GSTAT and TERNBAD, sticky ones of FPFLAGS (R8). -/
structure Fresh where
  at_ : Nat
  gstat : Word
  tern : Mask
  fp : Word
  deriving DecidableEq, Repr

/-- A port's operand collector (R153, R154): since when it collects for the instruction it presents, the grants still to
come, and the registers of its operand cache, oldest first. -/
structure Collect where
  since : Option Nat
  need : Nat
  cache : List Nat
  deriving DecidableEq, Repr

structure Lane where
  thread : Thread
  pc : DWord
  tid : Nat
  regs : AMap Reg            -- the live registers of the lane (R35)
  waitCnt : Nat              -- R40
  safeCnt : Nat              -- R47
  resume : Option Clause     -- the clause position at which the lane goes on (R58, R242)
  park : Option Park
  parkedAt : Nat
  filing : Option DWord      -- waiting to be filed under this key address (R42)
  readyAt : Nat              -- when the release that brought its thread ends (R145)
  deriving DecidableEq, Repr

/-- A register result in flight. -/
structure Land where
  lane : Option Nat          -- none: a uniform register
  reg : Nat
  val : Word
  bad : Bool
  deriving DecidableEq, Repr

/-- One MXACC block still to be accumulated (R261): lead lane, granule address and its translation, formats, the 32
element codes, scale. -/
structure MxBlk where
  lead : Nat
  va : Nat
  pa : Nat
  tf : MxFmt
  sf : MxFmt
  elems : List Byte
  scale : Byte
  deriving DecidableEq, Repr

/-- Captured operands of an MMA (R299, R300): dyadic values are formed when the array runs; here the raw codes. -/
structure Capture where
  a : List Word
  b : List Word
  scA : List Byte
  scB : List Byte
  ternBad : Bool
  bad : Bool
  deriving DecidableEq, Repr

/-- An engine instruction in the queue (13): what it does, with the registers it read at issue. -/
inductive EngAct where
  | mma (acc : Nat) (ta tb : BitVec 128) (stat : Option (Nat × Word)) (za : Bool) (koff : Nat) (cap : Option Capture)
      (uce : Bool) (corrected : Bool)
  | zero (acc : Nat)
  | ld (acc : Nat) (t : BitVec 128)
  | st (acc : Nat) (t : BitVec 128)
  | rd (acc : Nat) (v cb : Nat)
  | wr (acc : Nat) (cb : Nat) (vals : AMap (List Word))
  | out (acc : Nat) (t : BitVec 128) (r : Rnd)
  | mstat (d : Nat) (clr : Bool)
  deriving DecidableEq, Repr

/-- The operand values an operand-log entry keeps (Table 15-11). -/
structure OpVals where
  base : DWord
  offs : AMap Word           -- per lane; a uniform offset stands at lane 0
  data : AMap (List Word)    -- per lane, up to four words
  deriving DecidableEq, Repr

/-- What a long-latency operation still has to do. -/
inductive OpAct where
  | land (ws : List Land)
  | engine (rows : List Nat) (a : EngAct)
  | mx (blks : List MxBlk)
  | cmd (id : Nat)
  | fence (acq rel : Bool)
  | idle
  deriving DecidableEq, Repr

/-- A long-latency operation in flight (R67): the flags it is charged to, its instruction, and the lanes that faulted
and await replay with their operand-log entry (R59). -/
structure Op where
  id : Nat
  flag : Option Nat
  capFlag : Option Nat
  addr : DWord
  word : DWord
  lanes : Mask
  act : OpAct
  dstV : List Nat              -- vector and uniform names it will write, bound since its issue (R37)
  dstS : List Nat
  acq : Bool                   -- an acquire (R224): later accesses wait for it
  landed : Bool
  entry : Option Nat
  faulted : Mask
  vals : OpVals
  covered : List (Nat × Nat)  -- store bytes written so far: address, highest lane + 1 (R199)
  gone : Mask                  -- lanes whose thread has exited since: their results are discarded (R141)
  spots : List (Nat × Nat × Nat)  -- lane, address and length of the accesses that faulted (R59, R225)
  recs : List (Nat × Mask × PageFault)  -- fault records still to be written when the fault is found (R218)
  code : Nat                   -- access code of those records (Table 9-9)
  early : AMap Word            -- words of the scratchpad an MMA's capture has read so far, and whether one was poisoned (R300)
  earlyBad : Bool
  turn : Nat                   -- the issue cycle of the turn it was issued in, and whether port B issued it (R199)
  portB : Bool
  deriving DecidableEq, Repr

/-- A byte a store writes: of physical memory, or of a team's scratchpad. -/
inductive StoreByte where
  | mem (pa : Nat) | scratch (team off : Nat)
  deriving DecidableEq, Repr

/-- A pending-arrival mark (R247). -/
structure ArrMark where
  lanes : Mask
  off : Nat
  phase : Word
  deriving DecidableEq, Repr

/-- What the halt window shows (Tables 15-5, 15-7) beyond the group itself. -/
structure Halt where
  cause : Cause
  hpc : DWord
  lanes : Mask
  instr : DWord
  pos : Nat
  num : Word
  regsel : DWord
  ederr : Bool
  edAt : Option Nat          -- the cycle in which EDERR was last set (R8)
  edited : Mask
  deriving DecidableEq, Repr

/-- The registers of a checked phase's checkpoint (R234): names still bound as they were, names retained in their
physical registers, oldest first, and names copied out. -/
structure Retained where
  keepV : List Nat
  keepS : List Nat
  v : List Nat
  s : List Nat
  outV : List Nat
  outS : List Nat
  deriving DecidableEq, Repr

/-- A group, or the Kennel core seen as a group of one lane (R382). -/
structure Group where
  kennel : Bool
  live : Bool                -- false once dissolved (R42, R141)
  grp : Nat
  role : Nat
  width : Nat
  vbud : Nat
  sbud : Nat
  slice : Nat
  slot : Nat
  lanes : List Lane
  sregs : AMap Reg           -- the live uniform registers
  preds : List Mask          -- p0 to p6
  tiles : List (BitVec 128)
  limbs : Nat
  lcarry : Word
  fpctl : Word
  fpflags : Word
  ternbad : Mask
  svmask : Mask
  idle : Mask                -- lanes idled by binding (R275)
  gstat : Word               -- the W1C bits; the others are formed at a read (R122)
  clkhi : Word
  marks : List ArrMark
  portA : Option Clause
  portB : Option Clause
  lastIssue : Option Nat     -- its last issue cycle (R147)
  ops : List Op
  nextOp : Nat
  quietAt : Nat              -- when its last operation ended; of a dissolved group, when it dissolved (R42, R145)
  halt : Option Halt
  retained : Retained
  clauses : Nat
  instrs : Nat
  promotes : Nat
  grantHold : Nat
  flying : List Flight
  fresh : Fresh
  colA : Collect
  colB : Collect
  swerved : Bool             -- a lane's program counter has moved by a control instruction in this turn (R148)
  rest : Nat                 -- no turn begins before this cycle (R148)
  turnEnd : Nat              -- the first cycle after its last turn (R28, R52)
  later : List (Nat × StoreByte)  -- bytes port B has stored, with the issue cycle of its turn: port A's stores of that
                             -- turn come before (R199)
  svGone : Mask              -- lanes switched off in a group that has dissolved and been refilled since the checkpoint (R235)
  deriving DecidableEq, Repr

/-- A slice cycle that port A of a group has opened and port B may still issue in (R118, R146): the group as both read it,
the uniform registers port A's instruction wrote with what they then held, the status register it wrote, and the grants it
took (R153). -/
structure Half where
  at_ : Nat
  team : Nat
  grp : Nat
  before : Group
  wrote : List Nat
  kept : List (Nat × Option Reg)
  stat : Option Nat
  lcarry : Word
  fpctl : Word
  fpflags : Word
  grants : Nat
  deriving DecidableEq, Repr

/-! ## Teams -/

/-- A declared range and the translations that cover it (R209). -/
structure Extent where
  start : Nat
  len : Nat
  cls : RClass
  pages : List PageT
  deriving DecidableEq, Repr

/-- A filed thread (R42, R44, R125). -/
structure Filed where
  tid : Nat
  addr : DWord               -- the REFORM that filed it, its word and clause position (R44)
  word : DWord
  pos : Nat
  regs : AMap Reg
  preds : BitVec 7
  tern : Bool
  from_ : Nat                -- %grp it left
  sregs : AMap Reg           -- of the group it left, when it was filed
  tiles : List (BitVec 128)
  lcarry : Word
  fpctl : Word
  fpflags : Word
  gstat : Word
  safeCnt : Nat              -- its count of clauses since a safe point (R47)
  at_ : Nat                  -- when its filing ended
  deriving DecidableEq, Repr

/-- A bin of the regroup buffer, keyed by role and address. -/
structure Bin where
  role : Nat
  key : DWord
  threads : List Filed
  deriving DecidableEq, Repr

/-- The kind of a Retriever command. -/
inductive CmdKind where
  | cp | cpt (toGlobal : Bool) (mx : MxF) | cpg (idxg : Bool) | cpsc (idxg : Bool) | cpr | cpx (win : Bool)
  | coll (op : CollOp) (ty : CollTy) | cpq
  deriving DecidableEq, Repr

/-- Failure kinds (Table 14-5). -/
inductive FailKind where
  | none | notPresent | writeProt | malformed | nonCanon | badBlock | version | badHdr | tagFail | window | mismatch
  | timeout
  deriving DecidableEq, Repr

/-- Where a command reads or writes: a global virtual address, an offset in a team's scratchpad, a position in the
Retriever's own buffer, a byte of the storage window. -/
inductive Loc where
  | glob (va : Nat) | spad (team off : Nat) | buf (pos : Nat) | win (off : Nat)
  deriving DecidableEq, Repr

/-- A piece of a command's transfer; of its `len` bytes the first `eff` are not overwritten by a later row (R316). -/
structure Piece where
  src : Loc
  dst : Loc
  len : Nat
  eff : Nat
  deriving DecidableEq, Repr

/-- A segment of a command (R310): the pieces that lie in one 4 KiB granule of each global side. -/
structure Segment where
  pieces : List Piece
  deriving DecidableEq, Repr

/-- A listed segment, its first faulting byte, and its fault record's answer (R319). -/
structure Listed where
  seg : Segment
  va : Nat
  token : Word
  answered : Bool
  deriving DecidableEq, Repr

/-- A failure for the fix-up record: the granule address, or 4,096 times the chunk, and its kind. -/
structure Failure where
  addr : Nat
  kind : FailKind
  deriving DecidableEq, Repr

/-- Stages of a command in progress. -/
inductive CmdSt where
  | index                        -- CPG, CPSC: the list is being read
  | move                         -- the payload
  | query                        -- CPQ: the record is to be looked up
  | header | chunks              -- CPX: header read; header and chunks written
  | collIn | collWait | collOut  -- COLL
  | signal                       -- everything but the signal is done
  | sigFault (token : Word) (answered : Bool)
  deriving DecidableEq, Repr

structure Window where
  base : DWord
  word1 : DWord
  deriving DecidableEq, Repr

/-- A fix-up record (Table 14-4). -/
structure FixRec where
  opc : Byte
  kind : FailKind
  nseg : Nat
  sigv : Word
  sigaddr : DWord
  sigsp : Bool
  segs : List Failure
  done : Nat
  deriving DecidableEq, Repr

/-- A Retriever command of a team (14). -/
structure Cmd where
  id : Nat
  grp : Nat
  op : Nat                       -- the operation of the group that charges its flag
  opcode : Byte
  kind : CmdKind
  prio : Nat
  words : List Word              -- w0 to w7
  sigAddr : Option DWord
  sigSp : Bool
  sigVal : Word
  scope : Scope
  seq : Nat                      -- order of entry into the column's queue
  st : CmdSt
  todo : List Segment
  listed : List Listed
  draining : Bool                -- the list has been full: what is answered is replayed before the rest is read (R319)
  fail : FailKind                -- a failure of the whole command
  fails : List Failure           -- the first four
  nfail : Nat
  done : Nat                     -- payload bytes written
  chunk : Nat                    -- CPX: the next chunk, and the last plus 1
  chunkEnd : Nat
  buf : Memory                   -- what was read into the Retriever
  bufBad : List Nat              -- poisoned positions of it
  lost : List (Nat × Nat)        -- positions and lengths that could not be read
  window : Option Window         -- CPX: the window, once read as it started (R338)
  found : Option FixRec          -- CPQ: the record to discard once it is written (R321)
  began : Nat                    -- COLL: since when it waits
  cleanG : AMap (BitVec 128)     -- bytes it has written from clean sources into poisoned lines, a bit each (R221)
  cleanS : AMap (BitVec 8)             -- the same of scratchpad granules, by 2²⁴ team + granule (R222)
  deriving DecidableEq, Repr

/-- Phase signatures (R232): four partitions of 1,024 bits. -/
structure Sig where
  h0 : BitVec 1024
  h1 : BitVec 1024
  h2 : BitVec 1024
  h3 : BitVec 1024
  deriving DecidableEq, Repr

/-- A checkpoint (Table 10-3): the groups as they stood, the bins, and the blocks, FIFO controls and tiles copied since. -/
structure Checkpoint where
  groups : List Group
  bins : List Bin
  blocks : AMap (List Byte)
  blockBad : List Nat
  fifos : AMap (Nat × Nat)
  tiles : AMap (List Word)
  tileBad : AMap (List Nat)
  paid : Nat                 -- slots taken up to now; copying into them has been charged (R234, R323)
  deriving DecidableEq, Repr

/-- Where a team stands between dispatch and its end (15, 02). -/
inductive TeamSt where
  | dispatched | admitted | translated | running | saved | finished | killed
  deriving DecidableEq, Repr

/-- A migration (R52): the destination core, the slice and slot of each group there, when it was chosen, and whether a
pre-emption was requested before it could start (R27). -/
structure Migration where
  dst : Nat
  slots : List (Nat × Nat)
  began : Nat
  asked : Bool
  deriving DecidableEq, Repr

/-- A requested pre-emption (R346), the core whose scan asks for it (R372), and when. -/
structure PreReq where
  hold : Bool
  scan : Option Nat
  at_ : Nat
  deriving DecidableEq, Repr

/-- What a team has done since its unit's launch (Table 16-4). -/
structure Since where
  exited : Bool
  committed : Bool
  atomic : Bool
  mxacc : Bool
  cmdWrite : Bool
  coll : Bool
  launch : Bool
  deriving DecidableEq, Repr

structure Team where
  grid : Word
  team : Nat
  disp : Nat
  pack : Nat                     -- %pack
  st : TeamSt
  core : Nat                     -- the core that executes it (meaningful from admission to exit)
  resident : Bool
  ranges : List Extent           -- declared ranges; `pages` empty until translated
  groups : List Group            -- by %grp
  scratch : Memory               -- SCRATCH and FIFO banks by team bank index
  scratchBad : List Nat          -- poisoned 8-byte granules
  fifos : List (Nat × Nat)       -- head and count of each FIFO bank (R251)
  acc : AMap Word                -- element (tile, row, col) at 4096 tile + 64 row + col
  accBad : List Nat              -- poisoned rows, 64 tile + row
  mstat : Byte                   -- bits 7:0 of the matrix status (R292)
  phaseId : Word
  rs : Sig
  ws : Sig
  ckpt : Option Checkpoint
  commitB : Nat
  restarts : Nat
  restarting : Bool              -- a failed check waits for the team's operations (R235)
  wantToken : Bool               -- qualifies for the exclusive token (R236)
  staged : List Host.Cell        -- staged bytes by physical address (R205)
  cmds : List Cmd
  nextCmd : Nat
  fixups : List FixRec           -- newest first
  bins : List Bin
  perf : List Nat                -- MIGCOUNT to RESIDENT
  mig : Option Migration
  pre : Option PreReq
  hold : Bool
  uce : Bool                     -- has consumed an uncorrectable error; its unit is to be killed (R374)
  since : Since
  relaunches : Nat
  relaunched : Bool              -- waits for admission as a relaunch (R376)
  dispAt : Nat
  admAt : Nat
  moveAt : Nat                   -- admission or last migration (R368)
  resAt : Nat                    -- since when RESIDENT counts
  deriving DecidableEq, Repr

/-! ## Grids, queues, host link -/

structure Role where
  width : Nat
  count : Nat
  vregs : Nat
  sregs : Nat
  deriving DecidableEq, Repr

structure RangeTmpl where
  base : DWord
  stride : DWord
  length : Nat
  cls : BitVec 8
  deriving DecidableEq, Repr

/-- A launch record (Table 15-1) as fields. -/
structure Launch where
  replay : Bool
  after : Bool
  nobrk : Bool
  prio : Nat
  shape : Nat                    -- PACK
  pack : Nat                     -- members of a pack, 1 without one
  nacc : Nat
  nscr : Nat
  nfifo : Nat
  nckpt : Nat
  nteam : Nat
  code : DWord
  codelen : Nat
  cwlen : Nat
  cwaddr : DWord
  root : Nat
  asid : Nat
  map : DWord
  compl : DWord
  svbuf : DWord
  svcap : Nat
  waitval : Word
  waitaddr : DWord
  doneaddr : DWord
  doneval : Word
  savestride : Nat
  save : DWord
  roles : List Role
  ranges : List RangeTmpl
  deriving DecidableEq, Repr

structure FirstFail where
  cause : Cause
  team : Nat
  hpc : DWord
  deriving DecidableEq, Repr

/-- A snapshotted grid (R335). -/
structure Grid where
  num : Word
  queue : Nat
  lr : Launch
  map : List Nat                 -- placement entries
  pins : List PageT              -- translations of the areas of R337
  nextTeam : Nat
  ended : Nat                    -- teams exited or killed, or never to run
  fail : Option FirstFail
  coolant : Bool
  sviol : Bool
  svovf : Bool
  nsv : Nat
  relaunched : Bool
  cores : List Nat               -- cores that ran a team, not yet confirmed
  scanFail : Bool                -- a core that ran a team has failed its scan (R354)
  snapAt : Nat
  completedAt : Option Nat
  confirmed : Bool               -- byte 1 of the record is final
  deriving DecidableEq, Repr

/-- A pushed address; `space` is the pusher's ROOT and ASID, or none for a physical address (R339). -/
structure QEntry where
  addr : DWord
  space : Option (Nat × Nat)
  deriving DecidableEq, Repr

/-- What a queue has pinned for its head (R337, R339): the record's pages, the start condition's word, and whether the
condition has been met. -/
structure HeadPin where
  pages : List PageT
  waitPa : Option Nat
  waitOk : Bool
  deriving DecidableEq, Repr

structure Queue where
  fifo : List QEntry
  ovf : Bool
  ovfAt : Option Nat             -- the cycle in which OVF was last set (R8)
  enable : Bool
  prio : Nat
  head : HeadPin
  snap : Option Word             -- the number of a snapshot that waits for its areas to be pinned (R337)
  grid : Option Word             -- the grid it is dispatching
  deriving DecidableEq, Repr

/-- Whom a fault record's answer concerns (R218, R219). -/
inductive Faulter where
  | entry (t grp op : Nat)
  | cmd (t cmd : Nat)
  | range (t : Nat)
  | snap (q : Nat)
  | head (q : Nat)
  deriving DecidableEq, Repr

structure Token where
  tok : Word
  who : Faulter
  retried : Bool
  deriving DecidableEq, Repr

/-- A host ring (R338). -/
structure Ring where
  base : DWord
  size : DWord
  head : Word
  tail : Word
  held : List (List Byte)
  deriving DecidableEq, Repr

structure Sched where
  enable : Bool
  priopre : Bool
  accerr : Bool
  accAt : Option Nat             -- the cycle in which ACCERR was last set (R8)
  fr : Ring
  ev : Ring
  nextTok : Word
  tokens : List Token
  gridCount : Word
  dispCount : Nat
  lastGrant : List Nat           -- per QPRIO
  slotAt : Option Nat            -- last dispatch slot
  commitSeq : Nat
  commits : List (Nat × Sig)     -- the last 256, newest first (R233)
  holder : Option Nat            -- exclusive token
  deriving DecidableEq, Repr

/-! ## Columns, cores, slices -/

/-- Modes of a bank that is not CACHE (Table 9-2). -/
inductive BankUse where
  | scratch (t i : Nat) | fifo (t i : Nat) | ckpt (t i : Nat)
  | draining (t : Nat)          -- reserved, not yet drained
  | ready (t : Nat)             -- reserved and drained; its mode is set when the team starts or has moved
  deriving DecidableEq, Repr

structure Column where
  budget : Nat                   -- 0.125 W
  pendBudget : Option Nat        -- takes effect at the next period (R25)
  lam : Nat
  low : Nat                      -- consecutive low periods
  hotLayers : BitVec 4
  cacheMin : Nat
  banks : AMap BankUse
  tlb : List TlbEntry
  l1 : List L1Line
  served : Nat                   -- the entry number after that of the command its Retriever has served last (R310)
  deriving DecidableEq, Repr

structure Hop where
  goal : Nat
  began : Nat
  deriving DecidableEq, Repr

structure Leash where
  demand : Nat                   -- slots issued, of those available (R365)
  room : Nat
  step : Nat
  at_ : Nat
  deriving DecidableEq, Repr

structure Slice where
  k : Nat
  g : Nat
  kcap : Nat
  gcap : Nat
  target : Nat
  hop : Option Hop
  retryAt : Option Nat
  leash : Option Leash
  busy : AMap Nat                -- when a unit that serves one instruction at a time is free again (R117, R151, R178, R282)
  issued : List Nat              -- cycles of the slots issued in the last 64, newest first (R365)
  sank : Option Nat              -- the last issue after which the Leash has been triggered
  deriving DecidableEq, Repr

/-- Scan rotation of a core (R372, R373). -/
inductive ScanSt where
  | idle | draining (since : Nat) | patterns (began : Nat)
  | skipped                        -- for a halted group
  | withdrawn                      -- its pre-emption was withdrawn
  deriving DecidableEq, Repr

structure Core where
  inService : Bool
  scan : ScanSt
  lastScan : Option Nat          -- cycle in which the last passed patterns began
  deg : Int                      -- TEMP.DEG, 0.25 °C
  hot : Bool
  clamp : Bool
  diode : Int                    -- the physical temperature
  stretch : Option Nat           -- since when the clock is stretched
  mmas : Nat
  hops : Nat
  stretches : Nat
  netBusy : Nat                  -- regroup network busy until (R145)
  engineQ : List (Nat × Nat × Nat)   -- team, group, op
  slices : AMap Slice
  deriving DecidableEq, Repr

/-! ## The Kennel -/

/-- Effects a Kennel clause leaves for its end (R387, R388). -/
inductive ClauseEnd where
  | trap | brk | iret (word : DWord)
  deriving DecidableEq, Repr

structure Energy where
  val : Nat
  rem : Nat
  shadow : Word
  deriving DecidableEq, Repr

structure CollGroup where
  w0 : Word
  w1 : Word
  deriving DecidableEq, Repr

/-- An event log record (Table 17-7). -/
structure LogRec where
  time : DWord
  type : Byte
  sev : Byte
  src : BitVec 16
  seq : Word
  data : List Word
  deriving DecidableEq, Repr

/-- What an activity of Table 14-6 has spent on a unit (a column, a stack, or 0) and no period has covered yet (R323). -/
structure Spent where
  act : Nat
  unit : Nat
  n : Nat
  deriving DecidableEq, Repr

/-- What the update engine is doing, with the registers as the command found them (R393). -/
inductive UpJob where
  | verify (src len : Nat) | attest (src dst : Nat)
  deriving DecidableEq, Repr

structure Kennel where
  inh : Bool
  refused : Bool
  refAt : Option Nat             -- the cycle in which REFUSED was last set (R8)
  vec : Byte
  code : Byte
  kepc : DWord
  kbad : DWord
  kvbase : Word
  kien : Word
  kipend : Word
  pendAt : Nat                   -- the cycle in which sources last set KIPEND bits, and those bits (R8, R386)
  pendNew : Word
  ktimer : DWord
  started : Bool
  locked : Option Nat            -- since when
  ends : List ClauseEnd
  sram : Memory
  sramBad : List Nat
  grp : Group
  cool : Nat
  hot : Nat
  crit : Nat
  reside : Nat
  bud : List Word
  spent : List Spent
  colls : List (Nat × Nat)       -- groups and sequence numbers of the collectives begun (R330)
  energy : List Energy
  coll : AMap CollGroup
  ctimeout : Word
  logbuf : List Word
  logrd : Word
  commitAt : Option Nat          -- the cycle of the last LOGCOMMIT that appended a record (R392)
  btemp : AMap Word
  btAlarm : List Nat             -- base-die diodes reported at CRIT
  pmon : AMap Word
  upsrc : DWord
  updst : DWord
  uplen : Word
  upcmd : Word
  upstat : Word
  upjob : Option UpJob
  deriving DecidableEq, Repr

/-- A firmware slot: the image bytes. -/
structure FwSlot where
  image : List Byte
  deriving DecidableEq, Repr

/-- Non-volatile memory (R381, R392, R393). -/
structure Nvm where
  log : List LogRec              -- newest first, at most 65,536
  logSeq : Word
  repair : List Repair
  retired : List Nat
  slotA : Option FwSlot
  slotB : Option FwSlot
  activeB : Bool
  rollback : Nat
  fixedRows : List (Nat × Nat)   -- corrected-error rows and when (R381)
  deriving DecidableEq, Repr

/-- Coolant and rail (R26, R395). -/
structure Coolant where
  lid : Bool
  micro : Bool
  rail : Bool
  lidBad : Option Nat            -- since when the circuit is without flow-good
  microBad : Option Nat
  goodSince : Option Nat
  saved : List Nat               -- budgets in force before the cut
  cut : Bool
  lidCut : Bool                  -- the circuit's present loss has cut the budgets (R26)
  microCut : Bool
  shutdown : Bool
  deriving DecidableEq, Repr

/-! ## The module -/

/-- An agent that issues instructions: the Kennel core, or a port (true: B) of a group. -/
inductive Agent where
  | kennel
  | port (t grp : Nat) (b : Bool)
  deriving DecidableEq, Repr

/-- An input of the outside (R4, R26, R229, R338): set directly by the environment. -/
inductive Env where
  | diode (core : Nat) (t : Int)
  | btemp (i : Nat) (t : Int)
  | pmon (i : Nat) (x : Word)
  | rail (good : Bool)
  | bus (addr : Nat) (data : List Byte)     -- host memory and storage windows
  | mem (pa : Nat) (data : List Byte)       -- a host write to module memory
  | hostRead (addr size : Nat)              -- a host-link read (no effect but ACCERR)
  deriving DecidableEq, Repr

/-- What happens next (log 5): time passes, an event fires, the issuing agent changes, an input arrives, the register
banks serve the next instruction only so many grants in its cycle (R153, log 97), a capture reads some of its words (R300,
log 98). -/
inductive Move where
  | elapse (n : Nat)
  | event (i : Instr)
  | focus (a : Agent)
  | env (e : Env)
  | conflict (grants : Nat)
  | capture (t grp op : Nat) (words : List Nat)
  deriving DecidableEq, Repr

structure State where
  clk : Nat                      -- CLKLO, modulo 2⁶⁴ when read
  mem : Memory                   -- physical memory
  poison : List Nat              -- poisoned 128-byte lines, PA / 128
  bus : Memory
  stlb : AMap (List TlbEntry)    -- stack TLBs
  icache : List IcWord
  cols : AMap Column
  cores : AMap Core
  teams : AMap Team              -- by dispatch number
  grids : List Grid
  queues : AMap Queue
  windows : AMap Window
  sched : Sched
  cmdSeq : Nat
  k : Kennel
  nvm : Nvm
  cool : Coolant
  scanAt : AMap Nat              -- the core each stack's scan rotation visited last (R372)
  hbmReady : Bool
  released : Bool                -- the compute stacks are out of reset
  schedRw : Bool                 -- SCHED is writable (R394)
  focus : Agent
  cycle : Option Half
  conflict : Option Nat          -- the grants the banks serve the next instruction presented (R153, log 97)
  agenda : List Move
  periodAt : Nat                 -- when the last budget period ended (R360)
  readAt : Option Nat            -- when the Shepherd last read the diodes (R367)
  freeCtr : Nat
  deriving DecidableEq, Repr

/-- Why the machine stops. -/
inductive Fault where
  /-- The queue or the update engine addresses bytes that do not exist: a launch record that runs past 0xB2_D05E_0000
  (R333, R339), an image, nonce or report outside the Kennel's SRAM and window (R384, R393). Raised by SNAPSHOT,
  START_CONDITION_POLL and UPDATE_DONE. Safe: the machine stops. -/
  | absentMemory
  deriving DecidableEq, Repr

/-- Why the model has no meaning for a step. -/
inductive Refusal where
  /-- The instruction's meaning is not written yet. Raised by exec's refused arms only. Safe. -/
  | notModelled (mnemonic : String)
  deriving DecidableEq, Repr

/-! ## Initial values -/

def Sig.zero : Sig := ⟨0, 0, 0, 0⟩

def Since.none : Since := ⟨false, false, false, false, false, false, false⟩

def OpVals.empty : OpVals := ⟨0, [], []⟩

/-- A lane that holds no thread. -/
def Lane.empty : Lane :=
  { thread := .none, pc := 0, tid := 0, regs := [], waitCnt := 0, safeCnt := 0, resume := none, park := none,
    parkedAt := 0, filing := none, readyAt := 0 }

def Fresh.none : Fresh := ⟨0, 0, 0, 0⟩

def Collect.idle : Collect := ⟨none, 0, []⟩

/-- A group as the launch creates it (Table 6-2), its lanes still without threads. -/
def Group.init (grp role width vbud sbud slice slot : Nat) : Group :=
  { kennel := false, live := true, grp := grp, role := role, width := width, vbud := vbud, sbud := sbud, slice := slice,
    slot := slot, lanes := List.replicate width Lane.empty, sregs := [], preds := List.replicate 7 0,
    tiles := List.replicate 16 0, limbs := 0, lcarry := 0, fpctl := 0, fpflags := 0, ternbad := 0, svmask := 0,
    idle := 0, gstat := 0, clkhi := 0, marks := [], portA := none, portB := none, lastIssue := none,
    ops := [], nextOp := 0, quietAt := 0, halt := none, retained := ⟨[], [], [], [], [], []⟩, clauses := 0, instrs := 0, promotes := 0,
    grantHold := 0, flying := [], fresh := Fresh.none, colA := Collect.idle, colB := Collect.idle,
    swerved := false, rest := 0, turnEnd := 0, later := [], svGone := 0 }

/-- The Kennel core's lane and registers after reset (R382, R394): started at address 0 when the boot ROM runs it. -/
def Group.kennelInit : Group :=
  { Group.init 0 0 1 0 384 0 0 with
    kennel := true, lanes := [{ Lane.empty with thread := .running }] }

def Column.init : Column :=
  { budget := 68, pendBudget := none, lam := 0, low := 0, hotLayers := 0, cacheMin := 8, banks := [], tlb := [], l1 := [],
    served := 0 }

def Slice.init : Slice :=
  { k := 16, g := 8, kcap := 16, gcap := 8, target := 16, hop := none, retryAt := none, leash := none, busy := [],
    issued := [], sank := none }

def Core.init : Core :=
  { inService := true, scan := .idle, lastScan := none, deg := 0, hot := false, clamp := false, diode := 0,
    stretch := none, mmas := 0, hops := 0, stretches := 0, netBusy := 0, engineQ := [], slices := [] }

def HeadPin.init : HeadPin := ⟨[], none, false⟩

def Queue.init : Queue :=
  { fifo := [], ovf := false, ovfAt := none, enable := false, prio := 0, head := HeadPin.init, snap := none, grid := none }

def Window.init : Window := ⟨0, 0⟩

def Ring.init : Ring := ⟨0, 0, 0, 0, []⟩

/-- The scheduler and host-link registers after reset (Tables 15-2, 15-3, R338). -/
def Sched.init : Sched :=
  { enable := false, priopre := false, accerr := false, accAt := none, fr := Ring.init, ev := Ring.init, nextTok := 0, tokens := [],
    gridCount := 0, dispCount := 0, lastGrant := [63, 63, 63, 63], slotAt := none, commitSeq := 0, commits := [],
    holder := none }

/-- The Kennel after reset (Tables 16-2, 17-1, 17-3). -/
def Kennel.init : Kennel :=
  { inh := true, refused := false, refAt := none, vec := 0, code := 0, kepc := 0, kbad := 0, kvbase := 0, kien := 0, kipend := 0,
    pendAt := 0, pendNew := 0,
    ktimer := BitVec.allOnes 64, started := false, locked := none, ends := [], sram := [], sramBad := [],
    grp := Group.kennelInit, cool := 320, hot := 380, crit := 420, reside := 500,
    bud := [0xFFFFFFFF#32, 0xFFFFFFFF#32, 0xFFFFFFFF#32, 0xFFFFFFFF#32, 0xFFFFFFFF#32, 5000, 400, 0xFFFFFFFF#32,
      0xFFFFFFFF#32],
    spent := [], colls := [],
    energy := List.replicate 6 ⟨0, 0, 0⟩, coll := [], ctimeout := 1000000, logbuf := List.replicate 8 0, logrd := 0, commitAt := none,
    btemp := [], btAlarm := [], pmon := [], upsrc := 0, updst := 0, uplen := 0, upcmd := 0, upstat := 0, upjob := none }

def Nvm.init : Nvm :=
  { log := [], logSeq := 0, repair := [], retired := [], slotA := none, slotB := none, activeB := false, rollback := 0,
    fixedRows := [] }

def Coolant.init : Coolant :=
  { lid := false, micro := false, rail := false, lidBad := none, microBad := none, goodSince := none, saved := [], cut := false,
    lidCut := false, microCut := false, shutdown := false }

/-- The machine right after cold reset, before bring-up (R394): the Kennel is in its boot ROM, nothing is released. -/
def State.reset : State :=
  { clk := 0, mem := [], poison := [], bus := [], stlb := [], icache := [], cols := [], cores := [], teams := [],
    grids := [], queues := [], windows := [], sched := Sched.init, cmdSeq := 0, k := Kennel.init, nvm := Nvm.init,
    cool := Coolant.init, scanAt := [], hbmReady := false, released := false, schedRw := false, focus := .kennel, cycle := none,
    conflict := none, agenda := [], periodAt := 0, readAt := none, freeCtr := 0 }

end Sys2Proof.Machine
end

