-- ==== Sys2Proof/Machine/Maps.lean ====
section
/-! DEFINITION. Reading and writing the maps and memories of State: sorted lists with one entry a key, a memory's entry
only where the byte is not 0. -/
namespace Sys2Proof.Machine

/-! ## Maps -/

def AMap.get? {α : Type} : AMap α → Nat → Option α
  | [], _ => none
  | (k, x) :: r, n => if k = n then some x else AMap.get? r n

def AMap.getD {α : Type} (m : AMap α) (n : Nat) (d : α) : α := (AMap.get? m n).getD d

def AMap.set {α : Type} : AMap α → Nat → α → AMap α
  | [], n, x => [(n, x)]
  | (k, y) :: r, n, x =>
    if n < k then (n, x) :: (k, y) :: r
    else if n = k then (n, x) :: r
    else (k, y) :: AMap.set r n x

def AMap.erase {α : Type} : AMap α → Nat → AMap α
  | [], _ => []
  | (k, y) :: r, n => if k = n then AMap.erase r n else (k, y) :: AMap.erase r n

def AMap.has {α : Type} (m : AMap α) (n : Nat) : Bool := (AMap.get? m n).isSome

def AMap.update {α : Type} (m : AMap α) (n : Nat) (f : α → α) : AMap α :=
  match AMap.get? m n with
  | some x => AMap.set m n (f x)
  | none => m

/-- Keys rise strictly. -/
def keysRise {α : Type} : List (Nat × α) → Bool
  | [] => true
  | [_] => true
  | a :: b :: r => decide (a.1 < b.1) && keysRise (b :: r)

/-! ## Sorted sets of numbers -/

def setIns : List Nat → Nat → List Nat
  | [], n => [n]
  | k :: r, n => if n < k then n :: k :: r else if n = k then k :: r else k :: setIns r n

def setDel (l : List Nat) (n : Nat) : List Nat := l.filter (· ≠ n)

/-! ## Memories -/

def Memory.read (m : Memory) (a : Nat) : Byte := AMap.getD m a 0

/-- Writing the byte an unlisted address reads as removes the entry. -/
def Memory.write (m : Memory) (a : Nat) (b : Byte) : Memory :=
  if b = 0 then AMap.erase m a else AMap.set m a b

/-- The canonical form: addresses rise strictly and no entry is 0. -/
def Memory.wf (m : Memory) : Bool := keysRise m && m.all (fun c => c.2 != 0)

/-- The `n` bytes from `a` on. -/
def Memory.readN (m : Memory) (a : Nat) : Nat → List Byte
  | 0 => []
  | n + 1 => Memory.read m a :: Memory.readN m (a + 1) n

def Memory.writeN (m : Memory) (a : Nat) : List Byte → Memory
  | [] => m
  | b :: r => Memory.writeN (Memory.write m a b) (a + 1) r

/-! ## Bytes and numbers (R1: little-endian) -/

def leNat : List Byte → Nat
  | [] => 0
  | b :: r => b.toNat + 256 * leNat r

def leBytes : Nat → Nat → List Byte
  | 0, _ => []
  | n + 1, x => BitVec.ofNat 8 x :: leBytes n (x / 256)

def Memory.readLE (m : Memory) (a n : Nat) : Nat := leNat (Memory.readN m a n)

/-! ## Lists -/

/-- The numbers 0 to n − 1. -/
def upTo (n : Nat) : List Nat := List.range n

def modifyAt {α : Type} (l : List α) (n : Nat) (f : α → α) : List α := l.modify n f

/-- Lanes of a mask below `w`, ascending. -/
def Mask.lanes (m : Mask) (w : Nat) : List Nat := (upTo w).filter (fun l => m.getLsbD l)

def Mask.one (l : Nat) : Mask := BitVec.ofNat 64 (2 ^ l)

/-- The mask of lanes 0 to n − 1. -/
def Mask.below (n : Nat) : Mask := BitVec.ofNat 64 (2 ^ n - 1)

def Mask.ofLanes (l : List Nat) : Mask := l.foldl (fun m x => m ||| Mask.one x) 0

def Mask.popc (m : Mask) : Nat := (Mask.lanes m 64).length

/-- ⌈a / b⌉. -/
def cdiv (a b : Nat) : Nat := (a + b - 1) / b

/-- SignExtend(x, n) of R13. -/
def sext {n : Nat} (x : BitVec n) : Int := x.toInt

/-- Trunc(v, n). -/
def truncI (n : Nat) (v : Int) : BitVec n := BitVec.ofInt n v

/-- SatS(v, n). -/
def satS (n : Nat) (v : Int) : BitVec n :=
  BitVec.ofInt n (max (-(2 ^ (n - 1) : Int)) (min v (2 ^ (n - 1) - 1)))

/-- SatN(v, n). -/
def satN (n : Nat) (v : Int) : BitVec n := BitVec.ofInt n (max 0 (min v (2 ^ n - 1)))

/-- ⌊v / 2ⁿ⌋. -/
def shrI (v : Int) (n : Nat) : Int := v.fdiv (2 ^ n)

end Sys2Proof.Machine
end

