-- ==== Sys2Proof/Machine/Rings.lean ====
section
/-! DEFINITION. Access to the parts of State by number, the host rings (R338, R355), the event log (R392) and the
Kennel's pending interrupts (R386). -/
namespace Sys2Proof.Machine

/-- CLKLO (R124): the count modulo 2⁶⁴. -/
def State.clkLo (s : State) : DWord := BitVec.ofNat 64 s.clk

def State.tick (s : State) (n : Nat) : State := { s with clk := s.clk + n }

def State.team? (s : State) (t : Nat) : Option Team := AMap.get? s.teams t

def State.setTeam (s : State) (t : Nat) (x : Team) : State := { s with teams := AMap.set s.teams t x }

def State.modTeam (s : State) (t : Nat) (f : Team → Team) : State := { s with teams := AMap.update s.teams t f }

def State.core (s : State) (c : Nat) : Core := AMap.getD s.cores c Core.init

def State.modCore (s : State) (c : Nat) (f : Core → Core) : State :=
  { s with cores := AMap.set s.cores c (f (s.core c)) }

def Core.slice (c : Core) (i : Nat) : Slice := AMap.getD c.slices i Slice.init

def Core.modSlice (c : Core) (i : Nat) (f : Slice → Slice) : Core := { c with slices := AMap.set c.slices i (f (c.slice i)) }

def State.col (s : State) (m : Nat) : Column := AMap.getD s.cols m Column.init

def State.modCol (s : State) (m : Nat) (f : Column → Column) : State := { s with cols := AMap.set s.cols m (f (s.col m)) }

def State.queue (s : State) (q : Nat) : Queue := AMap.getD s.queues q Queue.init

def State.modQueue (s : State) (q : Nat) (f : Queue → Queue) : State :=
  { s with queues := AMap.set s.queues q (f (s.queue q)) }

def State.grid? (s : State) (n : Word) : Option Grid := s.grids.find? (fun g => g.num = n)

def State.modGrid (s : State) (n : Word) (f : Grid → Grid) : State :=
  { s with grids := s.grids.map (fun g => if g.num = n then f g else g) }

/-- Column number of a core (R16). -/
def colOf (core : Nat) : Nat := core % 144

/-- Layer of a core (R16). -/
def layerOf (core : Nat) : Nat := core / 144

/-- Stack of a column (R16). -/
def stackOf (col : Nat) : Nat := col / 36

def Team.group? (t : Team) (g : Nat) : Option Group := t.groups[g]?

def Team.modGroup (t : Team) (g : Nat) (f : Group → Group) : Team := { t with groups := modifyAt t.groups g f }

def State.group? (s : State) (t g : Nat) : Option Group := (s.team? t).bind (·.group? g)

def State.modGroup (s : State) (t g : Nat) (f : Group → Group) : State := s.modTeam t (·.modGroup g f)

/-! ## Host rings (R338) -/

/-- A legal ring size: a power of two from 16 to 65,536. -/
def ringSizeOk (n : Nat) : Bool := 16 ≤ n && n ≤ 65536 && (n &&& (n - 1)) == 0

/-- Full, or treated as full. -/
def Ring.full (r : Ring) : Bool := !ringSizeOk r.size.toNat || r.size.toNat ≤ (r.head - r.tail).toNat

/-- Write held records while the ring takes them; `esz` bytes an entry. -/
def Ring.flush (esz : Nat) : List (List Byte) → Ring → Memory → Ring × Memory
  | [], r, m => ({ r with held := [] }, m)
  | x :: rest, r, m =>
    if r.full then ({ r with held := x :: rest }, m)
    else
      let a := r.base.toNat + esz * (r.head.toNat % r.size.toNat)
      Ring.flush esz rest { r with head := r.head + 1 } (Memory.writeN m a x)

def Ring.put (esz : Nat) (r : Ring) (m : Memory) (x : List Byte) : Ring × Memory :=
  Ring.flush esz (r.held ++ [x]) r m

def State.flushRings (s : State) : State :=
  let (fr, b1) := Ring.flush 32 s.sched.fr.held s.sched.fr s.bus
  let (ev, b2) := Ring.flush 16 s.sched.ev.held s.sched.ev b1
  { s with bus := b2, sched := { s.sched with fr := fr, ev := ev } }

/-- Table 15-8. -/
def Cause.code : Cause → Nat
  | .illOp => 0x01 | .illEnc => 0x02 | .illHdr => 0x03 | .badTarget => 0x04 | .regBudget => 0x05 | .safeOvr => 0x06
  | .divBound => 0x07 | .bindState => 0x08 | .mxAlign => 0x09 | .mxMask => 0x0A | .ckptFull => 0x0B | .brkpt => 0x0C
  | .trapN => 0x0D | .uce => 0x0E
  | .pageFault => 0x20 | .uncontained => 0x21 | .limit => 0x22 | .badMap => 0x23 | .hostKill => 0x24 | .badCtx => 0x25
  | .failScan => 0x26 | .coolant => 0x27

/-- A cause that is a trap (codes 0x01 to 0x0E, R352). -/
def Cause.isTrap (c : Cause) : Bool := c.code ≤ 0x0E

/-- Event types (R355). -/
inductive EvType where
  | halt | gridDone | confirm | failScan | preempted | queueErr | coolant
  deriving DecidableEq, Repr

def EvType.code : EvType → Nat
  | .halt => 1 | .gridDone => 2 | .confirm => 3 | .failScan => 4 | .preempted => 5 | .queueErr => 6 | .coolant => 7

/-- Append an entry to the event ring (R355). -/
def State.event (s : State) (ty : EvType) (cause core slot : Nat) (grid : Word) (team : Nat) : State :=
  let x := leBytes 1 ty.code ++ leBytes 1 cause ++ leBytes 2 core ++ leBytes 4 slot ++ leBytes 4 grid.toNat ++ leBytes 4 team
  let (r, b) := Ring.put 16 s.sched.ev s.bus x
  { s with bus := b, sched := { s.sched with ev := r } }

/-! ## The Kennel's interrupts and the event log -/

/-- A source sets its KIPEND bit (R386); the bits set in this cycle are kept, since they win over a clear (R8). -/
def State.kpend (s : State) (v : Nat) : State :=
  let b : Word := BitVec.ofNat 32 (2 ^ v)
  { s with k := { s.k with kipend := s.k.kipend ||| b, pendAt := s.clk,
                           pendNew := if s.k.pendAt = s.clk then s.k.pendNew ||| b else b } }

/-- Cycles from that after `old` until CLKLO equals KTIMER. -/
def State.timerIn (s : State) (old : Nat) : Nat := (s.k.ktimer - BitVec.ofNat 64 (old + 1)).toNat

/-- TIMER is set when CLKLO reaches KTIMER (Table 17-1): the count went from `old` to its value now. Set in a cycle before the
present one, it is open to a clear (R8). -/
def State.timer (s : State) (old : Nat) : State :=
  if s.clk ≤ old then s
  else if s.timerIn old + 1 = s.clk - old then s.kpend 8
  else if s.timerIn old < s.clk - old then { s with k := { s.k with kipend := s.k.kipend ||| 256 } }
  else s

/-! ## Bits that software clears by writing 1, outside a group (R8)

The hardware sets such a bit in a cycle that is kept: a clear in that same cycle does not reach it. -/

/-- A clear has no effect on a bit that was last set at `at_` when it comes in that cycle. -/
def setWins (at_ : Option Nat) (now : Nat) : Bool := at_ = some now

/-- What is left of a sticky bit after a clear, if `clr` says that 1 was written to it. -/
def stickyLeft (bit clr : Bool) (at_ : Option Nat) (now : Nat) : Bool := bit && (!clr || setWins at_ now)

/-- A write that a limit of R391 forbids: REFUSED is set. -/
def State.refuse (s : State) : State := { s with k := { s.k with refused := true, refAt := some s.clk } }

/-- A host access was ignored (R338): ACCERR is set. -/
def State.accErr (s : State) : State := { s with sched := { s.sched with accerr := true, accAt := some s.clk } }

/-- A push to a full queue (R339): its OVF is set. -/
def State.overflow (s : State) (q : Nat) : State := s.modQueue q (fun x => { x with ovf := true, ovfAt := some s.clk })

/-- Records not yet read: those numbered from LOGRD on. -/
def State.logUnread (s : State) : Nat := (s.nvm.log.filter (fun r => s.k.logrd.toNat ≤ r.seq.toNat)).length

/-- Append a record (R392): SEQ rises by 1, the newest overwrites the oldest, and LOG is raised when the unread records
reach 7/8 of the ring. The newest `under` records come after it and take the higher SEQ. -/
def State.log (s : State) (type sev src : Nat) (data : List Word) (under : Nat := 0) : State :=
  let r : LogRec := { time := s.clkLo, type := BitVec.ofNat 8 type, sev := BitVec.ofNat 8 sev,
                      src := BitVec.ofNat 16 src, seq := s.nvm.logSeq + 1 - BitVec.ofNat 32 under, data := data }
  let later := (s.nvm.log.take under).map (fun x => { x with seq := x.seq + 1 })
  let s1 : State := { s with nvm := { s.nvm with
    log := (later ++ r :: s.nvm.log.drop under).take 65536, logSeq := s.nvm.logSeq + 1 } }
  if s1.logUnread = 57344 then s1.kpend 9 else s1

/-- The newest records that LOGCOMMIT has appended in this cycle: an append by the hardware goes before them (R392, R424). -/
def State.committed (s : State) : Nat :=
  if s.k.commitAt = some s.clk then
    (s.nvm.log.takeWhile (fun r => 0x80 ≤ r.type.toNat && r.time = s.clkLo)).length
  else 0

/-- The SEQ of the record the hardware appends next. -/
def State.hwSeq (s : State) : Nat := s.nvm.logSeq.toNat + 1 - s.committed

/-- A record the hardware appends: SEV where the spec states it, DATA and the rest from what happened by functions that the
spec does not give (log 15). -/
def State.hwLog (s : State) (type : Nat) (sev : Option Nat) (src : Nat) (facts : List Nat) : State :=
  s.log type (sev.getD (Config.logSev type facts s.hwSeq).toNat) src ((upTo 4).map (Config.logWord type facts s.hwSeq))
    s.committed

/-! ## Activity budgets (14 R323) -/

/-- What activity `j` has spent on unit `u` that no period has covered. -/
def State.spentOn (s : State) (j u : Nat) : Nat := ((s.k.spent.find? (fun x => x.act = j && x.unit = u)).map Spent.n).getD 0

/-- The activity has budget left in this period. -/
def State.left (s : State) (j u : Nat) : Bool := s.spentOn j u < (s.k.bud.getD j 0).toNat

/-- Charge an activity. What one step moves beyond the budget of its period is carried to the next ones (log 101). -/
def State.charge (s : State) (j u n : Nat) : State :=
  if n = 0 then s
  else { s with k := { s.k with spent := ⟨j, u, s.spentOn j u + n⟩ :: s.k.spent.filter (fun x => !(x.act = j && x.unit = u)) } }

/-- A period ends: each activity's budget covers what it has spent. -/
def Kennel.newPeriod (k : Kennel) : Kennel :=
  { k with spent := k.spent.filterMap (fun x =>
      let b := (k.bud.getD x.act 0).toNat
      if x.n ≤ b then none else some { x with n := x.n - b }) }

/-! ## Poison -/

/-- A line or word becomes poisoned: an ECC record (R392). -/
def State.logPoison (s : State) (a : Nat) : State :=
  s.hwLog 3 none (Config.logSrc [a] s.hwSeq).toNat [a]

/-- Line `l` is poisoned: recorded when it was not (R221, R392). -/
def State.poisonLine (s : State) (l : Nat) : State :=
  if s.poison.contains l then s else ({ s with poison := setIns s.poison l } : State).logPoison (128 * l)

end Sys2Proof.Machine
end

