-- ==== Sys2Proof/Machine/Ops.lean ====
section
/-! DEFINITION. The named operations over groups and registers, taking an exception (a trap of a compute group, a vector
of the Kennel core) and returning from one, and the course of an instruction at issue: legality, flags, holds, guard,
effect, budgets, advance. -/
namespace Sys2Proof.Machine

/-! ## Lanes and registers -/

def Group.lane (g : Group) (l : Nat) : Lane := g.lanes.getD l Lane.empty

/-- Apply `f` to each lane of a list, with its number. -/
def mapLanes (f : Nat → Lane → Lane) : Nat → List Lane → List Lane
  | _, [] => []
  | n, x :: r => f n x :: mapLanes f (n + 1) r

def Group.modLanes (g : Group) (m : Mask) (f : Lane → Lane) : Group :=
  { g with lanes := mapLanes (fun n x => if m.getLsbD n then f x else x) 0 g.lanes }

def Group.modLane (g : Group) (l : Nat) (f : Lane → Lane) : Group := { g with lanes := modifyAt g.lanes l f }

/-- Lanes whose lane satisfies `p`. -/
def Group.lanesWhere (g : Group) (p : Nat → Lane → Bool) : Mask :=
  Mask.ofLanes ((upTo g.lanes.length).filter (fun l => p l (g.lane l)))

def Group.running (g : Group) : Mask := g.lanesWhere (fun _ x => x.thread == .running)

/-- A lane that can belong to an issuing lane set (R11, R38). -/
def Group.laneLive (g : Group) (l : Nat) : Bool :=
  (g.lane l).thread == .running && !g.svmask.getLsbD l && !g.idle.getLsbD l

/-- Lanes whose program counter moves: those running and not switched off (R285). -/
def Group.movers (g : Group) : Mask := g.running &&& ~~~g.svmask

def Group.vReg (g : Group) (l n : Nat) : Option Reg := AMap.get? (g.lane l).regs n

/-- A read of a vector lane (R36). -/
def Group.vVal (g : Group) (l n : Nat) : Word := ((g.vReg l n).map Reg.val).getD Config.poison

/-- A read of a uniform register: poison when unbound on a compute core, always bound on the Kennel (R382). -/
def Group.sVal (g : Group) (n : Nat) : Word :=
  ((AMap.get? g.sregs n).map Reg.val).getD (if g.kennel then 0 else Config.poison)

/-- The name changes: if the checkpoint still counted on its register, the register is retained (R234). -/
def Group.touchV (g : Group) (n : Nat) : Group :=
  if g.retained.keepV.contains n then
    { g with retained := { g.retained with keepV := setDel g.retained.keepV n, v := g.retained.v ++ [n] } }
  else g

def Group.touchS (g : Group) (n : Nat) : Group :=
  if g.retained.keepS.contains n then
    { g with retained := { g.retained with keepS := setDel g.retained.keepS n, s := g.retained.s ++ [n] } }
  else g

/-- Write one lane of a vector register: the lane becomes live (R35) and its error is cleared (R222). -/
def Group.setV (g : Group) (l n : Nat) (x : Word) (bad : Bool := false) : Group :=
  (g.touchV n).modLane l (fun y => { y with regs := AMap.set y.regs n ⟨x, bad⟩ })

/-- Write a uniform register. -/
def Group.setS (g : Group) (n : Nat) (x : Word) (bad : Bool := false) : Group :=
  let g1 := g.touchS n
  { g1 with sregs := AMap.set g1.sregs n ⟨x, bad⟩ }

/-- A lane of the register is live. -/
def Group.liveAny (g : Group) (n : Nat) : Bool := g.lanes.any (fun x => AMap.has x.regs n)

/-- A last use: the live bits of the lanes are cleared; the register is freed once all of its live bits are (R35). -/
def Group.freeV (g : Group) (m : Mask) (n : Nat) : Group :=
  let g1 := g.modLanes m (fun y => { y with regs := AMap.erase y.regs n })
  if g1.liveAny n then g1 else g1.touchV n

def Group.freeS (g : Group) (n : Nat) : Group :=
  if g.kennel then g
  else
    let g1 := g.touchS n
    { g1 with sregs := AMap.erase g1.sregs n }

/-- Predicate bits of all lanes; p7 reads 1 everywhere (Table 3-8). -/
def Group.predMask (g : Group) (i : Nat) : Mask := if i = 7 then BitVec.allOnes 64 else g.preds.getD i 0

/-- Write the bits of `m` of a predicate; a write to p7 is discarded. -/
def Group.setPred (g : Group) (i : Nat) (m x : Mask) : Group :=
  if i = 7 then g
  else { g with preds := modifyAt g.preds i (fun old => (old &&& ~~~m) ||| (x &&& m)) }

/-- GSTAT bits (Table 6-3). -/
def gPoisonRd : Word := 1
def gTernBad : Word := 2
def gSviol : Word := 4
def gPreempt : Word := 512

/-- The hardware sets W1C bits of GSTAT; what it sets in a cycle wins over a clear in it (R8). -/
def Group.orGstat (g : Group) (x : Word) : Group :=
  { g with gstat := g.gstat ||| x, fresh := { g.fresh with gstat := g.fresh.gstat ||| x } }

/-- The hardware sets TERNBAD bits, and GSTAT.TERNBAD with them (R120, R171). -/
def Group.orTern (g : Group) (m : Mask) : Group :=
  { g with ternbad := g.ternbad ||| m, fresh := { g.fresh with tern := g.fresh.tern ||| m } }.orGstat gTernBad

/-- The hardware sets FPFLAGS bits (R8, R125). -/
def Group.orFp (g : Group) (x : Word) : Group :=
  { g with fpflags := g.fpflags ||| x, fresh := { g.fresh with fp := g.fresh.fp ||| x } }

/-- A new cycle `now`: what was set in an earlier one is open to a clear. -/
def Group.freshen (g : Group) (now : Nat) : Group := if g.fresh.at_ = now then g else { g with fresh := ⟨now, 0, 0, 0⟩ }

/-- Operand-log entries in use (R214). -/
def Group.olog (g : Group) : Nat := (g.ops.filter (fun o => o.entry.isSome)).length

/-- The ninth outstanding fault stalls all issue of the group until an entry is free (R59). -/
def Group.stalled (g : Group) : Bool := 8 ≤ g.olog && g.ops.any (fun o => o.landed && !o.recs.isEmpty)

/-- RPLMASK: lanes with a faulted access in any operand-log entry, but for those a dissolved group left behind (R125). -/
def Group.rplmask (g : Group) : Mask :=
  g.ops.foldl (fun m o => if o.entry.isSome && o.gone ≠ BitVec.allOnes 64 then m ||| o.faulted else m) 0

/-! ## Completion flags (R67) -/

def Op.charges (o : Op) (f : Nat) : Bool := o.flag == some f || o.capFlag == some f

def Group.flagCount (g : Group) (f : Nat) : Nat := (g.ops.filter (fun o => o.charges f)).length

def Group.flagBusy (g : Group) (f : Nat) : Bool := g.ops.any (fun o => o.charges f)

/-- No flag of a 12-bit mask is busy. -/
def Group.flagsClear (g : Group) (m : BitVec 12) : Bool := (upTo 12).all (fun f => !(m.getLsbD f) || !g.flagBusy f)

/-! ## Clauses -/

/-- Fields of a clause header (Table 3-1). -/
def hClass (h : DWord) : Nat := (h.extractLsb' 52 4).toNat
def hCount (h : DWord) : Nat := (h.extractLsb' 48 4).toNat + 1
def hWait (h : DWord) : BitVec 12 := h.extractLsb' 36 12
def hSetA (h : DWord) : Nat := (h.extractLsb' 32 4).toNat
def hSetB (h : DWord) : Nat := (h.extractLsb' 28 4).toNat
def hSafe (h : DWord) : Bool := h.getLsbD 27

/-- A word is a header exactly when its bits 63:56 are 0xFF (R63, R66). -/
def isHeader (w : DWord) : Bool := w.extractLsb' 56 8 = 0xFF#8

/-- Position of the next word in its clause (R65). -/
def Clause.position (c : Clause) : Nat := c.pos + 1 + (if c.maskW.isSome then 1 else 0)

/-- Address of the next word. -/
def Clause.addr (c : Clause) : DWord := c.here + BitVec.ofNat 64 (8 * c.position)

/-- `Succ`: the address of the word after the clause. -/
def Clause.succ (c : Clause) : DWord :=
  c.here + BitVec.ofNat 64 (8 * (c.words.length + 1 + (if c.maskW.isSome then 1 else 0)))

def Clause.word (c : Clause) : DWord := c.words.getD c.pos 0

/-- The flag field FSEL selects, and the other one (R68, Table 13-5). -/
def Clause.sel (c : Clause) (fs : Bool) : Nat := if fs then hSetB c.hdr else hSetA c.hdr
def Clause.other (c : Clause) (fs : Bool) : Nat := c.sel (!fs)

def Group.port (g : Group) (b : Bool) : Option Clause := if b then g.portB else g.portA

def Group.setPort (g : Group) (b : Bool) (c : Option Clause) : Group :=
  if b then { g with portB := c } else { g with portA := c }

/-- A turn is in progress while a port issues a clause (R146). -/
def Group.inTurn (g : Group) : Bool := g.portA.isSome || g.portB.isSome

/-- Port B has stored the bytes `bs` in the turn that began at `turn`. -/
def Group.notesLater (g : Group) (isB : Bool) (turn : Nat) (bs : List StoreByte) : Group :=
  if isB then { g with later := bs.map (fun x => (turn, x)) ++ g.later } else g

/-- The byte keeps what port B stored in the turn that began at `turn`: a store by the turn's port A, whose program counter is
lower, comes before in order though it is performed now (R199). -/
def Group.under (g : Group) (isB : Bool) (turn : Nat) (x : StoreByte) : Bool := !isB && g.later.contains (turn, x)

/-- Such bytes matter after their turn only to a store of its port A that has faulted and awaits its replay (R219). -/
def Group.stillLater (g : Group) : List (Nat × StoreByte) :=
  g.later.filter (fun x => g.ops.any (fun o => o.turn = x.1 && !o.portB))

/-- The port is free. When it was the last of the turn, the turn ends with this cycle, and where a lane's program counter has
moved in it, the group's next turn begins two cycles later at the earliest (R148). -/
def Group.leavePort (g : Group) (b : Bool) (now : Nat) : Group :=
  let g1 := g.setPort b none
  if g1.inTurn then g1
  else { g1 with rest := if g.swerved then now + 2 else g.rest, swerved := false, turnEnd := now + 1 }

/-- The lanes of a clause stop where it stands and keep that resume position (R58, R242); past its last word they go on
at `Succ`. -/
def Group.suspend (g : Group) (c : Clause) (park : Option Park) (now : Nat) : Group :=
  g.modLanes (c.lanes &&& g.movers) (fun x =>
    if c.pos < c.words.length then
      { x with resume := some { c with lanes := 0 }, park := park, parkedAt := now }
    else { x with pc := c.succ, resume := none, park := none })

/-! ## Agents -/

def State.grpOf (s : State) : Agent → Option Group
  | .kennel => some s.k.grp
  | .port t g _ => s.group? t g

def State.putGrp (s : State) : Agent → Group → State
  | .kennel, g => { s with k := { s.k with grp := g } }
  | .port t n _, g => s.modGroup t n (fun _ => g)

def Agent.isB : Agent → Bool
  | .kennel => false
  | .port _ _ b => b

def Agent.team : Agent → Option Nat
  | .kennel => none
  | .port t _ _ => some t

def Agent.sibling : Agent → Agent
  | .kennel => .kennel
  | .port t g b => .port t g (!b)

/-- The slice cycle that port A of this group opened and port B may still issue in (R118). -/
def State.paired (s : State) (t gi : Nat) : Option Half :=
  s.cycle.filter (fun h => h.at_ = s.clk && h.team = t && h.grp = gi)

/-- For port B, the open half of its cycle. -/
def State.pair? (s : State) : Agent → Option Half
  | .port t gi true => s.paired t gi
  | _ => none

/-- The issuing lane set and its ACTIVE (R11). `g` is the group as the instruction reads it: as it stood when its slice
cycle began, so that neither port sees what the other writes in the same cycle (R118). -/
structure Ctx where
  ag : Agent
  g : Group
  cl : Clause
  active : Mask
  deriving DecidableEq, Repr

/-- The agent may issue: not halted, not dissolved, not stalled by a ninth fault or stopped by a consumed error, not locked
up. -/
def State.mayIssue (s : State) (ag : Agent) (g : Group) : Bool :=
  match ag with
  | .kennel => s.k.started && s.k.locked.isNone
  | .port t _ _ =>
    g.halt.isNone && g.live && !g.stalled &&
    (match s.team? t with
     | some x => x.st == .running && !x.uce
     | none => false)

/-- ACTIVE before any guard: lanes of the set that run, are not switched off and not idled by binding. -/
def Group.activeOf (g : Group) (c : Clause) : Mask := c.lanes &&& g.running &&& ~~~g.svmask &&& ~~~g.idle

/-- The instruction slot that issues next, if the agent in focus has one. -/
def State.ctx? (s : State) : Option Ctx :=
  match s.grpOf s.focus with
  | none => none
  | some g =>
    match g.port s.focus.isB with
    | none => none
    | some c =>
      if s.mayIssue s.focus g && c.pos < c.words.length then
        some ⟨s.focus, ((s.pair? s.focus).map Half.before).getD g, c, g.activeOf c⟩
      else none

/-- The group as it now stands in `s`. -/
def Ctx.now (c : Ctx) (s : State) : Group := (s.grpOf c.ag).getD c.g

def Ctx.put (c : Ctx) (s : State) (g : Group) : State := s.putGrp c.ag g

def Ctx.mod (c : Ctx) (s : State) (f : Group → Group) : State := c.put s (f (c.now s))

def Ctx.team? (c : Ctx) (s : State) : Option Team := c.ag.team.bind s.team?

def Ctx.modTeam (c : Ctx) (s : State) (f : Team → Team) : State :=
  match c.ag.team with
  | some t => s.modTeam t f
  | none => s

/-! ## Instruction fetch -/

/-- The physical address a pinned translation gives (R337). -/
def pageOf (ps : List PageT) (va : Nat) : Option PageT := ps.find? (fun p => p.va ≤ va && va < p.va + p.size)

def PageT.at (p : PageT) (va : Nat) : Nat := p.pa + (va - p.va)

/-- Who fetches: the Kennel, or a compute core for a grid. -/
structure Fetcher where
  core : Nat
  grid : Word
  deriving DecidableEq, Repr

def State.fetcher (s : State) (ag : Agent) : Fetcher :=
  match ag.team.bind s.team? with
  | some t => ⟨t.core, t.grid⟩
  | none => ⟨576, 0⟩

/-- The eight bytes of code at an address in memory. -/
def State.codeWord (s : State) (f : Fetcher) (a : Nat) : DWord :=
  if f.core = 576 then BitVec.ofNat 64 (Memory.readLE s.k.sram a 8)
  else
    match (s.grid? f.grid).bind (fun g => pageOf g.pins a) with
    | some p => BitVec.ofNat 64 (Memory.readLE s.mem (p.at a) 8)
    | none => 0

/-- The word a fetch returns: the instruction cache's, else memory's (R358). -/
def State.peek (s : State) (f : Fetcher) (a : Nat) : DWord :=
  match s.icache.find? (fun x => x.core = f.core && x.grid = f.grid && x.addr = a) with
  | some x => x.w
  | none => s.codeWord f a

/-- A fetch leaves the word in the instruction cache. -/
def State.fetch (s : State) (f : Fetcher) (a : Nat) : DWord × State :=
  if s.icache.any (fun x => x.core = f.core && x.grid = f.grid && x.addr = a) then (s.peek f a, s)
  else (s.codeWord f a, { s with icache := ⟨f.core, f.grid, a, s.codeWord f a⟩ :: s.icache })

/-- The code extent (R66): a grid's record names it; the Kennel's is its SRAM. -/
def State.extent (s : State) (f : Fetcher) : Nat × Nat :=
  if f.core = 576 then (0, 0x80000)
  else
    match s.grid? f.grid with
    | some g => (g.lr.code.toNat, g.lr.code.toNat + g.lr.codelen)
    | none => (0, 0)

def State.inExtent (s : State) (f : Fetcher) (a : Nat) : Bool :=
  let (lo, hi) := s.extent f
  lo ≤ a && a + 8 ≤ hi

/-- `Target(t)` (R66, R136): a clause header within the code extent. -/
def State.target (s : State) (f : Fetcher) (a : DWord) : Bool :=
  a.toNat % 8 == 0 && s.inExtent f a.toNat && isHeader (s.peek f a.toNat)

/-! ## The exclusive token (R236) -/

/-- The waiting team that takes a freed token: lower core number first (R229), then lower dispatch number. -/
def State.nextHolder (s : State) : Option Nat :=
  (s.teams.filter (fun p => p.2.wantToken && p.2.st == .running)).foldl
    (fun best p =>
      match best with
      | none => some p.1
      | some b => match s.team? b with
        | some tb => if p.2.core < tb.core then some p.1 else some b
        | none => some p.1) none

/-- The holder gives the token up; a waiting team takes it. -/
def State.dropToken (s : State) (t : Nat) : State :=
  if s.sched.holder = some t then
    let s1 : State := { s with sched := { s.sched with holder := none } }
    match s1.nextHolder with
    | some u => { s1 with sched := { s1.sched with holder := some u } }.modTeam u (fun x => { x with wantToken := false })
    | none => s1
  else s

/-! ## Taking an exception -/

/-- A migration is cancelled: the banks reserved for it are CACHE again (R54). -/
def State.cancelMove (s : State) (t : Nat) (tm : Team) : State :=
  if tm.mig.isNone then s
  else
    (s.modTeam t (fun x => { x with mig := none })).modCol (colOf tm.core) (fun c =>
      { c with banks := c.banks.filter (fun b => b.2 ≠ .draining t ∧ b.2 ≠ .ready t) })

/-- A trap on a compute core (R55, R56, R349): every lane set of the group stops and keeps its resume position, the halt
window is filled, a HALT event is written, and a migration or the exclusive token is given up (R54, R236). `after` is
true for BRKPT and TRAPN, which resume at the next instruction. A lane set whose header has not issued yet stays where it
is (R57). -/
def State.halt (s : State) (t gi : Nat) (b : Bool) (h : Halt) (after : Bool) : State :=
  match s.team? t, s.group? t gi with
  | some tm, some g =>
    let stop (g : Group) (p : Bool) : Group :=
      match g.port p with
      | none => g
      | some c =>
        let c' := if p = b && after then { c with pos := c.pos + 1 } else c
        (if c.words.isEmpty then g else g.suspend c' none s.clk).leavePort p s.clk
    let g1 := { stop (stop g false) true with halt := some h }
    let s1 := (s.modGroup t gi (fun _ => g1)).cancelMove t tm
    (s1.dropToken t).event .halt h.cause.code tm.core (16 * g.slice + g.slot) tm.grid tm.team
  | _, _ => s

/-- The halt of the instruction in the port. -/
def Ctx.haltInfo (c : Ctx) (cause : Cause) (lanes : Mask) (num : Word) : Halt :=
  { cause := cause, hpc := if cause = .brkpt ∨ cause = .trapN then c.cl.addr + 8 else c.cl.addr, lanes := lanes,
    instr := c.cl.word, pos := c.cl.position, num := num, regsel := 0, ederr := false,
    edAt := none, edited := 0 }

/-- The Kennel core stops until the next warm reset, after a LOCKUP record (R387). -/
def State.lockup (s : State) : State :=
  let s1 : State := { s with k := { s.k with locked := some s.clk, ends := [],
                                             grp := { s.k.grp with portA := none, portB := none } } }
  s1.hwLog 7 none 0xFFFF []

def State.kPc (s : State) : DWord := (s.k.grp.lane 0).pc

def State.setKPc (s : State) (a : DWord) : State :=
  { s with k := { s.k with grp := s.k.grp.modLane 0 (fun x => { x with pc := a }) } }

def Fetcher.kennel : Fetcher := ⟨576, 0⟩

/-- Enter vector `v` of the Kennel (R387): KEPC, KCAUSE.VEC, INH := 1, the pc from the table at KVBASE; a synchronous
event taken with INH = 1, or a vector word that is not a clause header in the SRAM, locks up the core. -/
def State.kVector (s : State) (v : Nat) (kepc : DWord) (sync : Bool) : State :=
  if sync && s.k.inh then s.lockup
  else
    let base := s.k.kvbase.toNat / 256 * 256
    let a : DWord := BitVec.ofNat 64 (Memory.readLE s.k.sram (base + 8 * v) 8)
    let s1 : State := { s with k := { s.k with kepc := kepc, vec := BitVec.ofNat 8 v, inh := true, ends := [],
                                               grp := { s.k.grp with portA := none } } }
    if s1.target .kennel a then s1.setKPc a else s1.lockup

/-- A trap cause on the Kennel core enters ILLEGAL (R383): KCAUSE.CODE, KBAD, KEPC := the clause header. -/
def State.kIllegal (s : State) (c : Cause) (kbad kepc : DWord) : State :=
  if s.k.inh then s.lockup
  else ({ s with k := { s.k with code := BitVec.ofNat 8 c.code, kbad := kbad } } : State).kVector 2 kepc true

/-- BUSERR (R384, R389): KBAD := the address; a poisoned read also sets KCAUSE.CODE (log 16). -/
def State.kBusErr (s : State) (addr : DWord) (uce : Bool) (kepc : DWord) : State :=
  if s.k.inh then s.lockup
  else
    ({ s with k := { s.k with code := if uce then BitVec.ofNat 8 Cause.uce.code else s.k.code, kbad := addr } } :
      State).kVector 3 kepc true

/-- TAKING AN EXCEPTION: the instruction in the port raises `cause` and changes nothing else. -/
def Ctx.takeTrap (c : Ctx) (s : State) (cause : Cause) (lanes : Mask) (num : Word) : State :=
  match c.ag with
  | .kennel => s.kIllegal cause c.cl.word c.cl.here
  | .port t g b => s.halt t g b (c.haltInfo cause lanes num) (cause = .brkpt || cause = .trapN)

/-- RETURN FROM AN EXCEPTION on the Kennel core (R388): INH := 0, pc := KEPC; a KEPC that is no clause header in the
SRAM enters ILLEGAL with CODE BADTARGET, KBAD the failing KEPC, KEPC unchanged. -/
def State.kReturn (s : State) : State :=
  let s1 : State := { s with k := { s.k with inh := false } }
  if s1.target .kennel s1.k.kepc then s1.setKPc s1.k.kepc
  else s1.kIllegal .badTarget s1.k.kepc s1.k.kepc

/-- The end of a Kennel clause: TRAP, BRK and IRET take effect, in the order they issued (R387, R388, log 18). -/
def kEnds : List ClauseEnd → DWord → State → State
  | [], _, s => s
  | e :: r, succ, s =>
    if s.k.locked.isSome then s
    else
      match e with
      | .trap => kEnds r succ (s.kVector 0 succ true)
      | .brk => kEnds r succ (s.kVector 1 succ true)
      | .iret _ => kEnds r succ s.kReturn

/-! ## The course of an instruction -/

/-- Which cores an opcode is legal on (Table 5-2). -/
inductive CoreSet where
  | both | compute | kennel
  deriving DecidableEq, Repr

def CoreSet.allows : CoreSet → Bool → Bool
  | .both, _ => true
  | .compute, k => !k
  | .kennel, k => k

/-- The long-latency mark and its flag field (R68): not long-latency; the field may hold 0xF; it must hold a flag. -/
inductive FlagUse where
  | no | may (fs : Bool) | must (fs : Bool)
  deriving DecidableEq, Repr

/-- What an instruction does when it issues. -/
inductive Res where
  | done (s : State)                                   -- performed; the clause goes on
  | jump (s : State)                                   -- performed; it set its lanes' program counters
  | leave (m : Mask) (s : State)                       -- performed; the lanes of `m` leave the clause
  | hold                                               -- the port holds
  | uce                                                -- consumes an uncorrectable error
  | trap (c : Cause) (lanes : Mask) (num : Word)
  | park (s : State) (p : Park)                        -- a blocking instruction whose condition fails
  | busErr (addr : DWord) (uce : Bool)                 -- Kennel: R384, R389
  deriving Repr

/-- Names of vector registers bound, or pending, in the group (R35, R69). -/
def Group.boundV (g : Group) : List Nat :=
  let live := g.lanes.foldl (fun acc x => x.regs.foldl (fun a p => setIns a p.1) acc) []
  g.ops.foldl (fun acc o => o.dstV.foldl setIns acc) live

def Group.boundS (g : Group) : List Nat :=
  g.ops.foldl (fun acc o => o.dstS.foldl setIns acc) (g.sregs.map Prod.fst)

/-- A result of an operation in flight will land in these lanes of register `n`, or in uniform register `n` (R69). -/
def Op.pendsV (o : Op) (m : Mask) (n : Nat) : Bool := !o.landed && o.dstV.contains n && (o.lanes &&& m) ≠ 0
def Op.pendsS (o : Op) (n : Nat) : Bool := !o.landed && o.dstS.contains n

def Group.pending (g : Group) (u : Use) : Bool :=
  match u.op with
  | .v r => (upTo u.n).any (fun i => g.ops.any (fun o => o.pendsV u.lanes (r.toNat + i)))
  | .s r => (upTo u.n).any (fun i => g.ops.any (fun o => o.pendsS (r.toNat + i)))
  | _ => false

/-- The use reads a register lane with an uncorrectable error (R222, R379). -/
def Group.readsBad (g : Group) (u : Use) : Bool :=
  !u.wr &&
  (match u.op with
   | .v r => (upTo u.n).any (fun i =>
      (Mask.lanes u.lanes g.width).any (fun l => ((g.vReg l (r.toNat + i)).map Reg.bad).getD false))
   | .s r => (upTo u.n).any (fun i => ((AMap.get? g.sregs (r.toNat + i)).map Reg.bad).getD false)
   | _ => false)

/-- The use reads poison (R36). -/
def Group.readsPoison (g : Group) (u : Use) : Bool :=
  !u.wr && !g.kennel &&
  (match u.op with
   | .v r => (upTo u.n).any (fun i => (Mask.lanes u.lanes g.width).any (fun l => (g.vReg l (r.toNat + i)).isNone))
   | .s r => (upTo u.n).any (fun i => !AMap.has g.sregs (r.toNat + i))
   | _ => false)

/-- EndUse for one source field: LU clears the live bits of ACTIVE (R35, R78). -/
def Group.endUse (g : Group) (m : Mask) (x : Src) (n : Nat) : Group :=
  if x.lu then
    match x.op with
    | .v r => (upTo n).foldl (fun g i => g.freeV m (r.toNat + i)) g
    | .s r => (upTo n).foldl (fun g i => g.freeS (r.toNat + i)) g
    | _ => g
  else g

/-- Checkpoint slots the team's copies take (R234): a block 1, a tile 8, 8 vector or 512 uniform registers 1. -/
def Team.ckptUsed (t : Team) : Nat :=
  match t.ckpt with
  | none => 0
  | some k =>
    k.blocks.length + 8 * k.tiles.length +
    cdiv ((t.groups.map (fun g => g.retained.outV.length)).sum) 8 +
    cdiv ((t.groups.map (fun g => g.retained.outS.length)).sum) 512

/-- Copy out the oldest retained registers until bound and retained fit the budget (R234). -/
def Group.spill (g : Group) : Group :=
  if g.retained.v.isEmpty && g.retained.s.isEmpty then g
  else
    let nv := min g.retained.v.length (g.boundV.length + g.retained.v.length - g.vbud)
    let ns := min g.retained.s.length (g.boundS.length + g.retained.s.length - g.sbud)
    { g with retained := { g.retained with v := g.retained.v.drop nv, outV := g.retained.outV ++ g.retained.v.take nv,
                                           s := g.retained.s.drop ns, outS := g.retained.outS ++ g.retained.s.take ns } }

/-- The budgets after an instruction (R37): it may not bind beyond them. -/
def overBudget (before after : Group) : Bool :=
  !after.kennel &&
  ((after.vbud < after.boundV.length && before.boundV.length < after.boundV.length) ||
   (after.sbud < after.boundS.length && before.boundS.length < after.boundS.length))

/-- CKPT slots the grid's record gives the team. -/
def State.ckptSlots (s : State) (t : Team) : Nat := 16 * ((s.grid? t.grid).map (fun g => g.lr.nckpt)).getD 0

/-! ## The two ports of one slice cycle (R118, R146) -/

def Ctx.opcode (c : Ctx) : Nat := (c.cl.word.extractLsb' 56 8).toNat

/-- The status register an S.WSR writes or an S.RSR reads (0x18, 0x19). -/
def Ctx.statNum (c : Ctx) : Nat := (c.cl.word.extractLsb' 5 12).toNat

/-- A tile register as a status register that instructions wait for (R294). -/
def tileStat (w : DWord) (lo : Nat) : Nat := 4096 + (w.extractLsb' lo 4).toNat

/-- The status register or tile register the instruction writes. -/
def Ctx.statWritten (c : Ctx) : Option Nat :=
  if c.opcode = 0x19 then some c.statNum else if c.opcode = 0xB0 then some (tileStat c.cl.word 43)
  else if c.opcode = 0xE9 && c.cl.word.getLsbD 0 then some 5 else none

/-- Port A, whose lane set has the lower program counter, has written in this cycle: its values remain (R118). A write counts in
the cycle in which its instruction issues, also where its result lands in another than port B's (DESIGN CHOICE, log 128). Of
FPCTL all that port A leaves remains, the old RMODE too where it wrote a reserved one (DESIGN CHOICE, log 123; R180). -/
def Half.restore (h : Half) (stat : Option Nat) (g : Group) : Group :=
  let g1 := h.kept.foldl (fun (g : Group) p => match p.2 with
    | some r => { g with sregs := AMap.set g.sregs p.1 r }
    | none => g) g
  if stat.isNone || stat ≠ h.stat then g1
  else
    match stat with
    | some 5 => { g1 with lcarry := h.lcarry }
    | some 6 => { g1 with fpctl := h.fpctl }
    | some 7 => { g1 with fpflags := h.fpflags }
    | _ => g1

/-- The group after the instruction's effect, the other port's writes of the cycle kept. -/
def Ctx.merged (c : Ctx) (s : State) : Group :=
  match s.pair? c.ag with
  | some h => h.restore c.statWritten (c.now s)
  | none => c.now s

/-- CKPT slots that the team's copies take beyond those accounted for. -/
def Team.ckptNew (t : Team) : Nat := t.ckptUsed - ((t.ckpt.map Checkpoint.paid).getD 0)

/-- The checkpoint copies of the team are accounted for, and their bytes charged to the column's migration and checkpoint budget
(R323). -/
def State.payCkpt (s : State) (t : Nat) : State :=
  match s.team? t with
  | some tm =>
    if tm.ckptNew = 0 then s
    else
      (s.charge 4 (colOf tm.core) (2048 * tm.ckptNew)).modTeam t (fun x =>
        { x with ckpt := x.ckpt.map (fun k => { k with paid := tm.ckptUsed }) })
  | none => s

/-- Budget and checkpoint of a finished effect: the state with its registers spilled and its copies paid; or the cause it
raises; or none, when it would copy while the budget for that is spent, and so waits (R37, R234, R323). -/
def Ctx.settle (c : Ctx) (s : State) : Except (Option Cause) State :=
  let g := c.merged s
  if overBudget c.g g then .error (some .regBudget)
  else
    match c.ag with
    | .kennel => .ok s
    | .port t _ _ =>
      let s1 := c.put s g.spill
      match s1.team? t with
      | some tm =>
        if tm.ckptNew = 0 then .ok s1
        else if s1.ckptSlots tm < tm.ckptUsed then .error (some .ckptFull)
        else if s1.left 4 (colOf tm.core) then .ok (s1.payCkpt t)
        else .error none
      | none => .ok s1

/-- Port A has had its slot: port B issues in the same cycle, reading the group as it stood when the cycle began. -/
def Ctx.passTo (c : Ctx) (s : State) (t gi : Nat) : State :=
  let g := c.now s
  let h : Half := match s.paired t gi with
    | some h => { h with kept := (h.wrote.filter (fun n => !g.ops.any (fun o => o.pendsS n))).map (fun n =>
                           (n, AMap.get? g.sregs n)),
                         lcarry := g.lcarry, fpctl := g.fpctl, fpflags := g.fpflags }
    | none => ⟨s.clk, t, gi, g, [], [], none, 0, 0, 0, 0⟩
  { s with cycle := some h, focus := .port t gi true }

/-- After a slot: port B follows port A in the same slice cycle; then the cycle ends and port A is next (R146, log 9). -/
def Ctx.next (c : Ctx) (s : State) : State :=
  match c.ag with
  | .kennel => { s.tick 1 with focus := .kennel }
  | .port t gi b =>
    let g := c.now s
    if !b && g.portB.isSome && s.mayIssue (.port t gi true) g then c.passTo s t gi
    else { s.tick 1 with focus := .port t gi (g.portA.isNone && g.portB.isSome), cycle := none }

def Group.countSlot (g : Group) : Group := { g with instrs := (g.instrs + 1) % 2 ^ 64 }

/-- An instruction slot has issued: INSTRS, and the slice's count of the last 64 cycles (R365). -/
def Ctx.slot (c : Ctx) (s : State) : State :=
  let s1 := c.mod s Group.countSlot
  match c.team? s with
  | some tm => s1.modCore tm.core (fun k => k.modSlice c.g.slice (fun x =>
      { x with issued := s.clk :: x.issued.filter (fun t => s.clk < t + 64) }))
  | none => s1

/-- The clause of the port ends: on the Kennel its pending effects are taken. -/
def Ctx.endClause (c : Ctx) (s : State) : State :=
  let s1 := c.mod s (fun g => g.leavePort c.ag.isB s.clk)
  match c.ag with
  | .kennel => kEnds s1.k.ends c.cl.succ { s1 with k := { s1.k with ends := [] } }
  | .port _ _ _ => s1

/-- The clause goes on with its next word, or ends and its lanes stand at `Succ` (R63). -/
def Ctx.advance (c : Ctx) (s : State) : State :=
  let s1 := c.slot s
  if c.cl.pos + 1 < c.cl.words.length then
    c.mod s1 (fun g => g.setPort c.ag.isB (some { c.cl with pos := c.cl.pos + 1 }))
  else
    c.endClause (c.mod s1 (fun g => g.modLanes (c.cl.lanes &&& g.movers) (fun x =>
      { x with pc := c.cl.succ, resume := none })))

/-- Unbind every name live in the lanes of `m` (R141). -/
def Group.freeLanes (g : Group) (m : Mask) : Group := g.boundV.foldl (fun g n => g.freeV m n) g

/-- A group none of whose lanes remains dissolves (R42, R141): lanes switched off leave no thread behind. Its slot is free
from `now` on. -/
def Group.dissolve (g : Group) (now : Nat) : Group :=
  if (g.running &&& ~~~g.svmask) ≠ 0 then g
  else
    let g1 := (g.freeLanes g.running).modLanes g.running (fun x =>
      { x with thread := .exited, resume := none, park := none, filing := none })
    { g1.sregs.foldl (fun g p => g.freeS p.1) g1 with
      live := false, portA := none, portB := none, quietAt := now, turnEnd := if g.inTurn then now + 1 else g.turnEnd }

/-- The effect does not stand: the trap is taken, or the port holds. -/
def Ctx.unsettled (c : Ctx) (s : State) (e : Option Cause) : State :=
  match e with
  | some x => (c.takeTrap s x c.active 0).tick 1
  | none => c.next s

/-- Carry out what the instruction's meaning answered. -/
def Ctx.finish (c : Ctx) (s : State) (r : Res) : Host.Outcome State Fault Refusal :=
  match r with
  | .done s' =>
    match c.settle s' with
    | .ok s'' => .next (c.next (c.advance s''))
    | .error e => .next (c.unsettled s e)
  | .jump s' =>
    match c.settle s' with
    | .ok s'' => .next (c.next (c.endClause (c.slot s'')))
    | .error e => .next (c.unsettled s e)
  | .leave m s' =>
    match c.settle s' with
    | .ok s'' =>
      .next (c.next (c.mod (Ctx.advance { c with cl := { c.cl with lanes := c.cl.lanes &&& ~~~m } } s'')
        (fun g => g.dissolve s.clk)))
    | .error e => .next (c.unsettled s e)
  | .hold => .next (c.next s)
  | .uce => .next ((c.modTeam s (fun t => { t with uce := true })).tick 1)
  | .trap e lanes num => .next ((c.takeTrap s e lanes num).tick 1)
  | .park s' p =>
    match c.settle s' with
    | .ok s'' => .next (c.next (c.mod s'' (fun g => (g.suspend c.cl (some p) s.clk).leavePort c.ag.isB s.clk)))
    | .error e => .next (c.unsettled s e)
  | .busErr a u => .next ((s.kBusErr a u c.cl.here).tick 1)

/-- An error the use reads is signalled: in a vector register, one in a lane of ACTIVE (R222, R379). -/
def Ctx.readsBad (c : Ctx) (u : Use) : Bool := c.g.readsBad { u with lanes := u.lanes &&& c.active }

/-- How a guard narrows ACTIVE: not at all, lane by lane (R71), or as a whole (R119). -/
inductive GuardUse where
  | all | lanes (g : Guard) | whole (g : Guard)
  deriving DecidableEq, Repr

def Group.guardMask (g : Group) (x : Guard) : Mask :=
  let p := g.predMask x.p.toNat
  if x.neg then ~~~p else p

def GuardUse.narrow (u : GuardUse) (g : Group) (m : Mask) : Mask :=
  match u with
  | .all => m
  | .lanes x => m &&& g.guardMask x
  | .whole x => if m &&& g.guardMask x = 0 then 0 else m

/-- The predicate a guard reads. -/
def GuardUse.uses (u : GuardUse) (m : Mask) : List Use :=
  match u with
  | .all => []
  | .lanes x => if x.p = 7 then [] else [⟨.p x.p, 1, m, false⟩]
  | .whole x => if x.p = 7 then [] else [⟨.p x.p, 1, m, false⟩]

/-- A clause's instruction and its limits: `encOk` those of its word on the issuing core, `hdrOk` further ones of its
clause's header, `consumes` whether it consumes the errors of registers it reads (R222). -/
structure Spec where
  core : CoreSet := .compute
  flag : FlagUse := .no
  encOk : Ctx → Bool := fun _ => true
  hdrOk : Ctx → Bool := fun _ => true
  guard : GuardUse := .all
  uses : Ctx → State → List Use := fun _ _ => []
  consumes : Bool := true

/-- Limits of the clause header (R68). -/
def FlagUse.ok (f : FlagUse) (cl : Clause) : Bool :=
  match f with
  | .must fs => cl.sel fs < 12
  | _ => true

/-- The flag an instruction charges (R67, R68). -/
def FlagUse.flag (f : FlagUse) (cl : Clause) : Option Nat :=
  match f with
  | .no => none
  | .may fs => if cl.sel fs < 12 then some (cl.sel fs) else none
  | .must fs => if cl.sel fs < 12 then some (cl.sel fs) else none

/-! ## Interlocks (R69, R117, R156, R157) -/

/-- Some register of one use is one of the other's, in a common lane. p7 is no register that results land in: a write to it is
discarded (Table 3-8). -/
def Use.meets (a b : Use) : Bool :=
  match a.op, b.op with
  | .v x, .v y => (a.lanes &&& b.lanes) ≠ 0 && x.toNat < y.toNat + b.n && y.toNat < x.toNat + a.n
  | .s x, .s y => x.toNat < y.toNat + b.n && y.toNat < x.toNat + a.n
  | .p x, .p y => x = y && x ≠ 7 && (a.lanes &&& b.lanes) ≠ 0
  | _, _ => false

/-- The use's register waits for a result: of a long-latency operation, or a fixed-latency one that has not landed. -/
def Group.awaits (g : Group) (now : Nat) (u : Use) : Bool :=
  g.pending u || g.flying.any (fun f => now < f.due && f.uses.any u.meets)

/-- A float instruction (R179): 0x70 to 0x86, and V.RED and V.SCAN of FP32. -/
def isFloat (op : Nat) (w : DWord) : Bool :=
  (0x70 ≤ op && op ≤ 0x86) || ((op = 0x61 || op = 0x62) && [1, 9, 10].contains (w.extractLsb' 0 4).toNat)

/-- A long-integer instruction that enters the carry chain (R282). -/
def isChain (op : Nat) : Bool := 0xE2 ≤ op && op ≤ 0xE8

/-- Latencies in slice cycles (Tables 6-1, 7-1, 8-1, R282, R357); `toS` a uniform destination. -/
def fixedLat (g : Group) (op : Nat) (w : DWord) (toS : Bool) : Nat :=
  if op < 0x40 then
    if op = 0x04 || op = 0x05 then 3 else if op = 0x1A then 4
    else if (0x0F ≤ op && op ≤ 0x11) || op = 0x18 || op = 0x19 then 2 else 1
  else if op ≤ 0x5B then
    if op = 0x47 || op = 0x59 then 5
    else if (0x44 ≤ op && op ≤ 0x46) || op = 0x58 || op = 0x5A then 4 else 2
  else if op ≤ 0x64 then
    if op = 0x60 || op = 0x63 then 4 else if op = 0x64 then (if toS then 3 else 2)
    else if w.extractLsb' 0 4 = 1#4 then 3 + 3 * Nat.log2 g.width else 3 + Nat.log2 g.width
  else if op ≤ 0x86 then
    if op = 0x73 || (0x75 ≤ op && op ≤ 0x77) then 2 else if op = 0x85 then 8 else if op = 0x86 then 6
    else if op = 0x7D || op = 0x80 || op = 0x81 then 10 + cdiv g.width 16
    else if 0x7B ≤ op && op ≤ 0x7F then 6 + cdiv g.width 16 else 4
  else if isChain op then 4 + cdiv g.limbs 8
  else if op = 0xEF || op = 0xB0 then 2 else 1

/-- Units of a slice that take one instruction at a time, with the cycles it occupies them: the uniform multiplier (R117),
the cross-lane network (R151), the special-function unit (R178), the carry chain (R282). -/
def unitOf (g : Group) (op : Nat) : Option (Nat × Nat) :=
  if op = 0x04 || op = 0x05 then some (0, 1)
  else if (0x60 ≤ op && op ≤ 0x64) || op = 0x85 || op = 0x86 then some (1, 1)
  else if 0x7B ≤ op && op ≤ 0x81 then some (2, cdiv g.width 16)
  else if isChain op then some (3, cdiv g.limbs 8)
  else none

/-- The slice of the issuing group. -/
def Ctx.slice? (c : Ctx) (s : State) : Option Slice := (c.team? s).map (fun tm => (s.core tm.core).slice c.g.slice)

def Ctx.modSlice (c : Ctx) (s : State) (f : Slice → Slice) : State :=
  match c.team? s with
  | some tm => s.modCore tm.core (fun k => k.modSlice c.g.slice f)
  | none => s

/-- The unit the instruction needs is occupied. -/
def Ctx.unitBusy (c : Ctx) (s : State) : Bool :=
  match unitOf c.g c.opcode, c.slice? s with
  | some (u, _), some x => s.clk < AMap.getD x.busy u 0
  | _, _ => false

/-- Status registers wait for what writes them: a read for an S.WSR, a float instruction for FPCTL, a read of FPFLAGS for
every float instruction before it in group order, port A's of the same cycle among them (R117, R181, R224), while it holds also
for those the other port issues meanwhile (DESIGN CHOICE, log 129); a reader of a tile
register for the TDEF before it (R294); LCARRY's readers and writers for long integers (R281, R282). What the other port
writes in the same cycle is not waited for (R118, R134). -/
def Ctx.statWaits (c : Ctx) (s : State) : Bool :=
  let on (n : Nat) : Bool := c.g.flying.any (fun f => f.stat == some n && s.clk < f.due)
  let op := c.opcode
  (op = 0x18 && (on c.statNum ||
    (c.statNum = 7 && !c.g.kennel && (c.now s).flying.any (fun f => f.float && s.clk ≤ f.due)))) ||
  (op = 0x19 && c.statNum = 5 && !c.g.kennel && on 5) || (isFloat op c.cl.word && on 6) ||
  ((op = 0xB1 || op = 0xB3 || op = 0xB4 || op = 0xB7) && on (tileStat c.cl.word 43)) ||
  (op = 0xB1 && on (tileStat c.cl.word 39)) ||
  ((op = 0xE1 || op = 0xE9 || ((op = 0xE2 || op = 0xE3) && c.cl.word.getLsbD 0)) && on 5)

/-- The lane set the clause belongs to: its lanes, and those standing at its header that are switched off, whose program
counters are equal (R38; log 130, the model's reading); an idle lane belongs to none (R275). -/
def Ctx.laneSet (c : Ctx) : Mask :=
  (c.cl.lanes ||| (c.g.svmask &&& c.g.lanesWhere (fun _ x => x.pc = c.cl.here))) &&& c.g.running &&& ~~~c.g.idle

/-- The slot with its whole lane set for ACTIVE: interlock holds and grants are judged on it (R156). -/
def Ctx.whole (c : Ctx) : Ctx := { c with active := c.laneSet }

/-- The port holds for a result or a unit; `us` is what the instruction uses in its whole lane set, whatever ACTIVE (R156). -/
def Ctx.held (c : Ctx) (s : State) (us : List Use) : Bool :=
  us.any (c.g.awaits s.clk) || c.statWaits s || c.unitBusy s

/-! ## Operand grants (R153, R154) -/

def Group.col (g : Group) (b : Bool) : Collect := if b then g.colB else g.colA

def Group.setCol (g : Group) (b : Bool) (x : Collect) : Group := if b then { g with colB := x } else { g with colA := x }

/-- Operand codes of the vector source fields with KP set (R72, Table 3-7). -/
def keptCodes (op : Nat) (w : DWord) : List Nat :=
  let f (i : Nat) : List Nat :=
    if w.getLsbD (i + 10) && w.extractLsb' i 10 < 256#10 then [(w.extractLsb' i 10).toNat] else []
  if (0x40 ≤ op && op ≤ 0x86 && op ≠ 0x41) || (0xE0 ≤ op && op ≤ 0xE9) then
    f 29 ++ f 17 ++ (if [0x52, 0x54, 0x55, 0x5B, 0x60, 0x76, 0x79, 0x7A, 0xE0, 0xE7].contains op then [] else f 5)
  else if (0x90 ≤ op && op ≤ 0xAF) || (0xD0 ≤ op && op ≤ 0xDA && op ≠ 0xD8) then f 39 ++ f 15
  else if op = 0x30 then f 39 else []

/-- Vector registers a list of uses names. -/
def vNames (us : List Use) : List Nat :=
  us.foldl (fun acc u => match u.op with
    | .v r => (upTo u.n).foldl (fun a i => setIns a (r.toNat + i)) acc
    | _ => acc) []

/-- The grants the instruction needs in all: one for each vector register read that the operand cache does not hold. -/
def Ctx.wants (c : Ctx) (s : State) (us : List Use) : Nat :=
  ((vNames (us.filter (fun u => !u.wr))).filter (fun n => !((c.now s).col c.ag.isB).cache.contains n)).length

/-- The grants it still needs in this cycle. -/
def Ctx.need (c : Ctx) (s : State) (us : List Use) : Nat :=
  let x := (c.now s).col c.ag.isB
  if x.since.isSome then x.need else c.wants s us

/-- Grants of this cycle that the other port takes first: port A's of this cycle, or those of a port B that began
collecting earlier. -/
def Ctx.taken (c : Ctx) (s : State) : Nat :=
  if c.ag.isB then ((s.pair? c.ag).map Half.grants).getD 0
  else
    match (c.now s).colB.since, (c.now s).colA.since with
    | some y, some x => if y < x then (c.now s).colB.need else 0
    | some y, none => if y < s.clk then (c.now s).colB.need else 0
    | none, _ => 0

/-- The grants of this cycle for the port: G, less those taken, and no more than the banks serve it (log 97). -/
def Ctx.offer (c : Ctx) (s : State) : Nat :=
  let n := ((c.slice? s).map Slice.g).getD 8 - c.taken s
  match s.conflict with
  | some k => min n (if c.taken s = 0 then max 1 k else k)
  | none => n

/-- The operands cannot all be collected in this cycle: the port holds. -/
def Ctx.short (c : Ctx) (s : State) (us : List Use) : Bool := !c.g.kennel && c.offer s < c.need s us

/-- Note the grants port A takes in its cycle. -/
def Ctx.openHalf (c : Ctx) (s : State) (us : List Use) (grants : Nat) : State :=
  match c.ag with
  | .port t gi false =>
    let wrote := us.foldl (fun acc u => match u.op with
      | .s r => if u.wr && c.active ≠ 0 then (upTo u.n).foldl (fun a i => setIns a (r.toNat + i)) acc else acc
      | _ => acc) []
    { s with cycle := some ⟨s.clk, t, gi, c.now s, wrote, [], if c.active = 0 then none else c.statWritten, 0, 0, 0, grants⟩ }
  | _ => s

/-- A cycle of collecting: GRANTHOLD counts it (Table 15-10). -/
def Ctx.collect (c : Ctx) (s : State) (us : List Use) : State :=
  let n := min (c.offer s) (c.need s us)
  let s1 := { c.openHalf s [] n with conflict := none }
  c.mod s1 (fun g =>
    { g.setCol c.ag.isB { g.col c.ag.isB with
        since := some ((g.col c.ag.isB).since.getD s.clk), need := c.need s us - n } with
      grantHold := (g.grantHold + 1) % 2 ^ 64 })

/-- The operand caches after an instruction: what it writes is dropped from both, what it reads with KP is kept in its
port's, the newest four. The drop is at the issue of the instruction that writes; when its result lands nothing is dropped
(DESIGN CHOICE, log 126; R154). -/
def Group.caches (g : Group) (b : Bool) (codes : List Nat) (us : List Use) : Group :=
  let gone := vNames (us.filter Use.wr)
  let kept (u : Use) : Bool := !u.wr && (match u.op with | .v r => codes.contains r.toNat | _ => false)
  let left (x : Collect) : List Nat := x.cache.filter (fun n => !gone.contains n)
  let reads := (vNames (us.filter kept)).filter (fun n => !(left (g.col b)).contains n && !gone.contains n)
  let all := left (g.col b) ++ reads
  ((g.setCol (!b) { g.col (!b) with cache := left (g.col (!b)) }).setCol b ⟨none, 0, all.drop (all.length - 4)⟩)

/-- FPFLAGS with the flags of every float instruction that has landed before `now` (R181). -/
def Group.flags (g : Group) (now : Nat) : Word :=
  g.flying.foldl (fun x f => if f.due < now then x ||| f.flags else x) g.fpflags

/-- Results that have landed need no more notice. -/
def Group.settled (g : Group) (now : Nat) : Group :=
  { g with fpflags := g.flags now, flying := g.flying.filter (fun f => now ≤ f.due) }

/-- Everything in flight has landed. -/
def Group.drained (g : Group) : Group :=
  { g with fpflags := g.flying.foldl (fun x f => x ||| f.flags) g.fpflags, flying := [] }

/-- The result of the instruction is on its way. -/
def Ctx.fly (c : Ctx) (now : Nat) (us : List Use) (g : Group) : Group :=
  let ws := us.filter Use.wr
  let n := fixedLat c.g c.opcode c.cl.word (ws.any (fun u => match u.op with | .s _ => true | _ => false))
  if n < 2 then g
  else
    { g with flying := g.flying ++ [⟨now + n, ws,
        if isChain c.opcode then some 5 else c.statWritten, isFloat c.opcode c.cl.word, 0⟩] }

/-- The instruction leaves its port, whatever its ACTIVE (R156): its results are on their way, its grants, operand caches and
unit are taken. An instruction that holds presents nothing: in that cycle the other port may use the cross-lane network or
the special-function unit (DESIGN CHOICE, log 110; R151, R178). -/
def Ctx.presents (c : Ctx) (s : State) (us : List Use) : State :=
  let off (g : Group) : Group := c.fly s.clk us ((g.settled s.clk).freshen s.clk)
  if c.g.kennel then c.mod s off
  else
    let s1 := { c.openHalf s us (c.need s us) with conflict := none }
    let s2 := c.mod s1 (fun g => (off g).caches c.ag.isB (keptCodes c.opcode c.cl.word) us)
    match unitOf c.g c.opcode with
    | some (u, n) => c.modSlice s2 (fun x => { x with busy := AMap.set x.busy u (s.clk + n) })
    | none => s2

/-! ## Issue -/

/-- A 65th charge of its flag holds the port (R67). -/
def Spec.full (sp : Spec) (c : Ctx) (s : State) : Bool :=
  match sp.flag.flag c.cl with
  | some f => 64 ≤ (c.now s).flagCount f
  | none => false

/-- What the reads leave behind: POISONRD when a source reads poison (R36), the CLKHI shadow when one is `%clk` (R124). -/
def Ctx.noteReads (c : Ctx) (s : State) (us : List Use) : State :=
  let s1 := if us.any c.g.readsPoison then c.mod s (·.orGstat gPoisonRd) else s
  if us.any (fun u => u.op == .special 10) then
    c.mod s1 (fun g => { g with clkhi := s.clkLo.extractLsb' 32 32 })
  else s1

/-- AN INSTRUCTION AT ISSUE. In order: a core it is not legal on (ILLOP) and limits of its word (ILLENC), whether or not
ACTIVE is empty (R65); the guard; limits of its header (ILLENC); holds for results, units and grants, whatever ACTIVE
(R156); an empty ACTIVE occupies the slot only (R12); a full flag; a consumed error; the effect, with what issuing leaves
behind. -/
def issue (sp : Spec) (body : Ctx → State → Res) (s : State) : Host.Outcome State Fault Refusal :=
  match s.ctx? with
  | none => .next s
  | some c0 =>
    if !sp.core.allows c0.g.kennel then c0.finish s (.trap .illOp c0.active 0)
    else if !sp.encOk c0 then c0.finish s (.trap .illEnc c0.active 0)
    else
      let c : Ctx := { c0 with active := sp.guard.narrow c0.g c0.active }
      let us := sp.uses c0.whole s
      if c.active ≠ 0 && !(sp.flag.ok c.cl && sp.hdrOk c) then c.finish s (.trap .illEnc c.active 0)
      else if c0.held s (sp.guard.uses c0.laneSet ++ us) then c.finish s .hold
      else if c.short s us then .next (c.next (c.collect s us))
      else
        let s1 := c.presents s us
        if c.active = 0 then .next (c.next (c.advance s1))
        else if sp.full c s then c.finish s .hold
        else if sp.consumes && (sp.uses c s).any c.readsBad then c.finish s .uce
        else c.finish s (body c (c.noteReads s1 (sp.uses c s)))

/-! ## Long-latency operations -/

/-- Add an operation to the group, charged to its flags. -/
def Group.addOp (g : Group) (o : Op) : Group :=
  { g with ops := g.ops ++ [{ o with id := g.nextOp }], nextOp := g.nextOp + 1 }

/-- A fresh operation of the instruction in the port. -/
def Ctx.op (c : Ctx) (f : FlagUse) (act : OpAct) : Op :=
  { id := 0, flag := f.flag c.cl, capFlag := none, addr := c.cl.addr, word := c.cl.word, lanes := c.active, act := act,
    dstV := [], dstS := [], acq := false, landed := false, entry := none, faulted := 0, vals := OpVals.empty,
    covered := [], gone := 0, spots := [], recs := [], code := 0,
    early := [], earlyBad := false, turn := c.g.lastIssue.getD 0, portB := c.ag.isB }

/-- Write landed results: those of an exited thread's lane or a dissolved group are discarded (R141); `gone` of an operation
that a dissolved group left behind is every lane. A result for a uniform register lands while the group lives, also where every
lane that issued the operation has exited (DESIGN CHOICE, log 124). -/
def landAll (ws : List Land) (gone : Mask) (g : Group) : Group :=
  ws.foldl (fun g w =>
    match w.lane with
    | none => if g.live && gone ≠ BitVec.allOnes 64 then g.setS w.reg w.val w.bad else g
    | some l => if g.live && (g.lane l).thread == .running && !gone.getLsbD l then g.setV l w.reg w.val w.bad else g) g

/-- The operation ends at `now`. -/
def Group.dropOp (g : Group) (id now : Nat) : Group :=
  { g with ops := g.ops.filter (fun o => o.id ≠ id), quietAt := if g.live then now else g.quietAt }

def Group.op? (g : Group) (id : Nat) : Option Op := g.ops.find? (fun o => o.id = id)

def Group.setOp (g : Group) (o : Op) : Group := { g with ops := g.ops.map (fun x => if x.id = o.id then o else x) }

end Sys2Proof.Machine
end

