-- ==== Sys2Proof/Machine/Operands.lean ====
section
/-! DEFINITION. Operand values (R31, R74, R78, Tables 2-2, 3-4 to 3-6) and register results. Sources are read from the
group as it stood at issue (R10); results go to the group as it then stands. -/
namespace Sys2Proof.Machine

/-- FP32 patterns of the inline constants (Table 3-6). -/
def fpConst (k : Nat) : Word :=
  [0x00000000#32, 0x3F000000#32, 0xBF000000#32, 0x3F800000#32, 0xBF800000#32, 0x40000000#32, 0xC0000000#32, 0x40800000#32,
   0xC0800000#32, 0x3EA2F983#32, 0x3F317218#32, 0x3FB8AA3B#32, 0x3E22F983#32, 0x3E800000#32, 0xBE800000#32,
   0x7F800000#32].getD k 0

/-- Groups of the roles below `r` (R31). -/
def roleBase (rs : List Role) (r : Nat) : Nat := ((rs.take r).map Role.count).sum

/-- The value of a special operand in lane `l` (Tables 2-2, 3-5). On the Kennel core, which has no team, the identifiers
of a team read 0 (log 22). -/
def Ctx.special (c : Ctx) (s : State) (k l : Nat) : Word :=
  let tm := c.team? s
  let lr := (tm.bind (fun t => s.grid? t.grid)).map Grid.lr
  let w (n : Nat) : Word := BitVec.ofNat 32 n
  match k with
  | 0 => w l
  | 1 => w (c.g.lane l).tid
  | 2 => w c.g.grp
  | 3 => w ((tm.map Team.team).getD 0)
  | 4 => (tm.map Team.grid).getD 0
  | 5 => w c.g.role
  | 6 => w ((tm.map Team.pack).getD 0)
  | 7 => w Config.slotW
  | 8 => w c.g.width
  | 9 => (tm.map Team.phaseId).getD 0
  | 10 => s.clkLo.extractLsb' 0 32
  | 11 => c.g.clkhi
  | 12 => w ((tm.map (fun t => t.groups.length)).getD 0)
  | 13 => w ((lr.map Launch.nteam).getD 0)
  | 14 => w ((lr.bind (fun r => r.roles[c.g.role]?)).map Role.count |>.getD 0)
  | _ => w ((lr.map (fun r => roleBase r.roles c.g.role)).getD 0)

/-- A predicate as a 64-bit mask source: bits at or above GRPW are 0 (R74). -/
def Group.predSrc (g : Group) (i : Nat) : Mask := g.predMask i &&& Mask.below g.width

/-- `Op(f, L, 32)`. -/
def Ctx.rd (c : Ctx) (s : State) (o : Opnd) (l : Nat) : Word :=
  match o with
  | .v n => c.g.vVal l n.toNat
  | .s n => c.g.sVal n.toNat
  | .p n => (c.g.predSrc n.toNat).extractLsb' 0 32
  | .special k => c.special s k.toNat l
  | .nat k => BitVec.ofNat 32 k.toNat
  | .neg k => BitVec.ofInt 32 ((k.toNat : Int) - 16)
  | .fp k => fpConst k.toNat

/-- `Op(f, L, 64)`. -/
def Ctx.rd64 (c : Ctx) (s : State) (o : Opnd) (l : Nat) : DWord :=
  match o with
  | .v n => c.g.vVal l (n.toNat + 1) ++ c.g.vVal l n.toNat
  | .s n => c.g.sVal (n.toNat + 1) ++ c.g.sVal n.toNat
  | .p n => c.g.predSrc n.toNat
  | .special k => 0#32 ++ c.special s k.toNat l
  | .nat k => BitVec.ofNat 64 k.toNat
  | .neg k => BitVec.ofInt 64 ((k.toNat : Int) - 16)
  | .fp k => 0#32 ++ fpConst k.toNat

/-- `OpU`: a uniform-valued source has one value; lane 0 stands for all. -/
def Ctx.rdU (c : Ctx) (s : State) (o : Opnd) : Word := c.rd s o 0
def Ctx.rdU64 (c : Ctx) (s : State) (o : Opnd) : DWord := c.rd64 s o 0

/-! ## Results -/

/-- Write `f L` to a vector register in the lanes of `m` (SetOp, R35). -/
def Group.setLanes (g : Group) (m : Mask) (n : Nat) (f : Nat → Word) : Group :=
  let g1 := g.touchV n
  let put (l : Nat) (x : Lane) : Lane := { x with regs := AMap.set x.regs n ⟨f l, false⟩ }
  { g1 with lanes := mapLanes (fun l x => if m.getLsbD l then put l x else x) 0 g1.lanes }

/-- A pair. -/
def Group.setLanes64 (g : Group) (m : Mask) (n : Nat) (f : Nat → DWord) : Group :=
  (g.setLanes m n (fun l => (f l).extractLsb' 0 32)).setLanes m (n + 1) (fun l => (f l).extractLsb' 32 32)

def Group.setS64 (g : Group) (n : Nat) (x : DWord) : Group :=
  (g.setS n (x.extractLsb' 0 32)).setS (n + 1) (x.extractLsb' 32 32)

/-- The bits of a predicate result, one per lane of `m`. -/
def maskOf (m : Mask) (w : Nat) (f : Nat → Bool) : Mask := Mask.ofLanes ((Mask.lanes m w).filter f)

def boolW (b : Bool) : Word := if b then 1 else 0

/-- Write a per-lane truth value to a predicate or, as 1 or 0, to a vector or uniform register. -/
def Group.setBool (g : Group) (d : Opnd) (m : Mask) (f : Nat → Bool) : Group :=
  match d with
  | .p i => g.setPred i.toNat m (maskOf m g.width f)
  | .v n => g.setLanes m n.toNat (fun l => boolW (f l))
  | .s n => g.setS n.toNat (boolW (f 0))
  | _ => g

/-- EndUse over the source fields, each with its span (R78). -/
def Group.endUses (g : Group) (m : Mask) (xs : List (Src × Nat)) : Group :=
  xs.foldl (fun g x => g.endUse m x.1 x.2) g

/-- Read uses of source fields, in ACTIVE. -/
def readsOf (c : Ctx) (xs : List (Src × Nat)) : List Use := xs.map (fun x => ⟨x.1.op, x.2, c.active, false⟩)

/-- A vector destination of `n` names, and a uniform one. -/
def wrV (c : Ctx) (d : BitVec 8) (n : Nat) : Use := ⟨.v d, n, c.active, true⟩
def wrS (c : Ctx) (d : BitVec 9) (n : Nat) : Use := ⟨.s d, n, c.active, true⟩

/-- Finish a register-only instruction: last uses first, then the result (R35). -/
def Ctx.retire (c : Ctx) (s : State) (xs : List (Src × Nat)) (f : Group → Group) : Res :=
  .done (c.mod s (fun g => f (g.endUses c.active xs)))

/-- A uniform instruction (R116): sources `xs`, destination `d` of `n` names, result `f`. -/
def uniform (d : BitVec 9) (n : Nat) (xs : List (Src × Nat)) (f : Ctx → State → DWord) :
    State → Host.Outcome State Fault Refusal :=
  issue { core := .both, uses := fun c _ => wrS c d n :: readsOf c xs } (fun c s =>
    c.retire s xs (fun g =>
      if n = 2 then g.setS64 d.toNat (f c s) else g.setS d.toNat ((f c s).extractLsb' 0 32)))

/-- A vector instruction: sources `xs`, destination `d` of one name, result `f` in each lane of ACTIVE. -/
def vector (d : BitVec 8) (xs : List (Src × Nat)) (f : Ctx → State → Nat → Word) :
    State → Host.Outcome State Fault Refusal :=
  issue { uses := fun c _ => wrV c d 1 :: readsOf c xs } (fun c s =>
    c.retire s xs (fun g => g.setLanes c.active d.toNat (f c s)))

/-- The same with a pair as destination. -/
def vector64 (d : BitVec 8) (xs : List (Src × Nat)) (f : Ctx → State → Nat → DWord) :
    State → Host.Outcome State Fault Refusal :=
  issue { uses := fun c _ => wrV c d 2 :: readsOf c xs } (fun c s =>
    c.retire s xs (fun g => g.setLanes64 c.active d.toNat (f c s)))

end Sys2Proof.Machine
end

