-- ==== Sys2Proof/Machine/Access.lean ====
section
/-! DEFINITION. What one access to memory does: classes and splitting (R198, R204), translation (R209 to R211), the L1 and
staged bytes (R204, R205), signatures (R232), poison (R221, R222), scratchpads (R202, R203), checkpoint copies (R234) and
fault records (R218). -/
namespace Sys2Proof.Machine

/-! ## Module memory (R206, R221) -/

/-- Lines that [pa, pa + n) covers whole. -/
def wholeLines (pa n : Nat) : List Nat :=
  (upTo ((pa + n) / 128 - cdiv pa 128)).map (fun i => cdiv pa 128 + i)

/-- A single write at the home slice: poison of the lines it covers whole is cleared. -/
def State.memWrite (s : State) (pa : Nat) (b : List Byte) : State :=
  { s with mem := Memory.writeN s.mem pa b,
           poison := s.poison.filter (fun l => !(wholeLines pa b.length).contains l) }

/-- Some byte of [pa, pa + n) lies in a poisoned line. -/
def State.poisoned (s : State) (pa n : Nat) : Bool :=
  n ≠ 0 && s.poison.any (fun l => pa / 128 ≤ l && l ≤ (pa + n - 1) / 128)

/-! ## Translation -/

/-- R197: bits 63:57 all equal bit 56. -/
def canonical (va : Nat) : Bool := va < 2 ^ 56 || (2 ^ 64 - 2 ^ 56 ≤ va && va < 2 ^ 64)

/-- log₂ of the page size of a leaf (Table 9-6). -/
def leafLog (level size : Nat) : Option Nat :=
  match level, size with
  | 0, 0 => some 12
  | 0, 1 => some 14
  | 0, 2 => some 16
  | 0, 3 => some 18
  | 0, 4 => some 20
  | 1, 0 => some 21
  | 1, 1 => some 25
  | 1, 2 => some 29
  | 2, 0 => some 30
  | 2, 1 => some 34
  | _, _ => none

/-- One level of the walk (R210, R211): the table at `table` is that of level `n − 1`. A root table beyond memory is
MALFORMED as a next-level table is (log 28). -/
def walkFrom (m : Memory) (va : Nat) : Nat → Nat → Except PageFault PageT
  | 0, _ => .error .malformed
  | n + 1, table =>
    if Config.physEnd < table + 4096 then .error .malformed
    else
      let e := Memory.readLE m (table + 8 * (va / 2 ^ (12 + 9 * n) % 512)) 8
      let pfn := e / 4096 % 2 ^ 36 * 4096
      let size := e / 256 % 16
      let w := e.testBit 2
      if !e.testBit 0 then .error .notPresent
      else if e / 2 ^ 48 ≠ 0 || e / 8 % 32 ≠ 0 then .error .malformed
      else if !e.testBit 1 then
        if size ≠ 0 || w || n = 0 || Config.physEnd < pfn + 4096 then .error .malformed else walkFrom m va n pfn
      else
        match leafLog n size with
        | none => .error .malformed
        | some lg =>
          if pfn % 2 ^ lg ≠ 0 || Config.physEnd < pfn + 2 ^ lg then .error .malformed
          else .ok ⟨va / 2 ^ lg * 2 ^ lg, 2 ^ lg, pfn, w⟩

/-- A page walk from a root (R210). -/
def State.walk (s : State) (root va : Nat) : Except PageFault PageT :=
  if canonical va then walkFrom s.mem va 5 root else .error .nonCanon

/-- A TLB entry that serves the access; one without W does not serve a store, which walks again (log 11). -/
def tlbFind (es : List TlbEntry) (asid va : Nat) (write : Bool) : Option TlbEntry :=
  es.find? (fun e => e.asid = asid && e.page.va ≤ va && va < e.page.va + e.page.size && (!write || e.page.w))

def tlbPut (es : List TlbEntry) (e : TlbEntry) (cap : Nat) : List TlbEntry :=
  (e :: es.filter (fun x => !(x.asid = e.asid && x.page.va = e.page.va))).take cap

/-- An undeclared access translates through the column TLB, the stack TLB and the walk (R210, R214). -/
def State.xlate (s : State) (col root asid va : Nat) (write : Bool) : Except PageFault PageT × State :=
  let fill (e : TlbEntry) : State := s.modCol col (fun c => { c with tlb := tlbPut c.tlb e 512 })
  match tlbFind (s.col col).tlb asid va write with
  | some e => (.ok e.page, s)
  | none =>
    match tlbFind (AMap.getD s.stlb (stackOf col) []) asid va write with
    | some e => (.ok e.page, fill e)
    | none =>
      match s.walk root va with
      | .error k => (.error k, s)
      | .ok p =>
        if write && !p.w then (.error .writeProt, s)
        else
          let e : TlbEntry := ⟨asid, p⟩
          let s1 := fill e
          (.ok p, { s1 with stlb := AMap.set s1.stlb (stackOf col)
                              (tlbPut (AMap.getD s1.stlb (stackOf col) []) e 8192) })

/-! ## Classes and pieces (R198, R204) -/

def Extent.has (x : Extent) (va : Nat) : Bool := x.start ≤ va && va < x.start + x.len

/-- The range that gives an address its class: SHR, ACC, WR, RD in that order. -/
def Team.rangeAt (t : Team) (va : Nat) : Option Extent :=
  [RClass.shr, .acc, .wr, .rd].findSome? (fun c => t.ranges.find? (fun x => x.cls = c && x.has va))

structure MPiece where
  va : Nat
  len : Nat
  range : Option Extent
  deriving DecidableEq, Repr

/-- The next boundary after `a`: a line's end or an edge of a declared range. -/
def Team.nextEdge (t : Team) (a : Nat) : Nat :=
  t.ranges.foldl (fun e x =>
    let e1 := if a < x.start then min e x.start else e
    if a < x.start + x.len then min e1 (x.start + x.len) else e1) ((a / 128 + 1) * 128)

def Team.piecesFrom (t : Team) : Nat → Nat → Nat → List MPiece
  | 0, _, _ => []
  | fuel + 1, a, stop =>
    if stop ≤ a then []
    else
      let e := min (t.nextEdge a) stop
      ⟨a, e - a, t.rangeAt a⟩ :: t.piecesFrom fuel e stop

/-- The pieces of an access to [a, a + n). -/
def Team.pieces (t : Team) (a n : Nat) : List MPiece := t.piecesFrom n a (a + n)

/-- Some piece lies in no declared range. -/
def Team.undeclared (t : Team) (a n : Nat) : Bool := (t.pieces a n).any (fun p => p.range.isNone)

/-- The physical address of a piece: an extent's translation never faults (R209). -/
def State.place? (s : State) (t : Team) (p : MPiece) (write : Bool) : Except PageFault Nat × State :=
  match p.range with
  | some x =>
    match pageOf x.pages p.va with
    | some g => (.ok (g.at p.va), s)
    | none => (.error .notPresent, s)
  | none =>
    let lr := (s.grid? t.grid).map Grid.lr
    let (r, s1) := s.xlate (colOf t.core) ((lr.map Launch.root).getD 0) ((lr.map Launch.asid).getD 0) p.va write
    (match r with | .ok g => .ok (g.at p.va) | .error k => .error k, s1)

/-! ## Signatures (R232) -/

def sigBit (x : BitVec 1024) (k : Nat) : BitVec 1024 := x ||| BitVec.ofNat 1024 (2 ^ k)

/-- Enter the 64-byte granule `g` = PA[47:6]. -/
def Sig.add (x : Sig) (g : Nat) : Sig :=
  { h0 := sigBit x.h0 (g % 1024), h1 := sigBit x.h1 (g / 1024 % 1024), h2 := sigBit x.h2 (g / 2 ^ 20 % 1024),
    h3 := sigBit x.h3 ((g / 2 ^ 30 % 1024) ^^^ (g / 2 ^ 40 % 4)) }

/-- Enter the granules of [pa, pa + n). -/
def Sig.addBytes (x : Sig) (pa n : Nat) : Sig :=
  (upTo ((pa + n - 1) / 64 - pa / 64 + 1)).foldl (fun x i => x.add (pa / 64 + i)) x

/-- Two signatures match when their AND is nonzero in all four partitions. -/
def Sig.hits (a b : Sig) : Bool :=
  a.h0 &&& b.h0 ≠ 0 && a.h1 &&& b.h1 ≠ 0 && a.h2 &&& b.h2 ≠ 0 && a.h3 &&& b.h3 ≠ 0

/-- A checked team notes an undeclared piece. -/
def State.noteSig (s : State) (t : Nat) (p : MPiece) (pa : Nat) (write : Bool) : State :=
  s.modTeam t (fun x =>
    if x.ckpt.isNone || p.range.isSome then x
    else if write then { x with ws := x.ws.addBytes pa p.len } else { x with rs := x.rs.addBytes pa p.len })

/-! ## The L1 and staged bytes (R204, R205) -/

/-- CACHE banks of a column: those no team holds. -/
def Column.ways (c : Column) : Nat := 128 - c.banks.length

/-- The line a global load of class `cls` by a team may use (Table 9-3). -/
def Column.l1Find (c : Column) (line : Nat) (cls : Option RClass) (team : Nat) : Option L1Line :=
  c.l1.find? (fun x => x.line = line && !x.cwin && x.cls = cls && (cls = some .rd || x.team = team))

/-- Allocate a line: as the newest of its set, or as its first victim; a full set loses its victim (log 10). -/
def Column.l1Put (c : Column) (x : L1Line) (last : Bool) : Column :=
  let same (y : L1Line) : Bool := y.line % 256 = x.line % 256
  let set := c.l1.filter same
  let set1 := set.take (c.ways - 1)
  let rest := c.l1.filter (fun y => !same y)
  if c.ways = 0 then c
  else { c with l1 := (if last then set1 ++ [x] else x :: set1) ++ rest }

/-- Lines over [pa, pa + n) that the team could load through. -/
def Column.l1Drop (c : Column) (team pa n : Nat) : Column :=
  { c with l1 := c.l1.filter (fun x =>
      !(!x.cwin && (x.cls = some .rd || x.team = team) && pa < 128 * x.line + 128 && 128 * x.line < pa + n)) }

/-- A team's staged byte over the value beneath it. -/
def overlay (staged : List Host.Cell) (pa : Nat) : List Byte → List Byte
  | [] => []
  | b :: r => AMap.getD staged pa b :: overlay staged (pa + 1) r

/-- L1ALLOC of a policy word (Table 9-4). -/
def l1Alloc (pol : Word) : Nat := pol.toNat / 16 % 16

/-- Classes whose accesses act at the home slice (Table 10-2). -/
def atHome (c : Option RClass) : Bool := c = some .shr || c = some .acc

/-- All of [pa, pa + n) is staged. -/
def allStaged (staged : List Host.Cell) (pa n : Nat) : Bool := (upTo n).all (fun i => AMap.has staged (pa + i))

/-- The bytes of a piece at `pa` (Table 10-2): live at the home slice for SHR and ACC, which never come into the L1 (R255);
else through the L1 with the team's staged bytes, of which one whose bytes are all staged reads no line (R205); none when a
poisoned line is read (R222). -/
def State.loadAt (s : State) (t : Nat) (tm : Team) (pol : Word) (p : MPiece) (pa : Nat) : Option (List Byte) × State :=
  let cls := p.range.map Extent.cls
  let s1 := s.noteSig t p pa false
  if atHome cls then
    if s.poisoned pa p.len then (none, s) else (some (Memory.readN s.mem pa p.len), s1)
  else
    match (s.col (colOf tm.core)).l1Find (pa / 128) cls t with
    | some x => (some (overlay tm.staged pa ((x.data.drop (pa % 128)).take p.len)), s1)
    | none =>
      if allStaged tm.staged pa p.len then (some (overlay tm.staged pa (List.replicate p.len 0)), s1)
      else if s.poisoned pa p.len then (none, s)
      else
        let s2 :=
          if l1Alloc pol = 2 then s1
          else s1.modCol (colOf tm.core) (fun c =>
            c.l1Put ⟨pa / 128, cls, false, t, tm.grid, Memory.readN s.mem (pa / 128 * 128) 128⟩ (l1Alloc pol = 1))
        (some (overlay tm.staged pa (Memory.readN s.mem pa p.len)), s2)

/-- What one lane's access came to. -/
structure LaneAcc where
  bytes : List Byte
  faults : List (Nat × PageFault)
  uce : Bool
  s : State
  deriving Repr

/-- Load the pieces of one lane's access. -/
def State.gload (s : State) (t : Nat) (pol : Word) (a n : Nat) : LaneAcc :=
  match s.team? t with
  | none => ⟨[], [], false, s⟩
  | some tm =>
    (tm.pieces a n).foldl (fun r p =>
      match r.s.place? tm p false with
      | (.error k, s1) => { r with faults := r.faults ++ [(p.va, k)], s := s1 }
      | (.ok pa, s1) =>
        match s1.loadAt t tm pol p pa with
        | (none, s2) => { r with uce := true, s := s2 }
        | (some b, s2) => { r with bytes := r.bytes ++ b, s := s2 }) ⟨[], [], false, s⟩

/-- Store bytes of a piece at `pa`: staged, or performed at the home slice for SHR and ACC (R205). -/
def State.storeAt (s : State) (t : Nat) (p : MPiece) (pa : Nat) (b : List Byte) : State :=
  let s1 := s.noteSig t p pa true
  match p.range.map Extent.cls with
  | some .shr | some .acc => s1.memWrite pa b
  | _ => s1.modTeam t (fun x => { x with staged := (b.foldl (fun (acc : List Host.Cell × Nat) y =>
      (AMap.set acc.1 acc.2 y, acc.2 + 1)) (x.staged, pa)).1 })

/-- Granule `g` of a team's scratchpad is poisoned: recorded when it was not (R322, R392). -/
def State.poisonGranule (s : State) (t g : Nat) : State :=
  if (s.team? t).any (fun x => x.scratchBad.contains g) then s
  else (s.modTeam t (fun x => { x with scratchBad := setIns x.scratchBad g })).logPoison (8 * g)

/-- The key of a physical byte in a store's cover: the byte at the home slice, or the team's staged one. -/
def covKey (home : Bool) (pa : Nat) : Nat := 2 * pa + (if home then 1 else 0)

/-- In a store's cover, a byte that keeps what port B stored (R199), which no lane has written yet; 1 more where one has. -/
def shaded : Nat := 65

/-- The cover with the bytes that keep what port B stored in the turn of the store. -/
def Group.shade (g : Group) (isB : Bool) (turn : Nat) (cov : List (Nat × Nat)) : List (Nat × Nat) :=
  if isB then cov
  else g.later.foldl (fun c x =>
    match x with
    | (n, .mem pa) =>
      if n = turn then [true, false].foldl (fun c h =>
        AMap.set c (covKey h pa) (shaded + if [0, shaded].contains (AMap.getD c (covKey h pa) 0) then 0 else 1)) c
      else c
    | _ => c) cov

/-- The bytes of memory that a store with this cover has written. -/
def coverBytes (cov : List (Nat × Nat)) : List StoreByte := cov.map (fun x => .mem (x.1 / 2))

/-- Keep the bytes that no higher lane of the instruction has written and port B has not (R199, R219); `cov` holds, by
`covKey`, the lane number plus 1 of each byte written. -/
def freeBytes (cov : List (Nat × Nat)) (home : Bool) (lane : Nat) : Nat → List Byte → List (Nat × Byte)
  | _, [] => []
  | a, b :: r =>
    if lane < AMap.getD cov (covKey home a) 0 then freeBytes cov home lane (a + 1) r
    else (a, b) :: freeBytes cov home lane (a + 1) r

/-- A single store whose lanes have together written all of line `l` at the home slice clears its poison (R221). -/
def State.healLine (s : State) (cov : List (Nat × Nat)) (l : Nat) : State :=
  if s.poison.contains l && (upTo 128).all (fun i => !([0, shaded].contains (AMap.getD cov (covKey true (128 * l + i)) 0))) then
    { s with poison := setDel s.poison l }
  else s

/-- Store the pieces of one lane's access; `cov` names the bytes written so far and their lanes. -/
def State.gstore (s : State) (t lane a : Nat) (b : List Byte) (cov : List (Nat × Nat)) : LaneAcc × List (Nat × Nat) :=
  match s.team? t with
  | none => (⟨[], [], false, s⟩, cov)
  | some tm =>
    (tm.pieces a b.length).foldl (fun (r : LaneAcc × List (Nat × Nat)) p =>
      match r.1.s.place? tm p true with
      | (.error k, s1) => ({ r.1 with faults := r.1.faults ++ [(p.va, k)], s := s1 }, r.2)
      | (.ok pa, s1) =>
        let part := (b.drop (p.va - a)).take p.len
        let home := atHome (p.range.map Extent.cls)
        let fb := freeBytes r.2 home lane pa part
        let s2 :=
          if fb.length = part.length then s1.storeAt t p pa part
          else fb.foldl (fun s x => s.storeAt t { p with va := p.va + (x.1 - pa), len := 1 } x.1 [x.2]) s1
        let tried := (upTo part.length).foldl (fun c i =>
          if AMap.getD c (covKey home (pa + i)) 0 = shaded then AMap.set c (covKey home (pa + i)) (shaded + 1) else c) r.2
        let cov := fb.foldl (fun c x => AMap.set c (covKey home x.1) (lane + 1)) tried
        ({ r.1 with s := s2.healLine cov (pa / 128) }, cov)) (⟨[], [], false, s⟩, cov)

/-- Discard the team's staged copy and its L1 copies of bytes that an atomic or MXACC acts on (R241, R262). -/
def State.discardStaged (s : State) (t : Nat) (tm : Team) (pa n : Nat) : State :=
  (s.modTeam t (fun x => { x with staged := x.staged.filter (fun c => !(pa ≤ c.1 && c.1 < pa + n)) })).modCol
    (colOf tm.core) (fun c => c.l1Drop t pa n)

/-- Release every staged line (R230): a line staged whole is one write of 128 bytes. -/
def State.release (s : State) (t : Nat) : State :=
  match s.team? t with
  | none => s
  | some tm =>
    let full (l : Nat) : Bool := (tm.staged.filter (fun c => c.1 / 128 = l)).length = 128
    let s1 : State :=
      { s with mem := tm.staged.foldl (fun m c => Memory.write m c.1 c.2) s.mem,
               poison := s.poison.filter (fun l => !full l) }
    let s2 := tm.staged.foldl (fun s c => s.modCol (colOf tm.core) (fun x => x.l1Drop t c.1 1)) s1
    s2.modTeam t (fun x => { x with staged := [] })

/-- The team's undeclared lines are dropped at its commit or restart (Table 9-3). -/
def State.dropUndeclared (s : State) (t : Nat) (tm : Team) : State :=
  s.modCol (colOf tm.core) (fun c =>
    { c with l1 := c.l1.filter (fun x => !(x.cls = none && !x.cwin && x.team = t)) })

/-! ## Scratchpads -/

def bankSize : Nat := 32768

/-- SCRATCH bytes of a team (R197, R202): NSCR of its record. -/
def State.spadSize (s : State) (tm : Team) : Nat :=
  bankSize * ((s.grid? tm.grid).map (fun g => g.lr.nscr)).getD 0

/-- R203: every byte of [o, o + n) lies in the scratchpad. -/
def State.spadOk (s : State) (tm : Team) (o : Int) (n : Nat) : Bool :=
  0 ≤ o && o + n ≤ s.spadSize tm

/-- A granule of [o, o + n) is poisoned (R222). -/
def Team.spadBad (t : Team) (o n : Nat) : Bool :=
  n ≠ 0 && t.scratchBad.any (fun g => o / 8 ≤ g && g ≤ (o + n - 1) / 8)

/-- Copy on first write (R234): the 2 KiB blocks of [o, o + n) with the FIFO control of their banks. -/
def Team.copyBlocks (t : Team) (nscr o n : Nat) : Team :=
  match t.ckpt with
  | none => t
  | some k =>
    if n = 0 then t
    else
      let k' := (upTo ((o + n - 1) / 2048 - o / 2048 + 1)).foldl (fun (k : Checkpoint) i =>
        let b := o / 2048 + i
        if AMap.has k.blocks b then k
        else
          let bank := b / 16
          let f := if nscr ≤ bank && !AMap.has k.fifos (bank - nscr) then
              AMap.set k.fifos (bank - nscr) (t.fifos.getD (bank - nscr) (0, 0)) else k.fifos
          { k with blocks := AMap.set k.blocks b (Memory.readN t.scratch (2048 * b) 2048),
                   blockBad := (t.scratchBad.filter (fun g => g / 256 = b)).foldl setIns k.blockBad, fifos := f }) k
      { t with ckpt := some k' }

/-- Write scratchpad bytes: a granule written whole loses its poison, and with `bad` the granules touched become
poisoned (R222, R322). -/
def Team.spadWrite (t : Team) (o : Nat) (b : List Byte) (bad : Bool := false) : Team :=
  let whole (g : Nat) : Bool := o ≤ 8 * g && 8 * g + 8 ≤ o + b.length
  let kept := t.scratchBad.filter (fun g => !whole g)
  let touched := if b.isEmpty then [] else (upTo ((o + b.length - 1) / 8 - o / 8 + 1)).map (fun i => o / 8 + i)
  { t with scratch := Memory.writeN t.scratch o b, scratchBad := if bad then touched.foldl setIns kept else kept }

/-- One write of several parts, offset and length each: a granule they cover together loses its poison (R222). -/
def Team.spadHeal (t : Team) (ws : List (Nat × Nat)) : Team :=
  { t with scratchBad := t.scratchBad.filter (fun g =>
      !(upTo 8).all (fun i => ws.any (fun w => w.1 ≤ 8 * g + i && 8 * g + i < w.1 + w.2))) }

/-- Write an accumulator element; a zero is not listed. -/
def accPut (m : AMap Word) (k : Nat) (w : Word) : AMap Word := if w = 0 then AMap.erase m k else AMap.set m k w

/-- Copy on first write of an accumulator tile (R234). -/
def Team.copyTile (t : Team) (acc : Nat) : Team :=
  match t.ckpt with
  | none => t
  | some k =>
    if AMap.has k.tiles acc then t
    else
      { t with ckpt := some { k with
          tiles := AMap.set k.tiles acc ((upTo 4096).map (fun i => AMap.getD t.acc (4096 * acc + i) 0)),
          tileBad := AMap.set k.tileBad acc ((t.accBad.filter (fun r => r / 64 = acc)).map (fun r => r % 64)) } }

def State.nscr (s : State) (tm : Team) : Nat := ((s.grid? tm.grid).map (fun g => g.lr.nscr)).getD 0

/-- A write by an instruction of the team: the blocks are copied first. -/
def State.spadStore (s : State) (t o : Nat) (b : List Byte) : State :=
  s.modTeam t (fun x => (x.copyBlocks (s.nscr x) o b.length).spadWrite o b)

/-- The member of the team's pack with index `k` (R203): none without a pack. -/
def State.member (s : State) (t : Nat) (k : Nat) : Option Nat :=
  match s.team? t with
  | none => none
  | some tm =>
    let size := ((s.grid? tm.grid).map (fun g => g.lr.pack)).getD 1
    if size ≤ k || size < 2 then none
    else if k = tm.pack then some t
    else (s.teams.find? (fun p => p.2.grid = tm.grid && p.2.team + tm.pack = tm.team + k)).map Prod.fst

/-- The members of a team's pack, or the team alone (R17). -/
def State.unit (s : State) (tm : Team) : List (Nat × Team) :=
  let m := max 1 (((s.grid? tm.grid).map (fun g => g.lr.pack)).getD 1)
  s.teams.filter (fun p => p.2.grid = tm.grid && p.2.team / m = tm.team / m)

/-! ## The freeze of a migration (R27, R28, R52, R54) -/

/-- When the last lane set of the team reached a clause boundary: a turn ended, or a release brought its threads (R45); not
before the migration was chosen. -/
def Team.frozeAt (tm : Team) (m : Migration) : Nat :=
  tm.groups.foldl (fun t g => g.lanes.foldl (fun t x => max t x.readyAt) (max t g.turnEnd)) m.began

/-- A chosen migration may start by cycle `now` (R27, R45, R52): every lane set is at a clause boundary and no thread is filed.
A group with no turn in progress is at one, also where lanes of it are parked inside a clause or wait to be filed (DESIGN
CHOICE, log 122): no instruction of theirs can issue. -/
def Team.frozen (tm : Team) (now : Nat) : Bool :=
  tm.mig.any (fun m => tm.frozeAt m ≤ now) && tm.bins.all (fun b => b.threads.isEmpty) && tm.groups.all (fun g => !g.inTurn)

/-- The pack of the team is being killed: a member has consumed an uncorrectable error (R374). -/
def State.packDying (s : State) (tm : Team) : Bool := (s.unit tm).any (fun p => p.2.uce)

/-- The team is frozen and its state is being moved (R52, R54). -/
def State.migrating (s : State) (tm : Team) : Bool := tm.frozen s.clk && !s.packDying tm

/-! ## Switching lanes off (R203, R285) -/

/-- Lanes that violate the scratchpad are switched off for good; when no limb lane is left the binding ends and the idle
lanes stand at `succ`. -/
def Group.switchOff (g : Group) (m : Mask) (succ : DWord) : Group :=
  if m = 0 then g
  else
    let g1 := { g with svmask := g.svmask ||| m }.orGstat gSviol
    if g1.limbs ≠ 0 && (Mask.below g1.limbs &&& ~~~g1.svmask) = 0 then
      { g1.modLanes g1.idle (fun x => { x with pc := succ, resume := none }) with limbs := 0, idle := 0 }
    else g1

/-! ## Fault records (R218) -/

def PageFault.code : PageFault → Nat
  | .notPresent => 0
  | .writeProt => 1
  | .malformed => 2
  | .nonCanon => 3

/-- Write a fault record and keep its token. -/
def State.faultRec (s : State) (va : Nat) (lanes : Mask) (grid : Word) (team grp entry : Nat) (k : PageFault) (acc : Nat)
    (who : Faulter) : State :=
  let tok := s.sched.nextTok
  let x := leBytes 8 va ++ leBytes 8 lanes.toNat ++ leBytes 4 grid.toNat ++ leBytes 4 team ++ leBytes 1 grp ++
    leBytes 1 entry ++ leBytes 1 (k.code + 16 * acc) ++ leBytes 1 0 ++ leBytes 4 tok.toNat
  let (r, b) := Ring.put 32 s.sched.fr s.bus x
  { s with bus := b, sched := { s.sched with fr := r, nextTok := tok + 1,
                                             tokens := s.sched.tokens ++ [⟨tok, who, false⟩] } }

/-- Add to a team counter (Table 15-10). -/
def Team.count (t : Team) (i n : Nat) : Team := { t with perf := modifyAt t.perf i (fun x => (x + n) % 2 ^ 64) }

end Sys2Proof.Machine
end

