-- ==== Sys2Proof/WellFormed.lean ====
section
/-! DEFINITION. Well-formed instructions: what an instruction word may say (R72 to R76 and each instruction's own
limits), judged from the instruction alone. Limits that depend on the clause header (R68) or on the issuing core (R107,
R116) are judged at issue. For an event row the check bounds its arguments by the machine's units (Table 1-1). -/
namespace Sys2Proof

namespace Opnd

/-- The operand names a register the machine has (Table 3-4). -/
def ok : Opnd → Bool
  | .s n => n.toNat < 384
  | _ => true

def isV : Opnd → Bool
  | .v _ => true
  | _ => false

def isS : Opnd → Bool
  | .s _ => true
  | _ => false

def isP : Opnd → Bool
  | .p _ => true
  | _ => false

def isConst : Opnd → Bool
  | .nat _ => true
  | .neg _ => true
  | .fp _ => true
  | _ => false

def isInt : Opnd → Bool
  | .nat _ => true
  | .neg _ => true
  | _ => false

/-- A uniform special: not `%lane`, not `%tid` (Table 3-5). -/
def isUSpecial : Opnd → Bool
  | .special k => 2 ≤ k.toNat
  | _ => false

def isSpecial : Opnd → Bool
  | .special _ => true
  | _ => false

/-- A uniform-valued source: register, constant or uniform special. -/
def isU (o : Opnd) : Bool := o.isS || o.isConst || o.isUSpecial

/-- The register number is a multiple of `k`; a constant or special passes. -/
def aligned (k : Nat) : Opnd → Bool
  | .v n => n.toNat % k == 0
  | .s n => n.toNat % k == 0
  | _ => true

/-- Usable as a 64-bit operand (R74): an even register, an integer constant or a special. -/
def wide (o : Opnd) : Bool :=
  o.aligned 2 && (match o with | .fp _ => false | .p _ => false | _ => true)

end Opnd

namespace Src

/-- R72: the operand exists, LU and KP stand only on registers and not together. -/
def ok (x : Src) : Bool :=
  x.op.ok && !(x.lu && x.kp) && (!(x.lu || x.kp) || x.op.isV || x.op.isS)

/-- A uniform-valued 32-bit source. -/
def u (x : Src) : Bool := x.ok && x.op.isU

/-- A uniform-valued 64-bit source. -/
def u64 (x : Src) : Bool := x.ok && x.op.isU && x.op.wide

/-- A 32-bit source of a vector instruction (R158): anything but a predicate. -/
def vec (x : Src) : Bool := x.ok && !x.op.isP

/-- The same, 64 bits wide. -/
def vec64 (x : Src) : Bool := x.ok && !x.op.isP && x.op.wide

/-- A vector register. -/
def v (x : Src) : Bool := x.ok && x.op.isV

/-- A vector register whose number is a multiple of `k`. -/
def vAl (k : Nat) (x : Src) : Bool := x.ok && x.op.isV && x.op.aligned k

end Src

/-- A guard other than 0b1111 (R71). -/
def Guard.ok (g : Guard) : Bool := g ≠ ⟨true, 7⟩

/-- A uniform destination s0 to s383. -/
def sOk (d : BitVec 9) : Bool := d.toNat < 384

/-- A uniform destination of `n` registers. -/
def sAl (n : Nat) (d : BitVec 9) : Bool := d.toNat < 384 && d.toNat % n == 0

/-- A vector destination whose number is a multiple of `n`. -/
def vAlD (n : Nat) (d : BitVec 8) : Bool := d.toNat % n == 0

/-- A POL field: s0 to s383, or the default 0x1FF (R76). -/
def polOk (p : BitVec 9) : Bool := p.toNat < 384 || p == 0x1FF#9

namespace ITy

/-- Signed types (Table 5-3). -/
def signed : ITy → Bool
  | .i32 | .i16 | .i8 | .i4 => true
  | _ => false

/-- Element width in bits. -/
def bits : ITy → Nat
  | .i32 | .n32 => 32
  | .i16 | .n16 => 16
  | .i8 | .n8 => 8
  | .i4 | .n4 => 4

end ITy

namespace Fmt

/-- Bits per element as a span counts them (Table 4-1; R191: a 6-bit format counts as 8). -/
def spanBits : Fmt → Nat
  | .i8 | .n8 | .e4m3 | .e5m2 | .e2m3 | .e3m2 | .ter | .mxe4m3 | .mxe5m2 => 8
  | .i16 | .n16 | .f16 | .bf16 => 16
  | .i32 | .n32 | .f32 => 32
  | .i4 | .n4 | .e2m1 | .mxe2m1 => 4

/-- Formats 0x00 to 0x07. -/
def isInt : Fmt → Bool
  | .i8 | .n8 | .i16 | .n16 | .i32 | .n32 | .i4 | .n4 => true
  | _ => false

def isHalf : Fmt → Bool
  | .f16 | .bf16 => true
  | _ => false

/-- The 8- and 6-bit float formats. -/
def isF8 : Fmt → Bool
  | .e4m3 | .e5m2 | .e2m3 | .e3m2 => true
  | _ => false

end Fmt

/-- Elements per lane of a conversion: 32 / min(widths) (R171, Tables 7-4, 8-8, 8-9). -/
def cvtElems (df sf : Fmt) : Nat := 32 / min df.spanBits sf.spanBits

/-- Registers a span of `e` elements of format `f` takes. -/
def cvtSpan (e : Nat) (f : Fmt) : Nat := e * f.spanBits / 32

/-- V.CVT pairs (R171): integers, different, widths not a factor of 8 apart. -/
def cvtPairOk (df sf : Fmt) : Bool :=
  df.isInt && sf.isInt && df ≠ sf && df.spanBits ≠ 8 * sf.spanBits && sf.spanBits ≠ 8 * df.spanBits

/-- V.FCVT pairs (Table 8-8). -/
def fcvtPairOk (df sf : Fmt) : Bool :=
  (sf == .f32 && (df.isHalf || df.isF8 || df == .e2m1)) ||
  (sf.isHalf && (df == .f32 || (df.isHalf && df ≠ sf) || df.isF8 || df == .e2m1)) ||
  ((sf.isF8 || sf == .e2m1) && (df == .f32 || df.isHalf))

/-- V.FCVT pairs that allow stochastic rounding (Table 8-8). -/
def fcvtSrOk (df sf : Fmt) : Bool := (sf == .f32 || sf.isHalf) && (df.isF8 || df == .e2m1)

/-- V.FICVT pairs (Table 8-9). -/
def ficvtPairOk (df sf : Fmt) : Bool :=
  (sf == .f32 && (df == .i32 || df == .n32 || df == .i8 || df == .n8)) ||
  (df == .f32 && (sf == .i32 || sf == .n32 || sf == .i8 || sf == .n8)) ||
  (sf.isHalf && (df == .i16 || df == .n16)) || (df.isHalf && (sf == .i16 || sf == .n16))

/-- A source of a span of `n` registers (R171): of span 1 any source but a predicate, of longer span an aligned vector
register. -/
def spanSrcOk (n : Nat) (a : Src) : Bool := if n == 1 then a.vec else a.vAl n

/-- Integer compare conditions only (R111). -/
def Cond.intOk : Cond → Bool
  | .ord | .uno => false
  | _ => true

namespace MSize

/-- Registers the data of an access takes. -/
def regs : MSize → Nat
  | .b64 => 2
  | .b128 => 4
  | _ => 1

/-- Sizes a store accepts (R212). -/
def storeOk : MSize → Bool
  | .i8 | .i16 => false
  | _ => true

end MSize

/-- BASE of a global form: an even uniform register (R76). -/
def gBase (x : Src) : Bool := x.ok && x.op.isS && x.op.aligned 2

/-- BASE of a scratchpad or remote form: a uniform register or the constant 0 (R76). -/
def sBase (x : Src) : Bool := x.ok && (x.op.isS || x.op == .nat 0)

/-- Store data (Table 9-7): a register span, or a constant up to 32 bits. -/
def stData (uniform : Bool) (sz : MSize) (x : Src) : Bool :=
  x.ok && ((x.op.isV && !uniform) || x.op.isS || (x.op.isConst && sz.regs == 1)) && x.op.aligned sz.regs

namespace AtomOp

/-- Eight-byte operations (R240). -/
def wide : AtomOp → Bool
  | .add64 | .exch64 | .cas64 => true
  | _ => false

def isCas : AtomOp → Bool
  | .cas32 | .cas64 => true
  | _ => false

/-- Registers the DATA operand takes (R239). -/
def regs (o : AtomOp) : Nat := (if o.wide then 2 else 1) * (if o.isCas then 2 else 1)

end AtomOp

/-- DATA of an atomic (Table 10-4): a register span, or with RET = 0 a constant that is no compare-and-swap pair. -/
def atomData (uniform : Bool) (o : AtomOp) (ret : Bool) (x : Src) : Bool :=
  x.ok && x.op.aligned o.regs &&
  ((if uniform then x.op.isS else x.op.isV) ||
   (!ret && !o.isCas && (if o.wide then x.op.isInt else x.op.isConst)))

/-- The address of a synchronisation object (R243). -/
def syncAddr (glob : Bool) (m : MAddr) : Bool :=
  (if glob then gBase m.base else sBase m.base) && m.offs.u

/-- Common fields of a command (R311). -/
def CmdF.ok (c : CmdF) : Bool :=
  c.desc.toNat % 8 == 0 && c.desc.toNat ≤ 376 &&
  (match c.sig with
   | some (g, v) => g.toNat % 2 == 0 && g.toNat ≤ 382 && v.toNat < 384
   | none => c.scope == .g)

/-- Counter numbers of Table 15-10, and those CLR may clear. -/
def perfListed (n : BitVec 12) : Bool :=
  n.toNat ≤ 7 || (0x10 ≤ n.toNat && n.toNat ≤ 0x13) || (0x20 ≤ n.toNat && n.toNat ≤ 0x22)

/-- A long operand in SRC1 (R278): an even vector register or an integer constant. -/
def longOk (y : Src) : Bool := y.ok && ((y.op.isV && y.op.aligned 2) || y.op.isInt)

/-- Core, slice and slot numbers (Table 1-1, R33). -/
def coreOk (c : Nat) : Bool := c < 576
def sliceOk (c sl : Nat) : Bool := c < 576 && sl < 6
def slotOk (c sl : Nat) : Bool := c < 576 && sl < 96

/-- POS and LEN of a bit field (R132). -/
def bfOk (pos : BitVec 5) (len : BitVec 6) : Bool :=
  1 ≤ len.toNat && len.toNat ≤ 32 && pos.toNat + len.toNat ≤ 32

/-- A repair entry names a unit of the module (R15, Table 16-5). -/
def Repair.ok (r : Repair) : Bool := r.hbm.toNat < 12 && r.chan.toNat < 32 && r.kind.toNat < 4

/-- The repair is of an HBM stack that stores the line of `pa`: one of the three beside its home stack (R15, R21). -/
def Repair.holds (r : Repair) (pa : Nat) : Bool := r.ok && r.hbm.toNat / 3 == pa / 4096 % 4

/-- The site of an error is one the module has (R15, R18, R20): a team's SCRATCH and FIFO banks are 24 at most (Table 1-3). -/
def EccSite.ok : EccSite → Bool
  | .line pa => pa < 0xB2_D05E_0000
  | .scratch _ off => off < 24 * 32768
  | .vreg _ g l _ => g < 96 && l < 64
  | .sreg _ g n => g < 96 && n.toNat < 384
  | .accRow _ tile row col => tile < 16 && row < 64 && col < 64
  | .engine _ g _ => g < 96
  | .sram a => a < 0x80000

namespace Instr

/-- The instruction is one a word may hold, or the event one the machine can have. -/
def wf : Instr → Bool
  | .sMov w d a =>
    if w then sAl 2 d && (a.u64 || (a.ok && a.op.isP)) else sOk d && a.u
  | .sLi x d _ => if x then sAl 2 d else sOk d
  | .sAdd _ _ d a b | .sSub _ _ d a b => sOk d && a.u && b.u
  | .sMul _ d a b | .sMulhi _ d a b | .sAnd _ d a b | .sOr _ d a b | .sXor _ d a b | .sShl _ d a b
  | .sShr _ d a b | .sSra _ d a b | .sMin _ d a b | .sMax _ d a b => sOk d && a.u && b.u
  | .sNot _ d a => sOk d && a.u
  | .sAdd64 d a b | .sSub64 d a b | .sShl64 d a b => sAl 2 d && a.u64 && b.u64
  | .sCmp cc _ d a b => cc.intOk && d.ok && (d.isS || d.isP) && a.u && b.u
  | .sSel g w d a b c =>
    g.ok && c.u && (if w then sAl 2 d && a.u64 && b.u64 else sOk d && a.u && b.u)
  | .sBfe _ d a pos len => sOk d && a.u && bfOk pos len
  | .sBfi _ d a b pos len => sOk d && a.u && b.u && bfOk pos len
  | .sClz d a | .sPopc d a => sOk d && a.u
  | .sRsr w d _ => if w then sAl 2 d else sOk d
  | .sWsr w _ a => if w then a.u64 else a.u
  | .sVget w d a i => (if w then sAl 2 d && a.vAl 2 else sOk d && a.v) && i.u
  | .br g c _ => g.ok && (match c with | none => true | some (_, x) => x.vec)
  | .brx g a | .ret g a => g.ok && a.ok && (a.op.isV || a.op.isS) && a.op.aligned 2
  | .call g l _ => g.ok && l.ok && (l.isV || l.isS) && l.aligned 2
  | .reform t => (match t with | none => true | some a => a.ok && (a.op.isV || a.op.isS) && a.op.aligned 2)
  | .exit | .nop | .yield => true
  | .vMov w d a => if w then vAlD 2 d && a.vec64 else a.vec || (a.ok && a.op.isP)
  | .vLi x d _ => !x || vAlD 2 d
  | .vAdd _ _ _ a b | .vSub _ _ _ a b => a.vec && b.vec
  | .vMul _ _ a b | .vMulhi _ _ a b | .vAnd _ _ a b | .vOr _ _ a b | .vXor _ _ a b | .vShl _ _ a b
  | .vShr _ _ a b | .vSra _ _ a b | .vMin _ _ a b | .vMax _ _ a b => a.vec && b.vec
  | .vMad _ _ _ a b c => a.vec && b.vec && c.vec
  | .vMadw _ d a b c => vAlD 2 d && a.vec && b.vec && c.vec64
  | .vNot _ _ a => a.vec
  | .vAbs t _ _ a => t.signed && a.vec
  | .vCmp cc t d a b => cc.intOk && d.ok && ((d.isP && t.bits == 32) || d.isV) && a.vec && b.vec
  | .vSel g w d a b c =>
    g.ok && (c.vec || (c.ok && c.op.isP)) &&
    (if w then vAlD 2 d && a.vec64 && b.vec64 else a.vec && b.vec)
  | .vBfe _ _ a pos len => a.vec && bfOk pos len
  | .vBfi _ _ a b pos len => a.vec && b.vec && bfOk pos len
  | .vPopc _ _ a | .vClz _ _ a => a.vec
  | .vDot4 _ _ _ _ a b c => a.vec && b.vec && c.vec
  | .vReq _ _ a m q => a.vec && m.vec && q.vec
  | .vUnpk3 _ _ d a => vAlD 2 d && a.vec
  | .vCvt df sf d a =>
    cvtPairOk df sf && vAlD (cvtSpan (cvtElems df sf) df) d && spanSrcOk (cvtSpan (cvtElems df sf) sf) a
  | .vShfl _ seg _ a k _ => seg ≠ 7#3 && a.v && k.vec
  | .vRed _ d a => d.ok && (d.isV || d.isS) && a.v
  | .vScan _ _ _ a => a.v
  | .vBcast w seg d a i => seg ≠ 7#3 && (if w then vAlD 2 d && a.vAl 2 else a.v) && i.u
  | .vVote op d a =>
    a.ok && (a.op.isV || a.op.isP) && d.ok &&
    (match op with
     | .all | .any | .uni => d.isP || d.isS || d.isV
     | .ballot => (d.isS || d.isV) && d.aligned 2
     | .count => d.isS || d.isV)
  | .vFadd _ r _ a b | .vFsub _ r _ a b | .vFmul _ r _ a b => r ≠ .sr && a.vec && b.vec
  | .vFmin _ _ a b | .vFmax _ _ a b => a.vec && b.vec
  | .vFfma _ r _ a b c => r ≠ .sr && a.vec && b.vec && c.vec
  | .vFcmp _ _ d a b => d.ok && (d.isP || d.isV) && a.vec && b.vec
  | .vFclass _ _ a => a.vec
  | .vFrnd _ r _ a => r ≠ .sr && a.vec
  | .vFcvt df sf r d a rb =>
    fcvtPairOk df sf && vAlD (cvtSpan (cvtElems df sf) df) d && spanSrcOk (cvtSpan (cvtElems df sf) sf) a &&
    (match rb with
     | none => r ≠ .sr
     | some x => r == .sr && fcvtSrOk df sf && x.vAl (cvtElems df sf / 2))
  | .vFicvt df sf r d a =>
    ficvtPairOk df sf && r ≠ .sr && vAlD (cvtSpan (cvtElems df sf) df) d &&
    spanSrcOk (cvtSpan (cvtElems df sf) sf) a
  | .vFrcp _ a | .vFrsq _ a | .vFexp2 _ a | .vFlog2 _ a | .vFsin _ a | .vFcos _ a => a.vec
  | .vFsqrt r _ a => r ≠ .sr && a.vec
  | .vHfma2 f r _ a b c => f ≠ .f32 && r ≠ .sr && a.vec && b.vec && c.vec
  | .vHadd2 f r _ a b | .vHmul2 f r _ a b => f ≠ .f32 && r ≠ .sr && a.vec && b.vec
  | .vMxscl _ _ a => a.vec
  | .vMxpack _ r _ a sc rb =>
    a.vec && sc.vec && (match rb with | none => r ≠ .sr | some x => r == .sr && x.vec)
  | .ld _ sz d m pol => vAlD sz.regs d && gBase m.base && m.offs.vec && polOk pol
  | .st g _ sz x m pol => g.ok && sz.storeOk && stData false sz x && gBase m.base && m.offs.vec && polOk pol
  | .lds _ sz d m | .ldr _ sz _ d m => vAlD sz.regs d && sBase m.base && m.offs.vec
  | .sts g _ sz x m | .str g _ sz _ x m => g.ok && sz.storeOk && stData false sz x && sBase m.base && m.offs.vec
  | .ldu _ sz d m pol => sAl sz.regs d && gBase m.base && m.offs.u && polOk pol
  | .stu g _ sz x m pol => g.ok && sz.storeOk && stData true sz x && gBase m.base && m.offs.u && polOk pol
  | .ldc _ sz d m =>
    d.ok && (d.isV || (d.isS && m.offs.u)) && d.aligned sz.regs && sBase m.base && m.offs.vec
  | .pref _ _ m pol => gBase m.base && m.offs.vec && polOk pol
  | .fence _ _ o => o ≠ .rlx
  | .phase _ => true
  | .mxld _ _ d m => vAlD 2 d && gBase m.base && m.offs.vec
  | .mxacc g _ _ _ x m _ _ => g.ok && x.v && gBase m.base && m.offs.vec
  | .atom g _ op _ _ rt x m => g.ok && atomData false op rt x && gBase m.base && m.offs.vec
  | .atoms g _ op sc _ rt pk x m =>
    g.ok && atomData false op rt x && sBase m.base && m.offs.vec &&
    (sc == .g || sc == .t || sc == .k) && (pk.isNone || sc == .k)
  | .atomu g _ op sc _ rt x m => g.ok && sc ≠ .g && atomData true op rt x && gBase m.base && m.offs.u
  | .tdef _ u => sAl 4 u
  | .mma _ _ _ _ stat _ _ _ => (match stat with | none => true | some p => sAl 2 p)
  | .accZero _ _ | .accLd _ _ _ | .accSt _ _ _ => true
  | .accRd _ _ v _ | .accWr _ _ v _ _ => vAlD 8 v
  | .accOut _ _ _ r => r ≠ .dyn && r ≠ .sr
  | .mstat _ d _ => sOk d
  | .cp c | .cpt c _ _ | .cpg c _ | .cpsc c _ | .cpr c | .cpx c _ => c.ok
  | .coll c _ _ | .cpq c => c.ok && c.prio == 0#2
  | .barInit _ m n => syncAddr false m && n.u
  | .barArr _ m _ | .barWait _ m | .barAw _ m _ => syncAddr false m
  | .tktTake _ gl d m => sOk d && syncAddr gl m
  | .tktWait _ gl sc m t => syncAddr gl m && t.u && (gl || sc == .g || sc == .t)
  | .tktPass _ gl sc m => syncAddr gl m && (gl || sc == .g || sc == .t)
  | .waita _ gl sc _ m x => syncAddr gl m && x.u && (gl || sc == .g || sc == .t)
  | .waitf _ _ => true
  | .fifoPush _ w b x => b.u && (if w then x.vAl 2 else x.v)
  | .fifoPop _ w b d => b.u && (!w || vAlD 2 d)
  | .lbind n => 2 ≤ n.toNat && n.toNat ≤ 64
  | .lfree => true
  | .ladd _ d x y | .lsub _ d x y => vAlD 2 d && x.vAl 2 && longOk y
  | .lneg d x => vAlD 2 d && x.vAl 2
  | .lshl d x a | .lshr _ d x a => vAlD 2 d && x.vAl 2 && a.ok && (a.op.isS || a.op.isInt || a.op.isUSpecial)
  | .lmulw d x a _ =>
    vAlD 2 d && x.vAl 2 && a.ok && ((a.op.isS && a.op.aligned 2) || a.op.isInt || a.op.isUSpecial)
  | .lcmp cc _ d x y => cc.intOk && d.ok && (d.isS || d.isP) && x.vAl 2 && longOk y
  | .lcarry _ d => sOk d
  | .trap _ | .brk _ => true
  | .launch _ d q a =>
    sOk d && q.ok && (q.op.isS || (match q.op with | .nat _ => true | _ => false) || q.op.isUSpecial) && gBase a
  | .perf w clr d num =>
    perfListed num && !(clr && 0x20 ≤ num.toNat) && (if w then sAl 2 d else sOk d)
  | .icinv _ _ a l => gBase a && l.ok && (l.op.isS || l.op.isConst)
  | .clk d => sAl 2 d
  | .wfi | .iret => true
  | .mmld _ b d m => (if b then sAl 2 d else sOk d) && sBase m.base && m.offs.ok && (m.offs.op.isS || m.offs.op.isConst)
  | .mmst _ b x m =>
    x.ok && x.op.isS && (!b || x.op.aligned 2) && sBase m.base && m.offs.ok && (m.offs.op.isS || m.offs.op.isConst)
  | .turn c sl | .hopBegin c sl | .hopEnd c sl | .hopRetry c sl | .leashTrigger c sl _ | .leashStep c sl => sliceOk c sl
  | .loadLand _ g _ | .mmaCapture _ g _ | .mmaComplete _ g _ | .mxaccBlock _ g _ => g < 96
  | .frdoorRetry _ | .frdoorKill _ => true
  | .operandLogReplay _ g | .packKill _ g => g < 96
  | .parkWake _ g l | .reformFiling _ g l => g < 96 && l < 64
  | .binReleaseFull _ b | .binAgeExpire _ b => b < 64
  | .commandSignal _ _ | .segmentReplay _ _ | .collTimeout _ _ | .retrieverSegment _ _ => true
  | .collComplete _ _ ps => ps.all (fun p => p.rank < 256)
  | .phaseCommit _ | .phaseRestart _ | .teamExit _ => true
  | .push q _ | .snapshot q | .startConditionPoll q => q < 64
  | .dispatch => true
  | .admission _ | .rangeTranslation _ | .teamStart _ | .prioPreempt _ | .preemptSave _ => true
  | .bankDrain c b => c < 144 && b < 128
  | .preempt _ _ _ | .release _ _ | .kill _ => true
  | .regdataWrite c sl _ | .cmdResume c sl | .cmdKillTeam c sl | .cmdKillGrid c sl => slotOk c sl
  | .registerWrite _ a _ _ => a < 2 ^ 32
  | .shepherdReading _ => true
  | .migrationEnd _ => true
  | .budgetPeriod cs accs => cs.all (fun c => c.col < 144 && c.layersNJ.length = 4) && accs.length ≤ 6
  | .droopStretch c | .stretchEnd c | .scanVisit c | .scanPreemptWithdraw c | .scanComplete c _
  | .scanMoveTimeout c _ => coreOk c
  | .eccEvent x _ r => x.ok && r.all (fun y => match x with
      | .line pa => y.holds pa
      | _ => y.ok)
  | .scrub pa _ r => pa < 0xB2_D05E_0000 && r.all (fun y => y.holds pa)
  | .flowChange _ _ | .flowLossBudgetCut | .coolantShutdown | .coolantRecovery => true
  | .coldReset | .computeRelease | .warmReset | .pcieHotReset | .warmrst _ | .lockupReset => true
  | .interruptEntry | .ktimerMatch | .logcommit => true
  | .sctlall c _ => coreOk c
  | .enloRead i => i < 6
  | .upcmdVerify | .upcmdAttest | .updateDone => true

end Instr

end Sys2Proof
end

