-- ==== Sys2Proof/Machine/Memory.lean ====
section
/-! DEFINITION. Plain loads, stores, prefetch and the constant window (09: R197 to R217), and the course of a global access
of any instruction: order, lanes, faults, its operation (R59, R214, R224). Accesses are performed when their instruction
issues; register results land later, at LOAD_LAND (log 7). -/
namespace Sys2Proof.Machine

/-! ## Order within the group (R224, R225, R238) -/

/-- The operation still has accesses to perform: lanes to replay, MX blocks to accumulate. -/
def Op.unperformed (o : Op) : Bool :=
  o.faulted ≠ 0 ||
  (match o.act with
   | .mx b => !b.isEmpty
   | _ => false)

/-- Some operation of the group with a lower number than `id` is unperformed. -/
def Group.earlierOpen (g : Group) (id : Nat) : Bool := g.ops.any (fun o => o.id < id && o.unperformed)

/-- An acquire not yet performed: every later access waits. -/
def Group.acquireOpen (g : Group) : Bool :=
  g.ops.any (fun o => (o.acq && o.faulted ≠ 0) ||
    (match o.act with
     | .fence true _ => g.earlierOpen o.id
     | _ => false))

/-- A release fence not yet performed: later stores wait. -/
def Group.releaseOpen (g : Group) : Bool :=
  g.ops.any (fun o =>
    match o.act with
    | .fence _ true => g.earlierOpen o.id
    | _ => false)

/-- A faulted access of lane `l` still to be performed overlaps [a, a + n): R225 keeps the lane's order. -/
def Group.spotOver (g : Group) (l a n : Nat) : Bool :=
  g.ops.any (fun o => o.spots.any (fun x => x.1 = l && x.2.1 < a + n && a < x.2.1 + x.2.2))

/-- An access waits for outstanding fences and acquires; a release also for every earlier access. -/
def Group.mustWait (g : Group) (store rel : Bool) : Bool :=
  g.acquireOpen || (store && g.releaseOpen) || (rel && g.ops.any Op.unperformed)

/-- An MX block of the group not yet accumulated overlaps [a, a + n): program order holds the access (R225). -/
def Group.mxOver (g : Group) (a n : Nat) : Bool :=
  g.ops.any (fun o =>
    match o.act with
    | .mx bs => bs.any (fun b => b.va / 64 * 64 < a + n && a < b.va / 64 * 64 + 64)
    | _ => false)

/-! ## Addresses and operand values (R197) -/

/-- VA of lane `l` in space G. -/
def OpVals.va (v : OpVals) (l : Nat) : Nat := (v.base + (AMap.getD v.offs l 0).signExtend 64).toNat

/-- `n` registers from a source, or the words of a constant. -/
def Ctx.span (c : Ctx) (s : State) (o : Opnd) (n l : Nat) : List Word :=
  match o with
  | .v r => (upTo n).map (fun i => c.g.vVal l (r.toNat + i))
  | .s r => (upTo n).map (fun i => c.g.sVal (r.toNat + i))
  | _ => [(c.rd64 s o l).extractLsb' 0 32, (c.rd64 s o l).extractLsb' 32 32].take n

/-- Base and offsets as the operand log keeps them, and `n` data words. -/
def Ctx.vals (c : Ctx) (s : State) (m : MAddr) (ls : List Nat) (x : Option (Src × Nat)) : OpVals :=
  { base := c.rdU64 s m.base.op, offs := ls.map (fun l => (l, c.rd s m.offs.op l)),
    data := match x with
      | some (d, n) => ls.map (fun l => (l, c.span s d.op n l))
      | none => [] }

/-- The offset of lane `l` in space S, R or C, exact. -/
def Ctx.offset (c : Ctx) (s : State) (m : MAddr) (l : Nat) : Int := (c.rdU s m.base.op).toNat + (c.rd s m.offs.op l).toInt

/-- Source fields of a memory operand: BASE of `n` registers, OFFS. -/
def MAddr.srcs (m : MAddr) (n : Nat) : List (Src × Nat) := [(m.base, n), (m.offs, 1)]

/-- The policy word (R207), which the Kennel core ignores (R384). -/
def Ctx.policy (c : Ctx) (pol : BitVec 9) : Word := if pol = 0x1FF#9 then 0 else c.g.sVal pol.toNat

def polUse (c : Ctx) (pol : BitVec 9) : List Use :=
  if pol = 0x1FF#9 || c.g.kennel then [] else [⟨.s pol, 1, c.active, false⟩]

/-- Bytes of an access size (R213). -/
def MSize.bytes : MSize → Nat
  | .n8 | .i8 => 1
  | .n16 | .i16 => 2
  | .b32 => 4
  | .b64 => 8
  | .b128 => 16

/-- The register words of loaded bytes (R213). -/
def MSize.load (sz : MSize) (b : List Byte) : List Word :=
  let w (i : Nat) : Word := BitVec.ofNat 32 (leNat ((b.drop (4 * i)).take 4))
  match sz with
  | .i8 => [(BitVec.ofNat 8 (leNat b)).signExtend 32]
  | .i16 => [(BitVec.ofNat 16 (leNat b)).signExtend 32]
  | .b64 => [w 0, w 1]
  | .b128 => [w 0, w 1, w 2, w 3]
  | _ => [w 0]

/-- The low `n` bytes of register words. -/
def wordBytes (n : Nat) (ws : List Word) : List Byte := (ws.flatMap (fun w => leBytes 4 w.toNat)).take n

/-- Results for the registers from `d` on: of lane `l`, or uniform. -/
def landWords (lane : Option Nat) (d : Nat) (ws : List Word) : List Land :=
  (upTo ws.length).map (fun i => ⟨lane, d + i, ws.getD i 0, false⟩)

/-! ## A global access -/

/-- What one lane's access came to. -/
structure LaneOut where
  lands : List Land
  faults : List (Nat × PageFault)
  uce : Bool
  blocked : Bool               -- the condition it tests fails (R242)
  cov : List (Nat × Nat)
  mx : List MxBlk := []        -- blocks it will accumulate (R261)
  s : State
  deriving Repr

/-- A global access by an instruction: whether it acts as one lane, the lanes one access stands for (R258), its access
code (Table 9-9), whether it stores, its length and address, and the access of lane `l` by team `t`. -/
structure GAcc where
  one : Bool
  blk : Nat := 1
  code : Nat
  store : Bool
  len : Nat
  addr : OpVals → Nat → Nat
  run : Nat → OpVals → Nat → List (Nat × Nat) → State → LaneOut

structure RunOut where
  lands : List Land
  faults : List (Nat × Nat × PageFault)   -- lane, address, kind
  uce : Bool
  blocked : Bool
  cov : List (Nat × Nat)
  mx : List MxBlk
  s : State
  deriving Repr

/-- Before any lane has run: a store begins with the bytes that keep what the other port stored (R199). -/
def Ctx.noLanes (c : Ctx) (s : State) : RunOut :=
  ⟨[], [], false, false, (c.now s).shade c.ag.isB (c.g.lastIssue.getD 0) [], [], s⟩

/-- The lanes in ascending order (R229). -/
def GAcc.runLanes (a : GAcc) (t : Nat) (v : OpVals) : List Nat → RunOut → RunOut
  | [], r => r
  | l :: ls, r =>
    let o := a.run t v l r.cov r.s
    a.runLanes t v ls
      { lands := r.lands ++ o.lands, faults := r.faults ++ o.faults.map (fun f => (l, f.1, f.2)), uce := r.uce || o.uce,
        blocked := r.blocked || o.blocked, cov := o.cov, mx := r.mx ++ o.mx, s := o.s }

/-- The lanes an access at lane `l` stands for: its block, or all of `m` for an access of one lane. -/
def GAcc.laneMask (a : GAcc) (m : Mask) (l : Nat) : Mask := if a.one then m else Mask.below a.blk <<< l

/-- One fault record for each 4 KiB page (R218), in the order of their first lanes: address, lanes, kind. -/
def GAcc.faultPages (a : GAcc) (m : Mask) : Nat → List (Nat × Nat × PageFault) → List (Nat × Mask × PageFault)
  | 0, _ => []
  | _, [] => []
  | n + 1, (l, va, k) :: r =>
    let same (x : Nat × Nat × PageFault) : Bool := x.2.1 / 4096 = va / 4096
    (va, (r.filter same).foldl (fun z x => z ||| a.laneMask m x.1) (a.laneMask m l), k) ::
      a.faultPages m n (r.filter (fun x => !same x))

/-- The lowest operand-log entry not in use. -/
def Group.freeEntry (g : Group) : Nat :=
  ((upTo 8).find? (fun e => g.ops.all (fun o => o.entry ≠ some e))).getD 0

/-- Lanes a set of faults records. -/
def GAcc.faultMask (a : GAcc) (m : Mask) (fs : List (Nat × Nat × PageFault)) : Mask :=
  fs.foldl (fun z x => z ||| a.laneMask m x.1) 0

/-- Write fault records of operation `id`, which holds `entry`, and count them (R218, Table 15-10). -/
def State.pageFaults (s : State) (code t gi id entry : Nat) (recs : List (Nat × Mask × PageFault)) : State :=
  match s.team? t with
  | none => s
  | some tm =>
    recs.foldl (fun s p =>
      (s.faultRec p.1 p.2.1 tm.grid tm.team gi entry p.2.2 code (.entry t gi id)).modTeam t
        (fun x => x.count 5 1)) s

/-- The operation with the faults of its access: what its lanes found, and the fault records that are written once the
fault is found (R59, R214, R218). -/
def GAcc.faulted (a : GAcc) (m : Mask) (v : OpVals) (fs : List (Nat × Nat × PageFault)) (o : Op) : Op :=
  { o with faulted := a.faultMask m fs, recs := a.faultPages m fs.length fs, code := a.code,
           spots := (fs.map (fun f => (f.1, a.addr v f.1, a.len))).eraseDups }

/-- A FAULT IS FOUND (R59): it takes the lowest free operand-log entry and its records are written; a ninth stays as it is,
and the group issues nothing until an entry is free. -/
def State.findFault (s : State) (t gi id : Nat) : State :=
  match s.group? t gi, (s.group? t gi).bind (fun g => g.ops.find? (fun o => o.id = id)) with
  | some g, some o =>
    if o.recs.isEmpty then s
    else if 8 ≤ g.olog then s.modGroup t gi (fun g => g.setOp { o with landed := true })
    else
      (s.modGroup t gi (fun g => g.setOp { o with
        entry := some g.freeEntry, recs := [], landed := (match o.act with | .land _ => true | _ => false) })).pageFaults
        o.code t gi id g.freeEntry o.recs
  | _, _ => s

/-- The lanes that access memory: ACTIVE, or the first lane of each block, or lane 0 for all. -/
def GAcc.lanes (a : GAcc) (m : Mask) (w : Nat) : List Nat :=
  if a.one then [0] else (Mask.lanes m w).filter (fun l => l % a.blk = 0)

/-- The access may not be performed yet: order (R224, R225), or an outstanding operand-log entry (R59). -/
def GAcc.waits (a : GAcc) (s : State) (t : Nat) (g : Group) (v : OpVals) (ls : List Nat) (rel : Bool) : Bool :=
  g.mustWait a.store rel ||
  ls.any (fun l => g.mxOver (a.addr v l) a.len) ||
  (0 < g.olog &&
    (match s.team? t with
     | some tm => ls.any (fun l => tm.undeclared (a.addr v l) a.len)
     | none => false))

/-- A lane would reach an address before an earlier access of it that has faulted (R59, R225). -/
def GAcc.overtakes (a : GAcc) (g : Group) (v : OpVals) (ls : List Nat) (r : RunOut) : Bool :=
  ls.any (fun l => g.spotOver l (a.addr v l) a.len && !r.faults.any (fun f => f.1 = l))

/-- The names an operation will write are bound from its issue on (R69). -/
def Group.bindDst (g : Group) (o : Op) : Group := o.dstS.foldl Group.touchS (o.dstV.foldl Group.touchV g)

/-- Nothing is left of the operation: no results to land, no accesses to perform, no flag to clear. -/
def Op.empty (o : Op) : Bool :=
  o.flag.isNone && o.faulted = 0 &&
  (match o.act with
   | .land ws => ws.isEmpty
   | .idle => true
   | _ => false)

/-- Keep an operation that has work left. -/
def Group.addWork (g : Group) (o : Op) : Group := if o.empty then g else (g.bindDst o).addOp o

/-- A GLOBAL ACCESS AT ISSUE: `xs` are its source fields, `dV` and `dS` the names its results will land in. -/
def Ctx.globalOp (c : Ctx) (s : State) (f : FlagUse) (a : GAcc) (v : OpVals) (xs : List (Src × Nat)) (dV dS : List Nat)
    (acq rel : Bool) : Res :=
  match c.ag with
  | .kennel => .hold
  | .port t _ _ =>
    let ls := a.lanes c.active c.g.width
    if a.waits s t (c.now s) v ls rel then .hold
    else
      let r := a.runLanes t v ls (c.noLanes s)
      if r.uce then .uce
      else if a.overtakes (c.now s) v ls r then .hold
      else
        let o := a.faulted c.active v r.faults { c.op f (if r.mx.isEmpty then .land r.lands else .mx r.mx) with
          dstV := dV, dstS := dS, acq := acq, vals := v, covered := if r.faults.isEmpty then [] else r.cov }
        .done (c.put r.s ((((c.now r.s).endUses c.active xs).addWork o).notesLater c.ag.isB o.turn (coverBytes r.cov)))

/-- A load of size `sz` to the registers from `d` on. -/
def loadAcc (one : Bool) (sz : MSize) (d : Nat) (pol : Word) : GAcc :=
  { one := one, code := 0, store := false, len := MSize.bytes sz, addr := OpVals.va,
    run := fun t v l cov s =>
      let r := s.gload t pol (v.va l) (MSize.bytes sz)
      { lands := if r.faults.isEmpty then landWords (if one then none else some l) d (MSize.load sz r.bytes) else [],
        faults := r.faults, uce := r.uce, blocked := false, cov := cov, s := r.s } }

/-- A store of size `sz`. -/
def storeAcc (one : Bool) (sz : MSize) : GAcc :=
  { one := one, code := 1, store := true, len := MSize.bytes sz, addr := OpVals.va,
    run := fun t v l cov s =>
      let r := s.gstore t l (v.va l) (wordBytes (MSize.bytes sz) (AMap.getD v.data l [])) cov
      { lands := [], faults := r.1.faults, uce := false, blocked := false, cov := r.2, s := r.1.s } }

/-- The registers an access of `n` words uses. -/
def namesOf (d n : Nat) : List Nat := (upTo n).map (fun i => d + i)

/-- LD (R213). -/
def execLd (fs : Bool) (sz : MSize) (d : BitVec 8) (m : MAddr) (pol : BitVec 9) :
    State → Host.Outcome State Fault Refusal :=
  issue
    { flag := .must fs, uses := fun c _ => wrV c d (MSize.regs sz) :: readsOf c (MAddr.srcs m 2) ++ polUse c pol }
    (fun c s =>
      c.globalOp s (.must fs) (loadAcc false sz d.toNat (c.policy pol)) (c.vals s m (Mask.lanes c.active c.g.width) none)
        (MAddr.srcs m 2) (namesOf d.toNat (MSize.regs sz)) [] false false)

/-- ST (R213). -/
def execSt (gd : Guard) (fs : Bool) (sz : MSize) (x : Src) (m : MAddr) (pol : BitVec 9) :
    State → Host.Outcome State Fault Refusal :=
  let xs := (x, MSize.regs sz) :: MAddr.srcs m 2
  issue { flag := .may fs, guard := .lanes gd, uses := fun c _ => readsOf c xs ++ polUse c pol } (fun c s =>
    c.globalOp s (.may fs) (storeAcc false sz)
      (c.vals s m (Mask.lanes c.active c.g.width) (some (x, MSize.regs sz))) xs [] [] false false)

/-! ## LDU and STU, and the Kennel's own physical space (R384) -/

/-- Where the Kennel's address points: SRAM, module memory, or nowhere. -/
inductive KPlace where
  | sram (a : Nat) | mem (pa : Nat) | none
  deriving DecidableEq, Repr

/-- An access beyond the end of memory is like any other address (log 29). -/
def kPlace (a n : Nat) : KPlace :=
  if a % n ≠ 0 then .none
  else if a + n ≤ 0x80000 then .sram a
  else if a / 2 ^ 48 = 1 && a % 2 ^ 48 + n ≤ Config.physEnd then .mem (a % 2 ^ 48)
  else .none

/-- A poisoned word of the SRAM lies in [a, a + n). -/
def State.sramBadIn (s : State) (a n : Nat) : Bool := s.k.sramBad.any (fun w => a < w + 4 && w < a + n)

/-- The Kennel's load: the bytes, or BUSERR with the address and whether for poison. -/
def State.kLoad (s : State) (a n : Nat) : Except Bool (List Byte) :=
  match kPlace a n with
  | .sram x => if s.sramBadIn x n then .error true else .ok (Memory.readN s.k.sram x n)
  | .mem pa => if s.poisoned pa n then .error true else .ok (Memory.readN s.mem pa n)
  | .none => .error false

/-- The Kennel's store: a word of the SRAM written whole loses its error. -/
def State.kStore (s : State) (a : Nat) (b : List Byte) : Option State :=
  match kPlace a b.length with
  | .sram x =>
    some { s with k := { s.k with sram := Memory.writeN s.k.sram x b,
                                  sramBad := s.k.sramBad.filter (fun w => !(x ≤ w && w + 4 ≤ x + b.length)) } }
  | .mem pa => some (s.memWrite pa b)
  | .none => none

/-- The access goes to memory. -/
def kInMem (a n : Nat) : Bool :=
  match kPlace a n with
  | .mem _ => true
  | _ => false

/-- The Kennel's traffic to memory has spent its budget: the access waits (R323). -/
def State.kHeld (s : State) (a n : Nat) : Bool := kInMem a n && !s.left 8 0

/-- Charge an access of the Kennel to memory. -/
def State.kCharge (s : State) (a n : Nat) : State := if kInMem a n then s.charge 8 0 n else s

/-- LDU (R213): once, for the lane set; the Kennel's completes at its issue (log 27). -/
def execLdu (fs : Bool) (sz : MSize) (d : BitVec 9) (m : MAddr) (pol : BitVec 9) :
    State → Host.Outcome State Fault Refusal :=
  issue
    { core := .both, flag := .must fs,
      uses := fun c _ => wrS c d (MSize.regs sz) :: readsOf c (MAddr.srcs m 2) ++ polUse c pol }
    (fun c s =>
      let v := c.vals s m [0] none
      if c.g.kennel then
        if s.kHeld (v.va 0) (MSize.bytes sz) then .hold
        else
          match s.kLoad (v.va 0) (MSize.bytes sz) with
          | .error u => .busErr (BitVec.ofNat 64 (v.va 0)) u
          | .ok b => .done (c.mod (s.kCharge (v.va 0) (MSize.bytes sz)) (landAll (landWords none d.toNat (MSize.load sz b)) 0))
      else
        c.globalOp s (.must fs) (loadAcc true sz d.toNat (c.policy pol)) v (MAddr.srcs m 2) []
          (namesOf d.toNat (MSize.regs sz)) false false)

/-- STU (R213, R119). -/
def execStu (gd : Guard) (fs : Bool) (sz : MSize) (x : Src) (m : MAddr) (pol : BitVec 9) :
    State → Host.Outcome State Fault Refusal :=
  let xs := (x, MSize.regs sz) :: MAddr.srcs m 2
  issue
    { core := .both, flag := .may fs, guard := .whole gd, uses := fun c _ => readsOf c xs ++ polUse c pol }
    (fun c s =>
      let v := c.vals s m [0] (some (x, MSize.regs sz))
      if c.g.kennel then
        if s.kHeld (v.va 0) (MSize.bytes sz) then .hold
        else
          match s.kStore (v.va 0) (wordBytes (MSize.bytes sz) (AMap.getD v.data 0 [])) with
          | none => .busErr (BitVec.ofNat 64 (v.va 0)) false
          | some s' => .done (s'.kCharge (v.va 0) (MSize.bytes sz))
      else
        c.globalOp s (.may fs) (storeAcc true sz) v xs [] [] false false)

/-! ## Scratchpads (R202, R203, R213) -/

/-- A scratchpad access finished: its sources end, the violating lanes are switched off, and the lanes that a binding's
end lets go leave the clause. A group whose last lanes are switched off dissolves (R42). -/
def Ctx.spadDone (c : Ctx) (s : State) (f : FlagUse) (xs : List (Src × Nat)) (viol : Mask) (lands : List Land)
    (dV dS : List Nat) : Res :=
  let o := { c.op f (.land lands) with dstV := dV, dstS := dS, lanes := c.active &&& ~~~viol }
  let g1 := ((c.now s).endUses c.active xs).addWork o
  let g2 := g1.switchOff viol c.cl.succ
  if viol = 0 then .done (c.put s g2) else .leave (if g1.limbs ≠ 0 && g2.limbs = 0 then g1.idle else 0) (c.put s g2)

/-- Lanes of ACTIVE whose access of `n` bytes violates the scratchpad of `tm?` (R203). -/
def Ctx.violators (c : Ctx) (s : State) (tm? : Option Team) (at_ : Nat → Int) (n : Nat) : Mask :=
  maskOf c.active c.g.width (fun l =>
    match tm? with
    | some tm => !s.spadOk tm (at_ l) n
    | none => true)

/-- A scratchpad load from team `own?`. -/
def Ctx.spadLoad (c : Ctx) (s : State) (fs : Bool) (sz : MSize) (d : Nat) (m : MAddr) (own? : Option Nat) : Res :=
  let n := MSize.bytes sz
  let tm? := own?.bind s.team?
  let viol := c.violators s tm? (c.offset s m) n
  let good := Mask.lanes (c.active &&& ~~~viol) c.g.width
  if (c.now s).mustWait false false then .hold
  else
    match tm? with
    | none => c.spadDone s (.must fs) (MAddr.srcs m 1) viol [] [] []
    | some tm =>
      if good.any (fun l => tm.spadBad (c.offset s m l).toNat n) then .uce
      else
        let lands := good.flatMap (fun l =>
          landWords (some l) d (MSize.load sz (Memory.readN tm.scratch (c.offset s m l).toNat n)))
        c.spadDone s (.must fs) (MAddr.srcs m 1) viol lands (if good.isEmpty then [] else namesOf d (MSize.regs sz)) []

/-- Store to a team's scratchpad: its own blocks are copied first, a pack member's are not (R234). -/
def State.spadPut (s : State) (self own o : Nat) (b : List Byte) : State :=
  if self = own then s.spadStore own o b else s.modTeam own (fun x => x.spadWrite o b)

/-- One lane's store: bytes that keep what port B stored in this turn stay (R199). -/
def Ctx.spadLane (c : Ctx) (s : State) (self own o : Nat) (b : List Byte) : State :=
  let under (i : Nat) : Bool := (c.now s).under c.ag.isB (c.g.lastIssue.getD 0) (.scratch own (o + i))
  if (upTo b.length).any under then
    (upTo b.length).foldl (fun s' i => if under i then s' else s'.spadPut self own (o + i) [b.getD i 0]) s
  else s.spadPut self own o b

/-- What the lanes `good` of a scratchpad store leave, ascending (R199): granules they cover together lose their poison
(R222). -/
def Ctx.spadLanes (c : Ctx) (s : State) (self own n : Nat) (at_ : Nat → Nat) (b : Nat → List Byte) (good : List Nat) : State :=
  let s1 := (good.foldl (fun s' l => c.spadLane s' self own (at_ l) (b l)) s).modTeam own
    (·.spadHeal (good.map (fun l => (at_ l, n))))
  c.mod s1 (fun g => g.notesLater c.ag.isB (c.g.lastIssue.getD 0)
    (good.flatMap (fun l => (upTo n).map (fun i => .scratch own (at_ l + i)))))

/-- A scratchpad store to team `own?`, lanes ascending (R199). -/
def Ctx.spadStoreOp (c : Ctx) (s : State) (fs : Bool) (sz : MSize) (x : Src) (m : MAddr) (own? : Option Nat) : Res :=
  let n := MSize.bytes sz
  let xs := (x, MSize.regs sz) :: MAddr.srcs m 1
  let viol := c.violators s (own?.bind s.team?) (c.offset s m) n
  let good := Mask.lanes (c.active &&& ~~~viol) c.g.width
  if (c.now s).mustWait true false then .hold
  else
    match c.ag.team, own? with
    | some t, some u =>
      c.spadDone (c.spadLanes s t u n (fun l => (c.offset s m l).toNat)
        (fun l => wordBytes n (c.span s x.op (MSize.regs sz) l)) good) (.may fs) xs viol [] [] []
    | _, _ => c.spadDone s (.may fs) xs viol [] [] []

/-- A pack member is being moved: accesses to it wait (R28, R53). -/
def State.moving (s : State) (t? : Option Nat) : Bool := (t?.bind s.team?).any s.migrating

/-- LDS (R213). -/
def execLds (fs : Bool) (sz : MSize) (d : BitVec 8) (m : MAddr) : State → Host.Outcome State Fault Refusal :=
  issue { flag := .must fs, uses := fun c _ => wrV c d (MSize.regs sz) :: readsOf c (MAddr.srcs m 1) } (fun c s =>
    c.spadLoad s fs sz d.toNat m c.ag.team)

/-- STS (R213). -/
def execSts (gd : Guard) (fs : Bool) (sz : MSize) (x : Src) (m : MAddr) : State → Host.Outcome State Fault Refusal :=
  issue { flag := .may fs, guard := .lanes gd, uses := fun c _ => readsOf c ((x, MSize.regs sz) :: MAddr.srcs m 1) } (fun c s =>
    c.spadStoreOp s fs sz x m c.ag.team)

/-- The pack member an R-space access names. -/
def Ctx.member (c : Ctx) (s : State) (pk : BitVec 2) : Option Nat := c.ag.team.bind (fun t => s.member t pk.toNat)

/-- LDR (R213). -/
def execLdr (fs : Bool) (sz : MSize) (pk : BitVec 2) (d : BitVec 8) (m : MAddr) :
    State → Host.Outcome State Fault Refusal :=
  issue { flag := .must fs, uses := fun c _ => wrV c d (MSize.regs sz) :: readsOf c (MAddr.srcs m 1) } (fun c s =>
    if s.moving (c.member s pk) then .hold else c.spadLoad s fs sz d.toNat m (c.member s pk))

/-- STR (R213). -/
def execStr (gd : Guard) (fs : Bool) (sz : MSize) (pk : BitVec 2) (x : Src) (m : MAddr) :
    State → Host.Outcome State Fault Refusal :=
  issue { flag := .may fs, guard := .lanes gd, uses := fun c _ => readsOf c ((x, MSize.regs sz) :: MAddr.srcs m 1) } (fun c s =>
    if s.moving (c.member s pk) then .hold else c.spadStoreOp s fs sz x m (c.member s pk))

/-! ## The constant window (R215) -/

/-- Split [a, a + n) at a line boundary; n is at most 16. -/
def linePieces (a n : Nat) : List (Nat × Nat) :=
  let k := 128 - a % 128
  if n = 0 then [] else if n ≤ k then [(a, n)] else [(a, k), (a + k, n - k)]

/-- Bytes of one line of the window at physical address `pa`, through the L1's C lines (Table 9-3). -/
def State.cLine (s : State) (t : Nat) (tm : Team) (pa n : Nat) : Option (List Byte) × State :=
  match (s.col (colOf tm.core)).l1.find? (fun x => x.line = pa / 128 && x.cwin && x.grid = tm.grid) with
  | some x => (some ((x.data.drop (pa % 128)).take n), s)
  | none =>
    if s.poisoned pa n then (none, s)
    else
      (some (Memory.readN s.mem pa n),
       s.modCol (colOf tm.core) (fun c =>
         c.l1Put ⟨pa / 128, none, true, t, tm.grid, Memory.readN s.mem (pa / 128 * 128) 128⟩ false))

/-- What one read of the window came to; `none` when it reads a poisoned line. -/
def State.cRead (s : State) (t : Nat) (tm : Team) (g : Grid) (o : Int) (n : Nat) : Option (List Byte) × State :=
  let lo := (max o 0).toNat
  let hi := (min (o + n) g.lr.cwlen).toNat
  let r := (linePieces (g.lr.cwaddr.toNat + lo) (hi - lo)).foldl (fun (r : Option (List Byte) × State) p =>
    match r.1, pageOf g.pins p.1 with
    | some b, some pg =>
      (match r.2.cLine t tm (pg.at p.1) p.2 with
       | (some x, s1) => (some (b ++ x), s1)
       | (none, s1) => (none, s1))
    | some b, none => (some (b ++ List.replicate p.2 0), r.2)
    | none, _ => r) (some [], s)
  match r.1 with
  | none => r
  | some b =>
    let before := min n ((-o).toNat)
    if hi ≤ lo then (some (List.replicate n 0), r.2)
    else (some ((List.replicate before 0 ++ b ++ List.replicate n 0).take n), r.2)

/-- Read the window for each lane: the results, or none for poison. -/
def State.cLanes (t : Nat) (tm : Team) (g : Grid) (n : Nat) (at_ : Nat → Int) (out : Nat → List Byte → List Land) :
    List Nat → List Land → State → Option (List Land) × State
  | [], acc, s => (some acc, s)
  | l :: r, acc, s =>
    match s.cRead t tm g (at_ l) n with
    | (none, s1) => (none, s1)
    | (some b, s1) => State.cLanes t tm g n at_ out r (acc ++ out l b) s1

/-- LDC (R213, R215). -/
def execLdc (fs : Bool) (sz : MSize) (d : Opnd) (m : MAddr) : State → Host.Outcome State Fault Refusal :=
  issue
    { flag := .must fs, uses := fun c _ => ⟨d, MSize.regs sz, c.active, true⟩ :: readsOf c (MAddr.srcs m 1) }
    (fun c s =>
      if (c.now s).mustWait false false then .hold
      else
        match c.ag.team, (c.ag.team.bind s.team?), ((c.ag.team.bind s.team?).bind (fun t => s.grid? t.grid)) with
        | some t, some tm, some g =>
          let dn := match d with
            | .v r => r.toNat
            | .s r => r.toNat
            | _ => 0
          let ls := if Opnd.isV d then Mask.lanes c.active c.g.width else [0]
          let out (l : Nat) (b : List Byte) : List Land :=
            landWords (if Opnd.isV d then some l else none) dn (MSize.load sz b)
          (match State.cLanes t tm g (MSize.bytes sz) (c.offset s m) out ls [] s with
           | (none, _) => .uce
           | (some lands, s1) =>
             c.spadDone s1 (.must fs) (MAddr.srcs m 1) 0 lands (if Opnd.isV d then namesOf dn (MSize.regs sz) else [])
               (if Opnd.isV d then [] else namesOf dn (MSize.regs sz)))
        | _, _, _ => .hold)

/-! ## PREF (R216) -/

/-- Fetch the line at `va` toward the column: signatures (R232) and, at level 1, the L1. A lane whose translation fails
is dropped; a poisoned line does nothing, nor does a line the L1 already holds. -/
def State.prefetch (s : State) (t : Nat) (l1 : Bool) (pol : Word) (va : Nat) : State :=
  match s.team? t with
  | none => s
  | some tm =>
    let p : MPiece := ⟨va, 1, tm.rangeAt va⟩
    match s.place? tm p false with
    | (.error _, s1) => s1
    | (.ok pa, s1) =>
      let line := pa / 128
      let cls := p.range.map Extent.cls
      if s1.poisoned (128 * line) 128 || (l1 && ((s1.col (colOf tm.core)).l1Find line cls t).isSome) then s1
      else
        let s2 := (tm.pieces (va / 128 * 128) 128).foldl
          (fun s q => s.noteSig t q (128 * line + q.va % 128) false) s1
        if l1 && cls ≠ some .shr && cls ≠ some .acc && l1Alloc pol ≠ 2 then
          s2.modCol (colOf tm.core) (fun c =>
            c.l1Put ⟨line, cls, false, t, tm.grid, Memory.readN s2.mem (128 * line) 128⟩ (l1Alloc pol = 1))
        else s2

/-- PREF (R216); it consumes nothing, also where an address register holds an error (R222). -/
def execPref (fs l1 : Bool) (m : MAddr) (pol : BitVec 9) : State → Host.Outcome State Fault Refusal :=
  issue { flag := .may fs, uses := fun c _ => readsOf c (MAddr.srcs m 2) ++ polUse c pol, consumes := false } (fun c s =>
    match c.ag with
    | .kennel => .hold
    | .port t _ _ =>
      let ls := Mask.lanes c.active c.g.width
      let v := c.vals s m ls none
      if (c.now s).mustWait false false || (0 < (c.now s).olog &&
          (match s.team? t with
           | some tm => ls.any (fun l => (tm.rangeAt (v.va l)).isNone)
           | none => false)) then .hold
      else
        let s1 := ls.foldl (fun s l => s.prefetch t l1 (c.policy pol) (v.va l)) s
        c.spadDone s1 (.may fs) (MAddr.srcs m 2) 0 [] [] [])

end Sys2Proof.Machine
end

