-- ==== Sys2Proof/Machine/Flags.lean ====
section
/-! DEFINITION. Conditions and status: integer compares (Table 5-5), sticky float flags (R181), the long-integer carry
(R278), and the status registers of compute groups (Table 6-2) and of the Kennel (Table 17-1). -/
namespace Sys2Proof.Machine

/-- Integer conditions (Table 5-5); ORD and UNO are float only and no instruction word names them here (R111). -/
def Cond.holdsI : Cond → Int → Int → Bool
  | .eq, x, y => x == y
  | .ne, x, y => x != y
  | .lt, x, y => decide (x < y)
  | .le, x, y => decide (x ≤ y)
  | .gt, x, y => decide (y < x)
  | .ge, x, y => decide (y ≤ x)
  | .ord, _, _ => true
  | .uno, _, _ => false

/-- The flags a float operation raises, bits as in Table 8-3. -/
structure FFlags where
  inv : Bool := false
  ovf : Bool := false
  unf : Bool := false
  inx : Bool := false
  deriving DecidableEq, Repr

def FFlags.or (a b : FFlags) : FFlags := ⟨a.inv || b.inv, a.ovf || b.ovf, a.unf || b.unf, a.inx || b.inx⟩

def FFlags.word (a : FFlags) : Word :=
  boolW a.inv ||| (boolW a.ovf <<< 1) ||| (boolW a.unf <<< 2) ||| (boolW a.inx <<< 3)

/-- `Sticky`: the flags join the result on its way, the last that took off, and reach FPFLAGS when it lands (R181). -/
def Group.sticky (g : Group) (f : FFlags) : Group :=
  { g with flying := modifyAt g.flying (g.flying.length - 1) (fun x => { x with flags := x.flags ||| f.word }) }

/-- Long-integer results: C replaced, OV sticky (R123, R278). -/
def Group.carry (g : Group) (c ov : Bool) : Group :=
  { g with lcarry := (g.lcarry &&& 2#32) ||| boolW c ||| (boolW ov <<< 1) }

/-- GSTAT bits software clears by writing 1 (Table 6-3). -/
def gstatW1c : Word := 0x207

/-! ## Status registers -/

/-- A number Table 6-2 or Table 17-1 lists. -/
def statKnown (kennel : Bool) (n : Nat) : Bool := if kennel then n ≤ 7 || n = 12 || n = 13 else n ≤ 14

/-- A 64-bit register. -/
def statWide (kennel : Bool) (n : Nat) : Bool :=
  if kennel then n = 2 || n = 3 || n = 7 || n = 12 else n = 8 || n = 9 || n = 10 || n = 12

/-- A register S.WSR may name: Table 6-2 marks them; on the Kennel every listed one, writes to RO fields being ignored
(R5, log 23). -/
def statWritable (kennel : Bool) (n : Nat) : Bool :=
  if kennel then statKnown true n else n = 5 || n = 6 || n = 7 || n = 10 || n = 14

/-- GSTAT as it reads (Table 6-3). -/
def Group.gstatRead (g : Group) : Word :=
  g.gstat ||| (BitVec.ofNat 32 g.olog <<< 16) ||| (if g.limbs ≠ 0 then 0x100 else 0)

/-- A compute group's status register, zero-extended to 64 bits. -/
def Ctx.statGroup (c : Ctx) (s : State) (n : Nat) : DWord :=
  let tm := c.team? s
  match n with
  | 0 => BitVec.ofNat 64 Config.slotW
  | 1 => BitVec.ofNat 64 c.g.width
  | 2 => BitVec.ofNat 64 ((tm.map (fun t => t.groups.length)).getD 0)
  | 3 => BitVec.ofNat 64 c.g.role
  | 4 => BitVec.ofNat 64 c.g.limbs
  | 5 => c.g.lcarry.setWidth 64
  | 6 => c.g.fpctl.setWidth 64
  | 7 => (c.g.flags s.clk).setWidth 64
  | 8 => c.g.svmask
  | 9 => c.g.rplmask
  | 10 => c.g.ternbad
  | 11 => ((tm.map Team.phaseId).getD 0).setWidth 64
  | 12 => s.clkLo
  | 13 => c.g.clkhi.setWidth 64
  | _ => c.g.gstatRead.setWidth 64

/-- A Kennel status register (Table 17-1). -/
def State.statKennel (s : State) (n : Nat) : DWord :=
  match n with
  | 0 => (boolW s.k.inh ||| (boolW s.k.refused <<< 1)).setWidth 64
  | 1 => (s.k.code ++ s.k.vec).setWidth 64
  | 2 => s.k.kepc
  | 3 => s.k.kbad
  | 4 => s.k.kvbase.setWidth 64
  | 5 => s.k.kien.setWidth 64
  | 6 => s.k.kipend.setWidth 64
  | 7 => s.k.ktimer
  | 12 => s.clkLo
  | _ => s.k.grp.clkhi.setWidth 64

def Ctx.statRead (c : Ctx) (s : State) (n : Nat) : DWord :=
  if c.g.kennel then s.statKennel n else c.statGroup s n

/-- Reading CLKLO latches its upper half into the group's shadow (R124). -/
def Ctx.latchClk (c : Ctx) (s : State) (n : Nat) : State :=
  if n = 12 then c.mod s (fun g => { g with clkhi := s.clkLo.extractLsb' 32 32 }) else s

/-- FPCTL after a write (R93, R180). -/
def fpctlWrite (old x : Word) : Word :=
  (x &&& 8#32) ||| (if x &&& 7#32 ≤ 4#32 then x &&& 7#32 else old &&& 7#32)

/-- A write to a group's status register; a bit the hardware has set in this cycle stays set (R8). -/
def Group.statWrite (g : Group) (n : Nat) (x : DWord) : Group :=
  let lo := x.extractLsb' 0 32
  match n with
  | 5 => { g with lcarry := lo &&& 3#32 }
  | 6 => { g with fpctl := fpctlWrite g.fpctl lo }
  | 7 => { g with fpflags := (lo &&& 15#32) ||| g.fresh.fp }
  | 10 => { g with ternbad := (g.ternbad &&& ~~~x) ||| g.fresh.tern }
  | 14 => { g with gstat := (g.gstat &&& ~~~(lo &&& gstatW1c)) ||| g.fresh.gstat }
  | _ => g

/-- Replace bits 31:0 or all of a 64-bit register (R134). -/
def half (w64 : Bool) (old x : DWord) : DWord :=
  if w64 then x else old.extractLsb' 32 32 ++ x.extractLsb' 0 32

/-- The KIPEND bits that sources have set in this very cycle: a clear does not reach them (R8, R386). -/
def State.kSetNow (s : State) : Word := if s.k.pendAt = s.clk then s.k.pendNew else 0

/-- A write to a Kennel status register (Table 17-1). KTIMER equal to the count sets TIMER (R386). -/
def State.statKennelWrite (s : State) (n : Nat) (w64 : Bool) (x : DWord) : State :=
  let lo := x.extractLsb' 0 32
  match n with
  | 0 => { s with k := { s.k with refused := stickyLeft s.k.refused (x.getLsbD 1) s.k.refAt s.clk } }
  | 2 => { s with k := { s.k with kepc := half w64 s.k.kepc x } }
  | 4 => { s with k := { s.k with kvbase := lo &&& 0xFFFFFF00#32 } }
  | 5 => { s with k := { s.k with kien := lo &&& 0x7F0#32 } }
  | 6 => { s with k := { s.k with kipend := (s.k.kipend &&& ~~~lo) ||| s.kSetNow } }
  | 7 =>
    let s1 : State := { s with k := { s.k with ktimer := half w64 s.k.ktimer x } }
    if s1.k.ktimer = s1.clkLo then s1.kpend 8 else s1
  | _ => s

/-- S.WSR's write; a 32-bit write of TERNBAD clears in bits 31:0 only. -/
def Ctx.statWrite (c : Ctx) (s : State) (n : Nat) (w64 : Bool) (x : DWord) : State :=
  if c.g.kennel then s.statKennelWrite n w64 x
  else c.mod s (·.statWrite n (if w64 then x else x &&& 0xFFFFFFFF#64))

end Sys2Proof.Machine
end

