-- ==== Sys2Proof/Machine/Formats.lean ====
section
/-! DEFINITION. Number formats and rounding (04): exact values, `RoundToFormat`, IEEE arithmetic on codes, MX block
functions. An exact magnitude is `m · 2^e`; with `sticky` it lies strictly between `m · 2^e` and `(m + 1) · 2^e`. -/
namespace Sys2Proof.Machine

/-- A floating-point format (Table 4-3): mantissa and exponent bits, bias, largest finite code, canonical NaN code. -/
structure FFmt where
  mb : Nat
  eb : Nat
  bias : Nat
  maxCode : Nat
  inf : Bool       -- has infinities (R90)
  nan : Nat        -- canonical NaN; 0 for a format without NaN
  sig : Bool       -- has signalling NaNs (R91)
  deriving DecidableEq, Repr

def fF32 : FFmt := ⟨23, 8, 127, 0x7F7FFFFF, true, 0x7FC00000, true⟩
def fF16 : FFmt := ⟨10, 5, 15, 0x7BFF, true, 0x7E00, true⟩
def fBF16 : FFmt := ⟨7, 8, 127, 0x7F7F, true, 0x7FC0, true⟩
def fE4M3 : FFmt := ⟨3, 4, 7, 0x7E, false, 0x7F, false⟩
def fE5M2 : FFmt := ⟨2, 5, 15, 0x7B, true, 0x7F, false⟩
def fE2M3 : FFmt := ⟨3, 2, 1, 0x1F, false, 0, false⟩
def fE3M2 : FFmt := ⟨2, 3, 3, 0x1F, false, 0, false⟩
def fE2M1 : FFmt := ⟨1, 2, 1, 0x7, false, 0, false⟩

/-- The sign bit of a format, as a code. -/
def FFmt.signBit (f : FFmt) : Nat := 2 ^ (f.mb + f.eb)

/-- A value of a format (R90, R91). -/
inductive FVal where
  | fin (neg : Bool) (m : Nat) (e : Int)
  | inf (neg : Bool)
  | nan (signalling : Bool)
  deriving DecidableEq, Repr

/-- The value of a code (R90). -/
def FFmt.val (f : FFmt) (code : Nat) : FVal :=
  let neg := code.testBit (f.mb + f.eb)
  let x := code % f.signBit
  let E := x / 2 ^ f.mb
  let M := x % 2 ^ f.mb
  if f.inf && E = 2 ^ f.eb - 1 then
    if M = 0 then .inf neg else .nan (f.sig && M < 2 ^ (f.mb - 1))
  else if !f.inf && f.nan ≠ 0 && x = f.nan then .nan false
  else if E = 0 then .fin neg M (1 - (f.bias : Int) - f.mb)
  else .fin neg (2 ^ f.mb + M) ((E : Int) - f.bias - f.mb)

/-- A zero or subnormal code, sign aside. -/
def FFmt.isSub (f : FFmt) (code : Nat) : Bool :=
  code % f.signBit < 2 ^ f.mb && code % f.signBit ≠ 0

def FFmt.signed (f : FFmt) (neg : Bool) (x : Nat) : Nat := if neg then f.signBit + x else x

/-! ## Rounding -/

/-- The whole part of a magnitude in units of 2^q and whether the rest is zero, and rounded by mode. -/
structure Quant where
  q : Nat
  exact : Bool
  deriving DecidableEq, Repr

/-- Round the magnitude to a multiple of 2^q (R93, R96); `rb` feeds SR. -/
def quant (mode : Rnd) (rb : Nat) (neg : Bool) (m : Nat) (e : Int) (sticky : Bool) (q : Int) : Quant :=
  if q ≤ e then ⟨m * 2 ^ (e - q).toNat, !sticky⟩
  else
    let sh := (q - e).toNat
    let lo := m / 2 ^ sh
    let r := m % 2 ^ sh
    if r = 0 && !sticky then ⟨lo, true⟩
    else
      let twice := 2 * r
      let past := 2 ^ sh < twice || (twice = 2 ^ sh && sticky)
      let tie := twice = 2 ^ sh && !sticky
      let up := match mode with
        | .rne => past || (tie && lo % 2 = 1)
        | .rtz => false
        | .rup => !neg
        | .rdn => neg
        | .rna => past || tie
        | .sr => 65536 ≤ r * 65536 / 2 ^ sh + rb
        | .dyn => false
      ⟨if up then lo + 1 else lo, false⟩

/-- The exponent of the last mantissa bit at a magnitude, with the exponent range unbounded. -/
def lastBit (mb m : Nat) (e : Int) : Int := (Nat.log2 m : Int) + e - mb

/-- `RoundToFormat` of a finite value (R93 to R96): the code and the flags. -/
def FFmt.round (f : FFmt) (mode : Rnd) (rb : Nat) (neg : Bool) (m : Nat) (e : Int) (sticky : Bool := false) :
    Nat × FFlags :=
  if m = 0 && !sticky then (f.signed neg 0, {})
  else
    let emin : Int := 1 - (f.bias : Int) - f.mb
    let lb := lastBit f.mb m e
    let q := max lb emin
    let a := quant mode rb neg m e sticky q
    let code := (q - emin).toNat * 2 ^ f.mb + a.q
    if f.maxCode < code then
      let toInf := f.inf && (match mode with
        | .rtz => false
        | .rup => !neg
        | .rdn => neg
        | _ => true)
      let x := if toInf then (2 ^ f.eb - 1) * 2 ^ f.mb else f.maxCode
      (f.signed neg x, { ovf := true, inx := true })
    else
      let u := quant mode rb neg m e sticky lb
      let tiny := lb < emin && ((u.q * 2 ^ (lb - emin + 1000).toNat : Nat) < 2 ^ (f.mb + 1000))
      (f.signed neg code, { unf := !a.exact && tiny, inx := !a.exact })

/-- Conversion of any value (R94). -/
def FFmt.deliver (f : FFmt) (mode : Rnd) (rb : Nat) (v : FVal) : Nat × FFlags :=
  match v with
  | .fin neg m e => f.round mode rb neg m e
  | .inf neg =>
    if f.inf then (f.signed neg ((2 ^ f.eb - 1) * 2 ^ f.mb), {}) else (f.signed neg f.maxCode, { inv := true })
  | .nan s => if f.nan = 0 then (0, { inv := true }) else (f.nan, { inv := s })

/-- FTZ on a source: an FP32 subnormal reads as a zero of its sign (R97). -/
def ftzIn (ftz : Bool) (f : FFmt) (code : Nat) : Nat :=
  if ftz && f.mb = 23 && f.isSub code then code / f.signBit * f.signBit else code

/-- FTZ on a result (R97). -/
def ftzOut (ftz : Bool) (f : FFmt) (r : Nat × FFlags) : Nat × FFlags :=
  if ftz && f.mb = 23 && f.isSub r.1 then (r.1 / f.signBit * f.signBit, { r.2 with unf := true, inx := true }) else r

/-! ## Exact values and arithmetic -/

/-- An exact dyadic `n · 2^e`. -/
structure Dy where
  n : Int
  e : Int
  deriving DecidableEq, Repr

def Dy.zero : Dy := ⟨0, 0⟩

def Dy.add (a b : Dy) : Dy :=
  if a.n = 0 then b
  else if b.n = 0 then a
  else
    let e := min a.e b.e
    ⟨a.n * 2 ^ (a.e - e).toNat + b.n * 2 ^ (b.e - e).toNat, e⟩

def Dy.mul (a b : Dy) : Dy := ⟨a.n * b.n, a.e + b.e⟩

def Dy.ofFin (neg : Bool) (m : Nat) (e : Int) : Dy := ⟨if neg then -(m : Int) else m, e⟩

def Dy.le (a b : Dy) : Bool := (Dy.add a ⟨-b.n, b.e⟩).n ≤ 0

def Dy.abs (a : Dy) : Dy := ⟨a.n.natAbs, a.e⟩

/-- The value as a finite FVal; an exact zero takes the sign given (R92). -/
def Dy.fval (a : Dy) (zneg : Bool) : FVal := .fin (if a.n = 0 then zneg else decide (a.n < 0)) a.n.natAbs a.e

/-- The sign of a zero sum (R92). -/
def zeroSign (mode : Rnd) (n1 n2 : Bool) : Bool := if n1 = n2 then n1 else mode == .rdn

def FVal.isNan : FVal → Bool
  | .nan _ => true
  | _ => false

def FVal.isSig : FVal → Bool
  | .nan s => s
  | _ => false

def FVal.negate : FVal → FVal
  | .fin n m e => .fin (!n) m e
  | .inf n => .inf (!n)
  | .nan s => .nan s

/-- Exact sum, or the invalid operation (R91, R92). -/
def addVal (mode : Rnd) (a b : FVal) : FVal × Bool :=
  match a, b with
  | .nan s, y => (.nan false, s || y.isSig)
  | x, .nan s => (.nan false, s || x.isSig)
  | .inf n1, .inf n2 => if n1 = n2 then (.inf n1, false) else (.nan false, true)
  | .inf n, _ => (.inf n, false)
  | _, .inf n => (.inf n, false)
  | .fin n1 m1 e1, .fin n2 m2 e2 =>
    ((Dy.add (Dy.ofFin n1 m1 e1) (Dy.ofFin n2 m2 e2)).fval (zeroSign mode n1 n2), false)

/-- Exact product. -/
def mulVal (a b : FVal) : FVal × Bool :=
  match a, b with
  | .nan s, y => (.nan false, s || y.isSig)
  | x, .nan s => (.nan false, s || x.isSig)
  | .inf n1, .inf n2 => (.inf (n1 != n2), false)
  | .inf n1, .fin n2 m _ => if m = 0 then (.nan false, true) else (.inf (n1 != n2), false)
  | .fin n1 m _, .inf n2 => if m = 0 then (.nan false, true) else (.inf (n1 != n2), false)
  | .fin n1 m1 e1, .fin n2 m2 e2 => (.fin (n1 != n2) (m1 * m2) (e1 + e2), false)

/-- Round a value with the invalid flag of its formation, FTZ last. -/
def finishF (f : FFmt) (mode : Rnd) (ftz : Bool) (r : FVal × Bool) : Nat × FFlags :=
  let x := ftzOut ftz f (f.deliver mode 0 r.1)
  (x.1, { x.2 with inv := x.2.inv || r.2 })

/-- a + b, a − b, a × b, a × b + c in a format (Table 8-4). -/
def fAdd (f : FFmt) (mode : Rnd) (ftz : Bool) (a b : Nat) : Nat × FFlags :=
  finishF f mode ftz (addVal mode (f.val (ftzIn ftz f a)) (f.val (ftzIn ftz f b)))

def fSub (f : FFmt) (mode : Rnd) (ftz : Bool) (a b : Nat) : Nat × FFlags :=
  finishF f mode ftz (addVal mode (f.val (ftzIn ftz f a)) (f.val (ftzIn ftz f b)).negate)

def fMul (f : FFmt) (mode : Rnd) (ftz : Bool) (a b : Nat) : Nat × FFlags :=
  finishF f mode ftz (mulVal (f.val (ftzIn ftz f a)) (f.val (ftzIn ftz f b)))

/-- 0 × ∞ is invalid whatever c is, NaN included. -/
def fFma (f : FFmt) (mode : Rnd) (ftz : Bool) (a b c : Nat) : Nat × FFlags :=
  let p := mulVal (f.val (ftzIn ftz f a)) (f.val (ftzIn ftz f b))
  let s := addVal mode p.1 (f.val (ftzIn ftz f c))
  finishF f mode ftz (s.1, p.2 || s.2)

/-- Order of two values neither of which is NaN, −0 below +0. -/
def leTotal (a b : FVal) : Bool :=
  match a, b with
  | .inf n, x => n || x == .inf false
  | x, .inf n => !n || x == .inf true
  | .fin n1 m1 e1, .fin n2 m2 e2 =>
    let x := Dy.ofFin n1 m1 e1
    let y := Dy.ofFin n2 m2 e2
    if x.n = 0 && y.n = 0 then n1 || !n2 else Dy.le x y
  | _, _ => false

/-- minimumNumber and maximumNumber of IEEE 754-2019 (R175): the chosen operand's pattern, after FTZ. -/
def fMinMax (f : FFmt) (isMax ftz : Bool) (a b : Nat) : Nat × FFlags :=
  let x := ftzIn ftz f a
  let y := ftzIn ftz f b
  let va := f.val x
  let vb := f.val y
  let fl : FFlags := { inv := va.isSig || vb.isSig }
  if va.isNan && vb.isNan then (f.nan, fl)
  else if va.isNan then (y, fl)
  else if vb.isNan then (x, fl)
  else if leTotal va vb then (if isMax then y else x, fl)
  else (if isMax then x else y, fl)

/-- A float compare (R111): −0 equals +0. -/
def fCmp (f : FFmt) (ftz : Bool) (cc : Cond) (a b : Nat) : Bool × FFlags :=
  let va := f.val (ftzIn ftz f a)
  let vb := f.val (ftzIn ftz f b)
  let fl : FFlags := { inv := va.isSig || vb.isSig }
  if va.isNan || vb.isNan then
    (match cc with | .ne => true | .uno => true | _ => false, fl)
  else
    let lift (v : FVal) : FVal := match v with
      | .fin _ 0 e => .fin false 0 e
      | x => x
    let le := leTotal (lift va) (lift vb)
    let ge := leTotal (lift vb) (lift va)
    (match cc with
     | .eq => le && ge
     | .ne => !(le && ge)
     | .lt => !ge
     | .le => le
     | .gt => !le
     | .ge => ge
     | .ord => true
     | .uno => false, fl)

/-! ## MX blocks (R98, R99) -/

/-- An element's own value times 2^(scale − 127); a scale of 0xFF makes it NaN. -/
def mxVal (f : FFmt) (scale : Nat) (code : Nat) : FVal :=
  if scale = 0xFF then .nan false
  else
    match f.val code with
    | .fin n m e => .fin n m (e + scale - 127)
    | v => v

/-- RoundUnb(m · 2^e, f) ≤ MaxNorm(f), for a magnitude. -/
def fitsNorm (f : FFmt) (m : Nat) (e : Int) : Bool :=
  if m = 0 then true
  else
    let lb := lastBit f.mb m e
    let a := quant .rne 0 false m e false (max lb (1 - (f.bias : Int) - f.mb))
    let emin : Int := 1 - (f.bias : Int) - f.mb
    (max lb emin - emin).toNat * 2 ^ f.mb + a.q ≤ f.maxCode

/-- BlockScale's search upward from `e`. -/
def blockScaleFrom (f : FFmt) (m : Nat) (x : Int) : Nat → Int → Int
  | 0, _ => 127
  | n + 1, e => if fitsNorm f m (x - e) then e else blockScaleFrom f m x n (e + 1)

/-- The least e′ in [−127, 127] at which the largest magnitude fits, else 127 (R99). -/
def blockScale (f : FFmt) (m : Nat) (x : Int) : Int := blockScaleFrom f m x 255 (-127)

/-- Flags of a block: INEXACT, SATURATED, UNDERFLOW. -/
structure BFlags where
  inexact : Bool := false
  saturated : Bool := false
  underflow : Bool := false
  deriving DecidableEq, Repr

def BFlags.or (a b : BFlags) : BFlags := ⟨a.inexact || b.inexact, a.saturated || b.saturated, a.underflow || b.underflow⟩

/-- One element of BlockRound (R99): an overflow gives ±MaxNorm, in E5M2 too (DEDUCED, log 84). -/
def blockElem (f : FFmt) (e' : Int) (d : Dy) : Nat × BFlags :=
  if d.n = 0 then (0, {})
  else
    let (c, fl) := f.round .rne 0 (d.n < 0) d.n.natAbs (d.e - e')
    (if f.maxCode < c % f.signBit then f.signed (d.n < 0) f.maxCode else c,
      ⟨fl.inx, !fitsNorm f d.n.natAbs (d.e - e'), c % f.signBit = 0⟩)

def maxAbs : List Dy → Dy
  | [] => Dy.zero
  | d :: r => let x := maxAbs r; if Dy.le (Dy.abs d) x then x else Dy.abs d

/-- How a block of values is scaled (R99). -/
inductive BScale where
  | nanBlock
  | scale (e' : Int)
  | allZero
  deriving DecidableEq, Repr

def finOf : FVal → Dy
  | .fin n m e => Dy.ofFin n m e
  | _ => Dy.zero

/-- NaN blocks, infinities with an E5M2 target, all-zero blocks and the scale proper. -/
def scaleOf (f : FFmt) (vs : List FVal) : BScale :=
  let pinf := vs.any (· == .inf false)
  let ninf := vs.any (· == .inf true)
  if vs.any FVal.isNan || ((pinf || ninf) && !f.inf) || (pinf && ninf) then .nanBlock
  else
    let m := maxAbs (vs.map finOf)
    if m.n = 0 then .allZero else .scale (blockScale f m.n.natAbs m.e)

/-- The scale code of R99; an all-zero block, or E5M2 infinities alone, take 0x7F. -/
def BScale.code : BScale → Nat
  | .nanBlock => 0xFF
  | .scale e => (e + 127).toNat
  | .allZero => 0x7F

/-- The codes of a block at its scale; infinities stand as E5M2 infinities. -/
def blockCodes (f : FFmt) (sc : BScale) (vs : List FVal) : List Nat × BFlags :=
  match sc with
  | .nanBlock => (vs.map (fun _ => 0), {})
  | _ =>
    let e' : Int := (sc.code : Int) - 127
    vs.foldr (fun v (acc : List Nat × BFlags) =>
      match v with
      | .inf neg => (f.signed neg ((2 ^ f.eb - 1) * 2 ^ f.mb) :: acc.1, acc.2)
      | _ =>
        let (c, fl) := blockElem f e' (finOf v)
        (c :: acc.1, acc.2.or fl)) ([], {})

/-! ## Modes and format codes -/

/-- The mode of R182: dynamic is FPCTL's. -/
def Rnd.mode (r : Rnd) (fpctl : Word) : Rnd :=
  match r with
  | .dyn =>
    match (fpctl &&& 7#32).toNat with
    | 1 => .rtz
    | 2 => .rup
    | 3 => .rdn
    | 4 => .rna
    | _ => .rne
  | x => x

def Group.ftz (g : Group) : Bool := g.fpctl.getLsbD 3

/-- Float formats by name. -/
def FTy.fmt : FTy → FFmt
  | .f32 => fF32
  | .f16 => fF16
  | .bf16 => fBF16

def Fmt.flt : Fmt → Option FFmt
  | .f32 => some fF32
  | .f16 => some fF16
  | .bf16 => some fBF16
  | .e4m3 => some fE4M3
  | .e5m2 => some fE5M2
  | .e2m3 => some fE2M3
  | .e3m2 => some fE3M2
  | .e2m1 => some fE2M1
  | _ => none

/-- Element width in bits, 8 for the 6-bit formats (R89, Table 4-1). -/
def Fmt.width : Fmt → Nat
  | .i8 | .n8 | .e4m3 | .e5m2 | .e2m3 | .e3m2 | .ter | .mxe4m3 | .mxe5m2 => 8
  | .i16 | .n16 | .f16 | .bf16 => 16
  | .i32 | .n32 | .f32 => 32
  | .i4 | .n4 | .e2m1 | .mxe2m1 => 4

/-- Signedness of an integer format. -/
def Fmt.signed : Fmt → Bool
  | .i8 | .i16 | .i32 | .i4 => true
  | _ => false

def MxFmt.fmt : MxFmt → FFmt
  | .e4m3 => fE4M3
  | .e5m2 => fE5M2
  | .e2m1 => fE2M1

end Sys2Proof.Machine
end

