-- ==== Sys2Proof/Machine/Uniform.lean ====
section
/-! DEFINITION. The uniform instructions (06: R116 to R135). -/
namespace Sys2Proof.Machine

/-- x of R128. -/
def STy.ext : STy → Word → Int
  | .i32, w => w.toInt
  | .n32, w => w.toNat

/-- The delivery of R128: wrapped or saturated. -/
def STy.deliver (t : STy) (sat : Bool) (r : Int) : Word :=
  if sat then (match t with | .i32 => satS 32 r | .n32 => satN 32 r) else truncI 32 r

/-- A two-source arithmetic row of Table 6-6 over the extended values. -/
def uniArith (t : STy) (sat : Bool) (d : BitVec 9) (a b : Src) (f : Int → Int → Int) :
    State → Host.Outcome State Fault Refusal :=
  uniform d 1 [(a, 1), (b, 1)] (fun c s =>
    (STy.deliver t sat (f (STy.ext t (c.rdU s a.op)) (STy.ext t (c.rdU s b.op)))).setWidth 64)

/-- A two-source row over bit patterns. -/
def uniBits (d : BitVec 9) (a b : Src) (f : Word → Word → Word) : State → Host.Outcome State Fault Refusal :=
  uniform d 1 [(a, 1), (b, 1)] (fun c s => (f (c.rdU s a.op) (c.rdU s b.op)).setWidth 64)

/-- A 64-bit two-source row (R129). -/
def uniWide (d : BitVec 9) (a b : Src) (f : DWord → DWord → DWord) : State → Host.Outcome State Fault Refusal :=
  uniform d 2 [(a, 2), (b, 2)] (fun c s => f (c.rdU64 s a.op) (c.rdU64 s b.op))

/-- Shifts whose amounts are not masked (Table 6-6). -/
def shl32 (a b : Word) : Word := if 32 ≤ b.toNat then 0 else a <<< b.toNat
def shr32 (a b : Word) : Word := if 32 ≤ b.toNat then 0 else a >>> b.toNat
def sra32 (a b : Word) : Word := a.sshiftRight (min b.toNat 32)
def shl64 (a b : DWord) : DWord := if 64 ≤ b.toNat then 0 else a <<< b.toNat

/-- Fields of S.BFE, S.BFI, V.BFE and V.BFI (R132, R166). -/
def bfe (t : STy) (a : Word) (pos len : Nat) : Word :=
  let f := (a.toNat / 2 ^ pos) % 2 ^ len
  match t with
  | .i32 => if 2 ^ (len - 1) ≤ f then truncI 32 ((f : Int) - 2 ^ len) else BitVec.ofNat 32 f
  | .n32 => BitVec.ofNat 32 f

def bfi (a b : Word) (pos len : Nat) : Word :=
  let m : Word := BitVec.ofNat 32 ((2 ^ len - 1) * 2 ^ pos)
  (a &&& ~~~m) ||| (BitVec.ofNat 32 (b.toNat % 2 ^ len * 2 ^ pos))

/-- Leading zero bits of an `n`-bit value. -/
def clzN (n x : Nat) : Nat := if x = 0 then n else n - 1 - Nat.log2 x

def popN (n x : Nat) : Nat := ((upTo n).filter (fun i => x.testBit i)).length

/-- S.MOV (R126). -/
def execSMov (w64 : Bool) (d : BitVec 9) (a : Src) : State → Host.Outcome State Fault Refusal :=
  if w64 then uniform d 2 [(a, 2)] (fun c s => c.rdU64 s a.op)
  else uniform d 1 [(a, 1)] (fun c s => (c.rdU s a.op).setWidth 64)

/-- S.LI (R127). -/
def execSLi (sx64 : Bool) (d : BitVec 9) (imm : Word) : State → Host.Outcome State Fault Refusal :=
  uniform d (if sx64 then 2 else 1) [] (fun _ _ => imm.signExtend 64)

def execSAdd (t : STy) (sat : Bool) (d : BitVec 9) (a b : Src) : State → Host.Outcome State Fault Refusal :=
  uniArith t sat d a b (fun x y => x + y)

def execSSub (t : STy) (sat : Bool) (d : BitVec 9) (a b : Src) : State → Host.Outcome State Fault Refusal :=
  uniArith t sat d a b (fun x y => x - y)

def execSMul (t : STy) (d : BitVec 9) (a b : Src) : State → Host.Outcome State Fault Refusal :=
  uniArith t false d a b (fun x y => x * y)

def execSMulhi (t : STy) (d : BitVec 9) (a b : Src) : State → Host.Outcome State Fault Refusal :=
  uniArith t false d a b (fun x y => shrI (x * y) 32)

def execSAnd (_t : STy) (d : BitVec 9) (a b : Src) : State → Host.Outcome State Fault Refusal :=
  uniBits d a b (fun x y => x &&& y)

def execSOr (_t : STy) (d : BitVec 9) (a b : Src) : State → Host.Outcome State Fault Refusal :=
  uniBits d a b (fun x y => x ||| y)

def execSXor (_t : STy) (d : BitVec 9) (a b : Src) : State → Host.Outcome State Fault Refusal :=
  uniBits d a b (fun x y => x ^^^ y)

def execSNot (_t : STy) (d : BitVec 9) (a : Src) : State → Host.Outcome State Fault Refusal :=
  uniform d 1 [(a, 1)] (fun c s => (~~~(c.rdU s a.op)).setWidth 64)

def execSShl (_t : STy) (d : BitVec 9) (a b : Src) : State → Host.Outcome State Fault Refusal := uniBits d a b shl32

def execSShr (_t : STy) (d : BitVec 9) (a b : Src) : State → Host.Outcome State Fault Refusal := uniBits d a b shr32

def execSSra (_t : STy) (d : BitVec 9) (a b : Src) : State → Host.Outcome State Fault Refusal := uniBits d a b sra32

def execSMin (t : STy) (d : BitVec 9) (a b : Src) : State → Host.Outcome State Fault Refusal :=
  uniArith t false d a b (fun x y => min x y)

def execSMax (t : STy) (d : BitVec 9) (a b : Src) : State → Host.Outcome State Fault Refusal :=
  uniArith t false d a b (fun x y => max x y)

def execSAdd64 (d : BitVec 9) (a b : Src) : State → Host.Outcome State Fault Refusal := uniWide d a b (fun x y => x + y)

def execSSub64 (d : BitVec 9) (a b : Src) : State → Host.Outcome State Fault Refusal := uniWide d a b (fun x y => x - y)

def execSShl64 (d : BitVec 9) (a b : Src) : State → Host.Outcome State Fault Refusal := uniWide d a b shl64

/-- The uses of a destination that is a register or a predicate. -/
def destUse (c : Ctx) (d : Opnd) : Use := ⟨d, 1, c.active, true⟩

/-- S.CMP (R130). -/
def execSCmp (cc : Cond) (t : STy) (d : Opnd) (a b : Src) : State → Host.Outcome State Fault Refusal :=
  issue { core := .both, uses := fun c _ => destUse c d :: readsOf c [(a, 1), (b, 1)] } (fun c s =>
    let r := Cond.holdsI cc (STy.ext t (c.rdU s a.op)) (STy.ext t (c.rdU s b.op))
    c.retire s [(a, 1), (b, 1)] (fun g => g.setBool d c.active (fun _ => r)))

/-- S.SEL (R131), guarded as a whole (R119). -/
def execSSel (gd : Guard) (w64 : Bool) (d : BitVec 9) (a b x : Src) : State → Host.Outcome State Fault Refusal :=
  let n := if w64 then 2 else 1
  issue { core := .both, guard := .whole gd, uses := fun c _ => wrS c d n :: readsOf c [(a, n), (b, n), (x, 1)] }
    (fun c s =>
      let o := if c.rdU s x.op ≠ 0 then a.op else b.op
      c.retire s [(a, n), (b, n), (x, 1)] (fun g =>
        if w64 then g.setS64 d.toNat (c.rdU64 s o) else g.setS d.toNat (c.rdU s o)))

/-- S.BFE (R132). -/
def execSBfe (t : STy) (d : BitVec 9) (a : Src) (pos : BitVec 5) (len : BitVec 6) :
    State → Host.Outcome State Fault Refusal :=
  uniform d 1 [(a, 1)] (fun c s => (bfe t (c.rdU s a.op) pos.toNat len.toNat).setWidth 64)

/-- S.BFI (R132). -/
def execSBfi (_t : STy) (d : BitVec 9) (a b : Src) (pos : BitVec 5) (len : BitVec 6) :
    State → Host.Outcome State Fault Refusal :=
  uniBits d a b (fun x y => bfi x y pos.toNat len.toNat)

/-- S.CLZ and S.POPC (R133). -/
def execSClz (d : BitVec 9) (a : Src) : State → Host.Outcome State Fault Refusal :=
  uniform d 1 [(a, 1)] (fun c s => BitVec.ofNat 64 (clzN 32 (c.rdU s a.op).toNat))

def execSPopc (d : BitVec 9) (a : Src) : State → Host.Outcome State Fault Refusal :=
  uniform d 1 [(a, 1)] (fun c s => BitVec.ofNat 64 (popN 32 (c.rdU s a.op).toNat))

/-- S.RSR (R120, R134, R385). -/
def execSRsr (w64 : Bool) (d : BitVec 9) (num : BitVec 12) : State → Host.Outcome State Fault Refusal :=
  let n := if w64 then 2 else 1
  issue { core := .both, encOk := fun c => statKnown c.g.kennel num.toNat, uses := fun c _ => [wrS c d n] }
    (fun c s =>
      let x := c.statRead s num.toNat
      .done (c.mod (c.latchClk s num.toNat) (fun g =>
        if w64 then g.setS64 d.toNat x else g.setS d.toNat (x.extractLsb' 0 32))))

/-- S.WSR (R120, R134, R385). -/
def execSWsr (w64 : Bool) (num : BitVec 12) (a : Src) : State → Host.Outcome State Fault Refusal :=
  let n := if w64 then 2 else 1
  issue
    { core := .both, encOk := fun c => statWritable c.g.kennel num.toNat && (!w64 || statWide c.g.kennel num.toNat),
      uses := fun c _ => readsOf c [(a, n)] }
    (fun c s =>
      let x : DWord := if w64 then c.rdU64 s a.op else (c.rdU s a.op).setWidth 64
      .done (c.statWrite (c.mod s (fun g => g.endUses c.active [(a, n)])) num.toNat w64 x))

/-- S.VGET (R135): the lane is read whether or not it is in ACTIVE; LU clears ACTIVE's live bits. -/
def execSVget (w64 : Bool) (d : BitVec 9) (a i : Src) : State → Host.Outcome State Fault Refusal :=
  let n := if w64 then 2 else 1
  let lane (c : Ctx) (s : State) : Nat := (c.rdU s i.op).toNat % c.g.width
  issue
    { uses := fun c s => wrS c d n :: ⟨a.op, n, Mask.one (lane c s), false⟩ :: readsOf c [(i, 1)] }
    (fun c s =>
      c.retire s [(a, n), (i, 1)] (fun g =>
        if w64 then g.setS64 d.toNat (c.rd64 s a.op (lane c s)) else g.setS d.toNat (c.rd s a.op (lane c s))))

end Sys2Proof.Machine
end

