-- ==== Sys2Proof/Machine/VectorInt.lean ====
section
/-! DEFINITION. The vector integer instructions (07: R158 to R171). -/
namespace Sys2Proof.Machine

/-- Element width of a packed integer type (Table 5-3). -/
def ITy.bits : ITy → Nat
  | .i32 | .n32 => 32
  | .i16 | .n16 => 16
  | .i8 | .n8 => 8
  | .i4 | .n4 => 4

def ITy.sgn : ITy → Bool
  | .i32 | .i16 | .i8 | .i4 => true
  | _ => false

/-- Element `k` of `n` bits of a word (R89). -/
def elemAt (n k : Nat) (w : Word) : Nat := w.toNat / 2 ^ (n * k) % 2 ^ n

/-- An `n`-bit pattern read as signed or unsigned. -/
def readInt (sgn : Bool) (n x : Nat) : Int :=
  if sgn && x.testBit (n - 1) then (x : Int) - 2 ^ n else x

/-- An integer delivered to `n` bits: wrapped, or saturated to the range. -/
def deliverInt (sat sgn : Bool) (n : Nat) (r : Int) : Nat :=
  if !sat then (r % 2 ^ n).toNat
  else if sgn then (max (-(2 ^ (n - 1) : Int)) (min r (2 ^ (n - 1) - 1)) % 2 ^ n).toNat
  else (max 0 (min r (2 ^ n - 1))).toNat

/-- The word whose elements of `n` bits are given (R89). -/
def packWord (n : Nat) (f : Nat → Nat) : Word :=
  BitVec.ofNat 32 (((upTo (32 / n)).map (fun k => f k % 2 ^ n * 2 ^ (n * k))).sum)

/-- R163: each element of a, b and c as integers, the result wrapped or saturated. -/
def elemOp (t : ITy) (sat : Bool) (f : Nat → Int → Int → Int → Int) (a b c : Word) : Word :=
  let n := ITy.bits t
  let rd (w : Word) (k : Nat) : Int := readInt (ITy.sgn t) n (elemAt n k w)
  packWord n (fun k => deliverInt sat (ITy.sgn t) n (f n (rd a k) (rd b k) (rd c k)))

def vArith1 (t : ITy) (sat : Bool) (d : BitVec 8) (a : Src) (f : Nat → Int → Int) :
    State → Host.Outcome State Fault Refusal :=
  vector d [(a, 1)] (fun c s l => elemOp t sat (fun n x _ _ => f n x) (c.rd s a.op l) 0 0)

def vArith2 (t : ITy) (sat : Bool) (d : BitVec 8) (a b : Src) (f : Nat → Int → Int → Int) :
    State → Host.Outcome State Fault Refusal :=
  vector d [(a, 1), (b, 1)] (fun c s l => elemOp t sat (fun n x y _ => f n x y) (c.rd s a.op l) (c.rd s b.op l) 0)

/-- A row over words, whose result does not depend on the type. -/
def vBits2 (d : BitVec 8) (a b : Src) (f : Word → Word → Word) : State → Host.Outcome State Fault Refusal :=
  vector d [(a, 1), (b, 1)] (fun c s l => f (c.rd s a.op l) (c.rd s b.op l))

/-- A shift: the amount is the same element of b, unsigned. -/
def shiftWord (t : ITy) (f : Nat → Nat → Nat → Nat) (a b : Word) : Word :=
  let n := ITy.bits t
  packWord n (fun k => f n (elemAt n k a) (elemAt n k b))

def vShift (t : ITy) (d : BitVec 8) (a b : Src) (f : Nat → Nat → Nat → Nat) : State → Host.Outcome State Fault Refusal :=
  vBits2 d a b (shiftWord t f)

/-- A source of V.MOV and V.SEL's condition: a predicate gives the lane's bit. -/
def Ctx.rdBit (c : Ctx) (s : State) (o : Opnd) (l : Nat) : Word :=
  match o with
  | .p i => boolW ((c.g.predMask i.toNat).getLsbD l)
  | _ => c.rd s o l

/-- V.MOV (R160). -/
def execVMov (w64 : Bool) (d : BitVec 8) (a : Src) : State → Host.Outcome State Fault Refusal :=
  if w64 then vector64 d [(a, 2)] (fun c s l => c.rd64 s a.op l)
  else vector d [(a, 1)] (fun c s l => c.rdBit s a.op l)

/-- V.LI (R161). -/
def execVLi (sx64 : Bool) (d : BitVec 8) (imm : Word) : State → Host.Outcome State Fault Refusal :=
  if sx64 then vector64 d [] (fun _ _ _ => imm.signExtend 64) else vector d [] (fun _ _ _ => imm)

def execVAdd (t : ITy) (sat : Bool) (d : BitVec 8) (a b : Src) : State → Host.Outcome State Fault Refusal :=
  vArith2 t sat d a b (fun _ x y => x + y)

def execVSub (t : ITy) (sat : Bool) (d : BitVec 8) (a b : Src) : State → Host.Outcome State Fault Refusal :=
  vArith2 t sat d a b (fun _ x y => x - y)

def execVMul (t : ITy) (d : BitVec 8) (a b : Src) : State → Host.Outcome State Fault Refusal :=
  vArith2 t false d a b (fun _ x y => x * y)

def execVMulhi (t : ITy) (d : BitVec 8) (a b : Src) : State → Host.Outcome State Fault Refusal :=
  vArith2 t false d a b (fun n x y => shrI (x * y) n)

/-- V.MAD (R163). -/
def execVMad (t : ITy) (sat : Bool) (d : BitVec 8) (a b e : Src) : State → Host.Outcome State Fault Refusal :=
  vector d [(a, 1), (b, 1), (e, 1)] (fun c s l =>
    elemOp t sat (fun _ x y z => x * y + z) (c.rd s a.op l) (c.rd s b.op l) (c.rd s e.op l))

/-- V.MADW (R164). -/
def execVMadw (t : STy) (d : BitVec 8) (a b e : Src) : State → Host.Outcome State Fault Refusal :=
  vector64 d [(a, 1), (b, 1), (e, 2)] (fun c s l =>
    let z : Int := match t with
      | .i32 => (c.rd64 s e.op l).toInt
      | .n32 => (c.rd64 s e.op l).toNat
    truncI 64 (STy.ext t (c.rd s a.op l) * STy.ext t (c.rd s b.op l) + z))

def execVAnd (_t : ITy) (d : BitVec 8) (a b : Src) : State → Host.Outcome State Fault Refusal :=
  vBits2 d a b (fun x y => x &&& y)

def execVOr (_t : ITy) (d : BitVec 8) (a b : Src) : State → Host.Outcome State Fault Refusal :=
  vBits2 d a b (fun x y => x ||| y)

def execVXor (_t : ITy) (d : BitVec 8) (a b : Src) : State → Host.Outcome State Fault Refusal :=
  vBits2 d a b (fun x y => x ^^^ y)

def execVNot (_t : ITy) (d : BitVec 8) (a : Src) : State → Host.Outcome State Fault Refusal :=
  vector d [(a, 1)] (fun c s l => ~~~(c.rd s a.op l))

def execVShl (t : ITy) (d : BitVec 8) (a b : Src) : State → Host.Outcome State Fault Refusal :=
  vShift t d a b (fun n x y => if n ≤ y then 0 else x * 2 ^ y)

def execVShr (t : ITy) (d : BitVec 8) (a b : Src) : State → Host.Outcome State Fault Refusal :=
  vShift t d a b (fun n x y => if n ≤ y then 0 else x / 2 ^ y)

def execVSra (t : ITy) (d : BitVec 8) (a b : Src) : State → Host.Outcome State Fault Refusal :=
  vShift t d a b (fun n x y => deliverInt false true n (shrI (readInt true n x) (min y n)))

def execVMin (t : ITy) (d : BitVec 8) (a b : Src) : State → Host.Outcome State Fault Refusal :=
  vArith2 t false d a b (fun _ x y => min x y)

def execVMax (t : ITy) (d : BitVec 8) (a b : Src) : State → Host.Outcome State Fault Refusal :=
  vArith2 t false d a b (fun _ x y => max x y)

def execVAbs (t : ITy) (sat : Bool) (d : BitVec 8) (a : Src) : State → Host.Outcome State Fault Refusal :=
  vArith1 t sat d a (fun _ x => x.natAbs)

/-- V.CMP (R165). -/
def execVCmp (cc : Cond) (t : ITy) (d : Opnd) (a b : Src) : State → Host.Outcome State Fault Refusal :=
  let n := ITy.bits t
  let holdsAt (x y : Word) (k : Nat) : Bool :=
    Cond.holdsI cc (readInt (ITy.sgn t) n (elemAt n k x)) (readInt (ITy.sgn t) n (elemAt n k y))
  issue { uses := fun c _ => destUse c d :: readsOf c [(a, 1), (b, 1)] } (fun c s =>
    c.retire s [(a, 1), (b, 1)] (fun g =>
      match d with
      | .p i => g.setPred i.toNat c.active (maskOf c.active g.width (fun l => holdsAt (c.rd s a.op l) (c.rd s b.op l) 0))
      | .v r => g.setLanes c.active r.toNat (fun l =>
          packWord n (fun k => if holdsAt (c.rd s a.op l) (c.rd s b.op l) k then 2 ^ n - 1 else 0))
      | _ => g))

/-- V.SEL (R162). -/
def execVSel (gd : Guard) (w64 : Bool) (d : BitVec 8) (a b e : Src) : State → Host.Outcome State Fault Refusal :=
  let n := if w64 then 2 else 1
  issue { guard := .lanes gd, uses := fun c _ => wrV c d n :: readsOf c [(a, n), (b, n), (e, 1)] } (fun c s =>
    let pickOf (l : Nat) : Opnd := if c.rdBit s e.op l ≠ 0 then a.op else b.op
    c.retire s [(a, n), (b, n), (e, 1)] (fun g =>
      if w64 then g.setLanes64 c.active d.toNat (fun l => c.rd64 s (pickOf l) l)
      else g.setLanes c.active d.toNat (fun l => c.rd s (pickOf l) l)))

/-- V.BFE and V.BFI (R166). -/
def execVBfe (t : STy) (d : BitVec 8) (a : Src) (pos : BitVec 5) (len : BitVec 6) :
    State → Host.Outcome State Fault Refusal :=
  vector d [(a, 1)] (fun c s l => bfe t (c.rd s a.op l) pos.toNat len.toNat)

def execVBfi (_t : STy) (d : BitVec 8) (a b : Src) (pos : BitVec 5) (len : BitVec 6) :
    State → Host.Outcome State Fault Refusal :=
  vBits2 d a b (fun x y => bfi x y pos.toNat len.toNat)

/-- V.POPC and V.CLZ (R167). -/
def vCount (t : ITy) (d : BitVec 8) (a : Src) (f : Nat → Nat → Nat) : State → Host.Outcome State Fault Refusal :=
  vector d [(a, 1)] (fun c s l =>
    let w := c.rd s a.op l
    packWord (ITy.bits t) (fun k => f (ITy.bits t) (elemAt (ITy.bits t) k w)))

def execVPopc (t : ITy) (d : BitVec 8) (a : Src) : State → Host.Outcome State Fault Refusal := vCount t d a popN

def execVClz (t : ITy) (d : BitVec 8) (a : Src) : State → Host.Outcome State Fault Refusal := vCount t d a clzN

/-- V.DOT4 (R168). -/
def execVDot4 (asgn bsgn sat : Bool) (d : BitVec 8) (a b e : Src) : State → Host.Outcome State Fault Refusal :=
  vector d [(a, 1), (b, 1), (e, 1)] (fun c s l =>
    let x := c.rd s a.op l
    let y := c.rd s b.op l
    let t : Int := (upTo 4).foldl (fun t k => t + readInt asgn 8 (elemAt 8 k x) * readInt bsgn 8 (elemAt 8 k y))
      (c.rd s e.op l).toInt
    if sat then satS 32 t else truncI 32 t)

/-- The requantised value of R169. -/
def requant (out4 : Bool) (a m : Int) (q : Word) : Word :=
  let sh := q.toNat / 256 % 32
  let zp := readInt true 8 (q.toNat % 256)
  let h := shrI (a * m) 32
  let t : Int :=
    if sh = 0 then h
    else
      let r : Int := (h.natAbs + 2 ^ (sh - 1)) / 2 ^ sh
      if h < 0 then -r else r
  let n := if out4 then 4 else 8
  truncI 32 (max (-(2 ^ (n - 1) : Int)) (min (t + zp) (2 ^ (n - 1) - 1)))

/-- V.REQ (R169). -/
def execVReq (out4 : Bool) (d : BitVec 8) (a m q : Src) : State → Host.Outcome State Fault Refusal :=
  vector d [(a, 1), (m, 1), (q, 1)] (fun c s l =>
    requant out4 (c.rd s a.op l).toInt (c.rd s m.op l).toInt (c.rd s q.op l))

/-- The trits of a legal ternary byte as INT8 codes, byte i from digit i (R100, R170). -/
def unpk3 (b : Nat) : DWord :=
  let trit (i : Nat) : Nat := match b / 3 ^ i % 3 with
    | 1 => 0x01
    | 2 => 0xFF
    | _ => 0
  BitVec.ofNat 64 (((upTo 5).map (fun i => trit i * 256 ^ i)).sum)

/-- V.UNPK3 (R170). TERNBAD and GSTAT.TERNBAD are set as it issues, though its registers land later (DESIGN CHOICE, log 127). -/
def execVUnpk3 (byte : BitVec 2) (pdst : BitVec 3) (d : BitVec 8) (a : Src) : State → Host.Outcome State Fault Refusal :=
  issue { uses := fun c _ => wrV c d 2 :: destUse c (.p pdst) :: readsOf c [(a, 1)] } (fun c s =>
    let b (l : Nat) : Nat := elemAt 8 byte.toNat (c.rd s a.op l)
    let bad := maskOf c.active c.g.width (fun l => 242 < b l)
    c.retire s [(a, 1)] (fun g =>
      let g1 := (g.setLanes64 c.active d.toNat (fun l => if 242 < b l then 0 else unpk3 (b l))).setPred pdst.toNat
        c.active bad
      if bad = 0 then g1 else g1.orTern bad))

/-! ## Conversions over spans (R171) -/

/-- Registers a span of `e` elements of `w` bits takes. -/
def spanRegs (e w : Nat) : Nat := max 1 (e * w / 32)

/-- Elements per lane. -/
def convElems (df sf : Fmt) : Nat := 32 / min (Fmt.width sf) (Fmt.width df)

/-- Register `j` of a source span in lane `l`; a 16-bit float operand takes an FP constant rounded to its format, in
each half (R74). -/
def Ctx.rdSpan (c : Ctx) (s : State) (f : Option FFmt) (o : Opnd) (j l : Nat) : Word :=
  match o with
  | .v n => c.g.vVal l (n.toNat + j)
  | .fp k =>
    match f with
    | some x =>
      if x.mb + x.eb = 15 then
        let h := (x.deliver .rne 0 (fF32.val (fpConst k.toNat).toNat)).1
        BitVec.ofNat 32 (h + 65536 * h)
      else fpConst k.toNat
    | none => fpConst k.toNat
  | _ => c.rd s o l

/-- Element `k` of a source span. -/
def Ctx.spanElem (c : Ctx) (s : State) (f : Option FFmt) (o : Opnd) (w k l : Nat) : Nat :=
  elemAt w (k % (32 / w)) (c.rdSpan s f o (k / (32 / w)) l)

/-- Write a span of `e` elements of `w` bits in the lanes of `m`. -/
def Group.setSpan (g : Group) (m : Mask) (d e w : Nat) (f : Nat → Nat → Nat) : Group :=
  (upTo (spanRegs e w)).foldl (fun g j =>
    g.setLanes m (d + j) (fun l => packWord w (fun p => f l (j * (32 / w) + p)))) g

/-- V.CVT (R171). -/
def execVCvt (df sf : Fmt) (d : BitVec 8) (a : Src) : State → Host.Outcome State Fault Refusal :=
  let e := convElems df sf
  let sw := Fmt.width sf
  let dw := Fmt.width df
  let xs := [(a, spanRegs e sw)]
  issue { uses := fun c _ => wrV c d (spanRegs e dw) :: readsOf c xs } (fun c s =>
    c.retire s xs (fun g => g.setSpan c.active d.toNat e dw (fun l k =>
      deliverInt true (Fmt.signed df) dw (readInt (Fmt.signed sf) sw (c.spanElem s none a.op sw k l)))))

end Sys2Proof.Machine
end

