-- ==== Sys2Proof/Machine/VectorFloat.lean ====
section
/-! DEFINITION. The vector floating-point instructions (08: R182 to R196). The correctly rounded special functions of
R187 are formed in fixed point with 320 fraction bits (log 26). -/
namespace Sys2Proof.Machine

/-- A source in the format of the instruction; the low element of a 16-bit type (R182). -/
def Ctx.rdF (c : Ctx) (s : State) (f : FFmt) (o : Opnd) (k l : Nat) : Nat :=
  elemAt (if f.mb = 23 then 32 else 16) k (c.rdSpan s (some f) o 0 l)

/-- Fold the flags of all lanes of ACTIVE. -/
def orFlags (ls : List Nat) (f : Nat → FFlags) : FFlags := ls.foldl (fun a l => a.or (f l)) {}

/-- A float instruction on single elements: sources `xs`, result and flags `f` in each lane (R181, R183). -/
def vecF (d : BitVec 8) (xs : List Src) (f : Ctx → State → Nat → Nat × FFlags) :
    State → Host.Outcome State Fault Refusal :=
  let ss := xs.map (fun x => (x, 1))
  issue { uses := fun c _ => wrV c d 1 :: readsOf c ss } (fun c s =>
    c.retire s ss (fun g =>
      (g.sticky (orFlags (Mask.lanes c.active g.width) (fun l => (f c s l).2))).setLanes c.active d.toNat
        (fun l => BitVec.ofNat 32 (f c s l).1)))

/-- A two-source row of Table 8-4. -/
def vecF2 (ty : FTy) (r : Rnd) (d : BitVec 8) (a b : Src) (f : FFmt → Rnd → Bool → Nat → Nat → Nat × FFlags) :
    State → Host.Outcome State Fault Refusal :=
  let F := FTy.fmt ty
  vecF d [a, b] (fun c s l => f F (Rnd.mode r c.g.fpctl) c.g.ftz (c.rdF s F a.op 0 l) (c.rdF s F b.op 0 l))

def execVFadd (f : FTy) (r : Rnd) (d : BitVec 8) (a b : Src) : State → Host.Outcome State Fault Refusal :=
  vecF2 f r d a b fAdd

def execVFsub (f : FTy) (r : Rnd) (d : BitVec 8) (a b : Src) : State → Host.Outcome State Fault Refusal :=
  vecF2 f r d a b fSub

def execVFmul (f : FTy) (r : Rnd) (d : BitVec 8) (a b : Src) : State → Host.Outcome State Fault Refusal :=
  vecF2 f r d a b (fun F _m z x y => fMul F _m z x y)

def execVFmin (f : FTy) (d : BitVec 8) (a b : Src) : State → Host.Outcome State Fault Refusal :=
  vecF2 f .dyn d a b (fun F _ z x y => fMinMax F false z x y)

/-- V.FFMA: one rounding of the exact value (R183). -/
def execVFfma (ty : FTy) (r : Rnd) (d : BitVec 8) (a b e : Src) : State → Host.Outcome State Fault Refusal :=
  let F := FTy.fmt ty
  vecF d [a, b, e] (fun c s l =>
    fFma F (Rnd.mode r c.g.fpctl) c.g.ftz (c.rdF s F a.op 0 l) (c.rdF s F b.op 0 l) (c.rdF s F e.op 0 l))

def execVFmax (f : FTy) (d : BitVec 8) (a b : Src) : State → Host.Outcome State Fault Refusal :=
  vecF2 f .dyn d a b (fun F _ z x y => fMinMax F true z x y)

/-- V.FCMP (R184). -/
def execVFcmp (cc : Cond) (ty : FTy) (d : Opnd) (a b : Src) : State → Host.Outcome State Fault Refusal :=
  let F := FTy.fmt ty
  issue { uses := fun c _ => destUse c d :: readsOf c [(a, 1), (b, 1)] } (fun c s =>
    let r (l : Nat) : Bool × FFlags := fCmp F c.g.ftz cc (c.rdF s F a.op 0 l) (c.rdF s F b.op 0 l)
    c.retire s [(a, 1), (b, 1)] (fun g =>
      let g1 := g.sticky (orFlags (Mask.lanes c.active g.width) (fun l => (r l).2))
      match d with
      | .p i => g1.setPred i.toNat c.active (maskOf c.active g.width (fun l => (r l).1))
      | .v n => g1.setLanes c.active n.toNat (fun l => if (r l).1 then BitVec.allOnes 32 else 0)
      | _ => g1))

/-- The class bit of a code (Table 8-5). -/
def fClass (f : FFmt) (x : Nat) : Nat :=
  match f.val x with
  | .inf neg => if neg then 0 else 7
  | .nan sg => if sg then 8 else 9
  | .fin neg m _ =>
    if m = 0 then (if neg then 3 else 4)
    else if f.isSub x then (if neg then 2 else 5)
    else (if neg then 1 else 6)

/-- V.FCLASS (R185). -/
def execVFclass (ty : FTy) (d : BitVec 8) (a : Src) : State → Host.Outcome State Fault Refusal :=
  let F := FTy.fmt ty
  vecF d [a] (fun c s l => (2 ^ fClass F (c.rdF s F a.op 0 l), {}))

/-- Rounding to an integral value (R186). -/
def fRound (f : FFmt) (mode : Rnd) (ftz : Bool) (x : Nat) : Nat × FFlags :=
  match f.val (ftzIn ftz f x) with
  | .fin neg m e => ((f.round .rne 0 neg (quant mode 0 neg m e false 0).q 0).1, {})
  | v => f.deliver mode 0 v

def execVFrnd (ty : FTy) (r : Rnd) (d : BitVec 8) (a : Src) : State → Host.Outcome State Fault Refusal :=
  let F := FTy.fmt ty
  vecF d [a] (fun c s l => fRound F (Rnd.mode r c.g.fpctl) c.g.ftz (c.rdF s F a.op 0 l))

/-! ## Conversions (R191 to R193) -/

/-- A conversion over spans: `f` gives element `k` of lane `l` and its flags. -/
def convert (e sw dw : Nat) (d : BitVec 8) (a : Src) (ys : List (Src × Nat)) (f : Ctx → State → Nat → Nat → Nat × FFlags) :
    State → Host.Outcome State Fault Refusal :=
  let xs := (a, spanRegs e sw) :: ys
  issue { uses := fun c _ => wrV c d (spanRegs e dw) :: readsOf c xs } (fun c s =>
    c.retire s xs (fun g =>
      (g.sticky (orFlags (Mask.lanes c.active g.width) (fun l => orFlags (upTo e) (fun k => (f c s l k).2)))).setSpan
        c.active d.toNat e dw (fun l k => (f c s l k).1)))

/-- The random bits of element `k` (R192). -/
def Ctx.randBits (c : Ctx) (s : State) (rb : Option Src) (k l : Nat) : Nat :=
  match rb with
  | some x => elemAt 16 (k % 2) (c.rdSpan s none x.op (k / 2) l)
  | none => 0

/-- V.FCVT (R191, R192). -/
def execVFcvt (df sf : Fmt) (r : Rnd) (d : BitVec 8) (a : Src) (rb : Option Src) :
    State → Host.Outcome State Fault Refusal :=
  let e := convElems df sf
  let D := (Fmt.flt df).getD fF32
  let S := (Fmt.flt sf).getD fF32
  let ys := match rb with
    | some x => [(x, e / 2)]
    | none => []
  convert e (Fmt.width sf) (Fmt.width df) d a ys (fun c s l k =>
    let code := c.spanElem s (some S) a.op (Fmt.width sf) k l
    ftzOut c.g.ftz D (D.deliver (Rnd.mode r c.g.fpctl) (c.randBits s rb k l) (S.val code)))

/-- Float to integer (R193). -/
def toInteger (sgn : Bool) (n : Nat) (mode : Rnd) (v : FVal) : Nat × FFlags :=
  match v with
  | .nan _ => (0, { inv := true })
  | .inf neg => (deliverInt true sgn n (if neg then -(2 ^ 64 : Int) else 2 ^ 64), { inv := true })
  | .fin neg m e =>
    let a := quant mode 0 neg m e false 0
    let x : Int := if neg then -(a.q : Int) else a.q
    let y := deliverInt true sgn n x
    if readInt sgn n y = x then (y, { inx := !a.exact }) else (y, { inv := true })

/-- V.FICVT (R193). -/
def execVFicvt (df sf : Fmt) (r : Rnd) (d : BitVec 8) (a : Src) : State → Host.Outcome State Fault Refusal :=
  let e := convElems df sf
  let sw := Fmt.width sf
  let dw := Fmt.width df
  convert e sw dw d a [] (fun c s l k =>
    let code := c.spanElem s (Fmt.flt sf) a.op sw k l
    let mode := Rnd.mode r c.g.fpctl
    match Fmt.flt sf, Fmt.flt df with
    | some S, _ => toInteger (Fmt.signed df) dw mode (S.val (ftzIn c.g.ftz S code))
    | none, some D =>
      let x := readInt (Fmt.signed sf) sw code
      D.round mode 0 (x < 0) x.natAbs 0
    | none, none => (0, {}))

/-! ## Special functions (R187 to R189) -/

/-- Fraction bits of the fixed-point forms. -/
def fxP : Nat := 320

/-- ⌊ln 2 · 2³²⁰⌋ and ⌊2π · 2³²⁰⌋. -/
def fxLn2 : Nat :=
  1480553391661173448385607439722553250922680800745876974795605978609098082859138712941075737848984
def fxTwoPi : Nat :=
  13420802360424337830311681948440006481608388178854297901454212848703426437343610760199000777828079

/-- Σ xᵏ/k! from term `t` of index `k` on. -/
def expSum (x : Nat) : Nat → Nat → Nat → Nat
  | 0, _, _ => 0
  | n + 1, k, t => t + expSum x n (k + 1) (t * x / 2 ^ fxP / k)

/-- eˣ for 0 ≤ x < 1 in fixed point. -/
def fxExp (x : Nat) : Nat := expSum x 80 1 (2 ^ fxP)

/-- Alternating Σ tᵢ with t' = t · x² / (k (k + 1)). -/
def trigSum (x2 : Nat) : Nat → Nat → Nat → Int
  | 0, _, _ => 0
  | n + 1, k, t => (t : Int) - trigSum x2 n (k + 2) (t * x2 / 2 ^ fxP / (k * (k + 1)))

def fxSin (x : Nat) : Nat := (trigSum (x * x / 2 ^ fxP) 60 2 x).toNat
def fxCos (x : Nat) : Nat := (trigSum (x * x / 2 ^ fxP) 60 1 (2 ^ fxP)).toNat

/-- Σ z^(2k+1)/(2k+1). -/
def atanhSum (z2 : Nat) : Nat → Nat → Nat → Nat
  | 0, _, _ => 0
  | n + 1, k, t => t / k + atanhSum z2 n (k + 2) (t * z2 / 2 ^ fxP)

/-- ln(m / 2ᵇ) for 2ᵇ ≤ m < 2ᵇ⁺¹, in fixed point. -/
def fxLn (m b : Nat) : Nat :=
  let z := (m - 2 ^ b) * 2 ^ fxP / (m + 2 ^ b)
  2 * atanhSum (z * z / 2 ^ fxP) 110 1 z

/-- ⌊√x⌋ by bits, for x < 4ⁿ. -/
def isqrt (x : Nat) : Nat → Nat → Nat
  | 0, r => r
  | n + 1, r => if (r + 2 ^ n) * (r + 2 ^ n) ≤ x then isqrt x n (r + 2 ^ n) else isqrt x n r

/-- An exact real, or one known to 2^e with more below. -/
structure Exact where
  neg : Bool
  m : Nat
  e : Int
  sticky : Bool
  deriving DecidableEq, Repr

/-- The delivery of R187 and R189: rounded RNE, without a flag for that. -/
def specDeliver (ftz : Bool) (r : Exact) : Nat × FFlags :=
  let x := (fF32.round .rne 0 r.neg r.m r.e r.sticky).1
  let mag := x % fF32.signBit
  let big := mag = 0x7F800000
  let under := (r.m ≠ 0 || r.sticky) && mag < 0x800000
  ftzOut ftz fF32 (x, { ovf := big, unf := under, inx := big || under })

/-- Special inputs and NaN (R188), else `fin`. -/
def special (ftz : Bool) (x : Nat) (zero inf : Bool → Nat × FFlags) (fin : Bool → Nat → Int → Nat × FFlags) :
    Nat × FFlags :=
  match fF32.val (ftzIn ftz fF32 x) with
  | .nan s => (fF32.nan, { inv := s })
  | .inf neg => inf neg
  | .fin neg m e => if m = 0 then zero neg else fin neg m e

def invalid : Nat × FFlags := (0x7FC00000, { inv := true })
def infCode (neg : Bool) : Nat := if neg then 0xFF800000 else 0x7F800000
def zeroCode (neg : Bool) : Nat := if neg then 0x80000000 else 0

def fRcp (ftz : Bool) (x : Nat) : Nat × FFlags :=
  special ftz x (fun n => (infCode n, {})) (fun n => (zeroCode n, {})) (fun n m e =>
    specDeliver ftz ⟨n, 2 ^ 64 / m, -64 - e, 2 ^ 64 % m ≠ 0⟩)

/-- The mantissa with an even exponent. -/
def evenExp (m : Nat) (e : Int) : Nat × Int := if e % 2 = 0 then (m, e) else (2 * m, e - 1)

def fRsq (ftz : Bool) (x : Nat) : Nat × FFlags :=
  special ftz x (fun n => (infCode n, {})) (fun n => if n then invalid else (0, {})) (fun n m e =>
    if n then invalid
    else
      let (m1, e1) := evenExp m e
      let q := isqrt (2 ^ 160 / m1) 81 0
      specDeliver ftz ⟨false, q, -80 - e1 / 2, q * q * m1 ≠ 2 ^ 160⟩)

def fSqrt (mode : Rnd) (ftz : Bool) (x : Nat) : Nat × FFlags :=
  special ftz x (fun n => (zeroCode n, {})) (fun n => if n then invalid else (infCode false, {})) (fun n m e =>
    if n then invalid
    else
      let (m1, e1) := evenExp m e
      let q := isqrt (m1 * 2 ^ 80) 60 0
      ftzOut ftz fF32 (fF32.round mode 0 false q (e1 / 2 - 40) (q * q ≠ m1 * 2 ^ 80)))

/-- 2^(±m · 2^e); beyond ±2⁹ the result over- or underflows alike. -/
def fExp2 (ftz : Bool) (x : Nat) : Nat × FFlags :=
  special ftz x (fun _ => (0x3F800000, {})) (fun n => if n then (0, {}) else (infCode false, {})) (fun n m e =>
    if 9 ≤ (Nat.log2 m : Int) + e then specDeliver ftz ⟨false, 1, if n then -600 else 600, false⟩
    else
      let v : Int := if n then -(m : Int) else m
      let num : Int := if 0 ≤ e then v * 2 ^ e.toNat else v
      let den : Nat := if 0 ≤ e then 1 else 2 ^ (-e).toNat
      let k := num.fdiv den
      let f := (num.fmod den).toNat
      if f = 0 then specDeliver ftz ⟨false, 1, k, false⟩
      else specDeliver ftz ⟨false, fxExp (fxLn2 * f / den), k - fxP, true⟩)

def fLog2 (ftz : Bool) (x : Nat) : Nat × FFlags :=
  special ftz x (fun _ => (infCode true, {})) (fun n => if n then invalid else (infCode false, {})) (fun n m e =>
    if n then invalid
    else
      let b := Nat.log2 m
      let k : Int := b + e
      if m = 2 ^ b then specDeliver ftz ⟨k < 0, k.natAbs, 0, false⟩
      else
        let v : Int := k * 2 ^ fxP + (fxLn m b * 2 ^ fxP / fxLn2 : Nat)
        specDeliver ftz ⟨v < 0, v.natAbs, -fxP, true⟩)

/-- sin(2π a) for cosine shift 0, cos(2π a) for 1: the quadrant of |a| modulo 1, plus the shift (R187). -/
def turnSin (ftz : Bool) (neg : Bool) (m : Nat) (e : Int) (shift : Nat) : Nat × FFlags :=
  let den : Nat := if 0 ≤ e then 1 else 2 ^ (-e).toNat
  let n : Nat := if 0 ≤ e then 0 else m % den
  let qd := (4 * n / den + shift) % 4
  let r := 4 * n % den
  let x := fxTwoPi * r / (4 * den)
  let sgn := (neg && shift = 0) != (2 ≤ qd : Bool)
  if r = 0 then
    if qd % 2 = 0 then (0, {}) else specDeliver ftz ⟨sgn, 1, 0, false⟩
  else specDeliver ftz ⟨sgn, if qd % 2 = 0 then fxSin x else fxCos x, -fxP, true⟩

def fSin (ftz : Bool) (x : Nat) : Nat × FFlags :=
  special ftz x (fun n => (zeroCode n, {})) (fun _ => invalid) (fun n m e => turnSin ftz n m e 0)

def fCos (ftz : Bool) (x : Nat) : Nat × FFlags :=
  special ftz x (fun _ => (0x3F800000, {})) (fun _ => invalid) (fun n m e => turnSin ftz n m e 1)

/-- A special function of one FP32 source. -/
def vecSpec (d : BitVec 8) (a : Src) (f : Bool → Nat → Nat × FFlags) : State → Host.Outcome State Fault Refusal :=
  vecF d [a] (fun c s l => f c.g.ftz (c.rdF s fF32 a.op 0 l))

def execVFrcp (d : BitVec 8) (a : Src) : State → Host.Outcome State Fault Refusal := vecSpec d a fRcp
def execVFrsq (d : BitVec 8) (a : Src) : State → Host.Outcome State Fault Refusal := vecSpec d a fRsq
def execVFsqrt (r : Rnd) (d : BitVec 8) (a : Src) : State → Host.Outcome State Fault Refusal :=
  vecF d [a] (fun c s l => fSqrt (Rnd.mode r c.g.fpctl) c.g.ftz (c.rdF s fF32 a.op 0 l))
def execVFexp2 (d : BitVec 8) (a : Src) : State → Host.Outcome State Fault Refusal := vecSpec d a fExp2
def execVFlog2 (d : BitVec 8) (a : Src) : State → Host.Outcome State Fault Refusal := vecSpec d a fLog2
def execVFsin (d : BitVec 8) (a : Src) : State → Host.Outcome State Fault Refusal := vecSpec d a fSin
def execVFcos (d : BitVec 8) (a : Src) : State → Host.Outcome State Fault Refusal := vecSpec d a fCos

/-! ## Packed halves (R190) -/

/-- A packed-half instruction: `f` on each half. -/
def vecH (ty : FTy) (r : Rnd) (d : BitVec 8) (xs : List Src) (f : FFmt → Rnd → (Nat → Nat) → Nat × FFlags) :
    State → Host.Outcome State Fault Refusal :=
  let F := FTy.fmt ty
  vecF d xs (fun c s l =>
    let h (k : Nat) : Nat × FFlags :=
      f F (Rnd.mode r c.g.fpctl) (fun i => c.rdF s F ((xs.map Src.op).getD i (.nat 0)) k l)
    ((h 0).1 + 65536 * (h 1).1, (h 0).2.or (h 1).2))

def execVHfma2 (f : FTy) (r : Rnd) (d : BitVec 8) (a b e : Src) : State → Host.Outcome State Fault Refusal :=
  vecH f r d [a, b, e] (fun F m x => fFma F m false (x 0) (x 1) (x 2))

def execVHadd2 (f : FTy) (r : Rnd) (d : BitVec 8) (a b : Src) : State → Host.Outcome State Fault Refusal :=
  vecH f r d [a, b] (fun F m x => fAdd F m false (x 0) (x 1))

def execVHmul2 (f : FTy) (r : Rnd) (d : BitVec 8) (a b : Src) : State → Host.Outcome State Fault Refusal :=
  vecH f r d [a, b] (fun F m x => fMul F m false (x 0) (x 1))

/-! ## MX blocks in lanes (R194 to R196) -/

/-- Lanes of the block of 32 that holds lane `l` and are in ACTIVE. -/
def Ctx.blockLanes (c : Ctx) (l : Nat) : List Nat :=
  (Mask.lanes c.active c.g.width).filter (fun x => x / 32 = l / 32)

/-- V.MXSCL (R195). -/
def execVMxscl (mf : MxFmt) (d : BitVec 8) (a : Src) : State → Host.Outcome State Fault Refusal :=
  vecF d [a] (fun c s l =>
    let v (x : Nat) : FVal := fF32.val (c.rd s a.op x).toNat
    ((scaleOf (MxFmt.fmt mf) ((c.blockLanes l).map v)).code, { inv := (v l).isSig }))

/-- The code of one lane of V.MXPACK and its flags. A source of −0 gives the code of −0: DESIGN CHOICE, log 104; R196
rounds by RoundToFormat, which keeps the sign (R92), and says that elements are rounded as in R99, which writes zeros as +0. -/
def Ctx.mxCode (c : Ctx) (s : State) (mf : MxFmt) (mode : Rnd) (a sc : Src) (rb : Option Src) (l : Nat) : Nat × FFlags :=
  let e := (c.rd s sc.op l).toNat % 256
  let r := match rb with
    | some x => (c.rd s x.op l).toNat % 65536
    | none => 0
  if e = 0xFF then (0, {})
  else
    match fF32.val (c.rd s a.op l).toNat with
    | .fin n m x => (MxFmt.fmt mf).round mode r n m (x - (e : Int) + 127)
    | .nan _ => (((MxFmt.fmt mf).deliver mode 0 (.nan false)).1, { inv := true })
    | v => (MxFmt.fmt mf).deliver mode 0 v

/-- V.MXPACK (R196). -/
def execVMxpack (mf : MxFmt) (r : Rnd) (d : BitVec 8) (a sc : Src) (rb : Option Src) :
    State → Host.Outcome State Fault Refusal :=
  let w := if mf = .e2m1 then 4 else 8
  let xs := (a, 1) :: (sc, 1) :: (match rb with | some x => [(x, 1)] | none => [])
  let dst (c : Ctx) : Mask := maskOf c.active c.g.width (fun l => l % 32 < w)
  issue { uses := fun c _ => { wrV c d 1 with lanes := dst c } :: readsOf c xs } (fun c s =>
    let code (l : Nat) : Nat × FFlags := c.mxCode s mf (Rnd.mode r c.g.fpctl) a sc rb l
    let word (l : Nat) : Word :=
      packWord w (fun m =>
        let x := l / 32 * 32 + 32 / w * (l % 32) + m
        if c.active.getLsbD x then (code x).1 else 0)
    c.retire s xs (fun g =>
      (g.sticky (orFlags (Mask.lanes c.active g.width) (fun l => (code l).2))).setLanes (dst c) d.toNat word))

end Sys2Proof.Machine
end

