-- ==== Sys2Proof/Machine/Atomics.lean ====
section
/-! DEFINITION. Atomics (10: R239 to R241) and FENCE (R238). -/
namespace Sys2Proof.Machine

/-- Operand size in bytes (R240). -/
def AtomOp.bytes (o : AtomOp) : Nat := if AtomOp.wide o then 8 else 4

/-- The operand and, for compare and swap, the swap value: numbers of 8n bits from the DATA words (R239). -/
def AtomOp.operands (o : AtomOp) (ws : List Word) : Nat × Nat :=
  let n := AtomOp.bytes o
  (leNat (wordBytes n ws), leNat (((ws.flatMap (fun w => leBytes 4 w.toNat)).drop n).take n))

/-- Table 10-5: the new value from the old, the operand and the swap value. -/
def AtomOp.apply (o : AtomOp) (old x swp : Nat) : Nat :=
  let i (n : Nat) : Int := (BitVec.ofNat 32 n).toInt
  match o with
  | .add32 => (old + x) % 2 ^ 32
  | .add64 => (old + x) % 2 ^ 64
  | .addF => (fAdd fF32 .rne false old x).1
  | .minS => if i x < i old then x else old
  | .minU => if x < old then x else old
  | .maxS => if i old < i x then x else old
  | .maxU => if old < x then x else old
  | .and => old &&& x
  | .or => old ||| x
  | .xor => old ^^^ x
  | .exch32 | .exch64 => x
  | .cas32 | .cas64 => if old = x then swp else old
  | .inc => if x ≤ old then 0 else old + 1

def Order.acq : Order → Bool
  | .acq | .ar => true
  | _ => false

def Order.rel : Order → Bool
  | .rel | .ar => true
  | _ => false

/-- An indivisible read and write of the `n` bytes at `off` of the object at `va` of global memory, at its home slice:
`f old` is the new value, or none to write nothing (R241). The access takes the class of the object's first byte (R204).
Where nothing is written, as by TKT.WAIT and WAITA, the team's staged copy stays (DESIGN CHOICE, log 131; R241, R243). -/
def State.gAtomic (s : State) (t : Nat) (va off n : Nat) (write : Bool) (f : Nat → Option Nat) (out : Nat → LaneOut)
    (cov : List (Nat × Nat)) : LaneOut :=
  let fail (s : State) : LaneOut := ⟨[], [], false, false, cov, [], s⟩
  match s.team? t with
  | none => fail s
  | some tm =>
    let p : MPiece := ⟨va, n, tm.rangeAt va⟩
    match s.place? tm p write with
    | (.error k, s1) => { fail s1 with faults := [(va, k)] }
    | (.ok base, s1) =>
      let pa := base + off
      if s1.poisoned pa n then { fail s1 with uce := true }
      else
        let old := Memory.readLE s1.mem pa n
        let s2 := s1.noteSig t p pa false
        match f old with
        | none => { out old with cov := cov, s := s2 }
        | some x =>
          let s3 := s2.noteSig t p pa true
          let s4 := if atHome (p.range.map Extent.cls) then s3
                    else s3.discardStaged t tm pa n
          let s5 := (s4.memWrite pa (leBytes n x)).modTeam t (fun y => { y with since := { y.since with atomic := true } })
          { out old with cov := cov, s := s5 }

/-- An atomic in global memory; `d` is the register the old value goes to. -/
def atomAcc (one : Bool) (op : AtomOp) (d : Option Nat) : GAcc :=
  let n := AtomOp.bytes op
  let at_ (v : OpVals) (l : Nat) : Nat := v.va l / n * n
  { one := one, code := 2, store := true, len := n, addr := at_,
    run := fun t v l cov s =>
      let (x, swp) := AtomOp.operands op (AMap.getD v.data l [])
      s.gAtomic t (at_ v l) 0 n true (fun old => some (AtomOp.apply op old x swp))
        (fun old =>
          { lands := match d with
              | some r => landWords (if one then none else some l) r (MSize.load (if n = 8 then .b64 else .b32) (leBytes n old))
              | none => [],
            faults := [], uce := false, blocked := false, cov := [], s := s }) cov }

/-- The register number a DATA field names. -/
def Opnd.reg : Opnd → Nat
  | .v r => r.toNat
  | .s r => r.toNat
  | _ => 0

/-- The flag an atomic needs: returning a value it must charge one (R68). -/
def atomFlag (fs ret : Bool) : FlagUse := if ret then .must fs else .may fs

/-- Uses of an atomic: its operands, and the old value's registers. -/
def atomUses (c : Ctx) (op : AtomOp) (ret : Bool) (x : Src) (m : MAddr) (nb : Nat) : List Use :=
  (if ret then [⟨x.op, AtomOp.bytes op / 4, c.active, true⟩] else []) ++
  readsOf c ((x, AtomOp.regs op) :: MAddr.srcs m nb)

/-- ATOM (R239, R240). -/
def execAtom (gd : Guard) (fs : Bool) (op : AtomOp) (_sc : Scope) (o : Order) (ret : Bool) (x : Src) (m : MAddr) :
    State → Host.Outcome State Fault Refusal :=
  issue { flag := atomFlag fs ret, guard := .lanes gd, uses := fun c _ => atomUses c op ret x m 2 } (fun c s =>
    c.globalOp s (atomFlag fs ret) (atomAcc false op (if ret then some (Opnd.reg x.op) else none))
      (c.vals s m (Mask.lanes c.active c.g.width) (some (x, AtomOp.regs op))) ((x, AtomOp.regs op) :: MAddr.srcs m 2)
      (if ret then namesOf (Opnd.reg x.op) (AtomOp.bytes op / 4) else []) [] (Order.acq o) (Order.rel o))

/-- ATOMU (R239, R240): once for the lane set. -/
def execAtomu (gd : Guard) (fs : Bool) (op : AtomOp) (_sc : Scope) (o : Order) (ret : Bool) (x : Src) (m : MAddr) :
    State → Host.Outcome State Fault Refusal :=
  issue { flag := atomFlag fs ret, guard := .whole gd, uses := fun c _ => atomUses c op ret x m 2 } (fun c s =>
    c.globalOp s (atomFlag fs ret) (atomAcc true op (if ret then some (Opnd.reg x.op) else none))
      (c.vals s m [0] (some (x, AtomOp.regs op))) ((x, AtomOp.regs op) :: MAddr.srcs m 2)
      [] (if ret then namesOf (Opnd.reg x.op) (AtomOp.bytes op / 4) else []) (Order.acq o) (Order.rel o))

/-- One lane's atomic on the scratchpad of team `u` at offset `o`: the old value and the state. -/
def State.spadAtomic (s : State) (self u o : Nat) (op : AtomOp) (ws : List Word) : Nat × State :=
  match s.team? u with
  | none => (0, s)
  | some tm =>
    let n := AtomOp.bytes op
    let old := Memory.readLE tm.scratch o n
    let (x, swp) := AtomOp.operands op ws
    (old, s.spadPut self u o (leBytes n (AtomOp.apply op old x swp)))

/-- The lanes of a scratchpad atomic in ascending order. -/
def Ctx.spadAtomics (c : Ctx) (s0 : State) (self u : Nat) (op : AtomOp) (x : Src) (at_ : Nat → Nat) (d : Option Nat) :
    List Nat → List Land → State → List Land × State
  | [], acc, s => (acc, s)
  | l :: r, acc, s =>
    let (old, s1) := s.spadAtomic self u (at_ l) op (c.span s0 x.op (AtomOp.regs op) l)
    let lands := match d with
      | some q => landWords (some l) q
          (MSize.load (if AtomOp.wide op then .b64 else .b32) (leBytes (AtomOp.bytes op) old))
      | none => []
    c.spadAtomics s0 self u op x at_ d r (acc ++ lands) s1

/-- ATOMS (R239, R240): the team's scratchpad, or a pack member's when REMOTE. -/
def execAtoms (gd : Guard) (fs : Bool) (op : AtomOp) (_sc : Scope) (o : Order) (ret : Bool) (pk : Option (BitVec 2))
    (x : Src) (m : MAddr) : State → Host.Outcome State Fault Refusal :=
  issue { flag := atomFlag fs ret, guard := .lanes gd, uses := fun c _ => atomUses c op ret x m 1 } (fun c s =>
    let n := AtomOp.bytes op
    let own? := match pk with
      | none => c.ag.team
      | some k => c.member s k
    let at_ (l : Nat) : Int := c.offset s m l / n * n
    let xs := (x, AtomOp.regs op) :: MAddr.srcs m 1
    let viol := c.violators s (own?.bind s.team?) at_ n
    let good := Mask.lanes (c.active &&& ~~~viol) c.g.width
    if (c.now s).mustWait true (Order.rel o) || s.moving (if pk.isSome then own? else none) then .hold
    else
      match c.ag.team, own?, own?.bind s.team? with
      | some t, some u, some tm =>
        if good.any (fun l => tm.spadBad (at_ l).toNat n) then .uce
        else
          let (lands, s1) := c.spadAtomics s t u op x (fun l => (at_ l).toNat)
            (if ret then some (Opnd.reg x.op) else none) good [] s
          c.spadDone s1 (atomFlag fs ret) xs viol lands
            (if ret && !good.isEmpty then namesOf (Opnd.reg x.op) (n / 4) else []) []
      | _, _, _ => c.spadDone s (atomFlag fs ret) xs viol [] [] [])

/-- FENCE (R238): performed once the group's earlier accesses are; until then later accesses wait. -/
def execFence (fs : Bool) (_sc : Scope) (o : Order) : State → Host.Outcome State Fault Refusal :=
  issue { core := .both, flag := .may fs } (fun c s =>
    if c.g.kennel then .done s
    else
      let isOpen := (c.now s).ops.any Op.unperformed
      let op := c.op (.may fs) (if isOpen then .fence (Order.acq o) (Order.rel o) else .idle)
      if isOpen || op.flag.isSome then .done (c.mod s (fun g => g.addOp op)) else .done s)

end Sys2Proof.Machine
end

