-- ==== Sys2Proof/Machine/Sync.lean ====
section
/-! DEFINITION. Synchronisation objects: barriers, tickets, WAITA, WAITF, FIFO banks, and PHASE (10: R230, R242 to R251). -/
namespace Sys2Proof.Machine

/-! ## Objects -/

/-- The object as it stands (R242): its bytes, or the busy bits of the flags a WAITF names. -/
def State.objBytes (s : State) (t : Nat) (g : Group) (w : WaitObj) : List Byte :=
  match w with
  | .scratch o n => ((s.team? t).map (fun tm => Memory.readN tm.scratch o n)).getD []
  | .glob pa n => Memory.readN s.mem pa n
  | .flags m => (upTo 12).map (fun f => if m.getLsbD f && g.flagBusy f then 1 else 0)
  | .fifo b => ((s.team? t).map (fun tm =>
      let f := tm.fifos.getD b (0, 0)
      [BitVec.ofNat 8 f.1, BitVec.ofNat 8 f.2])).getD []

/-- Park on an object, as it stands in `s`. -/
def Ctx.parkOn (c : Ctx) (s : State) (w : WaitObj) : Res :=
  match c.ag.team with
  | some t => .park s (.sync w (s.objBytes t (c.now s) w))
  | none => .hold

/-- The scratchpad offset of an object, rounded down to its alignment (R243). -/
def Ctx.objOff (c : Ctx) (s : State) (m : MAddr) (al : Nat) : Int := c.offset s m 0 / al * al

/-- Uses of a synchronisation instruction: its address, an operand. -/
def syncUses (c : Ctx) (glob : Bool) (m : MAddr) (xs : List (Src × Nat)) : List Use :=
  readsOf c (xs ++ MAddr.srcs m (if glob then 2 else 1))

/-- AN INSTRUCTION ON A SCRATCHPAD OBJECT: it waits for order, a bad object switches every ACTIVE lane off, bytes `rd` of
it that hold an error are consumed, then `body` acts on the object at its offset. -/
def Ctx.onObject (c : Ctx) (s : State) (f : FlagUse) (m : MAddr) (xs : List (Src × Nat)) (al : Nat) (rd : Nat × Nat)
    (st rel : Bool) (body : Nat → Team → Nat → Res) : Res :=
  if (c.now s).mustWait st rel then .hold
  else
    match c.ag.team, c.ag.team.bind s.team? with
    | some t, some tm =>
      let o := c.objOff s m al
      if !s.spadOk tm o al then c.spadDone s f xs c.active [] [] []
      else if rd.2 ≠ 0 && tm.spadBad (o.toNat + rd.1) rd.2 then .uce
      else body t tm o.toNat
    | _, _ => .hold

/-! ## Barriers (R244 to R247) -/

/-- A barrier's fields (Table 10-7). -/
structure Barrier where
  phase : Nat
  count : Nat
  expect : Nat
  arr : Nat
  deriving DecidableEq, Repr

def Barrier.read (m : Memory) (o : Nat) : Barrier :=
  ⟨Memory.readLE m o 4, Memory.readLE m (o + 4) 1, Memory.readLE m (o + 5) 1, Memory.readLE m (o + 8) 12⟩

/-- The fields a barrier instruction writes; bytes 6, 7 and from 20 on are kept. -/
def State.putBarrier (s : State) (t o : Nat) (b : Barrier) : State :=
  (s.spadStore t o (leBytes 4 b.phase ++ leBytes 1 b.count ++ leBytes 1 b.expect)).spadStore t (o + 8) (leBytes 12 b.arr)

/-- The expected count E: EXPECT in 1 to 96, else the team's groups. -/
def Barrier.expected (b : Barrier) (ngrp : Nat) : Nat := if 1 ≤ b.expect && b.expect ≤ 96 then b.expect else ngrp

/-- An arrival of group `g` (R246). -/
def Barrier.arrive (b : Barrier) (g ngrp : Nat) (drop : Bool) : Barrier :=
  if b.arr.testBit g then b
  else
    let e := b.expected ngrp
    let b1 := if e ≤ b.count + 1 then { b with phase := (b.phase + 1) % 2 ^ 32, count := 0, arr := 0 }
              else { b with count := b.count + 1, arr := b.arr ||| 2 ^ g }
    if drop then { b1 with expect := max (e - 1) 1 } else b1

/-- Lane sets parked on bytes of the object are woken. -/
def Team.wakeObj (tm : Team) (o : Nat) : Team :=
  let wake (x : Lane) : Lane :=
    match x.park with
    | some (.sync (.scratch p _) _) => if o ≤ p && p < o + 32 then { x with park := none } else x
    | _ => x
  { tm with groups := tm.groups.map (fun g => { g with lanes := g.lanes.map wake }) }

/-- BAR.INIT (R245). -/
def execBarInit (fs : Bool) (m : MAddr) (n : Src) : State → Host.Outcome State Fault Refusal :=
  let xs := (n, 1) :: MAddr.srcs m 1
  issue { flag := .may fs, uses := fun c _ => syncUses c false m [(n, 1)] } (fun c s =>
    c.onObject s (.may fs) m xs 32 (0, 0) true false (fun t _ o =>
      c.spadDone ((s.putBarrier t o ⟨0, 0, (c.rdU s n.op).toNat % 256, 0⟩).modTeam t (·.wakeObj o)) (.may fs) xs 0 [] [] []))

/-- An arrival of the issuing group, written only when it changes the object. -/
def Ctx.arriveAt (c : Ctx) (s : State) (t : Nat) (tm : Team) (o : Nat) (drop : Bool) : State :=
  let b := Barrier.read tm.scratch o
  if b.arr.testBit c.g.grp then s else s.putBarrier t o (b.arrive c.g.grp tm.groups.length drop)

/-- BAR.ARR (R246). -/
def execBarArr (fs : Bool) (m : MAddr) (drop : Bool) : State → Host.Outcome State Fault Refusal :=
  issue { flag := .may fs, uses := fun c _ => syncUses c false m [] } (fun c s =>
    c.onObject s (.may fs) m (MAddr.srcs m 1) 32 (0, 20) true true (fun t tm o =>
      c.spadDone (c.arriveAt s t tm o drop) (.may fs) (MAddr.srcs m 1) 0 [] [] []))

/-- BAR.WAIT (R247). -/
def execBarWait (fs : Bool) (m : MAddr) : State → Host.Outcome State Fault Refusal :=
  issue { flag := .may fs, uses := fun c _ => syncUses c false m [] } (fun c s =>
    c.onObject s (.may fs) m (MAddr.srcs m 1) 32 (8, 12) false false (fun _ tm o =>
      if (Barrier.read tm.scratch o).arr.testBit c.g.grp then c.parkOn s (.scratch (o + 8) 12)
      else c.spadDone s (.may fs) (MAddr.srcs m 1) 0 [] [] []))

/-- Marks of ACTIVE lanes on the object at `o`. -/
def Ctx.marksOn (c : Ctx) (s : State) (o : Nat) : List ArrMark :=
  (c.now s).marks.filter (fun k => k.off = o && (k.lanes &&& c.active) ≠ 0)

/-- Take ACTIVE off its marks on the object. -/
def Ctx.clearMarks (c : Ctx) (o : Nat) (g : Group) : Group :=
  let cut (k : ArrMark) : ArrMark := if k.off = o then { k with lanes := k.lanes &&& ~~~c.active } else k
  { g with marks := (g.marks.map cut).filter (fun k => k.lanes ≠ 0) }

/-- Record a mark for ACTIVE; lane sets with the same offset and value share one. -/
def Ctx.addMark (c : Ctx) (o : Nat) (ph : Word) (g : Group) : Group :=
  if g.marks.any (fun k => k.off = o && k.phase = ph) then
    { g with marks := g.marks.map (fun k =>
        if k.off = o && k.phase = ph then { k with lanes := k.lanes ||| c.active } else k) }
  else { g with marks := g.marks ++ [⟨c.active, o, ph⟩] }

/-- BAR.AW (R247). -/
def execBarAw (fs : Bool) (m : MAddr) (drop : Bool) : State → Host.Outcome State Fault Refusal :=
  issue { flag := .may fs, uses := fun c _ => syncUses c false m [] } (fun c s =>
    c.onObject s (.may fs) m (MAddr.srcs m 1) 32 (0, 20) true true (fun t tm o =>
      let b := Barrier.read tm.scratch o
      let ph := BitVec.ofNat 32 b.phase
      let ms := c.marksOn s o
      if !ms.isEmpty then
        if ms.all (fun k => k.phase ≠ ph) then
          c.spadDone (c.mod s (c.clearMarks o)) (.may fs) (MAddr.srcs m 1) 0 [] [] []
        else c.parkOn s (.scratch o 20)
      else if 4 ≤ (c.now s).marks.length && !((c.now s).marks.any (fun k => k.off = o && k.phase = ph)) then
        c.parkOn s (.scratch o 20)
      else
        let s1 := c.arriveAt s t tm o drop
        let flipped := !b.arr.testBit c.g.grp && b.expected tm.groups.length ≤ b.count + 1
        if flipped then c.spadDone s1 (.may fs) (MAddr.srcs m 1) 0 [] [] []
        else c.parkOn (c.mod s1 (c.addMark o ph)) (.scratch o 20)))

/-! ## Objects in global memory (R243) -/

/-- AN INSTRUCTION ON A GLOBAL OBJECT. A fault takes an operand-log entry and the lane set stays blocked until the
replay; a failed test parks it. Last uses end as it first issues, also where it faults (DESIGN CHOICE, log 132). -/
def Ctx.globSync (c : Ctx) (s : State) (f : FlagUse) (a : GAcc) (v : OpVals) (xs : List (Src × Nat)) (dS : List Nat)
    (acq rel : Bool) : Res :=
  match c.ag with
  | .kennel => .hold
  | .port t _ _ =>
    if a.waits s t (c.now s) v [0] rel then .hold
    else
      let r := a.runLanes t v [0] ⟨[], [], false, false, [], [], s⟩
      if r.uce then .uce
      else if a.overtakes (c.now s) v [0] r then .hold
      else if !r.faults.isEmpty then
        let o := a.faulted c.active v r.faults { c.op f (.land []) with dstS := dS, acq := acq, vals := v }
        .park (c.put r.s (((c.now r.s).endUses c.active xs).addWork o)) (.replay (c.now s).nextOp)
      else if r.blocked then
        match s.team? t with
        | some tm =>
          (match (s.place? tm ⟨a.addr v 0, a.len, tm.rangeAt (a.addr v 0)⟩ false).1 with
           | .ok pa => c.parkOn s (.glob pa a.len)
           | .error _ => .hold)
        | none => .hold
      else
        c.spadDone r.s f xs 0 r.lands [] dS

/-- The word at `off` of a global object aligned to `al`, which is reached and faulted under the object's own address:
`f old` the new value; `ok old` the condition. -/
def objAcc (al off : Nat) (write : Bool) (f : Nat → Option Nat) (ok : Nat → OpVals → Bool) (d : Option Nat) : GAcc :=
  let at_ (v : OpVals) (l : Nat) : Nat := v.va l / al * al
  { one := true, code := 2, store := write, len := off + 4, addr := at_,
    run := fun t v l cov s =>
      s.gAtomic t (at_ v l) off 4 write f
        (fun old =>
          { lands := match d with
              | some r => landWords none r [BitVec.ofNat 32 old]
              | none => [],
            faults := [], uce := false, blocked := !ok old v, cov := [], s := s }) cov }

def tktTakeAcc (d : Nat) : GAcc := objAcc 16 0 true (fun old => some ((old + 1) % 2 ^ 32)) (fun _ _ => true) (some d)

def tktPassAcc : GAcc := objAcc 16 4 true (fun old => some ((old + 1) % 2 ^ 32)) (fun _ _ => true) none

/-- The operand of a test, as the log keeps it. -/
def OpVals.word (v : OpVals) : Nat := ((AMap.getD v.data 0 []).headD 0).toNat

def tktWaitAcc : GAcc := objAcc 16 4 false (fun _ => none) (fun old v => old = v.word) none

/-- Table 10-8. -/
def WaitCc.holds (cc : WaitCc) (w v : Nat) : Bool :=
  match cc with
  | .eq => w = v
  | .ne => w ≠ v
  | .ge => v ≤ w
  | .any => w &&& v ≠ 0

def waitaAcc (cc : WaitCc) : GAcc := objAcc 4 0 false (fun _ => none) (fun old v => WaitCc.holds cc old v.word) none

/-! ## Tickets (R248) -/

/-- TKT.TAKE. -/
def execTktTake (fs glob : Bool) (d : BitVec 9) (m : MAddr) : State → Host.Outcome State Fault Refusal :=
  issue { flag := .must fs, uses := fun c _ => wrS c d 1 :: syncUses c glob m [] } (fun c s =>
    if glob then
      c.globSync s (.must fs) (tktTakeAcc d.toNat) (c.vals s m [0] none) (MAddr.srcs m 2) [d.toNat] false false
    else
      c.onObject s (.must fs) m (MAddr.srcs m 1) 16 (0, 8) true false (fun t tm o =>
        let next := Memory.readLE tm.scratch o 4
        c.spadDone (s.spadStore t o (leBytes 4 (next + 1))) (.must fs) (MAddr.srcs m 1) 0
          (landWords none d.toNat [BitVec.ofNat 32 next]) [] [d.toNat]))

/-- TKT.WAIT. -/
def execTktWait (fs glob : Bool) (_sc : Scope) (m : MAddr) (x : Src) : State → Host.Outcome State Fault Refusal :=
  issue { flag := .may fs, uses := fun c _ => syncUses c glob m [(x, 1)] } (fun c s =>
    if glob then
      c.globSync s (.may fs) tktWaitAcc (c.vals s m [0] (some (x, 1))) ((x, 1) :: MAddr.srcs m 2) [] true false
    else
      c.onObject s (.may fs) m ((x, 1) :: MAddr.srcs m 1) 16 (0, 8) false false (fun _ tm o =>
        if Memory.readLE tm.scratch (o + 4) 4 = (c.rdU s x.op).toNat then
          c.spadDone s (.may fs) ((x, 1) :: MAddr.srcs m 1) 0 [] [] []
        else c.parkOn s (.scratch (o + 4) 4)))

/-- TKT.PASS. -/
def execTktPass (fs glob : Bool) (_sc : Scope) (m : MAddr) : State → Host.Outcome State Fault Refusal :=
  issue { flag := .may fs, uses := fun c _ => syncUses c glob m [] } (fun c s =>
    if glob then
      c.globSync s (.may fs) tktPassAcc (c.vals s m [0] none) (MAddr.srcs m 2) [] false true
    else
      c.onObject s (.may fs) m (MAddr.srcs m 1) 16 (0, 8) true true (fun t tm o =>
        c.spadDone (s.spadStore t (o + 4) (leBytes 4 (Memory.readLE tm.scratch (o + 4) 4 + 1))) (.may fs)
          (MAddr.srcs m 1) 0 [] [] []))

/-! ## WAITA and WAITF (R249, R250) -/

/-- WAITA. -/
def execWaita (fs glob : Bool) (_sc : Scope) (cc : WaitCc) (m : MAddr) (x : Src) :
    State → Host.Outcome State Fault Refusal :=
  issue { flag := .may fs, uses := fun c _ => syncUses c glob m [(x, 1)] } (fun c s =>
    if glob then
      c.globSync s (.may fs) (waitaAcc cc) (c.vals s m [0] (some (x, 1))) ((x, 1) :: MAddr.srcs m 2) [] true false
    else
      c.onObject s (.may fs) m ((x, 1) :: MAddr.srcs m 1) 4 (0, 4) false false (fun _ tm o =>
        if WaitCc.holds cc (Memory.readLE tm.scratch o 4) (c.rdU s x.op).toNat then
          c.spadDone s (.may fs) ((x, 1) :: MAddr.srcs m 1) 0 [] [] []
        else c.parkOn s (.scratch o 4)))

/-- WAITF. -/
def execWaitf (fs : Bool) (mask : BitVec 12) : State → Host.Outcome State Fault Refusal :=
  issue { flag := .may fs } (fun c s =>
    if (c.now s).flagsClear mask then c.spadDone s (.may fs) [] 0 [] [] [] else c.parkOn s (.flags mask))

/-! ## FIFO banks (R251) -/

/-- The FIFO bank a team bank index names: its number among the FIFO banks. -/
def State.fifoOf (s : State) (tm : Team) (b : Nat) : Option Nat :=
  let n := ((s.grid? tm.grid).map (fun g => g.lr.nfifo)).getD 0
  if s.nscr tm ≤ b && b < s.nscr tm + n then some (b - s.nscr tm) else none

/-- Offset of entry `e` of team bank `b`. -/
def entryOff (b e : Nat) : Nat := bankSize * b + 512 * (e % 64)

/-- An instruction on a FIFO bank: `body` has the team, the bank's number, its team bank index, head and count. -/
def Ctx.onFifo (c : Ctx) (s : State) (f : FlagUse) (b : Src) (xs : List (Src × Nat)) (rel : Bool)
    (body : Nat → Team → Nat → Nat → Nat → Nat → Res) : Res :=
  if (c.now s).mustWait true rel then .hold
  else
    match c.ag.team, c.ag.team.bind s.team? with
    | some t, some tm =>
      let bi := (c.rdU s b.op).toNat
      (match s.fifoOf tm bi with
       | none => c.spadDone s f xs c.active [] [] []
       | some k => body t tm k bi (tm.fifos.getD k (0, 0)).1 (tm.fifos.getD k (0, 0)).2)
    | _, _ => .hold

/-- FIFO.PUSH. -/
def execFifoPush (fs w64 : Bool) (b x : Src) : State → Host.Outcome State Fault Refusal :=
  let n := if w64 then 2 else 1
  issue { flag := .may fs, uses := fun c _ => readsOf c [(x, n), (b, 1)] } (fun c s =>
    c.onFifo s (.may fs) b [(x, n), (b, 1)] true (fun t _ k bi head count =>
      if 64 ≤ count then c.parkOn s (.fifo k)
      else
        let slot (l : Nat) : List Byte :=
          if c.active.getLsbD l then
            leBytes 8 (if w64 then (c.rd64 s x.op l).toNat else (c.rd s x.op l).toNat)
          else List.replicate 8 0
        let s1 := s.spadStore t (entryOff bi (head + count)) ((upTo 64).flatMap slot)
        let s2 := s1.modTeam t (fun tm => { tm with fifos := modifyAt tm.fifos k (fun _ => (head, count + 1)) })
        c.spadDone s2 (.may fs) [(x, n), (b, 1)] 0 [] [] []))

/-- FIFO.POP. -/
def execFifoPop (fs w64 : Bool) (b : Src) (d : BitVec 8) : State → Host.Outcome State Fault Refusal :=
  let n := if w64 then 2 else 1
  issue { flag := .must fs, uses := fun c _ => wrV c d n :: readsOf c [(b, 1)] } (fun c s =>
    c.onFifo s (.must fs) b [(b, 1)] false (fun t tm k bi head count =>
      let o := entryOff bi head
      if count = 0 then c.parkOn s (.fifo k)
      else if (Mask.lanes c.active c.g.width).any (fun l => tm.spadBad (o + 8 * l) (4 * n)) then .uce
      else
        let lands := (Mask.lanes c.active c.g.width).flatMap (fun l =>
          landWords (some l) d.toNat (MSize.load (if w64 then .b64 else .b32) (Memory.readN tm.scratch (o + 8 * l) (4 * n))))
        let s1 := s.modTeam t (fun tm =>
          let tm1 := tm.copyBlocks (s.nscr tm) o 512
          { tm1 with fifos := modifyAt tm1.fifos k (fun _ => ((head + 1) % 64, count - 1)) })
        c.spadDone s1 (.must fs) [(b, 1)] 0 lands (namesOf d.toNat n) []))

/-! ## PHASE (R230) -/

/-- PHASE: the lane set parks until the rendezvous. -/
def execPhase (fs : Bool) : State → Host.Outcome State Fault Refusal :=
  issue { flag := .may fs } (fun c s => .park (c.slot s) .phase)

end Sys2Proof.Machine
end

