-- ==== Sys2Proof/Machine/Phase.lean ====
section
/-! DEFINITION. The rendezvous of a phase, the commit arbiter, the checkpoint, the commit and the restart (10: R230 to
R237). -/
namespace Sys2Proof.Machine

/-- A lane passes the instruction it is parked at (R230, R242). -/
def Lane.pass (x : Lane) : Lane :=
  match x.resume with
  | none => { x with park := none }
  | some c =>
    if c.pos + 1 < c.words.length then { x with resume := some { c with pos := c.pos + 1 }, park := none }
    else { x with pc := c.succ, resume := none, park := none }

/-- Threads of the group that run and are not switched off. -/
def Group.threads (g : Group) : List Lane :=
  ((upTo g.width).filter (fun l => !g.svmask.getLsbD l)).map g.lane |>.filter (fun x => x.thread == .running)

/-- Every operation the team has issued has completed. -/
def Team.quiet (tm : Team) : Bool := tm.groups.all (fun g => g.ops.isEmpty) && tm.cmds.isEmpty

/-- Every thread has exited or been switched off (R142): none runs, none is filed. -/
def Team.finished (tm : Team) : Bool :=
  tm.groups.all (fun g => g.threads.isEmpty) && tm.bins.all (fun b => b.threads.isEmpty)

/-- The rendezvous (R230): every thread left is parked at a PHASE and every operation has completed; idle lanes of a bound
group arrive with its limb lanes (R275). -/
def Team.atPhase (tm : Team) : Bool :=
  !tm.finished && tm.quiet && tm.bins.all (fun b => b.threads.isEmpty) &&
  tm.groups.all (fun g => g.halt.isNone && !g.inTurn &&
    (upTo g.width).all (fun l => !g.laneLive l || (g.lane l).park == some .phase))

/-- The arbiter may grant a commit of the team: no other team holds the exclusive token, which delays the commits of all others
(R236, R255). -/
def State.mayCommit (s : State) (t : Nat) : Bool := s.sched.holder.isNone || s.sched.holder = some t

/-- The check of a checked phase (R233): fails on a match with a later commit, or when one is no longer kept. -/
def State.checkFails (s : State) (tm : Team) : Bool :=
  tm.ckpt.isSome &&
  (256 < s.sched.commitSeq - tm.commitB ||
   s.sched.commits.any (fun c => tm.commitB < c.1 && (tm.rs.hits c.2 || tm.ws.hits c.2)))

/-- The grid's record gives the team checkpoint banks. -/
def State.checked (s : State) (tm : Team) : Bool := 0 < ((s.grid? tm.grid).map (fun g => g.lr.nckpt)).getD 0

/-- The names a new checkpoint counts on; an unchecked team keeps none (R234). Results still on their way land as before, and
as they stand on their way the checkpoint holds them. -/
def Group.keepAll (g : Group) (chk : Bool) : Group :=
  { g with retained := if chk then ⟨g.boundV, g.boundS, [], [], [], []⟩ else ⟨[], [], [], [], [], []⟩, svGone := 0 }

/-- A checkpoint of the team as it stands (Table 10-3), at commit number `b`. -/
def Team.takeCheckpoint (tm : Team) (chk : Bool) (b : Nat) : Team :=
  let gs := tm.groups.map (fun g => g.keepAll chk)
  { tm with groups := gs, rs := Sig.zero, ws := Sig.zero, commitB := b,
            ckpt := if chk then some ⟨gs, tm.bins, [], [], [], [], [], 0⟩ else none }

/-- What every commit does, at PHASE or at exit (R230, R233): number it and keep its write signature, publish the staged
lines, drop the undeclared lines, give the token up. -/
def State.publish (s : State) (t : Nat) (tm : Team) : State :=
  let n := s.sched.commitSeq + 1
  let s1 : State := { s with sched := { s.sched with commitSeq := n, commits := ((n, tm.ws) :: s.sched.commits).take 256 } }
  let s2 := ((s1.release t).dropUndeclared t tm).modTeam t (fun x => { x with restarts := 0, wantToken := false }.count 4 1)
  s2.dropToken t

/-- A failed check: the restart follows once the team's operations are complete (R235). -/
def State.failCheck (s : State) (t : Nat) : State := s.modTeam t (fun x => { x with restarting := true })

/-- PHASE_COMMIT (R230 to R233): at the rendezvous the arbiter grants and checks the commit. -/
def execPhaseCommit (t : Nat) (s : State) : Host.Outcome State Fault Refusal :=
  match s.team? t with
  | none => .next s
  | some tm =>
    if !(tm.st == .running && !tm.restarting && tm.mig.isNone && !tm.uce && tm.atPhase && s.mayCommit t) then .next s
    else if s.checkFails tm then .next (s.failCheck t)
    else
      let s1 := s.publish t tm
      let wake (x : Lane) : Lane := if x.park == some .phase then x.pass else x
      .next (s1.modTeam t (fun x =>
        ({ x with phaseId := x.phaseId + 1, since := { x.since with committed := true },
                  groups := x.groups.map (fun g => { g with lanes := g.lanes.map wake }) } : Team).takeCheckpoint
          (s.checked tm) s1.sched.commitSeq))

/-- A group as the checkpoint holds it, in the slot it has on the core the team now occupies: what is irrevocable, and
what the checkpoint does not hold, stays (R235): a lane switched off since stays so, also where its group has dissolved and
its slot been refilled. -/
def Group.restored (old now : Group) : Group :=
  { old with
    slice := now.slice, slot := now.slot, svmask := old.svmask ||| now.svmask ||| now.svGone, svGone := now.svGone,
    gstat := old.gstat ||| (now.gstat &&& gSviol), swerved := false, later := [], rest := now.rest, turnEnd := now.turnEnd,
    lastIssue := now.lastIssue, nextOp := now.nextOp,
    ops := [], quietAt := now.quietAt, colA := Collect.idle, colB := Collect.idle,
    portA := none, portB := none, halt := none, clauses := now.clauses, instrs := now.instrs,
    promotes := now.promotes, grantHold := now.grantHold }

/-- A restored group all of whose lanes have been switched off since the checkpoint dissolves (R42). -/
def Group.endIfEmpty (g : Group) (now : Nat) : Group := if g.live then g.dissolve now else g

/-- Put the copied blocks, FIFO controls and tiles back (R234, R235). -/
def Team.restoreMemory (tm : Team) (k : Checkpoint) : Team :=
  let back (m : Memory) (p : Nat × List Byte) : Memory := Memory.writeN m (2048 * p.1) p.2
  let inBlock (g : Nat) : Bool := AMap.has k.blocks (g / 256)
  let tile (x : AMap Word) (p : Nat × List Word) : AMap Word :=
    (p.2.foldl (fun (a : AMap Word × Nat) w => (accPut a.1 (4096 * p.1 + a.2) w, a.2 + 1)) (x, 0)).1
  let bad := tm.accBad.filter (fun r => !AMap.has k.tiles (r / 64))
  { tm with
    scratch := k.blocks.foldl back tm.scratch,
    scratchBad := k.blockBad.foldl setIns (tm.scratchBad.filter (fun g => !inBlock g)),
    fifos := k.fifos.foldl (fun f p => modifyAt f p.1 (fun _ => p.2)) tm.fifos,
    acc := k.tiles.foldl tile tm.acc,
    accBad := k.tileBad.foldl (fun b p => (p.2.map (fun r => 64 * p.1 + r)).foldl setIns b) bad }

/-- After four consecutive restarts the team takes the exclusive token, or waits for it (R236). -/
def State.takeToken (s : State) (t : Nat) : State :=
  match s.team? t with
  | none => s
  | some tm =>
    if tm.restarts < 4 then s
    else if s.sched.holder.isNone then { s with sched := { s.sched with holder := some t } }
    else if s.sched.holder = some t then s
    else s.modTeam t (fun x => { x with wantToken := true })

/-- PHASE_RESTART (R235, R236). -/
def execPhaseRestart (t : Nat) (s : State) : Host.Outcome State Fault Refusal :=
  match s.team? t with
  | none => .next s
  | some tm =>
    match tm.ckpt with
    | none => .next s
    | some k =>
      if !(tm.st == .running && tm.restarting && tm.mig.isNone && !tm.uce && tm.quiet) then .next s
      else
        let s1 := s.dropUndeclared t tm
        let now (g : Group) : Group := (tm.group? g.grp).getD g
        let s2 := s1.modTeam t (fun x =>
          let y := ({ x with groups := k.groups.map (fun g => (g.restored (now g)).endIfEmpty s.clk), bins := k.bins, staged := [],
                             restarting := false, restarts := x.restarts + 1 } : Team).restoreMemory k
          (y.takeCheckpoint true s.sched.commitSeq).count 3 1)
        .next (s2.takeToken t)

end Sys2Proof.Machine
end

