-- ==== Sys2Proof/Decode.lean ====
section
/-! DEFINITION. Instruction words (R71 to R76, Table 5-2): the field codes, the encoder and the decoder. Decoding reads
the fields of the opcode's format and accepts the word when the instruction is well formed and its encoding is the word:
so every field that must be zero, every reserved code and every illegal guard is refused (ILLENC), and an unassigned
opcode is refused as ILLOP (R104, R106, R77). -/
namespace Sys2Proof

/-- Why a word is no instruction (R77): ILLOP precedes ILLENC. -/
inductive BadWord where
  | illOp | illEnc
  deriving DecidableEq, Repr

/-! ## Codes of fields -/

/-- Guard field, bit 3 negate (R71). -/
def Guard.enc (g : Guard) : BitVec 4 := BitVec.ofBool g.neg ++ g.p

def Guard.dec (x : BitVec 4) : Guard := ⟨x.getLsbD 3, x.extractLsb' 0 3⟩

/-- Operand code (Table 3-4). -/
def Opnd.enc : Opnd → BitVec 10
  | .v n => 0#2 ++ n
  | .s n => BitVec.ofNat 10 (0x100 + n.toNat)
  | .p n => BitVec.ofNat 10 (0x280 + n.toNat)
  | .special k => BitVec.ofNat 10 (0x2C0 + k.toNat)
  | .nat k => BitVec.ofNat 10 (0x300 + k.toNat)
  | .neg k => BitVec.ofNat 10 (0x340 + k.toNat)
  | .fp k => BitVec.ofNat 10 (0x350 + k.toNat)

/-- The operand a code names (Table 3-4); codes not listed name none (R73). -/
def Opnd.dec (x : BitVec 10) : Option Opnd :=
  let c := x.toNat
  if c < 0x100 then some (.v (BitVec.ofNat 8 c))
  else if c < 0x280 then some (.s (BitVec.ofNat 9 (c - 0x100)))
  else if c < 0x288 then some (.p (BitVec.ofNat 3 (c - 0x280)))
  else if c < 0x2C0 then none
  else if c < 0x2D0 then some (.special (BitVec.ofNat 4 (c - 0x2C0)))
  else if c < 0x300 then none
  else if c < 0x340 then some (.nat (BitVec.ofNat 6 (c - 0x300)))
  else if c < 0x350 then some (.neg (BitVec.ofNat 4 (c - 0x340)))
  else if c < 0x360 then some (.fp (BitVec.ofNat 4 (c - 0x350)))
  else none

/-- Source field: LU, KP, code (R72). -/
def Src.enc (x : Src) : BitVec 12 := BitVec.ofBool x.lu ++ BitVec.ofBool x.kp ++ x.op.enc

def Src.dec (x : BitVec 12) : Option Src :=
  (Opnd.dec (x.extractLsb' 0 10)).map fun o => ⟨o, x.getLsbD 11, x.getLsbD 10⟩

/-- Codes of a uniform and of a vector destination. -/
def sDst (d : BitVec 9) : BitVec 10 := BitVec.ofNat 10 (0x100 + d.toNat)
def vDst (d : BitVec 8) : BitVec 10 := 0#2 ++ d

/-- The uniform register a destination code names. -/
def sOf (x : BitVec 10) : Option (BitVec 9) :=
  if 0x100 ≤ x.toNat ∧ x.toNat < 0x280 then some (BitVec.ofNat 9 (x.toNat - 0x100)) else none

/-- The vector register a destination code names. -/
def vOf (x : BitVec 10) : Option (BitVec 8) :=
  if x.toNat < 0x100 then some (x.extractLsb' 0 8) else none

/-- A destination in a 12-bit DATA field, bits 11:10 zero (R76). -/
def data10 (x : BitVec 12) : Option (BitVec 10) := if x.toNat < 0x400 then some (x.extractLsb' 0 10) else none

def STy.enc : STy → BitVec 3
  | .i32 => 0 | .n32 => 1

def STy.dec (x : BitVec 3) : Option STy :=
  if x = 0 then some .i32 else if x = 1 then some .n32 else none

/-- Table 5-3. -/
def ITy.enc : ITy → BitVec 3
  | .i32 => 0 | .n32 => 1 | .i16 => 2 | .n16 => 3 | .i8 => 4 | .n8 => 5 | .i4 => 6 | .n4 => 7

def ITy.dec (x : BitVec 3) : ITy :=
  if x = 0 then .i32 else if x = 1 then .n32 else if x = 2 then .i16 else if x = 3 then .n16
  else if x = 4 then .i8 else if x = 5 then .n8 else if x = 6 then .i4 else .n4

/-- FTYPE (Table 5-4). -/
def FTy.enc : FTy → BitVec 2
  | .f32 => 0 | .f16 => 1 | .bf16 => 2

def FTy.dec (x : BitVec 2) : Option FTy :=
  if x = 0 then some .f32 else if x = 1 then some .f16 else if x = 2 then some .bf16 else none

/-- RND (Table 5-4). -/
def Rnd.enc : Rnd → BitVec 3
  | .dyn => 0 | .rne => 1 | .rtz => 2 | .rup => 3 | .rdn => 4 | .rna => 5 | .sr => 6

def Rnd.dec (x : BitVec 3) : Option Rnd :=
  if x = 0 then some .dyn else if x = 1 then some .rne else if x = 2 then some .rtz else if x = 3 then some .rup
  else if x = 4 then some .rdn else if x = 5 then some .rna else if x = 6 then some .sr else none

/-- Format codes (Table 4-1). -/
def Fmt.enc : Fmt → BitVec 5
  | .i8 => 0x00 | .n8 => 0x01 | .i16 => 0x02 | .n16 => 0x03 | .i32 => 0x04 | .n32 => 0x05 | .i4 => 0x06 | .n4 => 0x07
  | .f32 => 0x08 | .f16 => 0x09 | .bf16 => 0x0A | .e4m3 => 0x0B | .e5m2 => 0x0C | .e2m3 => 0x0D | .e3m2 => 0x0E
  | .e2m1 => 0x0F | .ter => 0x10 | .mxe4m3 => 0x1B | .mxe5m2 => 0x1C | .mxe2m1 => 0x1F

def Fmt.dec (x : BitVec 5) : Option Fmt :=
  if x = 0x00 then some .i8 else if x = 0x01 then some .n8 else if x = 0x02 then some .i16
  else if x = 0x03 then some .n16 else if x = 0x04 then some .i32 else if x = 0x05 then some .n32
  else if x = 0x06 then some .i4 else if x = 0x07 then some .n4 else if x = 0x08 then some .f32
  else if x = 0x09 then some .f16 else if x = 0x0A then some .bf16 else if x = 0x0B then some .e4m3
  else if x = 0x0C then some .e5m2 else if x = 0x0D then some .e2m3 else if x = 0x0E then some .e3m2
  else if x = 0x0F then some .e2m1 else if x = 0x10 then some .ter else if x = 0x1B then some .mxe4m3
  else if x = 0x1C then some .mxe5m2 else if x = 0x1F then some .mxe2m1 else none

/-- SFMT, TFMT, FMT of the MX instructions (Table 11-4, R194). -/
def MxFmt.enc : MxFmt → BitVec 2
  | .e4m3 => 0 | .e5m2 => 1 | .e2m1 => 2

def MxFmt.dec (x : BitVec 2) : Option MxFmt :=
  if x = 0 then some .e4m3 else if x = 1 then some .e5m2 else if x = 2 then some .e2m1 else none

/-- Table 5-5. -/
def Cond.enc : Cond → BitVec 3
  | .eq => 0 | .ne => 1 | .lt => 2 | .le => 3 | .gt => 4 | .ge => 5 | .ord => 6 | .uno => 7

def Cond.dec (x : BitVec 3) : Cond :=
  if x = 0 then .eq else if x = 1 then .ne else if x = 2 then .lt else if x = 3 then .le
  else if x = 4 then .gt else if x = 5 then .ge else if x = 6 then .ord else .uno

/-- Access sizes (Table 5-6). -/
def MSize.enc : MSize → BitVec 3
  | .n8 => 0 | .i8 => 1 | .n16 => 2 | .i16 => 3 | .b32 => 4 | .b64 => 5 | .b128 => 6

def MSize.dec (x : BitVec 3) : Option MSize :=
  if x = 0 then some .n8 else if x = 1 then some .i8 else if x = 2 then some .n16 else if x = 3 then some .i16
  else if x = 4 then some .b32 else if x = 5 then some .b64 else if x = 6 then some .b128 else none

/-- Scopes (Table 5-6). -/
def Scope.enc : Scope → BitVec 3
  | .g => 0 | .t => 1 | .k => 2 | .d => 3 | .f => 4

def Scope.dec (x : BitVec 3) : Option Scope :=
  if x = 0 then some .g else if x = 1 then some .t else if x = 2 then some .k else if x = 3 then some .d
  else if x = 4 then some .f else none

/-- Orders (Table 5-6). -/
def Order.enc : Order → BitVec 2
  | .rlx => 0 | .acq => 1 | .rel => 2 | .ar => 3

def Order.dec (x : BitVec 2) : Order :=
  if x = 0 then .rlx else if x = 1 then .acq else if x = 2 then .rel else .ar

/-- Table 5-7. -/
def AtomOp.enc : AtomOp → BitVec 4
  | .add32 => 0x0 | .add64 => 0x1 | .addF => 0x2 | .minS => 0x3 | .minU => 0x4 | .maxS => 0x5 | .maxU => 0x6
  | .and => 0x7 | .or => 0x8 | .xor => 0x9 | .exch32 => 0xA | .exch64 => 0xB | .cas32 => 0xC | .cas64 => 0xD | .inc => 0xE

def AtomOp.dec (x : BitVec 4) : Option AtomOp :=
  if x = 0x0 then some .add32 else if x = 0x1 then some .add64 else if x = 0x2 then some .addF
  else if x = 0x3 then some .minS else if x = 0x4 then some .minU else if x = 0x5 then some .maxS
  else if x = 0x6 then some .maxU else if x = 0x7 then some .and else if x = 0x8 then some .or
  else if x = 0x9 then some .xor else if x = 0xA then some .exch32 else if x = 0xB then some .exch64
  else if x = 0xC then some .cas32 else if x = 0xD then some .cas64 else if x = 0xE then some .inc else none

/-- MODE of V.SHFL (Table 7-5). -/
def ShMode.enc : ShMode → BitVec 2
  | .idx => 0 | .up => 1 | .down => 2 | .xor => 3

def ShMode.dec (x : BitVec 2) : ShMode :=
  if x = 0 then .idx else if x = 1 then .up else if x = 2 then .down else .xor

/-- Table 7-6. -/
def RedOp.enc : RedOp → BitVec 4
  | .addI => 0 | .addF => 1 | .minI => 2 | .minN => 3 | .maxI => 4 | .maxN => 5 | .and => 6 | .or => 7 | .xor => 8
  | .minF => 9 | .maxF => 10

def RedOp.dec (x : BitVec 4) : Option RedOp :=
  if x = 0 then some .addI else if x = 1 then some .addF else if x = 2 then some .minI else if x = 3 then some .minN
  else if x = 4 then some .maxI else if x = 5 then some .maxN else if x = 6 then some .and else if x = 7 then some .or
  else if x = 8 then some .xor else if x = 9 then some .minF else if x = 10 then some .maxF else none

/-- Table 7-7. -/
def VoteOp.enc : VoteOp → BitVec 3
  | .all => 0 | .any => 1 | .uni => 2 | .ballot => 3 | .count => 4

def VoteOp.dec (x : BitVec 3) : Option VoteOp :=
  if x = 0 then some .all else if x = 1 then some .any else if x = 2 then some .uni
  else if x = 3 then some .ballot else if x = 4 then some .count else none

/-- VAR of WAITA (Table 10-8). -/
def WaitCc.enc : WaitCc → BitVec 2
  | .eq => 0 | .ne => 1 | .ge => 2 | .any => 3

def WaitCc.dec (x : BitVec 2) : WaitCc :=
  if x = 0 then .eq else if x = 1 then .ne else if x = 2 then .ge else .any

/-- MXF of CPT (Table 14-2). -/
def MxF.enc : MxF → BitVec 2
  | .none => 0 | .fp8 => 1 | .fp4 => 2

def MxF.dec (x : BitVec 2) : Option MxF :=
  if x = 0 then some .none else if x = 1 then some .fp8 else if x = 2 then some .fp4 else Option.none

/-- OP and TYPE of COLL (Table 14-2). -/
def CollOp.enc : CollOp → BitVec 2
  | .allred => 0 | .allgath => 1 | .redscat => 2

def CollOp.dec (x : BitVec 2) : Option CollOp :=
  if x = 0 then some .allred else if x = 1 then some .allgath else if x = 2 then some .redscat else none

def CollTy.enc : CollTy → BitVec 2
  | .f32 => 0 | .bf16 => 1 | .i32 => 2

def CollTy.dec (x : BitVec 2) : Option CollTy :=
  if x = 0 then some .f32 else if x = 1 then some .bf16 else if x = 2 then some .i32 else none

/-! ## Formats (Table 3-7) -/

/-- V3 and VI; for VI, `s2` is IMM12. -/
def packV (op : BitVec 8) (g : Guard) (dst : BitVec 10) (s0 s1 s2 : BitVec 12) (mod : BitVec 5) : DWord :=
  op ++ g.enc ++ 0#1 ++ dst ++ s0 ++ s1 ++ s2 ++ mod

/-- V3 with FSEL (LAUNCH, ICINV). -/
def packVF (op : BitVec 8) (fs : Bool) (dst : BitVec 10) (s0 s1 s2 : BitVec 12) (mod : BitVec 5) : DWord :=
  op ++ Guard.always.enc ++ BitVec.ofBool fs ++ dst ++ s0 ++ s1 ++ s2 ++ mod

def packVL (op : BitVec 8) (fs : Bool) (dst : BitVec 10) (mod : BitVec 9) (imm : Word) : DWord :=
  op ++ Guard.always.enc ++ BitVec.ofBool fs ++ dst ++ mod ++ imm

def packM (op : BitVec 8) (g : Guard) (fs : Bool) (data base offs : BitVec 12) (pol : BitVec 9) (mod : BitVec 6) :
    DWord :=
  op ++ g.enc ++ BitVec.ofBool fs ++ data ++ base ++ offs ++ pol ++ mod

def packX (op : BitVec 8) (fs : Bool) (acc ta tb : BitVec 4) (stat : BitVec 9) (mod : BitVec 30) : DWord :=
  op ++ Guard.always.enc ++ BitVec.ofBool fs ++ acc ++ ta ++ tb ++ stat ++ mod

def packA (op : BitVec 8) (fs : Bool) (desc sig sigv : BitVec 9) (mod : BitVec 24) : DWord :=
  op ++ Guard.always.enc ++ BitVec.ofBool fs ++ desc ++ sig ++ sigv ++ mod

def packB (op : BitVec 8) (g : Guard) (cond : BitVec 12) (off : Word) (mod : BitVec 7) : DWord :=
  op ++ g.enc ++ 0#1 ++ cond ++ off ++ mod

def fOp (w : DWord) : BitVec 8 := w.extractLsb' 56 8
def fGuard (w : DWord) : Guard := Guard.dec (w.extractLsb' 52 4)
def fFs (w : DWord) : Bool := w.getLsbD 51
def fDst (w : DWord) : BitVec 10 := w.extractLsb' 41 10
def fS0 (w : DWord) : BitVec 12 := w.extractLsb' 29 12
def fS1 (w : DWord) : BitVec 12 := w.extractLsb' 17 12
def fS2 (w : DWord) : BitVec 12 := w.extractLsb' 5 12
def fMod (w : DWord) : BitVec 5 := w.extractLsb' 0 5
def fVlMod (w : DWord) : BitVec 9 := w.extractLsb' 32 9
def fImm32 (w : DWord) : Word := w.extractLsb' 0 32
def fData (w : DWord) : BitVec 12 := w.extractLsb' 39 12
def fBase (w : DWord) : BitVec 12 := w.extractLsb' 27 12
def fOffs (w : DWord) : BitVec 12 := w.extractLsb' 15 12
def fPol (w : DWord) : BitVec 9 := w.extractLsb' 6 9
def fMMod (w : DWord) : BitVec 6 := w.extractLsb' 0 6
def fAcc (w : DWord) : BitVec 4 := w.extractLsb' 47 4
def fTa (w : DWord) : BitVec 4 := w.extractLsb' 43 4
def fTb (w : DWord) : BitVec 4 := w.extractLsb' 39 4
def fStat (w : DWord) : BitVec 9 := w.extractLsb' 30 9
def fXMod (w : DWord) : BitVec 30 := w.extractLsb' 0 30
def fDesc (w : DWord) : BitVec 9 := w.extractLsb' 42 9
def fSig (w : DWord) : BitVec 9 := w.extractLsb' 33 9
def fSigv (w : DWord) : BitVec 9 := w.extractLsb' 24 9
def fAMod (w : DWord) : BitVec 24 := w.extractLsb' 0 24
def fCond (w : DWord) : BitVec 12 := w.extractLsb' 39 12
def fOff32 (w : DWord) : Word := w.extractLsb' 7 32

/-! ## Encoder -/

/-- An operand code in a 12-bit field, bits 11:10 zero. -/
def data12 (x : BitVec 10) : BitVec 12 := 0#2 ++ x

/-- W64 or another flag in MOD[0]. -/
def mod5b (b : Bool) : BitVec 5 := 0#4 ++ BitVec.ofBool b

/-- Integer MOD (R108): SAT and type. -/
def modI (sat : Bool) (t : BitVec 3) : BitVec 5 := 0#1 ++ BitVec.ofBool sat ++ t

/-- Float MOD (R109). -/
def modF (f : FTy) (r : Rnd) : BitVec 5 := f.enc ++ r.enc

/-- IMM12 of a conversion (R110). -/
def immCvt (df sf : Fmt) : BitVec 12 := 0#2 ++ sf.enc ++ df.enc

/-- IMM12 of a compare (R111). -/
def immCc (cc : Cond) : BitVec 12 := 0#9 ++ cc.enc

/-- IMM12 of a bit-field instruction (R132). -/
def immBf (pos : BitVec 5) (len : BitVec 6) : BitVec 12 := 0#1 ++ len ++ pos

/-- V3 of up to three sources with MOD, unguarded. -/
def e3 (op : BitVec 8) (dst : BitVec 10) (a b c : Option Src) (mod : BitVec 5) : DWord :=
  packV op Guard.always dst (a.elim 0 Src.enc) (b.elim 0 Src.enc) (c.elim 0 Src.enc) mod

/-- VI of up to two sources with IMM12 and MOD, unguarded. -/
def eI (op : BitVec 8) (dst : BitVec 10) (a b : Option Src) (imm : BitVec 12) (mod : BitVec 5) : DWord :=
  packV op Guard.always dst (a.elim 0 Src.enc) (b.elim 0 Src.enc) imm mod

/-- Memory MOD (R112). -/
def modM (sz : MSize) (pk : BitVec 2) : BitVec 6 := sz.enc ++ pk ++ 0#1

def eM (op : BitVec 8) (g : Guard) (fs : Bool) (data : BitVec 12) (m : MAddr) (pol : BitVec 9) (mod : BitVec 6) : DWord :=
  packM op g fs data m.base.enc m.offs.enc pol mod

/-- Synchronisation MOD (R243): SPACE, SCOPE, VAR. -/
def modS (glob : Bool) (sc : Scope) (var : BitVec 2) : BitVec 6 := BitVec.ofBool glob ++ sc.enc ++ var

/-- A scratchpad synchronisation object: SPACE 0, SCOPE field 0. -/
def eS (op : BitVec 8) (fs : Bool) (data : BitVec 12) (m : MAddr) (mod : BitVec 6) : DWord :=
  eM op Guard.always fs data m 0 mod

/-- A command (R311): `bits` are MOD[23:6]. -/
def eA (op : BitVec 8) (c : CmdF) (bits : BitVec 18) : DWord :=
  let (sig, sigv) := c.sig.getD (0x1FF#9, 0#9)
  packA op c.fs c.desc sig sigv (bits ++ BitVec.ofBool c.ssp ++ c.prio ++ c.scope.enc)

/-- The constant 0 as a source field (the BASE of a FIFO instruction, R251). -/
def zeroSrc : Src := ⟨.nat 0, false, false⟩

namespace Instr

/-- The word of an instruction (Tables 5-2 and 3-7 and each class's field tables); events have none. -/
def encodeU : Instr → Option DWord
  | .sMov w d a => some (e3 0x00 (sDst d) (some a) none none (mod5b w))
  | .sLi x d imm => some (packVL 0x01 false (sDst d) (0#8 ++ BitVec.ofBool x) imm)
  | .sAdd t sat d a b => some (e3 0x02 (sDst d) (some a) (some b) none (modI sat t.enc))
  | .sSub t sat d a b => some (e3 0x03 (sDst d) (some a) (some b) none (modI sat t.enc))
  | .sMul t d a b => some (e3 0x04 (sDst d) (some a) (some b) none (modI false t.enc))
  | .sMulhi t d a b => some (e3 0x05 (sDst d) (some a) (some b) none (modI false t.enc))
  | .sAnd t d a b => some (e3 0x06 (sDst d) (some a) (some b) none (modI false t.enc))
  | .sOr t d a b => some (e3 0x07 (sDst d) (some a) (some b) none (modI false t.enc))
  | .sXor t d a b => some (e3 0x08 (sDst d) (some a) (some b) none (modI false t.enc))
  | .sNot t d a => some (e3 0x09 (sDst d) (some a) none none (modI false t.enc))
  | .sShl t d a b => some (e3 0x0A (sDst d) (some a) (some b) none (modI false t.enc))
  | .sShr t d a b => some (e3 0x0B (sDst d) (some a) (some b) none (modI false t.enc))
  | .sSra t d a b => some (e3 0x0C (sDst d) (some a) (some b) none (modI false t.enc))
  | .sMin t d a b => some (e3 0x0D (sDst d) (some a) (some b) none (modI false t.enc))
  | .sMax t d a b => some (e3 0x0E (sDst d) (some a) (some b) none (modI false t.enc))
  | .sAdd64 d a b => some (e3 0x0F (sDst d) (some a) (some b) none 0)
  | .sSub64 d a b => some (e3 0x10 (sDst d) (some a) (some b) none 0)
  | .sShl64 d a b => some (e3 0x11 (sDst d) (some a) (some b) none 0)
  | .sCmp cc t d a b => some (eI 0x12 d.enc (some a) (some b) (immCc cc) (modI false t.enc))
  | .sSel g w d a b c => some (packV 0x13 g (sDst d) a.enc b.enc c.enc (mod5b w))
  | .sBfe t d a pos len => some (eI 0x14 (sDst d) (some a) none (immBf pos len) (modI false t.enc))
  | .sBfi t d a b pos len => some (eI 0x15 (sDst d) (some a) (some b) (immBf pos len) (modI false t.enc))
  | .sClz d a => some (e3 0x16 (sDst d) (some a) none none 0)
  | .sPopc d a => some (e3 0x17 (sDst d) (some a) none none 0)
  | .sRsr w d n => some (eI 0x18 (sDst d) none none n (mod5b w))
  | .sWsr w n a => some (eI 0x19 0 (some a) none n (mod5b w))
  | .sVget w d a i => some (e3 0x1A (sDst d) (some a) (some i) none (mod5b w))
  | .br g none off => some (packB 0x30 g 0 off 0)
  | .br g (some (z, x)) off => some (packB 0x30 g x.enc off (if z then 2 else 1))
  | .brx g a => some (packV 0x31 g 0 a.enc 0 0 0)
  | .call g l off => some (packB 0x32 g (data12 l.enc) off 0)
  | .ret g a => some (packV 0x33 g 0 a.enc 0 0 0)
  | .reform none => some (e3 0x34 0 none none none 0)
  | .reform (some a) => some (e3 0x34 0 (some a) none none 1)
  | .exit => some (e3 0x35 0 none none none 0)
  | .nop => some (e3 0x36 0 none none none 0)
  | .yield => some (e3 0x37 0 none none none 0)
  | _ => none

/-- Vector integer and cross-lane words. -/
def encodeVI : Instr → Option DWord
  | .vMov w d a => some (e3 0x40 (vDst d) (some a) none none (mod5b w))
  | .vLi x d imm => some (packVL 0x41 false (vDst d) (0#8 ++ BitVec.ofBool x) imm)
  | .vAdd t sat d a b => some (e3 0x42 (vDst d) (some a) (some b) none (modI sat t.enc))
  | .vSub t sat d a b => some (e3 0x43 (vDst d) (some a) (some b) none (modI sat t.enc))
  | .vMul t d a b => some (e3 0x44 (vDst d) (some a) (some b) none (modI false t.enc))
  | .vMulhi t d a b => some (e3 0x45 (vDst d) (some a) (some b) none (modI false t.enc))
  | .vMad t sat d a b c => some (e3 0x46 (vDst d) (some a) (some b) (some c) (modI sat t.enc))
  | .vMadw t d a b c => some (e3 0x47 (vDst d) (some a) (some b) (some c) (modI false t.enc))
  | .vAnd t d a b => some (e3 0x48 (vDst d) (some a) (some b) none (modI false t.enc))
  | .vOr t d a b => some (e3 0x49 (vDst d) (some a) (some b) none (modI false t.enc))
  | .vXor t d a b => some (e3 0x4A (vDst d) (some a) (some b) none (modI false t.enc))
  | .vNot t d a => some (e3 0x4B (vDst d) (some a) none none (modI false t.enc))
  | .vShl t d a b => some (e3 0x4C (vDst d) (some a) (some b) none (modI false t.enc))
  | .vShr t d a b => some (e3 0x4D (vDst d) (some a) (some b) none (modI false t.enc))
  | .vSra t d a b => some (e3 0x4E (vDst d) (some a) (some b) none (modI false t.enc))
  | .vMin t d a b => some (e3 0x4F (vDst d) (some a) (some b) none (modI false t.enc))
  | .vMax t d a b => some (e3 0x50 (vDst d) (some a) (some b) none (modI false t.enc))
  | .vAbs t sat d a => some (e3 0x51 (vDst d) (some a) none none (modI sat t.enc))
  | .vCmp cc t d a b => some (eI 0x52 d.enc (some a) (some b) (immCc cc) (modI false t.enc))
  | .vSel g w d a b c => some (packV 0x53 g (vDst d) a.enc b.enc c.enc (mod5b w))
  | .vBfe t d a pos len => some (eI 0x54 (vDst d) (some a) none (immBf pos len) (modI false t.enc))
  | .vBfi t d a b pos len => some (eI 0x55 (vDst d) (some a) (some b) (immBf pos len) (modI false t.enc))
  | .vPopc t d a => some (e3 0x56 (vDst d) (some a) none none (modI false t.enc))
  | .vClz t d a => some (e3 0x57 (vDst d) (some a) none none (modI false t.enc))
  | .vDot4 asg bsg sat d a b c =>
    some (e3 0x58 (vDst d) (some a) (some b) (some c)
      (0#2 ++ BitVec.ofBool sat ++ BitVec.ofBool bsg ++ BitVec.ofBool asg))
  | .vReq o d a m q => some (e3 0x59 (vDst d) (some a) (some m) (some q) (mod5b o))
  | .vUnpk3 byte pd d a => some (e3 0x5A (vDst d) (some a) none none (pd ++ byte))
  | .vCvt df sf d a => some (eI 0x5B (vDst d) (some a) none (immCvt df sf) 0)
  | .vShfl m seg d a k off => some (eI 0x60 (vDst d) (some a) (some k) off (seg ++ m.enc))
  | .vRed op d a => some (e3 0x61 d.enc (some a) none none (0#1 ++ op.enc))
  | .vScan ex op d a => some (e3 0x62 (vDst d) (some a) none none (BitVec.ofBool ex ++ op.enc))
  | .vBcast w seg d a i => some (e3 0x63 (vDst d) (some a) (some i) none (0#1 ++ BitVec.ofBool w ++ seg))
  | .vVote op d a => some (e3 0x64 d.enc (some a) none none (0#2 ++ op.enc))
  | _ => none

/-- Vector floating-point words. -/
def encodeVF : Instr → Option DWord
  | .vFadd f r d a b => some (e3 0x70 (vDst d) (some a) (some b) none (modF f r))
  | .vFsub f r d a b => some (e3 0x71 (vDst d) (some a) (some b) none (modF f r))
  | .vFmul f r d a b => some (e3 0x72 (vDst d) (some a) (some b) none (modF f r))
  | .vFmin f d a b => some (e3 0x73 (vDst d) (some a) (some b) none (modF f .dyn))
  | .vFfma f r d a b c => some (e3 0x74 (vDst d) (some a) (some b) (some c) (modF f r))
  | .vFmax f d a b => some (e3 0x75 (vDst d) (some a) (some b) none (modF f .dyn))
  | .vFcmp cc f d a b => some (eI 0x76 d.enc (some a) (some b) (immCc cc) (modF f .dyn))
  | .vFclass f d a => some (e3 0x77 (vDst d) (some a) none none (modF f .dyn))
  | .vFrnd f r d a => some (e3 0x78 (vDst d) (some a) none none (modF f r))
  | .vFcvt df sf r d a rb => some (eI 0x79 (vDst d) (some a) rb (immCvt df sf) (0#2 ++ r.enc))
  | .vFicvt df sf r d a => some (eI 0x7A (vDst d) (some a) none (immCvt df sf) (0#2 ++ r.enc))
  | .vFrcp d a => some (e3 0x7B (vDst d) (some a) none none 0)
  | .vFrsq d a => some (e3 0x7C (vDst d) (some a) none none 0)
  | .vFsqrt r d a => some (e3 0x7D (vDst d) (some a) none none (0#2 ++ r.enc))
  | .vFexp2 d a => some (e3 0x7E (vDst d) (some a) none none 0)
  | .vFlog2 d a => some (e3 0x7F (vDst d) (some a) none none 0)
  | .vFsin d a => some (e3 0x80 (vDst d) (some a) none none 0)
  | .vFcos d a => some (e3 0x81 (vDst d) (some a) none none 0)
  | .vHfma2 f r d a b c => some (e3 0x82 (vDst d) (some a) (some b) (some c) (modF f r))
  | .vHadd2 f r d a b => some (e3 0x83 (vDst d) (some a) (some b) none (modF f r))
  | .vHmul2 f r d a b => some (e3 0x84 (vDst d) (some a) (some b) none (modF f r))
  | .vMxscl m d a => some (e3 0x85 (vDst d) (some a) none none (m.enc ++ 0#3))
  | .vMxpack m r d a sc rb => some (e3 0x86 (vDst d) (some a) (some sc) rb (m.enc ++ r.enc))
  | _ => none

/-- Memory, atomic and MX words. -/
def encodeM : Instr → Option DWord
  | .ld fs sz d m pol => some (eM 0x90 .always fs (data12 (vDst d)) m pol (modM sz 0))
  | .st g fs sz x m pol => some (eM 0x91 g fs x.enc m pol (modM sz 0))
  | .lds fs sz d m => some (eM 0x92 .always fs (data12 (vDst d)) m 0x1FF (modM sz 0))
  | .sts g fs sz x m => some (eM 0x93 g fs x.enc m 0x1FF (modM sz 0))
  | .ldr fs sz pk d m => some (eM 0x94 .always fs (data12 (vDst d)) m 0x1FF (modM sz pk))
  | .str g fs sz pk x m => some (eM 0x95 g fs x.enc m 0x1FF (modM sz pk))
  | .ldu fs sz d m pol => some (eM 0x96 .always fs (data12 (sDst d)) m pol (modM sz 0))
  | .stu g fs sz x m pol => some (eM 0x97 g fs x.enc m pol (modM sz 0))
  | .ldc fs sz d m => some (eM 0x98 .always fs (data12 d.enc) m 0x1FF (modM sz 0))
  | .pref fs l1 m pol => some (eM 0x99 .always fs 0 m pol (0#1 ++ BitVec.ofBool l1 ++ 0#4))
  | .fence fs sc o => some (packM 0x9A .always fs 0 0 0 0 (sc.enc ++ o.enc ++ 0#1))
  | .phase fs => some (packM 0x9B .always fs 0 0 0 0 0)
  | .mxld fs tf d m => some (eM 0x9C .always fs (data12 (vDst d)) m 0 (0#2 ++ tf.enc ++ 0#2))
  | .mxacc g fs tf sf x m slu sreg =>
    some (eM 0x9D g fs x.enc m (BitVec.ofBool slu ++ sreg) (sf.enc ++ tf.enc ++ 0#2))
  | .atom g fs op sc o rt x m =>
    some (eM (BitVec.ofNat 8 (0xA0 + sc.enc.toNat)) g fs x.enc m (0#8 ++ BitVec.ofBool rt) (op.enc ++ o.enc))
  | .atoms g fs op sc o rt pk x m =>
    some (eM (BitVec.ofNat 8 (0xA8 + sc.enc.toNat)) g fs x.enc m
      (0#5 ++ BitVec.ofBool pk.isSome ++ pk.getD 0 ++ BitVec.ofBool rt) (op.enc ++ o.enc))
  | .atomu g fs op sc o rt x m =>
    some (eM (BitVec.ofNat 8 (0xAB + sc.enc.toNat)) g fs x.enc m (0#8 ++ BitVec.ofBool rt) (op.enc ++ o.enc))
  | .mmld fs b d m => some (eM 0xF4 .always fs (data12 (sDst d)) m 0x1FF (modM (if b then .b64 else .b32) 0))
  | .mmst fs b x m => some (eM 0xF5 .always fs x.enc m 0x1FF (modM (if b then .b64 else .b32) 0))
  | _ => none

/-- Matrix words. -/
def encodeX : Instr → Option DWord
  | .tdef t u => some (packX 0xB0 false 0 t 0 0x1FF (0#21 ++ u))
  | .mma fs acc ta tb stat za capf koff =>
    some (packX 0xB1 fs acc ta tb (stat.getD 0x1FF) (0#24 ++ BitVec.ofBool za ++ BitVec.ofBool capf ++ koff))
  | .accZero fs acc => some (packX 0xB2 fs acc 0 0 0x1FF 0)
  | .accLd fs acc ta => some (packX 0xB3 fs acc ta 0 0x1FF 0)
  | .accSt fs acc ta => some (packX 0xB4 fs acc ta 0 0x1FF 0)
  | .accRd fs acc v cb => some (packX 0xB5 fs acc 0 0 0x1FF (0#19 ++ cb ++ v))
  | .accWr fs acc v cb vlu => some (packX 0xB6 fs acc 0 0 0x1FF (0#18 ++ BitVec.ofBool vlu ++ cb ++ v))
  | .accOut fs acc ta r => some (packX 0xB7 fs acc ta 0 0x1FF (0#27 ++ r.enc))
  | .mstat fs d clr => some (packX 0xB8 fs 0 0 0 0x1FF (0#20 ++ BitVec.ofBool clr ++ d))
  | _ => none

/-- Command words. -/
def encodeA : Instr → Option DWord
  | .cp c => some (eA 0xC0 c 0)
  | .cpt c dir mx => some (eA 0xC1 c (0#15 ++ mx.enc ++ BitVec.ofBool dir))
  | .cpg c ix => some (eA 0xC2 c (0#17 ++ BitVec.ofBool ix))
  | .cpsc c ix => some (eA 0xC3 c (0#17 ++ BitVec.ofBool ix))
  | .cpr c => some (eA 0xC4 c 0)
  | .cpx c win => some (eA 0xC5 c (0#17 ++ BitVec.ofBool win))
  | .coll c op ty => some (eA 0xC6 c (0#14 ++ ty.enc ++ op.enc))
  | .cpq c => some (eA 0xC7 c 0)
  | _ => none

/-- Synchronisation words. -/
def encodeS : Instr → Option DWord
  | .barInit fs m n => some (eS 0xD0 fs n.enc m 0)
  | .barArr fs m drop => some (eS 0xD1 fs 0 m (0#5 ++ BitVec.ofBool drop))
  | .barWait fs m => some (eS 0xD2 fs 0 m 0)
  | .barAw fs m drop => some (eS 0xD3 fs 0 m (0#5 ++ BitVec.ofBool drop))
  | .tktTake fs gl d m => some (eS 0xD4 fs (data12 (sDst d)) m (modS gl .g 0))
  | .tktWait fs gl sc m t => some (eS 0xD5 fs t.enc m (modS gl sc 0))
  | .tktPass fs gl sc m => some (eS 0xD6 fs 0 m (modS gl sc 0))
  | .waita fs gl sc cc m x => some (eS 0xD7 fs x.enc m (modS gl sc cc.enc))
  | .waitf fs mask => some (packVL 0xD8 fs 0 0 (0#20 ++ mask))
  | .fifoPush fs w b x => some (packM 0xD9 .always fs x.enc zeroSrc.enc b.enc 0 (0#5 ++ BitVec.ofBool w))
  | .fifoPop fs w b d => some (packM 0xDA .always fs (data12 (vDst d)) zeroSrc.enc b.enc 0 (0#5 ++ BitVec.ofBool w))
  | _ => none

/-- Long-integer and system words. -/
def encodeLY : Instr → Option DWord
  | .lbind n => some (eI 0xE0 0 none none n 0)
  | .lfree => some (e3 0xE1 0 none none none 0)
  | .ladd cin d x y => some (e3 0xE2 (vDst d) (some x) (some y) none (mod5b cin))
  | .lsub cin d x y => some (e3 0xE3 (vDst d) (some x) (some y) none (mod5b cin))
  | .lneg d x => some (e3 0xE4 (vDst d) (some x) none none 0)
  | .lshl d x a => some (e3 0xE5 (vDst d) (some x) (some a) none 0)
  | .lshr ar d x a => some (e3 0xE6 (vDst d) (some x) (some a) none (mod5b ar))
  | .lmulw d x a j => some (eI 0xE7 (vDst d) (some x) (some a) (0#6 ++ j) 0)
  | .lcmp cc sg d x y => some (e3 0xE8 d.enc (some x) (some y) none (0#1 ++ BitVec.ofBool sg ++ cc.enc))
  | .lcarry clr d => some (e3 0xE9 (sDst d) none none none (mod5b clr))
  | .trap n => some (packVL 0xEC false 0 0 n)
  | .brk n => some (packVL 0xED false 0 0 n)
  | .launch fs d q a => some (packVF 0xEE fs (sDst d) q.enc a.enc 0 0)
  | .perf w clr d n => some (eI 0xEF (sDst d) none none n (0#3 ++ BitVec.ofBool clr ++ BitVec.ofBool w))
  | .icinv fs all a l => some (packVF 0xF0 fs 0 a.enc l.enc 0 (mod5b all))
  | .clk d => some (e3 0xF1 (sDst d) none none none 0)
  | .wfi => some (e3 0xF2 0 none none none 0)
  | .iret => some (e3 0xF3 0 none none none 0)
  | _ => none

end Instr

/-- The word of an instruction; an event has none. -/
def encode (i : Instr) : Option DWord :=
  i.encodeU <|> i.encodeVI <|> i.encodeVF <|> i.encodeM <|> i.encodeX <|> i.encodeA <|> i.encodeS <|> i.encodeLY

/-! ## Decoder -/

/-- The memory operand of a format M word. -/
def fAddr (w : DWord) : Option MAddr := do
  let b ← Src.dec (fBase w)
  let o ← Src.dec (fOffs w)
  some ⟨b, o⟩

/-- The common fields of a command word (R311). -/
def fCmd (w : DWord) : Option CmdF := do
  let sc ← Scope.dec ((fAMod w).extractLsb' 0 3)
  some { fs := fFs w, desc := fDesc w, sig := if fSig w = 0x1FF then none else some (fSig w, fSigv w),
         ssp := (fAMod w).getLsbD 5, prio := (fAMod w).extractLsb' 3 2, scope := sc }

/-- Two-source uniform arithmetic of type field MOD[2:0]. -/
def dU2 (w : DWord) (f : STy → BitVec 9 → Src → Src → Instr) : Option Instr := do
  let t ← STy.dec ((fMod w).extractLsb' 0 3)
  let d ← sOf (fDst w)
  let a ← Src.dec (fS0 w)
  let b ← Src.dec (fS1 w)
  some (f t d a b)

def dU64 (w : DWord) (f : BitVec 9 → Src → Src → Instr) : Option Instr := do
  let d ← sOf (fDst w)
  let a ← Src.dec (fS0 w)
  let b ← Src.dec (fS1 w)
  some (f d a b)

def dU1 (w : DWord) (f : BitVec 9 → Src → Instr) : Option Instr := do
  let d ← sOf (fDst w)
  let a ← Src.dec (fS0 w)
  some (f d a)

/-- Uniform and control opcodes, 0x00 to 0x37. -/
def decodeU (op : Nat) (w : DWord) : Option Instr :=
  let m0 := w.getLsbD 0
  let sat := w.getLsbD 3
  match op with
  | 0x00 => dU1 w (.sMov m0)
  | 0x01 => (sOf (fDst w)).map fun d => .sLi (w.getLsbD 32) d (fImm32 w)
  | 0x02 => dU2 w (.sAdd · sat)
  | 0x03 => dU2 w (.sSub · sat)
  | 0x04 => dU2 w .sMul
  | 0x05 => dU2 w .sMulhi
  | 0x06 => dU2 w .sAnd
  | 0x07 => dU2 w .sOr
  | 0x08 => dU2 w .sXor
  | 0x09 => dU2 w (fun t d a _ => .sNot t d a)
  | 0x0A => dU2 w .sShl
  | 0x0B => dU2 w .sShr
  | 0x0C => dU2 w .sSra
  | 0x0D => dU2 w .sMin
  | 0x0E => dU2 w .sMax
  | 0x0F => dU64 w .sAdd64
  | 0x10 => dU64 w .sSub64
  | 0x11 => dU64 w .sShl64
  | 0x12 => do
    let t ← STy.dec ((fMod w).extractLsb' 0 3)
    let d ← Opnd.dec (fDst w)
    let a ← Src.dec (fS0 w)
    let b ← Src.dec (fS1 w)
    some (.sCmp (Cond.dec ((fS2 w).extractLsb' 0 3)) t d a b)
  | 0x13 => do
    let d ← sOf (fDst w)
    let a ← Src.dec (fS0 w)
    let b ← Src.dec (fS1 w)
    let c ← Src.dec (fS2 w)
    some (.sSel (fGuard w) m0 d a b c)
  | 0x14 => dU2 w (fun t d a _ => .sBfe t d a ((fS2 w).extractLsb' 0 5) ((fS2 w).extractLsb' 5 6))
  | 0x15 => dU2 w (fun t d a b => .sBfi t d a b ((fS2 w).extractLsb' 0 5) ((fS2 w).extractLsb' 5 6))
  | 0x16 => dU1 w .sClz
  | 0x17 => dU1 w .sPopc
  | 0x18 => (sOf (fDst w)).map fun d => .sRsr m0 d (fS2 w)
  | 0x19 => (Src.dec (fS0 w)).map fun a => .sWsr m0 (fS2 w) a
  | 0x1A => dU64 w (.sVget m0)
  | 0x30 =>
    if w.extractLsb' 0 2 = 0#2 then some (.br (fGuard w) none (fOff32 w))
    else (Src.dec (fCond w)).map fun x => .br (fGuard w) (some (w.getLsbD 1, x)) (fOff32 w)
  | 0x31 => (Src.dec (fS0 w)).map fun a => .brx (fGuard w) a
  | 0x32 => (Opnd.dec ((fCond w).extractLsb' 0 10)).map fun l => .call (fGuard w) l (fOff32 w)
  | 0x33 => (Src.dec (fS0 w)).map fun a => .ret (fGuard w) a
  | 0x34 => if m0 then (Src.dec (fS0 w)).map fun a => .reform (some a) else some (.reform none)
  | 0x35 => some .exit
  | 0x36 => some .nop
  | 0x37 => some .yield
  | _ => none

def dV1 (w : DWord) (f : BitVec 8 → Src → Instr) : Option Instr := do
  let d ← vOf (fDst w)
  let a ← Src.dec (fS0 w)
  some (f d a)

def dV2 (w : DWord) (f : BitVec 8 → Src → Src → Instr) : Option Instr := do
  let d ← vOf (fDst w)
  let a ← Src.dec (fS0 w)
  let b ← Src.dec (fS1 w)
  some (f d a b)

def dV3 (w : DWord) (f : BitVec 8 → Src → Src → Src → Instr) : Option Instr := do
  let d ← vOf (fDst w)
  let a ← Src.dec (fS0 w)
  let b ← Src.dec (fS1 w)
  let c ← Src.dec (fS2 w)
  some (f d a b c)

/-- Vector integer opcodes, 0x40 to 0x5B. -/
def decodeVI (op : Nat) (w : DWord) : Option Instr :=
  let m0 := w.getLsbD 0
  let sat := w.getLsbD 3
  let t := ITy.dec ((fMod w).extractLsb' 0 3)
  let sty := STy.dec ((fMod w).extractLsb' 0 3)
  match op with
  | 0x40 => dV1 w (.vMov m0)
  | 0x41 => (vOf (fDst w)).map fun d => .vLi (w.getLsbD 32) d (fImm32 w)
  | 0x42 => dV2 w (.vAdd t sat)
  | 0x43 => dV2 w (.vSub t sat)
  | 0x44 => dV2 w (.vMul t)
  | 0x45 => dV2 w (.vMulhi t)
  | 0x46 => dV3 w (.vMad t sat)
  | 0x47 => do
    let t ← sty
    dV3 w (.vMadw t)
  | 0x48 => dV2 w (.vAnd t)
  | 0x49 => dV2 w (.vOr t)
  | 0x4A => dV2 w (.vXor t)
  | 0x4B => dV1 w (.vNot t)
  | 0x4C => dV2 w (.vShl t)
  | 0x4D => dV2 w (.vShr t)
  | 0x4E => dV2 w (.vSra t)
  | 0x4F => dV2 w (.vMin t)
  | 0x50 => dV2 w (.vMax t)
  | 0x51 => dV1 w (.vAbs t sat)
  | 0x52 => do
    let d ← Opnd.dec (fDst w)
    let a ← Src.dec (fS0 w)
    let b ← Src.dec (fS1 w)
    some (.vCmp (Cond.dec ((fS2 w).extractLsb' 0 3)) t d a b)
  | 0x53 => dV3 w (.vSel (fGuard w) m0)
  | 0x54 => do
    let t ← sty
    dV1 w (fun d a => .vBfe t d a ((fS2 w).extractLsb' 0 5) ((fS2 w).extractLsb' 5 6))
  | 0x55 => do
    let t ← sty
    dV2 w (fun d a b => .vBfi t d a b ((fS2 w).extractLsb' 0 5) ((fS2 w).extractLsb' 5 6))
  | 0x56 => dV1 w (.vPopc t)
  | 0x57 => dV1 w (.vClz t)
  | 0x58 => dV3 w (.vDot4 m0 (w.getLsbD 1) (w.getLsbD 2))
  | 0x59 => dV3 w (.vReq m0)
  | 0x5A => dV1 w (.vUnpk3 ((fMod w).extractLsb' 0 2) ((fMod w).extractLsb' 2 3))
  | 0x5B => do
    let df ← Fmt.dec ((fS2 w).extractLsb' 0 5)
    let sf ← Fmt.dec ((fS2 w).extractLsb' 5 5)
    dV1 w (.vCvt df sf)
  | 0x60 => dV2 w (fun d a k =>
      .vShfl (ShMode.dec ((fMod w).extractLsb' 0 2)) ((fMod w).extractLsb' 2 3) d a k (fS2 w))
  | 0x61 => do
    let o ← RedOp.dec ((fMod w).extractLsb' 0 4)
    let d ← Opnd.dec (fDst w)
    let a ← Src.dec (fS0 w)
    some (.vRed o d a)
  | 0x62 => do
    let o ← RedOp.dec ((fMod w).extractLsb' 0 4)
    dV1 w (.vScan (w.getLsbD 4) o)
  | 0x63 => dV2 w (.vBcast sat ((fMod w).extractLsb' 0 3))
  | 0x64 => do
    let o ← VoteOp.dec ((fMod w).extractLsb' 0 3)
    let d ← Opnd.dec (fDst w)
    let a ← Src.dec (fS0 w)
    some (.vVote o d a)
  | _ => none

/-- A typed float instruction of `k` sources. -/
def dF (w : DWord) (f : FTy → Rnd → Option Instr) : Option Instr := do
  let t ← FTy.dec ((fMod w).extractLsb' 3 2)
  let r ← Rnd.dec ((fMod w).extractLsb' 0 3)
  f t r

/-- The random-bit source: a field only when RND is 6 (R110, R196). -/
def dRb (r : Rnd) (x : BitVec 12) : Option (Option Src) :=
  if r = .sr then (Src.dec x).map some else some none

/-- Vector float opcodes, 0x70 to 0x86. -/
def decodeVF (op : Nat) (w : DWord) : Option Instr :=
  match op with
  | 0x70 => dF w fun t r => dV2 w (.vFadd t r)
  | 0x71 => dF w fun t r => dV2 w (.vFsub t r)
  | 0x72 => dF w fun t r => dV2 w (.vFmul t r)
  | 0x73 => dF w fun t _ => dV2 w (.vFmin t)
  | 0x74 => dF w fun t r => dV3 w (.vFfma t r)
  | 0x75 => dF w fun t _ => dV2 w (.vFmax t)
  | 0x76 => dF w fun t _ => do
    let d ← Opnd.dec (fDst w)
    let a ← Src.dec (fS0 w)
    let b ← Src.dec (fS1 w)
    some (.vFcmp (Cond.dec ((fS2 w).extractLsb' 0 3)) t d a b)
  | 0x77 => dF w fun t _ => dV1 w (.vFclass t)
  | 0x78 => dF w fun t r => dV1 w (.vFrnd t r)
  | 0x79 => dF w fun _ r => do
    let df ← Fmt.dec ((fS2 w).extractLsb' 0 5)
    let sf ← Fmt.dec ((fS2 w).extractLsb' 5 5)
    let rb ← dRb r (fS1 w)
    dV1 w (fun d a => .vFcvt df sf r d a rb)
  | 0x7A => dF w fun _ r => do
    let df ← Fmt.dec ((fS2 w).extractLsb' 0 5)
    let sf ← Fmt.dec ((fS2 w).extractLsb' 5 5)
    dV1 w (.vFicvt df sf r)
  | 0x7B => dV1 w .vFrcp
  | 0x7C => dV1 w .vFrsq
  | 0x7D => dF w fun _ r => dV1 w (.vFsqrt r)
  | 0x7E => dV1 w .vFexp2
  | 0x7F => dV1 w .vFlog2
  | 0x80 => dV1 w .vFsin
  | 0x81 => dV1 w .vFcos
  | 0x82 => dF w fun t r => dV3 w (.vHfma2 t r)
  | 0x83 => dF w fun t r => dV2 w (.vHadd2 t r)
  | 0x84 => dF w fun t r => dV2 w (.vHmul2 t r)
  | 0x85 => do
    let m ← MxFmt.dec ((fMod w).extractLsb' 3 2)
    dV1 w (.vMxscl m)
  | 0x86 => do
    let m ← MxFmt.dec ((fMod w).extractLsb' 3 2)
    let r ← Rnd.dec ((fMod w).extractLsb' 0 3)
    let rb ← dRb r (fS2 w)
    dV2 w (fun d a s => .vMxpack m r d a s rb)
  | _ => none

/-- The access size of a plain access (R112). -/
def fSz (w : DWord) : Option MSize := MSize.dec ((fMMod w).extractLsb' 3 3)

def dLdV (w : DWord) (f : MSize → BitVec 8 → MAddr → Instr) : Option Instr := do
  let sz ← fSz w
  let d ← data10 (fData w) >>= vOf
  let m ← fAddr w
  some (f sz d m)

def dSt (w : DWord) (f : MSize → Src → MAddr → Instr) : Option Instr := do
  let sz ← fSz w
  let x ← Src.dec (fData w)
  let m ← fAddr w
  some (f sz x m)

def dAtom (w : DWord) (f : AtomOp → Order → Bool → Src → MAddr → Instr) : Option Instr := do
  let op ← AtomOp.dec ((fMMod w).extractLsb' 2 4)
  let x ← Src.dec (fData w)
  let m ← fAddr w
  some (f op (Order.dec ((fMMod w).extractLsb' 0 2)) ((fPol w).getLsbD 0) x m)

/-- Memory, atomic and MX opcodes, 0x90 to 0xAF, and the Kennel's MMLD and MMST. -/
def decodeM (op : Nat) (w : DWord) : Option Instr :=
  let fs := fFs w
  let g := fGuard w
  let pk := (fMMod w).extractLsb' 1 2
  let sc (b : Nat) : Option Scope := Scope.dec (BitVec.ofNat 3 (op - b))
  let rpk := if (fPol w).getLsbD 3 then some ((fPol w).extractLsb' 1 2) else none
  let dA := dAtom w
  let atom : Option Instr := do
    let s ← sc 0xA0
    dA (fun o r ret x m => .atom g fs o s r ret x m)
  let atoms : Option Instr := do
    let s ← sc 0xA8
    dA (fun o r ret x m => .atoms g fs o s r ret rpk x m)
  let atomu : Option Instr := do
    let s ← sc 0xAB
    dA (fun o r ret x m => .atomu g fs o s r ret x m)
  match op with
  | 0x90 => dLdV w (fun sz d m => .ld fs sz d m (fPol w))
  | 0x91 => dSt w (fun sz x m => .st g fs sz x m (fPol w))
  | 0x92 => dLdV w (.lds fs)
  | 0x93 => dSt w (.sts g fs)
  | 0x94 => dLdV w (.ldr fs · pk)
  | 0x95 => dSt w (.str g fs · pk)
  | 0x96 => do
    let sz ← fSz w
    let d ← data10 (fData w) >>= sOf
    let m ← fAddr w
    some (.ldu fs sz d m (fPol w))
  | 0x97 => dSt w (fun sz x m => .stu g fs sz x m (fPol w))
  | 0x98 => do
    let sz ← fSz w
    let d ← data10 (fData w) >>= Opnd.dec
    let m ← fAddr w
    some (.ldc fs sz d m)
  | 0x99 => (fAddr w).map fun m => .pref fs (w.getLsbD 4) m (fPol w)
  | 0x9A => (Scope.dec ((fMMod w).extractLsb' 3 3)).map fun s => .fence fs s (Order.dec ((fMMod w).extractLsb' 1 2))
  | 0x9B => some (.phase fs)
  | 0x9C => do
    let t ← MxFmt.dec ((fMMod w).extractLsb' 2 2)
    let d ← data10 (fData w) >>= vOf
    let m ← fAddr w
    some (.mxld fs t d m)
  | 0x9D => do
    let t ← MxFmt.dec ((fMMod w).extractLsb' 2 2)
    let s ← MxFmt.dec ((fMMod w).extractLsb' 4 2)
    let x ← Src.dec (fData w)
    let m ← fAddr w
    some (.mxacc g fs t s x m ((fPol w).getLsbD 8) ((fPol w).extractLsb' 0 8))
  | 0xA0 => atom
  | 0xA1 => atom
  | 0xA2 => atom
  | 0xA3 => atom
  | 0xA4 => atom
  | 0xA8 => atoms
  | 0xA9 => atoms
  | 0xAA => atoms
  | 0xAC => atomu
  | 0xAD => atomu
  | 0xAE => atomu
  | 0xAF => atomu
  | 0xF4 => do
    let d ← data10 (fData w) >>= sOf
    let m ← fAddr w
    some (.mmld fs (w.getLsbD 3) d m)
  | 0xF5 => do
    let x ← Src.dec (fData w)
    let m ← fAddr w
    some (.mmst fs (w.getLsbD 3) x m)
  | _ => none

/-- Matrix and command opcodes, 0xB0 to 0xC7. -/
def decodeXA (op : Nat) (w : DWord) : Option Instr :=
  let fs := fFs w
  let m := fXMod w
  let b6 := w.getLsbD 6
  match op with
  | 0xB0 => some (.tdef (fTa w) (m.extractLsb' 0 9))
  | 0xB1 =>
    some (.mma fs (fAcc w) (fTa w) (fTb w) (if fStat w = 0x1FF then none else some (fStat w)) (w.getLsbD 5)
      (w.getLsbD 4) (m.extractLsb' 0 4))
  | 0xB2 => some (.accZero fs (fAcc w))
  | 0xB3 => some (.accLd fs (fAcc w) (fTa w))
  | 0xB4 => some (.accSt fs (fAcc w) (fTa w))
  | 0xB5 => some (.accRd fs (fAcc w) (m.extractLsb' 0 8) (m.extractLsb' 8 3))
  | 0xB6 => some (.accWr fs (fAcc w) (m.extractLsb' 0 8) (m.extractLsb' 8 3) (w.getLsbD 11))
  | 0xB7 => (Rnd.dec (m.extractLsb' 0 3)).map fun r => .accOut fs (fAcc w) (fTa w) r
  | 0xB8 => some (.mstat fs (m.extractLsb' 0 9) (w.getLsbD 9))
  | 0xC0 => (fCmd w).map .cp
  | 0xC1 => do
    let c ← fCmd w
    let mx ← MxF.dec (w.extractLsb' 7 2)
    some (.cpt c b6 mx)
  | 0xC2 => (fCmd w).map (.cpg · b6)
  | 0xC3 => (fCmd w).map (.cpsc · b6)
  | 0xC4 => (fCmd w).map .cpr
  | 0xC5 => (fCmd w).map (.cpx · b6)
  | 0xC6 => do
    let c ← fCmd w
    let o ← CollOp.dec (w.extractLsb' 6 2)
    let t ← CollTy.dec (w.extractLsb' 8 2)
    some (.coll c o t)
  | 0xC7 => (fCmd w).map .cpq
  | _ => none

/-- Synchronisation opcodes, 0xD0 to 0xDA. -/
def decodeS (op : Nat) (w : DWord) : Option Instr :=
  let fs := fFs w
  let gl := w.getLsbD 5
  let v0 := w.getLsbD 0
  let sc := Scope.dec (w.extractLsb' 2 3)
  match op with
  | 0xD0 => do
    let m ← fAddr w
    let n ← Src.dec (fData w)
    some (.barInit fs m n)
  | 0xD1 => (fAddr w).map (.barArr fs · v0)
  | 0xD2 => (fAddr w).map (.barWait fs)
  | 0xD3 => (fAddr w).map (.barAw fs · v0)
  | 0xD4 => do
    let d ← data10 (fData w) >>= sOf
    let m ← fAddr w
    some (.tktTake fs gl d m)
  | 0xD5 => do
    let s ← sc
    let m ← fAddr w
    let t ← Src.dec (fData w)
    some (.tktWait fs gl s m t)
  | 0xD6 => do
    let s ← sc
    let m ← fAddr w
    some (.tktPass fs gl s m)
  | 0xD7 => do
    let s ← sc
    let m ← fAddr w
    let x ← Src.dec (fData w)
    some (.waita fs gl s (WaitCc.dec (w.extractLsb' 0 2)) m x)
  | 0xD8 => some (.waitf fs (w.extractLsb' 0 12))
  | 0xD9 => do
    let b ← Src.dec (fOffs w)
    let x ← Src.dec (fData w)
    some (.fifoPush fs v0 b x)
  | 0xDA => do
    let b ← Src.dec (fOffs w)
    let d ← data10 (fData w) >>= vOf
    some (.fifoPop fs v0 b d)
  | _ => none

/-- Long-integer and system opcodes, 0xE0 to 0xF3. -/
def decodeLY (op : Nat) (w : DWord) : Option Instr :=
  let m0 := w.getLsbD 0
  match op with
  | 0xE0 => some (.lbind (fS2 w))
  | 0xE1 => some .lfree
  | 0xE2 => dV2 w (.ladd m0)
  | 0xE3 => dV2 w (.lsub m0)
  | 0xE4 => dV1 w .lneg
  | 0xE5 => dV2 w .lshl
  | 0xE6 => dV2 w (.lshr m0)
  | 0xE7 => dV2 w (fun d x a => .lmulw d x a ((fS2 w).extractLsb' 0 6))
  | 0xE8 => do
    let d ← Opnd.dec (fDst w)
    let x ← Src.dec (fS0 w)
    let y ← Src.dec (fS1 w)
    some (.lcmp (Cond.dec ((fMod w).extractLsb' 0 3)) (w.getLsbD 3) d x y)
  | 0xE9 => (sOf (fDst w)).map (.lcarry m0)
  | 0xEC => some (.trap (fImm32 w))
  | 0xED => some (.brk (fImm32 w))
  | 0xEE => do
    let d ← sOf (fDst w)
    let q ← Src.dec (fS0 w)
    let a ← Src.dec (fS1 w)
    some (.launch (fFs w) d q a)
  | 0xEF => (sOf (fDst w)).map fun d => .perf m0 (w.getLsbD 1) d (fS2 w)
  | 0xF0 => do
    let a ← Src.dec (fS0 w)
    let l ← Src.dec (fS1 w)
    some (.icinv (fFs w) m0 a l)
  | 0xF1 => (sOf (fDst w)).map .clk
  | 0xF2 => some .wfi
  | 0xF3 => some .iret
  | _ => none

/-- The opcodes Table 5-2 assigns. -/
def opAssigned (op : Nat) : Bool :=
  op ≤ 0x1A || (0x30 ≤ op && op ≤ 0x37) || (0x40 ≤ op && op ≤ 0x5B) || (0x60 ≤ op && op ≤ 0x64) ||
  (0x70 ≤ op && op ≤ 0x86) || (0x90 ≤ op && op ≤ 0x9D) || (0xA0 ≤ op && op ≤ 0xA4) || (0xA8 ≤ op && op ≤ 0xAA) ||
  (0xAC ≤ op && op ≤ 0xAF) || (0xB0 ≤ op && op ≤ 0xB8) || (0xC0 ≤ op && op ≤ 0xC7) || (0xD0 ≤ op && op ≤ 0xDA) ||
  (0xE0 ≤ op && op ≤ 0xE9) || (0xEC ≤ op && op ≤ 0xF5)

/-- The fields of a word as an instruction, its limits not yet judged. -/
def decodeFields (w : DWord) : Option Instr :=
  let op := (fOp w).toNat
  if op < 0x40 then decodeU op w
  else if op < 0x70 then decodeVI op w
  else if op < 0x90 then decodeVF op w
  else if op < 0xB0 then decodeM op w
  else if op < 0xD0 then decodeXA op w
  else if op < 0xE0 then decodeS op w
  else if op < 0xF4 then decodeLY op w
  else decodeM op w

/-- The instruction a word holds, or why it holds none (R71 to R77). -/
def decode (w : DWord) : Except BadWord Instr :=
  if opAssigned (fOp w).toNat then
    match decodeFields w with
    | some i => if i.wf && encode i == some w then .ok i else .error .illEnc
    | none => .error .illEnc
  else .error .illOp

/-- The host's question (one 64-bit word per row): the instruction the decoder reads from the bits `w`. -/
def decodeTableWord (_nbits w : Nat) : Option Instr :=
  match decode (BitVec.ofNat 64 w) with
  | .ok i => some i
  | .error _ => none

end Sys2Proof
end

