-- ==== Sys2Proof/Machine/Turn.lean ====
section
/-! DEFINITION. Turns of a slice: lane sets, readiness, the structural check of a clause, SAFEOVR, and the Kennel core's
clause fetch (02 R38 to R40, R47; 03 R62 to R67; 06 R146 to R149). -/
namespace Sys2Proof.Machine

/-! ## The structural check (R65) -/

/-- Header fields keep R62. -/
def headerOk (h : DWord) : Bool :=
  let setOk (x : Nat) : Bool := x < 12 || x = 15
  isHeader h && hClass h ≤ 6 && setOk (hSetA h) && setOk (hSetB h) && h.extractLsb' 0 26 = 0#26

/-- A clause-ending instruction (R64): BR, BRX, CALL, RET, REFORM, EXIT. -/
def isEnding (op : Nat) : Bool := 0x30 ≤ op && op ≤ 0x35

/-- Opcodes a clause of class `c` admits (Table 3-2), `last` for the last word. -/
def admits (c op : Nat) (last : Bool) : Bool :=
  op ≤ 0x2F || op = 0x36 || op = 0x37 || (isEnding op && last) ||
  (match c with
   | 0 => 0x40 ≤ op && op ≤ 0x8F
   | 1 => 0x90 ≤ op && op ≤ 0xAF
   | 2 => 0xB0 ≤ op && op ≤ 0xBF
   | 3 => 0xC0 ≤ op && op ≤ 0xCF
   | 4 => 0xD0 ≤ op && op ≤ 0xDF
   | 5 => 0xE0 ≤ op && op ≤ 0xEB
   | 6 => 0xEC ≤ op && op ≤ 0xFE
   | _ => false)

/-- A failed check: position and word of the first offender (0 for a word outside the extent, which is not fetched). -/
structure BadClause where
  pos : Nat
  word : DWord
  deriving DecidableEq, Repr

/-- Fetch and check body words `i` on, `n` still to come, from address `a` at position `p`. -/
def fetchBody (f : Fetcher) (cls : Nat) : Nat → Nat → Nat → State → List DWord × Option BadClause × State
  | 0, _, _, s => ([], none, s)
  | n + 1, a, p, s =>
    if !s.inExtent f a then ([], some ⟨p, 0⟩, s)
    else
      let (w, s1) := s.fetch f a
      let op := (w.extractLsb' 56 8).toNat
      if op = 0xFF || !admits cls op (n = 0) then ([], some ⟨p, w⟩, s1)
      else
        let (r, e, s2) := fetchBody f cls n (a + 8) (p + 1) s1
        (w :: r, e, s2)

/-- Fetch and check the clause at `a`, whose header lies in the extent. -/
def fetchClause (f : Fetcher) (a : DWord) (lanes : Mask) (s : State) : Except BadClause Clause × State :=
  let (h, s1) := s.fetch f a.toNat
  if !headerOk h then (.error ⟨0, h⟩, s1)
  else if hSafe h then
    if !s1.inExtent f (a.toNat + 8) then (.error ⟨1, 0⟩, s1)
    else
      let (m, s2) := s1.fetch f (a.toNat + 8)
      if m.getLsbD 63 then (.error ⟨1, m⟩, s2)
      else
        match fetchBody f (hClass h) (hCount h) (a.toNat + 16) 2 s2 with
        | (ws, none, s3) => (.ok ⟨a, h, some m, ws, 0, lanes⟩, s3)
        | (_, some e, s3) => (.error e, s3)
  else
    match fetchBody f (hClass h) (hCount h) (a.toNat + 8) 1 s1 with
    | (ws, none, s3) => (.ok ⟨a, h, none, ws, 0, lanes⟩, s3)
    | (_, some e, s3) => (.error e, s3)

/-! ## Lane sets -/

structure LaneSet where
  lanes : Mask
  pc : DWord
  resume : Option Clause
  lead : Nat
  wait : Nat
  deriving DecidableEq, Repr

/-- A lane that waits: parked, or to be filed. -/
def Lane.waits (x : Lane) : Bool := x.park.isSome || x.filing.isSome

/-- Add a lane to the sets formed so far: equal program counters and resume positions form one set (R149, R58). -/
def addLane (g : Group) (l : Nat) : List LaneSet → List LaneSet
  | [] => [⟨Mask.one l, (g.lane l).pc, (g.lane l).resume, l, (g.lane l).waitCnt⟩]
  | x :: r =>
    if x.pc = (g.lane l).pc ∧ x.resume = (g.lane l).resume then
      { x with lanes := x.lanes ||| Mask.one l, wait := max x.wait (g.lane l).waitCnt } :: r
    else x :: addLane g l r

/-- The group's lane sets, formed afresh from the lanes that do not wait (R149) and whose release has ended (R145). -/
def Group.laneSets (g : Group) (now : Nat) : List LaneSet :=
  ((upTo g.width).filter (fun l => g.laneLive l && !(g.lane l).waits && (g.lane l).readyAt ≤ now)).foldl
    (fun acc l => addLane g l acc) []

/-- The clause at `a` fails the structural check, which is made as soon as a lane set reaches its header (R65). -/
def State.malformed (s : State) (f : Fetcher) (a : DWord) : Bool :=
  match (fetchClause f a 0 s).1 with
  | .error _ => true
  | .ok _ => false

/-- Ready (R39): mid-clause, or at a clause whose WAIT flags are clear; a lane set at a safe point of a team that is to
be pre-empted has stopped there (R49). One that fails the structural check raises its trap, whatever WAIT. -/
def Group.ready (g : Group) (s : State) (f : Fetcher) (pre : Bool) (x : LaneSet) : Bool :=
  x.resume.isSome ||
  (let h := s.peek f x.pc.toNat
   !(s.target f x.pc) || s.malformed f x.pc || (g.flagsClear (hWait h) && !(pre && hSafe h)))

/-- The set taken before another (R39, R40): promoted first, by highest count then lowest program counter; otherwise
lowest program counter; then the lower leading lane (log 21). -/
def LaneSet.before (a b : LaneSet) : Bool :=
  let key (x : LaneSet) : Nat := if 64 ≤ x.wait then x.wait else 0
  if key a ≠ key b then key b < key a
  else if a.pc ≠ b.pc then a.pc.toNat < b.pc.toNat
  else a.lead < b.lead

def bestSet : List LaneSet → Option LaneSet
  | [] => none
  | x :: r =>
    match bestSet r with
    | none => some x
    | some y => if y.before x then some y else some x

/-- The two sets the ports take, port A the lower program counter (R39, R224). -/
def Group.pick (g : Group) (s : State) (f : Fetcher) (pre : Bool) : Option LaneSet × Option LaneSet :=
  let rs := (g.laneSets s.clk).filter (g.ready s f pre)
  match bestSet rs with
  | none => (none, none)
  | some a =>
    match bestSet (rs.filter (fun x => x ≠ a)) with
    | none => (some a, none)
    | some b => if b.pc.toNat < a.pc.toNat then (some b, some a) else (some a, some b)

/-! ## A turn -/

/-- A lane set that could not start its clause halts the group; the trap has no instruction of its own (R56). -/
def State.haltAt (s : State) (t gi : Nat) (x : LaneSet) (c : Cause) (lanes : Mask) (w : DWord) (pos : Nat) : State :=
  s.halt t gi false
    { cause := c, hpc := x.pc, lanes := lanes, instr := w, pos := pos, num := 0, regsel := 0, ederr := false, edAt := none,
      edited := 0 }
    false

/-- Lanes whose count of clauses since a safe point would reach 1,025 (R47). -/
def Group.safeOver (g : Group) (m : Mask) : Mask := m &&& g.lanesWhere (fun _ x => 1024 ≤ x.safeCnt)

/-- A port takes a lane set: it goes on inside its clause, or its header issues (R39, R47, R65). -/
def State.takeSet (s : State) (t gi : Nat) (b : Bool) (f : Fetcher) (x : LaneSet) : State :=
  match s.group? t gi with
  | none => s
  | some g =>
    if g.halt.isSome then s
    else
      match x.resume with
      | some c =>
        s.modGroup t gi (fun g => (g.modLanes x.lanes (fun y => { y with waitCnt := x.wait })).setPort b
          (some { c with lanes := x.lanes }))
      | none =>
        if !s.inExtent f x.pc.toNat then s.haltAt t gi x .badTarget x.lanes 0 0
        else
          match fetchClause f x.pc x.lanes s with
          | (.error e, s1) => s1.haltAt t gi x .illHdr x.lanes e.word e.pos
          | (.ok c, s1) =>
            if !hSafe c.hdr && g.safeOver x.lanes ≠ 0 then
              s1.haltAt t gi x .safeOvr (g.safeOver x.lanes) c.hdr 0
            else
              s1.modGroup t gi (fun g =>
                { (g.modLanes x.lanes (fun y =>
                    { y with waitCnt := 0, safeCnt := if hSafe c.hdr then 0 else y.safeCnt + 1 })).setPort b (some c) with
                  clauses := (g.clauses + 1) % 2 ^ 64 })

/-- Port B takes its lane set: one inside its clause goes on; a clause not yet begun it only claims, since port A's first
instruction, in the same slice cycle, may halt the group before port B's header issues (R57). -/
def State.claimSet (s : State) (t gi : Nat) (f : Fetcher) (x : LaneSet) : State :=
  if x.resume.isSome then s.takeSet t gi true f x
  else s.modGroup t gi (fun g => if g.halt.isSome then g else g.setPort true (some ⟨x.pc, 0, none, [], 0, x.lanes⟩))

/-- The lane set whose clause the port has claimed and not begun. -/
def Group.claimed (g : Group) (b : Bool) : Option LaneSet :=
  match g.port b with
  | some c => if c.words.isEmpty then some ⟨c.lanes, c.here, none, 0, 0⟩ else none
  | none => none

/-- The claimed clause begins; when it cannot, the group halts and the cycle ends. -/
def State.beginClaimed (s : State) (t gi : Nat) (b : Bool) (f : Fetcher) (x : LaneSet) : State :=
  let s1 := s.takeSet t gi b f x
  if ((s1.group? t gi).bind Group.halt).isSome then { s1.tick 1 with cycle := none } else s1

/-- Ready lane sets that no port took: their wait count rises; the one that reaches 64 is promoted (R40). -/
def Group.countWaits (g : Group) (s : State) (f : Fetcher) (pre : Bool) (a b : Option LaneSet) : Group :=
  (((g.laneSets s.clk).filter (g.ready s f pre)).filter (fun x => some x ≠ a ∧ some x ≠ b)).foldl
    (fun g x =>
      { g.modLanes x.lanes (fun y => { y with waitCnt := x.wait + 1 }) with
        promotes := if x.wait + 1 = 64 then (g.promotes + 1) % 2 ^ 64 else g.promotes }) g

/-- A group that may begin a turn (R147): it has a ready lane set, is not halted, frozen or being saved, and has rested after
its last turn (R148). -/
def State.eligible (s : State) (t : Nat) (tm : Team) (g : Group) : Bool :=
  tm.st == .running && !tm.uce && tm.mig.isNone && g.live && g.halt.isNone && !g.stalled && g.rest ≤ s.clk &&
  ((g.pick s ⟨tm.core, tm.grid⟩ tm.pre.isSome).1).isSome && (s.team? t).isSome

/-- Groups on a slice: team, group number, group. -/
def State.onSlice (s : State) (core slice : Nat) : List (Nat × Team × Group) :=
  (s.teams.filter (fun p => p.2.resident && p.2.core = core)).flatMap (fun p =>
    (p.2.groups.filter (fun g => g.slice = slice)).map (fun g => (p.1, p.2, g)))

/-- Older last issue, then lower slot (R147). -/
def olderThan (a b : Group) : Bool :=
  match a.lastIssue, b.lastIssue with
  | none, none => a.slot < b.slot
  | none, some _ => true
  | some _, none => false
  | some x, some y => if x = y then a.slot < b.slot else x < y

def oldestGroup : List (Nat × Team × Group) → Option (Nat × Team × Group)
  | [] => none
  | x :: r =>
    match oldestGroup r with
    | none => some x
    | some y => if olderThan y.2.2 x.2.2 then some y else some x

/-- Begin the turn of a group: lane sets, ports, wait counts. -/
def State.beginTurn (s : State) (t : Nat) (tm : Team) (g : Group) : State :=
  let f : Fetcher := ⟨tm.core, tm.grid⟩
  let (a, b) := g.pick s f tm.pre.isSome
  let s1 := s.modGroup t g.grp (fun g =>
    { g.countWaits s f tm.pre.isSome a b with lastIssue := some s.clk, colA := Collect.idle, colB := Collect.idle, swerved := false,
                                                 later := g.stillLater })
  let s2 := match a with
    | some x => s1.takeSet t g.grp false f x
    | none => s1
  let s3 := match b with
    | some x => s2.claimSet t g.grp f x
    | none => s2
  match s3.group? t g.grp with
  | some g' => { s3 with focus := .port t g.grp (g'.portA.isNone && g'.portB.isSome) }
  | none => s3

/-- TURN (R146): when no turn is in progress and no hop runs, the eligible group whose last issue is oldest begins its
turn; with none the slice idles a cycle. -/
def execTurn (core slice : Nat) (s : State) : Host.Outcome State Fault Refusal :=
  let gs := s.onSlice core slice
  if gs.any (fun x => x.2.2.inTurn && !x.2.1.uce) || ((s.core core).slice slice).hop.isSome then .next (s.tick 1)
  else
    match oldestGroup (gs.filter (fun x => s.eligible x.1 x.2.1 x.2.2)) with
    | some (t, tm, g) => .next (s.beginTurn t tm g)
    | none => .next (s.tick 1)

/-! ## The Kennel core's clauses -/

/-- An enabled interrupt is pending (R386, R387). -/
def State.kPending (s : State) : Word := s.k.kipend &&& s.k.kien

/-- The Kennel core at a clause boundary: it begins the clause at its program counter (R382, R383). -/
def State.kBegin (s : State) : State :=
  let a := s.kPc
  if !s.inExtent .kennel a.toNat then (s.kIllegal .badTarget 0 a).tick 1
  else
    match fetchClause .kennel a 1 s with
    | (.error e, s1) => (s1.kIllegal .illHdr e.word a).tick 1
    | (.ok c, s1) =>
      if !s1.k.grp.flagsClear (hWait c.hdr) then s1.tick 1
      else if !hSafe c.hdr && s1.k.grp.safeOver 1 ≠ 0 then (s1.kIllegal .safeOvr c.hdr a).tick 1
      else
        { s1 with k := { s1.k with grp := { (s1.k.grp.modLanes 1 (fun y =>
            { y with safeCnt := if hSafe c.hdr then 0 else y.safeCnt + 1 })) with portA := some c } } }

/-! ## What issues next -/

/-- The Core column of Table 5-2, by opcode (R104, R107). -/
def opCore (op : Nat) : CoreSet :=
  if op ≤ 0x19 || (0x30 ≤ op && op ≤ 0x33) || (0x35 ≤ op && op ≤ 0x37) || op = 0x96 || op = 0x97 || op = 0x9A ||
    (0xEC ≤ op && op ≤ 0xEE) || op = 0xF0 || op = 0xF1 then .both
  else if 0xF2 ≤ op && op ≤ 0xF5 then .kennel
  else .compute

/-- The instruction of a word, with the issuing core: ILLOP comes before ILLENC (R77, R106, R107). -/
def decodeFor (kennel : Bool) (w : DWord) : Except BadWord Instr :=
  if !(opCore (w.extractLsb' 56 8).toNat).allows kennel then .error .illOp else decode w

/-- What the agent in focus does next. -/
inductive NextSlot where
  | instr (i : Instr)          -- its slot holds this instruction
  | bad (s : State)            -- its word is none: the trap taken
  | move (i : Instr)           -- it begins a turn or enters an interrupt
  | go (s : State)             -- it begins a clause, turns to the other port, or idles
  deriving Repr

/-- A word that is no instruction (R106, R107). -/
def Ctx.badWord (c : Ctx) (s : State) (e : BadWord) : State :=
  (c.takeTrap s (match e with | .illOp => .illOp | .illEnc => .illEnc) c.active 0).tick 1

def State.nextSlot (s : State) : NextSlot :=
  match s.ctx? with
  | some c =>
    match decodeFor c.g.kennel c.cl.word with
    | .ok i => .instr i
    | .error e => .bad (c.badWord s e)
  | none =>
    match s.focus with
    | .kennel =>
      if !(s.k.started && s.k.locked.isNone && (s.k.grp.lane 0).thread == .running) then .go (s.tick 1)
      else if !s.k.inh && s.kPending ≠ 0 then .move .interruptEntry
      else .go s.kBegin
    | .port t gi b =>
      match s.team? t, s.group? t gi with
      | some tm, some g =>
        match if s.mayIssue s.focus g then g.claimed b else none with
        | some x => .go (s.beginClaimed t gi b ⟨tm.core, tm.grid⟩ x)
        | none =>
          if (g.port (!b)).isSome && s.mayIssue (.port t gi (!b)) g then .go { s with focus := .port t gi (!b) }
          else .move (.turn tm.core g.slice)
      | _, _ => .go (s.tick 1)

/-- An event's row: it has no word. -/
def isEvent (i : Instr) : Bool := (encode i).isNone

/-! ## A word placed where the next instruction is fetched -/

/-- A launch record with one role of one group of 64 lanes, whose code is two words at address 0. -/
def benchLaunch : Launch :=
  { replay := false, after := false, nobrk := false, prio := 0, shape := 0, pack := 1, nacc := 16, nscr := 16, nfifo := 4, nckpt := 4,
    nteam := 1, code := 0, codelen := 16, cwlen := 0, cwaddr := 0, root := 0, asid := 0, map := 0, compl := 0, svbuf := 0,
    svcap := 0, waitval := 0, waitaddr := 0, doneaddr := 0, doneval := 0, savestride := 0, save := 0,
    roles := [⟨64, 1, 256, 384⟩], ranges := [] }

/-- A grid just snapshotted. -/
def Grid.make (num : Word) (queue : Nat) (lr : Launch) (map : List Nat) (pins : List PageT) (now : Nat) : Grid :=
  { num := num, queue := queue, lr := lr, map := map, pins := pins, nextTeam := 0, ended := 0, fail := none,
    coolant := false, sviol := false, svovf := false, nsv := 0, relaunched := false, cores := [], scanFail := false,
    snapAt := now, completedAt := none, confirmed := false }

/-- A team just dispatched (R340, Table 10-2). -/
def Team.make (grid : Word) (team disp pack : Nat) (ranges : List Extent) (now : Nat) : Team :=
  { grid := grid, team := team, disp := disp, pack := pack, st := .dispatched, core := 0, resident := false,
    ranges := ranges, groups := [], scratch := [], scratchBad := [], fifos := [], acc := [], accBad := [], mstat := 0,
    phaseId := 0, rs := Sig.zero, ws := Sig.zero, ckpt := none, commitB := 0, restarts := 0, restarting := false,
    wantToken := false, staged := [], cmds := [], nextCmd := 0, fixups := [], bins := [], perf := List.replicate 8 0,
    mig := none, pre := none, hold := false, uce := false, since := Since.none, relaunches := 0, relaunched := false,
    dispAt := now, admAt := now, moveAt := now, resAt := now }

/-- The clause class whose range holds an opcode (Table 5-1). -/
def opClass (op : Nat) : Nat :=
  if op < 0x90 then 0 else if op < 0xB0 then 1 else if op < 0xC0 then 2 else if op < 0xD0 then 3
  else if op < 0xE0 then 4 else if op < 0xEC then 5 else 6

/-- A clause of the one word `w` at address 0, flags f0 and f1. -/
def benchClause (w : DWord) (lanes : Mask) : Clause :=
  let h : DWord := BitVec.ofNat 64 (0xFF * 2 ^ 56 + opClass (w.extractLsb' 56 8).toNat * 2 ^ 52 + 2 ^ 28)
  ⟨0, h, none, [w], 0, lanes⟩

/-- A running group of 64 threads whose port A holds the clause and has collected its operands. -/
def benchGroup (cl : Clause) : Group :=
  { Group.init 0 0 64 256 384 0 0 with
    lanes := (upTo 64).map (fun l => { Lane.empty with thread := .running, tid := l }), portA := some cl,
    colA := ⟨some 0, 0, []⟩ }

/-- The words of a clause in memory. -/
def placeCode (m : Memory) (cl : Clause) : Memory :=
  Memory.writeN m 0 (leBytes 8 cl.hdr.toNat ++ leBytes 8 cl.word.toNat)

/-- `s` with the word where its next instruction is fetched and in the slot that issues next: on the Kennel core for the
Kennel's own opcodes, else in a team of its own on core 0 (log 25). -/
def State.place (s : State) (w : DWord) : State :=
  if opCore (w.extractLsb' 56 8).toNat = .kennel then
    let cl := benchClause w 1
    let g := s.k.grp
    { s with agenda := [], focus := .kennel, cycle := none, conflict := none,
             k := { s.k with started := true, locked := none, sram := placeCode s.k.sram cl, ends := [],
                             grp := { (g.modLane 0 (fun x => { x with thread := .running, pc := 0 })) with
                               portA := some cl, live := true } } }
  else
    let cl := benchClause w (BitVec.allOnes 64)
    let n := s.sched.gridCount
    let t := s.sched.dispCount
    let tm := { Team.make n 0 t 0 [] s.clk with
      st := .running, resident := true, groups := [benchGroup cl], fifos := List.replicate 4 (0, 0) }
    { s with agenda := [], focus := .port t 0 false, cycle := none, conflict := none, mem := placeCode s.mem cl,
             grids := s.grids ++ [Grid.make n 0 benchLaunch [0] [⟨0, 65536, 0, false⟩] s.clk],
             teams := AMap.set s.teams t tm,
             sched := { s.sched with gridCount := n + 1, dispCount := t + 1 } }

end Sys2Proof.Machine
end

