-- ==== Sys2Proof/Machine/Grids.lean ====
section
/-! DEFINITION. How teams and grids end: pinned areas (15 R337), completion records (R352 to R354), kills (R58, R351,
16 R374 to R378), the exit of a team (06 R142). -/
namespace Sys2Proof.Machine

/-- L1 lines are dropped in every column. -/
def State.dropLines (s : State) (p : L1Line → Bool) : State :=
  { s with cols := s.cols.map (fun c => (c.1, { c.2 with l1 := c.2.l1.filter (fun x => !p x) })) }

/-! ## Pinned areas -/

/-- Cut [va, va + n) at 4 KiB boundaries. -/
def granules : Nat → Nat → Nat → List (Nat × Nat)
  | 0, _, _ => []
  | fuel + 1, va, n =>
    if n = 0 then []
    else
      let k := min n (4096 - va % 4096)
      (va, k) :: granules fuel (va + k) (n - k)

/-- The 4 KiB pieces of an area. -/
def areaPieces (va n : Nat) : List (Nat × Nat) := granules (n / 4096 + 2) va n

/-- Every byte of the area is pinned. -/
def pinned (ps : List PageT) (va n : Nat) : Bool := (areaPieces va n).all (fun p => (pageOf ps p.1).isSome)

/-- A store by the scheduler at pinned translations. -/
def State.pinWrite (s : State) (ps : List PageT) (va : Nat) (b : List Byte) : State :=
  (areaPieces va b.length).foldl (fun s p =>
    match pageOf ps p.1 with
    | some g => s.memWrite (g.at p.1) ((b.drop (p.1 - va)).take p.2)
    | none => s) s

/-- A read at pinned translations. -/
def State.pinRead (s : State) (ps : List PageT) (va n : Nat) : List Byte :=
  (areaPieces va n).flatMap (fun p =>
    match pageOf ps p.1 with
    | some g => Memory.readN s.mem (g.at p.1) p.2
    | none => List.replicate p.2 0)

/-! ## Completion (R352 to R354) -/

/-- STATUS (R352): of a rejected grid 3. -/
def Grid.status (g : Grid) : Nat :=
  match g.fail with
  | none => 1
  | some f => if f.cause = .hostKill then 4 else 2

/-- FLAGS without PROV and FAILSCAN. -/
def Grid.flags (g : Grid) : Nat :=
  (if g.sviol then 4 else 0) + (if g.relaunched then 8 else 0) + (if g.svovf then 16 else 0)

/-- The completion record (Table 15-9). -/
def Grid.record (g : Grid) (status flags check now : Nat) : List Byte :=
  let cause := (g.fail.map (fun f => f.cause.code)).getD 0
  let team := (g.fail.map FirstFail.team).getD 0
  let hpc := (g.fail.map (fun f => if f.cause.isTrap then f.hpc.toNat else 0)).getD 0
  leBytes 1 status ++ leBytes 1 flags ++ leBytes 1 cause ++ leBytes 1 check ++ leBytes 4 g.num.toNat ++ leBytes 4 team ++
    leBytes 4 g.nsv ++ leBytes 8 (now - g.snapAt) ++ leBytes 8 hpc ++ List.replicate 32 0

/-- The record, then the done signal, then GRIDDONE (R352); what cannot be pinned is not written (R337). -/
def State.writeDone (s : State) (g : Grid) (status flags check : Nat) : State :=
  let compl := pinned g.pins g.lr.compl.toNat 64
  let s1 := if compl then s.pinWrite g.pins g.lr.compl.toNat (g.record status flags check s.clk) else s
  let s2 :=
    if compl && g.lr.doneaddr ≠ 0 && pinned g.pins g.lr.doneaddr.toNat 4 then
      s1.pinWrite g.pins g.lr.doneaddr.toNat (leBytes 4 g.lr.doneval.toNat)
    else s1
  s2.event .gridDone ((g.fail.map (fun f => f.cause.code)).getD 0) 0 0 g.num ((g.fail.map FirstFail.team).getD 0)

/-- The grid goes: nothing of it changes any more. -/
def State.dropGrid (s : State) (n : Word) : State := { s with grids := s.grids.filter (fun g => g.num ≠ n) }

/-- Byte 1 of a completed grid's record becomes final (R354). -/
def State.finalByte (s : State) (g : Grid) (flags : Nat) (ty : EvType) : State :=
  ((s.pinWrite g.pins (g.lr.compl.toNat + 1) (leBytes 1 flags)).event ty (if ty = .failScan then Cause.failScan.code else 0) 0 0
    g.num 0).dropGrid g.num

/-- The grid with its completion record and done signal pinned, as far as they can be, should nothing be pinned yet. That a
grid rejected for a misaligned COMPL or DONEADDR has its record and signal written there all the same, where they are mapped,
is a DESIGN CHOICE of the model (log 63): R335 and R337 do not say. -/
def State.pinDone (s : State) (g : Grid) : Grid :=
  let pin (va n : Nat) : List PageT := (areaPieces va n).filterMap (fun p => (s.walk g.lr.root p.1).toOption)
  if g.pins.isEmpty then { g with pins := pin g.lr.compl.toNat 64 ++ pin g.lr.doneaddr.toNat 4 } else g

/-- A grid that has ended completes: provisional, but for one none of whose teams ran (R354). Its constant-window lines
are dropped (Table 9-3). -/
def State.complete (s0 : State) (n : Word) : State :=
  match s0.grid? n with
  | none => s0
  | some g =>
    let s := s0.dropLines (fun x => x.cwin && x.grid = n)
    if g.completedAt.isSome || g.ended < g.lr.nteam then s0
    else if g.cores.isEmpty then
      ((s.writeDone (s.pinDone g) g.status g.flags 0).event .confirm 0 0 0 g.num 0).dropGrid n
    else
      let s1 := s.writeDone g g.status (g.flags + 1) 0
      if g.scanFail then s1.finalByte g (g.flags + 3) .failScan
      else s1.modGrid n (fun x => { x with completedAt := some s.clk })

/-- A grid is rejected (R335): its record and done signal as far as they can be pinned. -/
def State.reject (s : State) (n : Word) (cause : Cause) (check : Nat) : State :=
  match s.grid? n with
  | none => s
  | some g0 =>
    let g := { s.pinDone g0 with fail := some ⟨cause, 0, 0⟩ }
    (s.writeDone g 3 0 check).dropGrid n

/-! ## The end of a team -/

/-- A team by its grid and number. -/
def State.find? (s : State) (n : Word) (team : Nat) : Option (Nat × Team) :=
  s.teams.find? (fun p => p.2.grid = n && p.2.team = team)

/-- Whose fault records an answer no longer concerns. -/
def Faulter.ofTeam (w : Faulter) (t : Nat) : Bool :=
  match w with
  | .entry u _ _ => u = t
  | .cmd u _ => u = t
  | .range u => u = t
  | _ => false

/-- A team's banks return to CACHE and its engine work, the lines only it may use, its records and token are given up
(R201, R374). -/
def State.freeResources (s : State) (t : Nat) (tm : Team) : State :=
  let mine (u : BankUse) : Bool :=
    match u with
    | .scratch x _ => x = t
    | .fifo x _ => x = t
    | .ckpt x _ => x = t
    | .draining x => x = t
    | .ready x => x = t
  let s1 := s.modCol (colOf tm.core) (fun c =>
    { c with banks := c.banks.filter (fun b => !mine b.2), l1 := c.l1.filter (fun x => x.cwin || x.cls = some .rd || x.team ≠ t) })
  let s2 := s1.modCore tm.core (fun c => { c with engineQ := c.engineQ.filter (fun e => e.1 ≠ t) })
  { s2.dropToken t with sched := { (s2.dropToken t).sched with
      tokens := (s2.dropToken t).sched.tokens.filter (fun k => !k.who.ofTeam t) } }

/-- The lines a team has filled are dropped when it ends (Table 9-3). -/
def State.dropTeamLines (s : State) (t : Nat) : State := s.dropLines (fun x => !x.cwin && x.team = t)

/-- The team is finished: its ranges are released with it; its unit has had an exit (R375). -/
def State.endTeam (s : State) (t : Nat) (tm : Team) : State :=
  let s1 := (if tm.resident then s.freeResources t tm else s).dropTeamLines t
  let s2 : State := { s1 with
    teams := ((AMap.erase s1.teams t).map (fun p =>
      if (s.unit tm).any (fun u => u.1 = p.1) then (p.1, { p.2 with since := { p.2.since with exited := true } }) else p)),
    sched := { s1.sched with tokens := s1.sched.tokens.filter (fun k => !k.who.ofTeam t) } }
  (s2.modGrid tm.grid (fun g => { g with ended := g.ended + 1 })).complete tm.grid

/-- The grid's first failure stands (R352). -/
def Grid.failed (g : Grid) (cause : Cause) (team : Nat) (hpc : DWord) : Grid :=
  if g.fail.isSome then g else { g with fail := some ⟨cause, team, hpc⟩ }

/-- The team had a group with switched-off lanes. -/
def Team.violated (tm : Team) : Bool := tm.groups.any (fun g => g.svmask ≠ 0#64)

/-- SVIOL is set whenever any team had such a group, whether it exits or is killed (R353). -/
def Grid.noteViol (g : Grid) (tm : Team) : Grid := { g with sviol := g.sviol || tm.violated }

/-- A team is killed (R58). -/
def State.killTeam (s : State) (t : Nat) (cause : Cause) : State :=
  match s.team? t with
  | none => s
  | some tm => (s.modGrid tm.grid (fun g => (g.failed cause tm.team 0).noteViol tm)).endTeam t tm

/-- A queue has dispatched its grid's last team, or the grid is killed. -/
def State.freeQueue (s : State) (n : Word) : State :=
  { s with queues := s.queues.map (fun p =>
      (p.1, { p.2 with grid := if p.2.grid = some n then none else p.2.grid, snap := if p.2.snap = some n then none else p.2.snap })) }

/-- The lowest-numbered unfinished team of a grid, 0 when there is none. -/
def State.firstTeam (s : State) (n : Word) : Nat :=
  match (s.teams.filter (fun p => p.2.grid = n)).map (fun p => p.2.team) with
  | [] => 0
  | x :: r => r.foldl min x

/-- Every team of a grid is killed; those not yet dispatched never run (R58, R377). -/
def State.killGrid (s : State) (n : Word) (cause : Cause) (team : Nat) : State :=
  match s.grid? n with
  | none => s
  | some g =>
    if g.completedAt.isSome then s
    else
      let s1 := (s.modGrid n (fun g => g.failed cause team 0)).freeQueue n
      let s2 := (s1.teams.filter (fun p => p.2.grid = n)).foldl (fun s p => s.killTeam p.1 cause) s1
      (s2.modGrid n (fun x => { x with ended := x.lr.nteam, nextTeam := x.lr.nteam })).complete n

/-- A host KILL of a grid. -/
def State.hostKill (s : State) (n : Word) : State := s.killGrid n .hostKill (s.firstTeam n)

/-! ## Exit (R142, R230, R353) -/

/-- Violation list entries of a team that exits (R353). -/
def State.violations (s : State) (tm : Team) : State :=
  tm.groups.foldl (fun s g =>
    if g.svmask = 0#64 then s
    else
      match s.grid? tm.grid with
      | none => s
      | some x =>
        let b := leBytes 8 g.svmask.toNat ++ leBytes 4 tm.team ++ leBytes 1 g.grp ++ leBytes 3 0
        if x.lr.svbuf ≠ 0 && x.nsv < x.lr.svcap then
          (s.pinWrite x.pins (x.lr.svbuf.toNat + 16 * x.nsv) b).modGrid tm.grid (fun x =>
            { x with sviol := true, nsv := x.nsv + 1 })
        else s.modGrid tm.grid (fun x => { x with sviol := true, svovf := true })) s

/-- TEAM_EXIT (R142): a finished team whose operations are complete commits and leaves; a failed check restarts its
phase. -/
def execTeamExit (t : Nat) (s : State) : Host.Outcome State Fault Refusal :=
  match s.team? t with
  | none => .next s
  | some tm =>
    if !(tm.st == .running && !tm.restarting && tm.mig.isNone && !tm.uce && tm.finished && tm.quiet && s.mayCommit t) then
      .next s
    else if s.checkFails tm then .next (s.failCheck t)
    else .next (((s.publish t tm).violations tm).endTeam t tm)

/-! ## Kill and relaunch of a unit (R374 to R378) -/

/-- Table 16-4 holds for the unit. -/
def mayRelaunch (u : List (Nat × Team)) (g : Grid) : Bool :=
  g.lr.replay && u.length = max 1 g.lr.pack &&
  u.all (fun p =>
    p.2.ranges.all (fun x => x.cls = .rd || x.cls = .wr) && p.2.relaunches < 2 &&
    p.2.since = Since.none)

/-- Core cycles resident are counted when a team leaves its column (Table 15-10). -/
def Team.countResident (tm : Team) (now : Nat) : Team := if tm.resident then tm.count 7 (now - tm.resAt) else tm

/-- A team starts over: its number, ranges and counters stay (R376). -/
def Team.again (tm : Team) (now : Nat) : Team :=
  let x := tm.countResident now
  { Team.make x.grid x.team x.disp x.pack x.ranges now with
    perf := x.perf, relaunches := x.relaunches + 1, relaunched := true, dispAt := x.dispAt }

/-- PACK_KILL (R374): the unit of a team that has consumed an uncorrectable error is killed, and relaunched or its grid
failed. -/
def execPackKill (t _grp : Nat) (s : State) : Host.Outcome State Fault Refusal :=
  match s.team? t with
  | none => .next s
  | some tm =>
    match s.grid? tm.grid with
    | none => .next s
    | some g =>
      if !tm.uce then .next s
      else if mayRelaunch (s.unit tm) g then
        .next ((s.unit tm).foldl (fun s p =>
          (((if p.2.resident then s.freeResources p.1 p.2 else s).dropTeamLines p.1).setTeam p.1 (p.2.again s.clk)).modGrid tm.grid
            (fun x => { x.noteViol p.2 with relaunched := true })) s)
      else .next (s.killGrid tm.grid .uncontained tm.team)

/-! ## Kills by the host (R351) -/

/-- KILL (Table 15-2). -/
def execKill (grid : Word) (s : State) : Host.Outcome State Fault Refusal := .next (s.hostKill grid)

/-- The halted group of a window: team, group. -/
def State.halted (s : State) (core slot : Nat) : Option (Nat × Group) :=
  (s.teams.filter (fun p => p.2.resident && p.2.core = core)).findSome? (fun p =>
    (p.2.groups.find? (fun g => g.live && g.halt.isSome && 16 * g.slice + g.slot = slot)).map (fun g => (p.1, g)))

/-- CMD 2 (R351). -/
def execCmdKillTeam (core slot : Nat) (s : State) : Host.Outcome State Fault Refusal :=
  match s.halted core slot with
  | some (t, _) => .next (s.killTeam t .hostKill)
  | none => .next s

/-- CMD 3 (R351). -/
def execCmdKillGrid (core slot : Nat) (s : State) : Host.Outcome State Fault Refusal :=
  match (s.halted core slot).bind (fun x => s.team? x.1) with
  | some tm => .next (s.killGrid tm.grid .hostKill tm.team)
  | none => .next s

end Sys2Proof.Machine
end

