-- ==== Sys2Proof/Machine/Fit.lean ====
section
/-! DEFINITION. Whether and where a team fits: slices, accumulators and banks of a core (02 R33, 09 R200), packs and the
placement map (01 R17, 15 R336). -/
namespace Sys2Proof.Machine

/-! ## A core's slices (R33) -/

/-- A group reserved on a core: slice, slot, vector lane-registers, uniform registers. -/
structure Held where
  slice : Nat
  slot : Nat
  vec : Nat
  uni : Nat
  deriving DecidableEq, Repr

def Group.held (g : Group) (p : Nat × Nat) : Held := ⟨p.1, p.2, g.vbud * g.width, g.sbud⟩

/-- Groups reserved on a core by its teams and by teams that migrate to it. -/
def State.heldOn (s : State) (core : Nat) : List Held :=
  s.teams.flatMap (fun p =>
    (if p.2.resident && p.2.core = core then p.2.groups.map (fun g => g.held (g.slice, g.slot)) else []) ++
    (match p.2.mig with
     | some m => if m.dst = core then List.zipWith Group.held p.2.groups m.slots else []
     | none => []))

/-- Slots, vector lane-registers and uniform registers left on a slice. -/
structure Room where
  slots : Nat
  vec : Nat
  uni : Nat
  deriving DecidableEq, Repr

def roomOf (hs : List Held) (slice : Nat) : Room :=
  let h := hs.filter (fun x => x.slice = slice)
  ⟨16 - h.length, 32768 - (h.map Held.vec).sum, 2048 - (h.map Held.uni).sum⟩

/-- A role still to be placed: what a group of it needs, and how many are left. -/
structure Need where
  vec : Nat
  uni : Nat
  n : Nat
  deriving DecidableEq, Repr

def Role.need (r : Role) : Need := ⟨r.vregs * r.width, r.sregs, r.count⟩

/-- Numbers of groups of each role that one slice can take, most first. -/
def counts : List Need → Room → List (List Nat)
  | [], _ => [[]]
  | x :: r, f =>
    let m := min x.n (min f.slots (min (f.vec / max 1 x.vec) (f.uni / max 1 x.uni)))
    (upTo (m + 1)).reverse.flatMap (fun a =>
      (counts r ⟨f.slots - a, f.vec - a * x.vec, f.uni - a * x.uni⟩).map (fun c => a :: c))

/-- What is left to place, and of a slice, after taking `c`. -/
def lessNeed (ns : List Need) (c : List Nat) : List Need := List.zipWith (fun x a => { x with n := x.n - a }) ns c

def lessRoom (ns : List Need) (c : List Nat) (f : Room) : Room :=
  ⟨f.slots - c.sum, f.vec - (List.zipWith (fun (x : Need) a => a * x.vec) ns c).sum,
   f.uni - (List.zipWith (fun (x : Need) a => a * x.uni) ns c).sum⟩

/-- The slice could take one more group: such a choice need not be tried. -/
def couldAdd (ns : List Need) (f : Room) : Bool :=
  ns.any (fun x => 0 < x.n && 1 ≤ f.slots && x.vec ≤ f.vec && x.uni ≤ f.uni)

/-- An assignment of every group to slices, when there is one: for each slice, how many groups of each role. -/
def assign : List Room → List Need → Option (List (List Nat))
  | [], ns => if ns.all (fun x => x.n = 0) then some [] else none
  | f :: fs, ns =>
    ((counts ns f).filter (fun c => !couldAdd (lessNeed ns c) (lessRoom ns c f))).findSome? (fun c =>
      (assign fs (lessNeed ns c)).map (fun r => c :: r))

/-- Slices of the groups in `%grp` order. -/
def slicesOf (roles : Nat) (m : List (List Nat)) : List Nat :=
  (upTo roles).flatMap (fun r => (m.zipIdx).flatMap (fun p => List.replicate (p.1.getD r 0) p.2))

/-- The lowest free slots of each slice are taken in turn. -/
def giveSlots (hs : List Held) : List Nat → List Nat → List (Nat × Nat)
  | _, [] => []
  | before, k :: r =>
    let free := (upTo 16).filter (fun i => hs.all (fun h => !(h.slice = k && h.slot = i)))
    (k, free.getD (before.filter (fun x => x = k)).length 0) :: giveSlots hs (k :: before) r

/-- Slice and slot of each group of the roles on a core, when they fit (R33, R34). -/
def placeGroups (hs : List Held) (roles : List Role) : Option (List (Nat × Nat)) :=
  (assign ((upTo 6).map (roomOf hs)) (roles.map Role.need)).map (fun m => giveSlots hs [] (slicesOf roles.length m))

/-! ## Banks and accumulators -/

/-- Free banks of a layer of a column. -/
def Column.freeBanks (c : Column) (layer : Nat) : List Nat :=
  ((upTo 32).map (fun i => 32 * layer + i)).filter (fun b => !AMap.has c.banks b)

/-- Accumulator tiles reserved on a core. -/
def State.accHeld (s : State) (core : Nat) : Nat :=
  ((s.teams.filter (fun p => (p.2.resident && p.2.core = core) || (p.2.mig.map Migration.dst) = some core)).map
    (fun p => ((s.grid? p.2.grid).map (fun g => g.lr.nacc)).getD 0)).sum

/-- The core is emptied for its scan or runs its patterns: it takes no team (R372). -/
def ScanSt.under : ScanSt → Bool
  | .draining _ | .patterns _ => true
  | .idle | .skipped | .withdrawn => false

/-- A team of the launch fits the core (R33, R200); a core that is scanned or removed takes none (R372, R373). The result
is its groups' slots. A team that moves keeps its CKPT banks, and the column's CACHE minimum limits admission only. -/
def State.fits (s : State) (lr : Launch) (core : Nat) (moving : Bool) : Option (List (Nat × Nat)) :=
  let c := s.col (colOf core)
  let own := lr.nscr + lr.nfifo
  let need := own + lr.nckpt
  if !((s.core core).inService && !(s.core core).scan.under) then none
  else if 16 < s.accHeld core + lr.nacc then none
  else if (c.freeBanks (layerOf core)).length < own then none
  else if !moving && 128 < c.banks.length + need + c.cacheMin then none
  else placeGroups (s.heldOn core) lr.roles

/-- The four cores of a column, coolest first as the Shepherd reads them, ties to the lower layer (R368). -/
def State.byHeat (s : State) (col : Nat) : List Nat :=
  let ins (x : Nat) (l : List Nat) : List Nat :=
    l.takeWhile (fun y => (s.core y).deg ≤ (s.core x).deg) ++ x :: l.dropWhile (fun y => (s.core y).deg ≤ (s.core x).deg)
  (upTo 4).foldl (fun l k => ins (144 * k + col) l) []

/-- The core of a column that takes a team, and its slots. -/
def State.coreFor (s : State) (lr : Launch) (col : Nat) : Option (Nat × List (Nat × Nat)) :=
  (s.byHeat col).findSome? (fun k => (s.fits lr k false).map (fun x => (k, x)))

/-! ## Packs and the map (R17, R336) -/

/-- Width and height of a pack shape (Table 1-2), and its members. -/
def packDims (shape : Nat) : Nat × Nat :=
  match shape with
  | 1 => (2, 1)
  | 2 => (2, 2)
  | 3 => (4, 1)
  | _ => (1, 1)

def packSize (shape : Nat) : Nat := (packDims shape).1 * (packDims shape).2

/-- The column may be that of member 0. -/
def packLegal (shape col : Nat) : Bool :=
  let (w, h) := packDims shape
  col < 144 && col % 36 % 6 + w ≤ 6 && col % 36 / 6 + h ≤ 6

/-- The columns of the members, member 0 at `col`. -/
def packCols (shape col : Nat) : List Nat :=
  let (w, h) := packDims shape
  (upTo (w * h)).map (fun k => col + k % w + 6 * (k / w))

/-- A column whose four cores are all removed is out of service. -/
def State.colOut (s : State) (col : Nat) : Bool := (upTo 4).all (fun k => !(s.core (144 * k + col)).inService)

/-- The columns of member 0 that a team or pack may take, lowest first: the map binds the first admission and a relaunch,
unless a column of it is out of service (R336, R376, R51). -/
def State.homes (s : State) (g : Grid) (tm : Team) : List Nat :=
  let any := (upTo 144).filter (packLegal g.lr.shape)
  let e := g.map.getD (tm.team / packSize g.lr.shape) 0xFFFF
  if tm.st == .saved || e = 0xFFFF || (packCols g.lr.shape e).any s.colOut then any else [e]

/-- Where the members of a unit go: core and slots of each. -/
def State.placeUnit (s : State) (u : List (Nat × Team)) : Option (List (Nat × Nat × List (Nat × Nat))) :=
  match u with
  | [] => none
  | (_, tm) :: _ =>
    match s.grid? tm.grid with
    | none => none
    | some g =>
      if u.length ≠ packSize g.lr.shape then none
      else
        (s.homes g tm).findSome? (fun c =>
          let cores := (packCols g.lr.shape c).map (s.coreFor g.lr)
          if cores.all Option.isSome then
            some (List.zipWith (fun (p : Nat × Team) x => (p.1, (x.getD (0, [])).1, (x.getD (0, [])).2)) u cores)
          else none)

end Sys2Proof.Machine
end

