-- ==== Sys2Proof/Machine/Queues.lean ====
section
/-! DEFINITION. Queues and snapshots (15 R333 to R340), LAUNCH (R345), the host's answers to fault records (09 R219). -/
namespace Sys2Proof.Machine

/-! ## Launch records (R333, R334) -/

/-- A field of a record. -/
def recField (b : List Byte) (o n : Nat) : Nat := leNat ((b.drop o).take n)

def recD (b : List Byte) (o : Nat) : DWord := BitVec.ofNat 64 (recField b o 8)

def recZero (b : List Byte) (o n : Nat) : Bool := ((b.drop o).take n).all (fun x => x = 0)

def recRole (b : List Byte) (i : Nat) : Role :=
  let o := 128 + 16 * i
  ⟨recField b o 1, recField b (o + 1) 1, recField b (o + 2) 2, recField b (o + 4) 2⟩

def recRange (b : List Byte) (j : Nat) : RangeTmpl :=
  let o := 512 + 32 * j
  ⟨recD b o, recD b (o + 8), recField b (o + 16) 8, BitVec.ofNat 8 (recField b (o + 24) 1)⟩

/-- The record as fields, with the ROOT and ASID under which it is snapshotted. -/
def Launch.parse (b : List Byte) (space : Option (Nat × Nat)) : Launch :=
  { replay := (recField b 3 1).testBit 0, after := (recField b 3 1).testBit 1, nobrk := (recField b 3 1).testBit 2,
    prio := recField b 4 1 % 4, shape := recField b 5 1, pack := packSize (recField b 5 1), nacc := recField b 6 1,
    nscr := recField b 8 1, nfifo := recField b 9 1, nckpt := recField b 10 1, nteam := recField b 12 4,
    code := recD b 16, codelen := recField b 24 4, cwlen := recField b 28 4, cwaddr := recD b 32,
    root := (space.map Prod.fst).getD (recField b 40 8), asid := (space.map Prod.snd).getD (recField b 48 2),
    map := recD b 64, compl := recD b 72, svbuf := recD b 80, svcap := recField b 88 4,
    waitval := BitVec.ofNat 32 (recField b 92 4), waitaddr := recD b 96, doneaddr := recD b 104,
    doneval := BitVec.ofNat 32 (recField b 112 4), savestride := recField b 116 4, save := recD b 120,
    roles := (upTo (recField b 2 1)).map (recRole b), ranges := (upTo (recField b 7 1)).map (recRange b) }

/-- An address field: canonical and aligned; `opt` allows 0. -/
def addrOk (a : DWord) (al : Nat) (opt : Bool) : Bool :=
  (opt && a = 0) || (canonical a.toNat && a.toNat % al = 0)

def Role.ok (r : Role) : Bool :=
  [8, 16, 32, 64].contains r.width && 1 ≤ r.count && r.count ≤ 96 && 8 ≤ r.vregs && r.vregs ≤ 256 && r.vregs % 8 = 0 &&
    16 ≤ r.sregs && r.sregs ≤ 384 && r.sregs % 16 = 0

def RangeTmpl.ok (r : RangeTmpl) : Bool := 1 ≤ r.length && r.length ≤ 2 ^ 57 && r.cls.toNat ≤ 3

/-- Check 1 of R335. -/
def recordOk (b : List Byte) (lr : Launch) (space : Option (Nat × Nat)) : Bool :=
  let nrole := recField b 2 1
  let nrange := recField b 7 1
  recField b 0 2 = 1 && 1 ≤ nrole && nrole ≤ 4 && recField b 3 1 < 8 && recField b 4 1 < 4 && lr.shape ≤ 3 &&
    lr.nacc ≤ 16 && nrange ≤ 16 && lr.nscr + lr.nfifo ≤ 24 && lr.nckpt ≤ 16 && recZero b 11 1 && 1 ≤ lr.nteam &&
    lr.nteam ≤ 2 ^ 24 && addrOk lr.code 8 false && lr.codelen % 8 = 0 && 16 ≤ lr.codelen &&
    (lr.cwlen = 0 || canonical lr.cwaddr.toNat) && (space.isSome || (canonical lr.root && lr.root % 4096 = 0)) && recZero b 50 14 &&
    addrOk lr.map 2 true && addrOk lr.compl 64 false && addrOk lr.svbuf 16 true && addrOk lr.waitaddr 4 true &&
    addrOk lr.doneaddr 4 true && lr.savestride % 4096 = 0 && addrOk lr.save 4096 false && recZero b 192 320 &&
    lr.roles.all Role.ok && (upTo nrole).all (fun i => recZero b (134 + 16 * i) 10) &&
    recZero b (128 + 16 * nrole) (16 * (4 - nrole)) && lr.ranges.all RangeTmpl.ok &&
    (upTo nrange).all (fun j => recZero b (537 + 32 * j) 7) && recZero b (512 + 32 * nrange) (32 * (16 - nrange))

/-- Start and end of team `t`'s range, exact (R334). -/
def RangeTmpl.span (r : RangeTmpl) (t : Nat) : Int × Int :=
  let a := (r.base.toNat : Int) + r.stride.toInt * t
  (a, a + r.length)

/-- A span within one canonical half. -/
def spanOk (x : Int × Int) : Bool :=
  (0 ≤ x.1 && x.2 ≤ 2 ^ 56) || (2 ^ 64 - 2 ^ 56 ≤ x.1 && x.2 ≤ 2 ^ 64)

/-- Groups of a team as launched. -/
def Launch.groups (lr : Launch) : Nat := (lr.roles.map Role.count).sum

/-- Round up to 4 KiB. -/
def up4k (n : Nat) : Nat := cdiv n 4096 * 4096

/-- The size of a context save area (R347). -/
def Launch.saveSize (lr : Launch) : Nat :=
  8192 + 4096 * lr.groups * (if lr.nckpt = 0 then 1 else 2) +
    up4k ((lr.roles.map (fun r => r.count * (4 * r.sregs))).sum) +
    up4k ((lr.roles.map (fun r => r.count * (4 * r.vregs * r.width))).sum) + 16384 * lr.nacc +
    32768 * (lr.nscr + lr.nfifo + lr.nckpt)

/-- The least CACHE minimum of a column in service. -/
def State.leastMin (s : State) : Nat :=
  ((upTo 144).filter (fun c => !s.colOut c)).foldl (fun m c => min m (s.col c).cacheMin) 128

/-- Checks 1 to 6 of R335: the number of the first that fails, 0 for none. -/
def State.launchCheck (s : State) (b : List Byte) (lr : Launch) (space : Option (Nat × Nat)) : Nat :=
  if !recordOk b lr space then 1
  else if 96 < lr.groups || (placeGroups [] lr.roles).isNone then 2
  else if 128 < lr.nscr + lr.nfifo + lr.nckpt + s.leastMin then 3
  else if lr.nteam % lr.pack ≠ 0 then 4
  else if !(lr.ranges.all (fun r => spanOk (r.span 0) && spanOk (r.span (lr.nteam - 1)))) then 5
  else if lr.savestride < lr.saveSize then 6
  else 0

/-! ## Pinning (R209, R337) -/

/-- Pin [va, va + n): the translations found, and the pages that are not valid. -/
def State.pinArea (s : State) (root va n : Nat) (acc : List PageT × List (Nat × PageFault)) :
    List PageT × List (Nat × PageFault) :=
  (areaPieces va n).foldl (fun r p =>
    let a := p.1 % 2 ^ 64
    if (pageOf r.1 a).isSome then r
    else
      match s.walk root a with
      | .ok g => (r.1 ++ [g], r.2)
      | .error k => (r.1, r.2 ++ [(a, k)])) acc

/-- The areas of a launch (R337). -/
def Launch.areas (lr : Launch) : List (Nat × Nat) :=
  [(lr.code.toNat, lr.codelen), (lr.cwaddr.toNat, lr.cwlen), (lr.compl.toNat, 64)] ++
  (if lr.doneaddr = 0 then [] else [(lr.doneaddr.toNat, 4)]) ++
  (if lr.svbuf = 0 then [] else [(lr.svbuf.toNat, 16 * lr.svcap)]) ++
  (if lr.map = 0 then [] else [(lr.map.toNat, 2 * (lr.nteam / lr.pack))]) ++
  (upTo lr.nteam).map (fun t => (lr.save.toNat + t * lr.savestride, lr.saveSize))

def State.pinAreas (s : State) (lr : Launch) : List PageT × List (Nat × PageFault) :=
  lr.areas.foldl (fun r a => s.pinArea lr.root a.1 a.2 r) ([], [])

/-- Fault records of access code 6 for pages that are not valid. -/
def State.pinFaults (s : State) (fs : List (Nat × PageFault)) (grid : Word) (team grp : Nat) (w : Faulter) : State :=
  fs.foldl (fun s f => s.faultRec f.1 0 grid team grp 0 f.2 6 w) s

/-- Every fault record of the waiter has been answered RETRY, and is done with. -/
def State.allRetried (s : State) (w : Faulter) : Bool := s.sched.tokens.all (fun k => k.who ≠ w || k.retried)

def State.dropTokens (s : State) (w : Faulter) : State :=
  { s with sched := { s.sched with tokens := s.sched.tokens.filter (fun k => k.who ≠ w) } }

/-! ## Pushing (R339) -/

/-- Append an address. -/
def State.enqueue (s : State) (q : Nat) (e : QEntry) : State := s.modQueue q (fun x => { x with fifo := x.fifo ++ [e] })

/-- A push by the host: a full queue drops it and sets OVF. -/
def State.push (s : State) (q : Nat) (addr : DWord) : State :=
  if 64 ≤ q then s
  else if 64 ≤ (s.queue q).fifo.length then s.overflow q
  else s.enqueue q ⟨addr, none⟩

/-- PUSH (R339). -/
def execPush (q : Nat) (addr : DWord) (s : State) : Host.Outcome State Fault Refusal := .next (s.push q addr)

/-- What LAUNCH's tests give (R345). -/
def State.launchCode (s : State) (q : Nat) (addr : DWord) : Nat :=
  if 63 < q then 4
  else if addr.toNat % 64 ≠ 0 then 3
  else if !(s.queue q).enable then 2
  else if 64 ≤ (s.queue q).fifo.length then 1
  else 0

/-- LAUNCH (R345): ordered as a release after the group's earlier accesses; its code lands later on a compute core. -/
def execLaunch (fs : Bool) (d : BitVec 9) (q a : Src) : State → Host.Outcome State Fault Refusal :=
  let xs := [(q, 1), (a, 2)]
  issue { core := .both, flag := .must fs, uses := fun c _ => wrS c d 1 :: readsOf c xs } (fun c s =>
    let qn := (c.rdU s q.op).toNat
    let addr := c.rdU64 s a.op
    let code := s.launchCode qn addr
    let ls := landWords none d.toNat [BitVec.ofNat 32 code]
    match c.ag with
    | .kennel =>
      let s1 := if code = 0 then s.enqueue qn ⟨addr, none⟩ else s
      .done (c.mod s1 (landAll ls 0))
    | .port t _ _ =>
      if (c.now s).mustWait true true then .hold
      else
        match (s.team? t).bind (fun tm => s.grid? tm.grid) with
        | none => .hold
        | some g =>
          let s1 := if code = 0 then s.enqueue qn ⟨addr, some (g.lr.root, g.lr.asid)⟩ else s
          let s2 := s1.modTeam t (fun x => { x with since := { x.since with launch := true } })
          c.spadDone s2 (.must fs) xs 0 ls [] [d.toNat])

/-! ## The head of a queue (R337, R339) -/

def State.queueOn (s : State) (q : Nat) : Bool := q < 64 && s.sched.enable && (s.queue q).enable

/-- Take the head address from the FIFO. -/
def State.popHead (s : State) (q : Nat) : State :=
  (s.dropTokens (.head q)).modQueue q (fun x => { x with fifo := x.fifo.drop 1, head := HeadPin.init })

def State.queueErr (s : State) (q : Nat) : State := (s.popHead q).event .queueErr 0 0 0 0 0

/-- The record at the head of the FIFO: the state when it cannot be read, else the state with its pages pinned, its entry
and its bytes. -/
def State.headRead (s : State) (q : Nat) : Except State (State × QEntry × List Byte) :=
  let x := s.queue q
  match x.fifo with
  | [] => .error s
  | e :: _ =>
    let a := e.addr.toNat
    if a % 64 ≠ 0 || (e.space.isNone && Config.physEnd ≤ a) then .error (s.queueErr q)
    else
      match e.space with
      | none => .ok (s, e, Memory.readN s.mem a 1024)
      | some (root, _) =>
        if !s.allRetried (.head q) then .error s
        else if pinned x.head.pages a 1024 then .ok (s, e, s.pinRead x.head.pages a 1024)
        else
          match s.pinArea root a 1024 ([], []) with
          | (ps, []) =>
            .ok (s.modQueue q (fun y => { y with head := { y.head with pages := ps } }), e, s.pinRead ps a 1024)
          | (_, fs) => .error ((s.dropTokens (.head q)).pinFaults fs 0 0xFFFFFFFF q (.head q))

/-- The head of a queue that may take it. -/
def State.headRecord (s : State) (q : Nat) : Except State (State × QEntry × List Byte) :=
  if !s.queueOn q || (s.queue q).grid.isSome || (s.queue q).snap.isSome then .error s else s.headRead q

/-- The head names a record that runs past the end of memory. -/
def State.headAbsent (s : State) (q : Nat) : Bool :=
  match (s.queue q).fifo with
  | [] => false
  | e :: _ =>
    s.queueOn q && (s.queue q).grid.isNone && (s.queue q).snap.isNone && e.space.isNone && e.addr.toNat % 64 = 0 &&
      e.addr.toNat < Config.physEnd && Config.physEnd < e.addr.toNat + 1024

/-- START_CONDITION_POLL (R337, R339): the head's start condition is translated, pinned and read. -/
def execStartConditionPoll (q : Nat) (s0 : State) : Host.Outcome State Fault Refusal :=
  if s0.headAbsent q then .fault .absentMemory
  else
  match s0.headRecord q with
  | .error s' => .next s'
  | .ok (s, e, b) =>
    let lr := Launch.parse b e.space
    if lr.waitaddr = 0 || !addrOk lr.waitaddr 4 true || !s.allRetried (.head q) then .next s
    else
      let pa? := match (s.queue q).head.waitPa with
        | some pa => Except.ok pa
        | none => (s.walk lr.root lr.waitaddr.toNat).map (fun (g : PageT) => g.at lr.waitaddr.toNat)
      match pa? with
      | .error k => .next ((s.dropTokens (.head q)).pinFaults [(lr.waitaddr.toNat, k)] 0 0xFFFFFFFF q (.head q))
      | .ok pa =>
        let met := lr.waitval.toNat ≤ Memory.readLE s.mem pa 4
        .next (s.modQueue q (fun y => { y with head := { y.head with waitPa := some pa, waitOk := y.head.waitOk || met } }))

/-- The head may be snapshotted: AFTER and the start condition (R339); a bad WAITADDR goes on to its rejection at once
(R337). -/
def State.mayStart (s : State) (q : Nat) (lr : Launch) : Bool :=
  (lr.waitaddr ≠ 0 && !addrOk lr.waitaddr 4 true) ||
  ((!lr.after || s.grids.all (fun g => g.queue ≠ q || g.completedAt.isSome)) &&
   (lr.waitaddr = 0 || (s.queue q).head.waitOk))

/-- A placement map's entries, or none where one breaks R336 (check 8). -/
def State.readMap (s : State) (lr : Launch) (ps : List PageT) : Option (List Nat) :=
  let n := lr.nteam / lr.pack
  let es := if lr.map = 0 then [] else (upTo n).map (fun i => leNat (s.pinRead ps (lr.map.toNat + 2 * i) 2))
  let room (c : Nat) : Bool := lr.nscr + lr.nfifo + lr.nckpt + (s.col c).cacheMin ≤ 128
  if es.all (fun e => e = 0xFFFF || (packLegal lr.shape e && (packCols lr.shape e).all room)) then some es else none

/-- The areas of a snapshot are pinned, or its fault records are written; then the map is read (R335 checks 7 and 8). -/
def State.pinSnapshot (s : State) (q : Nat) (g : Grid) : State :=
  match s.pinAreas g.lr with
  | (ps, []) =>
    let s1 := (s.modGrid g.num (fun x => { x with pins := ps })).modQueue q (fun x => { x with snap := none })
    (match s.readMap g.lr ps with
     | none => s1.reject g.num .badMap 8
     | some es =>
       (s1.modGrid g.num (fun x => { x with map := es })).modQueue q (fun x => { x with grid := some g.num }))
  | (_, fs) => (s.dropTokens (.snap q)).pinFaults fs g.num 0 0 (.snap q)

/-- The head's grid gets its number and leaves the FIFO; `why` rejects it at once. -/
def State.snapshot (s : State) (q : Nat) (e : QEntry) (b : List Byte) (why : Option (Cause × Nat)) : State :=
  let lr := Launch.parse b e.space
  let n := s.sched.gridCount
  let g := Grid.make n q lr [] [] s.clk
  let s1 := s.popHead q
  let s2 : State := { s1 with grids := s1.grids ++ [g], sched := { s1.sched with gridCount := n + 1 } }
  match why with
  | some (c, k) => s2.reject n c k
  | none =>
    let k := s2.launchCheck b lr e.space
    if k ≠ 0 then s2.reject n .limit k
    else (s2.modQueue q (fun x => { x with snap := some n })).pinSnapshot q g

/-- SNAPSHOT (R335): the head grid is copied, numbered, checked and pinned; a waiting one is pinned once its fault records
are answered. -/
def execSnapshot (q : Nat) (s : State) : Host.Outcome State Fault Refusal :=
  if s.headAbsent q then .fault .absentMemory
  else
  match (s.queue q).snap.bind s.grid? with
  | some g => if s.allRetried (.snap q) then .next (s.pinSnapshot q g) else .next s
  | none =>
    match s.headRecord q with
    | .error s' => .next s'
    | .ok (s', e, b) =>
      if !s'.allRetried (.head q) || !s'.mayStart q (Launch.parse b e.space) then .next s'
      else .next (s'.snapshot q e b none)

/-! ## The host's answers (R219) -/

/-- The fault record with a token. -/
def State.token? (s : State) (tok : Word) : Option Token := s.sched.tokens.find? (fun k => k.tok = tok)

/-- An answer to a command's record: its listed segment or its signal may be tried again (R319). -/
def Cmd.answer (c : Cmd) (tok : Word) : Cmd :=
  { c with listed := c.listed.map (fun x => if x.token = tok then { x with answered := true } else x),
           st := match c.st with
             | .sigFault k a => .sigFault k (a || k = tok)
             | x => x }

/-- An answer of RETRY. -/
def State.frRetry (s : State) (token : Word) : State :=
  match s.token? token with
  | none => s
  | some k =>
    let s1 : State := { s with sched := { s.sched with
      tokens := s.sched.tokens.map (fun x => if x.tok = token then { x with retried := true } else x) } }
    match k.who with
    | .cmd t c =>
      let s2 : State := { s1 with sched := { s1.sched with tokens := s1.sched.tokens.filter (fun x => x.tok ≠ token) } }
      s2.modTeam t (fun x => { x with cmds := x.cmds.map (fun y => if y.id = c then y.answer token else y) })
    | _ => s1

/-- FRDOOR with RETRY (R219). -/
def execFrdoorRetry (token : Word) (s : State) : Host.Outcome State Fault Refusal := .next (s.frRetry token)

/-- The head's record has been translated, or needs no translation: a fault record of the head is its start condition's. -/
def State.headHeld (s : State) (q : Nat) : Bool :=
  match (s.queue q).fifo with
  | [] => false
  | e :: _ => e.space.isNone || pinned (s.queue q).head.pages e.addr.toNat 1024

/-- An answer of KILL: the team is killed, the grid rejected whose areas or start condition faulted, or the address taken out
whose record faulted (R337, R339). -/
def State.frKill (s : State) (token : Word) : State :=
  match s.token? token with
  | none => s
  | some k =>
    match k.who with
    | .entry t _ _ => s.killTeam t .pageFault
    | .cmd t _ => s.killTeam t .pageFault
    | .range t => s.killTeam t .pageFault
    | .snap q =>
      (match (s.queue q).snap with
       | some n => ((s.dropTokens (.snap q)).modQueue q (fun x => { x with snap := none })).reject n .pageFault 7
       | none => s)
    | .head q =>
      let s1 := s.dropTokens (.head q)
      if s1.headHeld q then
        match s1.headRead q with
        | .ok (s2, e, b) => s2.snapshot q e b (some (.pageFault, 7))
        | .error _ => s1.queueErr q
      else s1.queueErr q

/-- FRDOOR with KILL (R219). -/
def execFrdoorKill (token : Word) (s : State) : Host.Outcome State Fault Refusal := .next (s.frKill token)

end Sys2Proof.Machine
end

