-- ==== Sys2Proof/Machine/Admission.lean ====
section
/-! DEFINITION. Dispatch and admission (15 R340 to R344), the draining of banks (09 R201), the translation of declared
ranges (09 R209), and how a fresh team starts. -/
namespace Sys2Proof.Machine

/-! ## Dispatch (R340, R341) -/

def RClass.ofCode (n : Nat) : RClass :=
  match n with
  | 0 => .rd
  | 1 => .wr
  | 2 => .acc
  | _ => .shr

/-- Ranges a team declares (R334). -/
def Launch.teamRanges (lr : Launch) (t : Nat) : List Extent :=
  lr.ranges.map (fun r => ⟨(r.span t).1.toNat, r.length, RClass.ofCode r.cls.toNat, []⟩)

/-- Entries of the range table in use. -/
def State.rangeUse (s : State) : Nat := (s.teams.map (fun p => p.2.ranges.length)).sum

/-- The grid of a ready queue (R340). -/
def State.readyQueue (s : State) (q : Nat) : Option Grid :=
  if s.queueOn q then
    ((s.queue q).grid.bind s.grid?).filter (fun g =>
      decide (g.nextTeam < g.lr.nteam ∧ s.rangeUse + g.lr.ranges.length ≤ 4096))
  else none

/-- The ready queue that is granted: highest QPRIO, then the first after the last granted there. -/
def State.granted (s : State) : Option (Nat × Grid) :=
  [3, 2, 1, 0].findSome? (fun p =>
    (upTo 64).findSome? (fun i =>
      let q := (s.sched.lastGrant.getD p 63 + 1 + i) % 64
      if (s.queue q).prio = p then (s.readyQueue q).map (fun g => (q, g)) else none))

/-- Dispatch the lowest-numbered undispatched team of a queue's grid. -/
def State.dispatch (s : State) (q : Nat) (g : Grid) : State :=
  let n := s.sched.dispCount
  let tm := Team.make g.num g.nextTeam n (g.nextTeam % max 1 g.lr.pack) (g.lr.teamRanges g.nextTeam) s.clk
  let s1 : State :=
    { s with
      teams := AMap.set s.teams n tm,
      sched := { s.sched with dispCount := n + 1, slotAt := some s.clk,
                              lastGrant := modifyAt s.sched.lastGrant (s.queue q).prio (fun _ => q) } }
  let s2 := s1.modGrid g.num (fun x => { x with nextTeam := x.nextTeam + 1 })
  if g.nextTeam + 1 = g.lr.nteam then s2.modQueue q (fun x => { x with grid := none }) else s2

/-- The dispatcher's slot comes once per 8 core cycles. -/
def State.slotFree (s : State) : Bool :=
  match s.sched.slotAt with
  | some c => c + 8 ≤ s.clk
  | none => true

/-- DISPATCH (R340). -/
def execDispatch (s : State) : Host.Outcome State Fault Refusal :=
  if !s.slotFree then .next s
  else
    match s.granted with
    | some (q, g) => .next (s.dispatch q g)
    | none => .next s

/-! ## The range check (R341, R342) -/

/-- Widened to 256 bytes. -/
def Extent.widen (x : Extent) : Nat × Nat := (x.start / 256 * 256, cdiv (x.start + x.len) 256 * 256)

/-- Widened ranges that overlap and whose classes meet at an X of Table 15-4. -/
def Extent.conflicts (x y : Extent) : Bool :=
  (x.widen.1 < y.widen.2 && y.widen.1 < x.widen.2) && (x.cls = .wr || y.cls = .wr)

/-- No unfinished team dispatched earlier holds a conflicting range. -/
def State.passes (s : State) (tm : Team) : Bool :=
  s.teams.all (fun p => !(p.2.disp < tm.disp && p.2.ranges.any (fun y => tm.ranges.any (fun x => x.conflicts y))))

/-! ## Admission (R343) -/

/-- A unit that waits for admission: new, relaunched or saved without HOLD. -/
def State.waiting (s : State) (u : List (Nat × Team)) : Bool :=
  u.all (fun p => (p.2.st == .dispatched && s.passes p.2) || (p.2.st == .saved && !p.2.hold))

/-- Saved and relaunched teams before new ones, then grid PRIO, then the lower dispatch number. -/
def State.goesFirst (s : State) (a b : Team) : Bool :=
  let old (t : Team) : Bool := t.st == .saved || t.relaunched
  let prio (t : Team) : Nat := ((s.grid? t.grid).map (fun g => g.lr.prio)).getD 0
  if old a ≠ old b then old a
  else if prio a ≠ prio b then prio b < prio a
  else a.disp < b.disp

/-- The groups of a team as the launch creates them, their lanes still without threads (R344). -/
def Launch.makeGroups (lr : Launch) (slots : List (Nat × Nat)) : List Group :=
  ((upTo lr.roles.length).flatMap (fun r => List.replicate ((lr.roles[r]?).map Role.count |>.getD 0) r)).zipIdx.map
    (fun p =>
      let x := (lr.roles[p.1]?).getD ⟨8, 1, 8, 16⟩
      let sl := slots.getD p.2 (0, 0)
      Group.init p.2 p.1 x.width x.vregs x.sregs sl.1 sl.2)

/-- The groups of a saved team in their new slots. -/
def placeSaved (gs : List Group) (slots : List (Nat × Nat)) : List Group :=
  List.zipWith (fun (g : Group) p => { g with slice := p.1, slot := p.2 }) gs slots

/-- Banks reserved for a team: SCRATCH and FIFO on the layer of its core, CKPT anywhere (R201, log 13). -/
def Column.reserve (c : Column) (t layer own ckpt : Nat) : Column :=
  let put (c : Column) (b : Nat) : Column := { c with banks := AMap.set c.banks b (.draining t) }
  let c1 := ((c.freeBanks layer).take own).foldl put c
  (((upTo 4).flatMap c1.freeBanks).take ckpt).foldl put c1

/-- A member of a unit is admitted to a core with its slots. -/
def State.seat (s : State) (lr : Launch) (t core : Nat) (slots : List (Nat × Nat)) : State :=
  let s1 := s.modCol (colOf core) (fun c => c.reserve t (layerOf core) (lr.nscr + lr.nfifo) lr.nckpt)
  s1.modTeam t (fun x =>
    let new := x.st == .dispatched
    let y := if new && !x.relaunched then x.count 6 (s.clk - x.dispAt) else x
    { y with st := .admitted, core := core, resident := true, relaunched := false, admAt := s.clk, moveAt := s.clk,
             resAt := s.clk, groups := if new then lr.makeGroups slots else placeSaved x.groups slots })

/-- A waiting unit that can be placed goes before this one. -/
def State.outranked (s : State) (u : List (Nat × Team)) (tm : Team) : Bool :=
  s.teams.any (fun p => s.goesFirst p.2 tm && !u.any (fun x => x.1 = p.1) && s.waiting (s.unit p.2) &&
    (s.placeUnit (s.unit p.2)).isSome)

/-- ADMISSION (R343): the unit of a team is admitted when every member passes and fits, in order of precedence. -/
def execAdmission (t : Nat) (s : State) : Host.Outcome State Fault Refusal :=
  match s.team? t with
  | none => .next s
  | some tm =>
    let u := s.unit tm
    if !s.waiting u || s.outranked u tm then .next s
    else
      match s.placeUnit u, s.grid? tm.grid with
      | some ps, some g => .next (ps.foldl (fun s p => s.seat g.lr p.1 p.2.1 p.2.2) s)
      | _, _ => .next s

/-! ## Banks (R201) -/

/-- Each set of the L1 keeps at most as many lines as the column has CACHE banks. -/
def Column.trim (c : Column) : Column :=
  { c with l1 := (c.l1.foldl (fun (acc : List L1Line) x =>
      if (acc.filter (fun y => y.line % 256 = x.line % 256)).length < c.ways then acc ++ [x] else acc) []) }

/-- BANK_DRAIN (R201): a bank leaving CACHE has drained; no value changes. -/
def execBankDrain (col bank : Nat) (s : State) : Host.Outcome State Fault Refusal :=
  match AMap.get? (s.col col).banks bank with
  | some (.draining t) =>
    .next (s.modCol col (fun c => { c with banks := AMap.set c.banks bank (.ready t) }.trim))
  | _ => .next s

/-! ## Declared ranges (R209) -/

/-- Translate the ranges of a team in order; those that have pages keep them (R376). -/
def State.pinRanges (s : State) (root : Nat) : List Extent → List Extent × List (Nat × PageFault)
  | [] => ([], [])
  | x :: r =>
    let (ps, fs) := if x.pages.isEmpty then s.pinArea root x.start x.len ([], []) else (x.pages, [])
    let (xs, fs') := s.pinRanges root r
    ({ x with pages := if fs.isEmpty then ps else [] } :: xs, fs ++ fs')

/-- The translated team takes the layer the Shepherd now chooses (R344): the coolest core of its column that it fits (R368),
its banks there in place of those reserved at admission. -/
def State.reseat (s : State) (lr : Launch) (t : Nat) : State :=
  match s.team? t with
  | none => s
  | some tm =>
    let s0 := (s.modTeam t (fun x => { x with resident := false })).modCol (colOf tm.core) (fun c =>
      { c with banks := c.banks.filter (fun b => b.2 ≠ .draining t ∧ b.2 ≠ .ready t) })
    match s0.coreFor lr (colOf tm.core) with
    | none => s
    | some (k, sl) =>
      if k = tm.core then s
      else
        (s0.modCol (colOf k) (fun c => c.reserve t (layerOf k) (lr.nscr + lr.nfifo) lr.nckpt)).modTeam t (fun x =>
          { x with core := k, resident := true, groups := placeSaved x.groups sl })

/-- RANGE_TRANSLATION (R209, R344): the ranges of an admitted team are pinned in its extent table and its layer is chosen,
or its fault records are written and it waits for their answers. -/
def execRangeTranslation (t : Nat) (s : State) : Host.Outcome State Fault Refusal :=
  match s.team? t with
  | none => .next s
  | some tm =>
    match s.grid? tm.grid with
    | none => .next s
    | some g =>
      if !(tm.st == .admitted) || !s.allRetried (.range t) then .next s
      else
        let (xs, fs) := s.pinRanges g.lr.root tm.ranges
        let s1 := s.dropTokens (.range t)
        if fs.isEmpty then .next ((s1.modTeam t (fun x => { x with st := .translated, ranges := xs })).reseat g.lr t)
        else .next (s1.pinFaults fs tm.grid tm.team 0 (.range t))

end Sys2Proof.Machine
end

