-- ==== Sys2Proof/Machine/Async.lean ====
section
/-! DEFINITION. Retriever commands (14: R310 to R331): checks at issue, then the events that serve their segments, replay
them and write their signals. -/
namespace Sys2Proof.Machine

/-! ## Block words (Table 14-3) -/

def Cmd.w (c : Cmd) (i : Nat) : Nat := (c.words.getD i 0).toNat

/-- The pair w(i):w(i + 1). -/
def Cmd.pair (c : Cmd) (i : Nat) : Nat := c.w i + 2 ^ 32 * c.w (i + 1)

def low24 (x : Nat) : Nat := x % 2 ^ 24

/-- Element bytes of a scale (Table 14-2). -/
def MxF.eb : MxF → Nat
  | .fp8 => 32
  | .fp4 => 16
  | .none => 0

/-- Two intervals of bytes overlap. -/
def overlaps (a n b m : Nat) : Bool := n ≠ 0 && m ≠ 0 && a < b + m && b < a + n

/-- Element size of a collective. -/
def CollTy.bytes : CollTy → Nat
  | .bf16 => 2
  | _ => 4

/-- Participants and rank of a collective group (Table 17-3). -/
def State.collGroup (s : State) (g : Nat) : Nat × Nat :=
  let w := ((AMap.get? s.k.coll g).map CollGroup.w0).getD 0
  (w.toNat % 512, w.toNat / 65536 % 256)

/-- Bytes a participant reads and writes (R330). -/
def CollOp.sizes (op : CollOp) (n len : Nat) : Nat × Nat :=
  match op with
  | .allred => (len, len)
  | .allgath => (len, n * len)
  | .redscat => (n * len, len)

/-- R312's second check: a block word breaks Table 14-3 or a limit of its command. -/
def Cmd.badBlock (c : Cmd) (s : State) : Bool :=
  match c.kind with
  | .cp =>
    let srcG := c.w 1 % 2 = 1
    let dstG := c.w 1 / 2 % 2 = 1
    c.w 1 / 4 ≠ 0 || c.w 6 ≠ 0 || c.w 7 ≠ 0 || (!srcG && c.w 3 ≠ 0) || (!dstG && c.w 5 ≠ 0) ||
      (srcG = dstG && overlaps (c.pair 2) (c.w 0) (c.pair 4) (c.w 0))
  | .cpt _ mx =>
    let rows := c.w 1 % 65536
    let rb := c.w 1 / 65536
    c.w 0 / 2 ^ 24 ≠ 0 || c.w 5 / 2 ^ 24 ≠ 0 || c.w 7 / 2 ^ 24 ≠ 0 ||
      (match mx with
       | .none => c.w 6 ≠ 0 || c.w 7 ≠ 0
       | _ => 64 < rows || rb % MxF.eb mx ≠ 0 || 16 * MxF.eb mx < rb || c.w 4 % MxF.eb mx ≠ 0 || c.w 7 % 64 ≠ 0)
  | .cpg idxg | .cpsc idxg =>
    c.w 0 / 2 ^ 24 ≠ 0 || c.w 7 / 2 ^ 24 ≠ 0 || c.w 4 % 4 ≠ 0 || (!idxg && c.w 5 ≠ 0)
  | .cpr =>
    c.w 1 / 2 ^ 24 ≠ 0 || c.w 2 / 2 ^ 24 ≠ 0 || c.w 3 / 16 ≠ 0 || c.w 4 ≠ 0 || c.w 5 ≠ 0 || c.w 6 ≠ 0 || c.w 7 ≠ 0 ||
      (c.w 3 % 4 = c.w 3 / 4 % 4 && overlaps (c.w 1) (c.w 0) (c.w 2) (c.w 0))
  | .cpx win => c.w 6 / 16 ≠ 0 || (!win && c.w 6 ≠ 0) || c.w 7 ≠ 0 || c.w 2 % 256 ≠ 0
  | .coll op ty =>
    let (n, _) := s.collGroup (c.w 5)
    let (i, o) := CollOp.sizes op n (c.w 4)
    c.w 5 / 64 ≠ 0 || c.w 7 ≠ 0 || c.w 4 % CollTy.bytes ty ≠ 0 || n < 2 ||
      (overlaps (c.pair 0) i (c.pair 2) o && !(op == .allred && c.pair 0 = c.pair 2))
  | .cpq =>
    c.w 3 / 2 ≠ 0 || c.w 6 / 4 ≠ 0 || c.w 7 ≠ 0 || c.w 4 % 64 ≠ 0 || (c.w 6 % 2 = 0 && c.w 5 ≠ 0)

/-- The pack member a CPR index names; a team without a pack is member 0 of itself (R318). -/
def State.packMember (s : State) (t k : Nat) : Option Nat :=
  match (s.team? t).bind (fun tm => s.grid? tm.grid) with
  | some g => if g.lr.pack < 2 then (if k = 0 then some t else none) else s.member t k
  | none => none

/-- Scratchpad bytes the payload touches: team, offset, length; a member that does not exist is none. -/
def Cmd.spadPieces (c : Cmd) (s : State) (t : Nat) : List (Option Nat × Nat × Nat) :=
  let own (o n : Nat) : List (Option Nat × Nat × Nat) := if n = 0 then [] else [(some t, o, n)]
  let rows (o stride n rb : Nat) : List (Option Nat × Nat × Nat) := if n = 0 || rb = 0 then [] else own o ((n - 1) * stride + rb)
  match c.kind with
  | .cp => (if c.w 1 % 2 = 1 then [] else own (c.w 2) (c.w 0)) ++ (if c.w 1 / 2 % 2 = 1 then [] else own (c.w 4) (c.w 0))
  | .cpt _ mx =>
    let n := c.w 1 % 65536
    let rb := c.w 1 / 65536
    rows (low24 (c.w 0)) (low24 (c.w 5)) n rb ++
      (match mx with
       | .none => []
       | _ => if n = 0 || rb = 0 then [] else own (low24 (c.w 7)) (64 * (rb / MxF.eb mx - 1) + n))
  | .cpg idxg | .cpsc idxg =>
    rows (low24 (c.w 0)) (low24 (c.w 7)) (c.w 1 % 65536) (c.w 1 / 65536) ++
      (if idxg then [] else own (c.w 4) (4 * (c.w 1 % 65536)))
  | .cpr =>
    let at_ (o : Nat) : Nat := if c.w 0 = 0 then 0 else low24 o
    [(s.packMember t (c.w 3 % 4), at_ (c.w 1), c.w 0), (s.packMember t (c.w 3 / 4 % 4), at_ (c.w 2), c.w 0)]
  | .cpq => if c.w 6 % 2 = 1 then [] else own (c.w 4) 64
  | .cpx _ => []
  | .coll _ _ => []

/-! ## Segments (R310) -/

/-- Bytes to the end of the 4 KiB granule of a global location. -/
def Loc.room : Loc → Option Nat
  | .glob va => some (4096 - va % 4096)
  | _ => none

def Loc.plus (l : Loc) (n : Nat) : Loc :=
  match l with
  | .glob va => .glob ((va + n) % 2 ^ 64)
  | .spad t o => .spad t (o + n)
  | .buf p => .buf (p + n)
  | .win o => .win (o + n)

def Loc.granule : Loc → Option Nat
  | .glob va => some (va / 4096)
  | _ => none

/-- Cut a piece at the granules of its global sides: with two global sides a segment is one pair of granules (DESIGN CHOICE,
log 105; R310 divides a command's global side and names one). -/
def Piece.cut (p : Piece) : Nat → List Piece
  | 0 => []
  | fuel + 1 =>
    let n := min p.len (min (p.src.room.getD p.len) (p.dst.room.getD p.len))
    if p.len = 0 then []
    else ⟨p.src, p.dst, n, min n p.eff⟩ ::
      Piece.cut ⟨p.src.plus n, p.dst.plus n, p.len - n, p.eff - n⟩ fuel

def Piece.key (p : Piece) : Option Nat × Option Nat := (p.src.granule, p.dst.granule)

/-- Add a piece to the segment of its granules. -/
def addPiece (p : Piece) : List Segment → List Segment
  | [] => [⟨[p]⟩]
  | x :: r => if (x.pieces.head?.map Piece.key) = some p.key then ⟨x.pieces ++ [p]⟩ :: r else x :: addPiece p r

/-- The segments of a transfer. -/
def segments (ps : List Piece) : List Segment :=
  (ps.flatMap (fun p => p.cut (p.len / 2048 + 4))).foldl (fun l p => addPiece p l) []

/-- The bytes of row `r` of `n` that no later row overwrites, at a destination stride. -/
def rowEff (r n stride len : Nat) : Nat := if r + 1 < n then min len stride else len

/-- Pieces of CP, CPT and CPR; those of CPG and CPSC once their list is read (R315 to R318). -/
def Cmd.payload (c : Cmd) (s : State) (t : Nat) : List Piece :=
  let va (x : Int) : Loc := .glob ((x.emod (2 ^ 64)).toNat)
  match c.kind with
  | .cp =>
    let src : Loc := if c.w 1 % 2 = 1 then .glob (c.pair 2) else .spad t (c.w 2)
    let dst : Loc := if c.w 1 / 2 % 2 = 1 then .glob (c.pair 4) else .spad t (c.w 4)
    [⟨src, dst, c.w 0, c.w 0⟩]
  | .cpt toG mx =>
    let n := c.w 1 % 65536
    let rb := c.w 1 / 65536
    let gs := c.w 4
    let ss := low24 (c.w 5)
    let sc : Int := (c.words.getD 6 0).toInt
    let mk (g sp : Loc) (len e : Nat) : Piece := if toG then ⟨sp, g, len, e⟩ else ⟨g, sp, len, e⟩
    (upTo n).flatMap (fun r =>
      mk (va (c.pair 2 + r * gs : Nat)) (.spad t (low24 (c.w 0) + r * ss)) rb (rowEff r n (if toG then gs else ss) rb) ::
      (match mx with
       | .none => []
       | _ => (upTo (rb / MxF.eb mx)).map (fun b =>
          mk (va ((c.pair 2 : Int) + sc + ((r * (gs / MxF.eb mx) + b : Nat) : Int)))
            (.spad t (low24 (c.w 7) + 64 * b + r)) 1 (if toG && b < rb / MxF.eb mx && r + 1 < n && gs / MxF.eb mx ≤ b then 0 else 1))))
  | .cpg _ | .cpsc _ =>
    let n := c.w 1 % 65536
    let rb := c.w 1 / 65536
    let ss := low24 (c.w 7)
    (upTo n).flatMap (fun i =>
      if c.lost.any (fun x => overlaps x.1 x.2 (4 * i) 4) then []
      else
        let g := va ((c.pair 2 + Memory.readLE c.buf (4 * i) 4 * c.w 6 : Nat))
        let sp : Loc := .spad t (low24 (c.w 0) + i * ss)
        match c.kind with
        | .cpsc _ => [⟨sp, g, rb, rb⟩]
        | _ => [⟨g, sp, rb, rowEff i n ss rb⟩])
  | .cpr =>
    match s.packMember t (c.w 3 % 4), s.packMember t (c.w 3 / 4 % 4) with
    | some a, some b => [⟨.spad a (low24 (c.w 1)), .spad b (low24 (c.w 2)), c.w 0, c.w 0⟩]
    | _, _ => []
  | _ => []

/-! ## Issue (R311, R312) -/

/-- What a command does first. -/
def Cmd.start (c : Cmd) (s : State) (t : Nat) : Cmd :=
  match c.kind with
  | .cpg idxg | .cpsc idxg =>
    let n := c.w 1 % 65536
    let src : Loc := if idxg then .glob (c.pair 4) else .spad t (c.w 4)
    { c with st := .index, todo := segments [⟨src, .buf 0, 4 * n, 4 * n⟩] }
  | .cpx win =>
    let src : Loc := if win then .win (c.pair 0) else .glob (c.pair 0)
    { c with st := .header, todo := segments [⟨src, .buf 0, 256, 256⟩] }
  | .coll op _ =>
    let (i, _) := CollOp.sizes op (s.collGroup (c.w 5)).1 (c.w 4)
    { c with st := .collIn, todo := segments [⟨.glob (c.pair 0), .buf 0, i, i⟩] }
  | .cpq => { c with st := .query }
  | _ => { c with st := .move, todo := segments (c.payload s t) }

/-- Commands in the queue of a column. -/
def State.columnCmds (s : State) (col : Nat) : List Cmd :=
  (s.teams.filter (fun p => p.2.resident && colOf p.2.core = col)).flatMap (fun p => p.2.cmds)

/-- A command as its instruction's registers give it: the block's eight words, the signal, the next number of the team and
of the module. -/
def Ctx.newCmd (c : Ctx) (s : State) (tm : Team) (opcode : Nat) (f : CmdF) (kind : CmdKind) : Cmd :=
  { id := tm.nextCmd, grp := c.g.grp, op := (c.now s).nextOp, opcode := BitVec.ofNat 8 opcode, kind := kind,
    prio := f.prio.toNat, words := (upTo 8).map (fun i => c.g.sVal (f.desc.toNat + i)),
    sigAddr := f.sig.map (fun p => c.g.sVal (p.1.toNat + 1) ++ c.g.sVal p.1.toNat), sigSp := f.ssp,
    sigVal := (f.sig.map (fun p => c.g.sVal p.2.toNat)).getD 0, scope := f.scope, seq := s.cmdSeq, st := .signal,
    todo := [], listed := [], draining := false, fail := .none, fails := [], nfail := 0, done := 0, chunk := 0, chunkEnd := 0, buf := [],
    bufBad := [], lost := [], window := none, found := none, began := 0, cleanG := [], cleanS := [] }

/-- The registers a command reads. -/
def cmdUses (c : Ctx) (f : CmdF) : List Use :=
  ⟨.s f.desc, 8, c.active, false⟩ ::
  (match f.sig with
   | some (p, v) => [⟨.s p, 2, c.active, false⟩, ⟨.s v, 1, c.active, false⟩]
   | none => [])

/-- [o, o + n) does not lie in the scratchpad of team `u` (R203). -/
def State.outside (s : State) (u : Option Nat) (o n : Nat) : Bool :=
  match u.bind s.team? with
  | some x => !s.spadOk x o n
  | none => true

def CmdKind.isColl : CmdKind → Bool
  | .coll _ _ => true
  | _ => false

/-- Group and sequence number of a collective. -/
def Cmd.collKey (c : Cmd) : Nat × Nat := (c.w 5, c.w 6)

/-- A command as it enters the queue: one of kind BADBLOCK transfers nothing (R312), and a second COLL of one GROUP and SEQ
on this module fails with MISMATCH (R330). -/
def Cmd.enter (c : Cmd) (s : State) (t : Nat) (bad : Bool) : Cmd :=
  if bad then { c with fail := .badBlock }
  else if CmdKind.isColl c.kind && s.k.colls.contains c.collKey then { c with fail := .mismatch }
  else c.start s t

/-- Remember the group and sequence number of a collective that begins. -/
def State.noteColl (s : State) (c : Cmd) (bad : Bool) : State :=
  if !bad && CmdKind.isColl c.kind && !s.k.colls.contains c.collKey then
    { s with k := { s.k with colls := c.collKey :: s.k.colls } }
  else s

/-- A COMMAND AT ISSUE (R312): signal bounds, BADBLOCK, payload bounds, then the queue. -/
def command (opcode : Nat) (f : CmdF) (kind : CmdKind) : State → Host.Outcome State Fault Refusal :=
  issue { flag := .may f.fs, uses := fun c _ => cmdUses c f } (fun c s =>
    match c.ag.team, c.ag.team.bind s.team? with
    | some t, some tm =>
      let cmd := c.newCmd s tm opcode f kind
      let bad := cmd.badBlock s
      if cmd.sigAddr.any (fun a => !f.ssp && s.outside (some t) (a.toNat / 4 * 4) 4) then
        c.spadDone s .no [] c.active [] [] []
      else if !bad && (cmd.spadPieces s t).any (fun p => s.outside p.1 p.2.1 p.2.2) then
        c.spadDone s .no [] c.active [] [] []
      else if 64 ≤ (s.columnCmds (colOf tm.core)).length then .hold
      else
        let cmd1 := cmd.enter s t bad
        let s1 := c.mod s (fun g => g.addOp (c.op (.may f.fs) (.cmd cmd.id)))
        let s2 := s1.modTeam t (fun x => { x with
          cmds := x.cmds ++ [cmd1], nextCmd := x.nextCmd + 1,
          since := { x.since with coll := x.since.coll || CmdKind.isColl kind } })
        .done { s2.noteColl cmd bad with cmdSeq := s2.cmdSeq + 1 }
    | _, _ => .hold)

def execCp (c : CmdF) : State → Host.Outcome State Fault Refusal := command 0xC0 c .cp

def execCpt (c : CmdF) (toGlobal : Bool) (mx : MxF) : State → Host.Outcome State Fault Refusal :=
  command 0xC1 c (.cpt toGlobal mx)

def execCpg (c : CmdF) (idxg : Bool) : State → Host.Outcome State Fault Refusal := command 0xC2 c (.cpg idxg)

def execCpsc (c : CmdF) (idxg : Bool) : State → Host.Outcome State Fault Refusal := command 0xC3 c (.cpsc idxg)

def execCpr (c : CmdF) : State → Host.Outcome State Fault Refusal := command 0xC4 c .cpr

def execCpx (c : CmdF) (win : Bool) : State → Host.Outcome State Fault Refusal := command 0xC5 c (.cpx win)

def execColl (c : CmdF) (op : CollOp) (ty : CollTy) : State → Host.Outcome State Fault Refusal :=
  command 0xC6 c (.coll op ty)

def execCpq (c : CmdF) : State → Host.Outcome State Fault Refusal := command 0xC7 c .cpq

/-! ## Reading and writing (R314, R322) -/

/-- A fault of a segment: its first faulting byte, the kind, the access code. -/
structure SegFault where
  va : Nat
  kind : PageFault
  code : Nat
  deriving DecidableEq, Repr

/-- Faults of the pieces of a global range. -/
def State.locFaults (s : State) (tm : Team) (l : Loc) (n : Nat) (write : Bool) : List SegFault × State :=
  match l with
  | .glob va =>
    (tm.pieces va n).foldl (fun (r : List SegFault × State) p =>
      match r.2.place? tm p write with
      | (.error k, s1) => (r.1 ++ [⟨p.va, k, if write then 5 else 4⟩], s1)
      | (.ok _, s1) => (r.1, s1)) ([], s)
  | _ => ([], s)

/-- The first fault of a segment. When both sides of a copy fault, the one record shows the fault of the lower address
(DESIGN CHOICE, log 105; R319 says "the first faulting byte of the segment"). -/
def State.segFault (s : State) (tm : Team) (g : Segment) : Option SegFault × State :=
  let r := g.pieces.foldl (fun (r : List SegFault × State) p =>
    let (a, s1) := r.2.locFaults tm p.src p.len false
    let (b, s2) := s1.locFaults tm p.dst p.len true
    (r.1 ++ a ++ b, s2)) ([], s)
  (r.1.foldl (fun (m : Option SegFault) f =>
    match m with
    | none => some f
    | some x => if f.va < x.va then some f else some x) none, r.2)

/-- Bytes of a location, with the offsets of those that are poisoned. -/
def State.readLoc (s : State) (tm : Team) (c : Cmd) (l : Loc) (n : Nat) : List Byte × List Nat :=
  match l with
  | .glob va =>
    (tm.pieces va n).foldl (fun (r : List Byte × List Nat) p =>
      match (s.place? tm p false).1 with
      | .ok pa => (r.1 ++ Memory.readN s.mem pa p.len,
          r.2 ++ ((upTo p.len).filter (fun i => s.poison.contains ((pa + i) / 128))).map (fun i => p.va - va + i))
      | .error _ => r) ([], [])
  | .spad u o =>
    match s.team? u with
    | some x => (Memory.readN x.scratch o n,
        if x.spadBad o n then (upTo n).filter (fun i => x.scratchBad.contains ((o + i) / 8)) else [])
    | none => ([], [])
  | .buf p => (Memory.readN c.buf p n, (upTo n).filter (fun i => c.bufBad.contains (p + i)))
  | .win o => (Memory.readN s.bus (((c.window.map Window.base).getD 0).toNat + o) n, [])

/-- Poison the destination lines of the offsets given. -/
def State.poisonLines (s : State) (pa : Nat) (bad : List Nat) : State :=
  bad.foldl (fun s i => s.poisonLine ((pa + i) / 128)) s

/-- `m` with the bytes [a, a + n) of a unit of `w` bytes marked, those of `bad` offsets unmarked. -/
def markBytes {w : Nat} (m : BitVec w) (a n : Nat) (bad : Nat → Bool) : BitVec w :=
  (upTo n).foldl (fun m i =>
    let b := BitVec.ofNat w (2 ^ ((a + i) % w))
    if bad i then m &&& ~~~b else m ||| b) m

/-- A command that has written all 128 bytes of a poisoned line from clean sources clears its poison, in however many parts
(R221). [pa, pa + n), just written, lies in one line. -/
def State.tallyLine (s : State) (c : Cmd) (pa n : Nat) (bad : List Nat) : State × Cmd :=
  let l := pa / 128
  if !s.poison.contains l then (s, { c with cleanG := AMap.erase c.cleanG l })
  else
    let m := markBytes (AMap.getD c.cleanG l 0) pa n bad.contains
    if m = BitVec.allOnes 128 then ({ s with poison := setDel s.poison l }, { c with cleanG := AMap.erase c.cleanG l })
    else (s, { c with cleanG := AMap.set c.cleanG l m })

/-- The same of the granules of a team's scratchpad that [o, o + n) lies in (R222). -/
def State.tallyGranules (s : State) (c : Cmd) (u o n : Nat) (bad : List Nat) : State × Cmd :=
  match s.team? u with
  | none => (s, c)
  | some x =>
    let mine (g : Nat) : Bool := o / 8 ≤ g && g ≤ (o + n - 1) / 8
    let key (g : Nat) : Nat := 2 ^ 24 * u + g
    let stale (k : Nat) : Bool := 2 ^ 24 * u ≤ k && mine (k - 2 ^ 24 * u) && !x.scratchBad.contains (k - 2 ^ 24 * u)
    (x.scratchBad.filter mine).foldl (fun (r : State × Cmd) g =>
      let lo := max o (8 * g)
      let m := markBytes (AMap.getD r.2.cleanS (key g) 0) lo (min (o + n) (8 * g + 8) - lo) (fun i => bad.contains (lo - o + i))
      if m = BitVec.allOnes 8 then
        (r.1.modTeam u (fun y => { y with scratchBad := setDel y.scratchBad g }),
         { r.2 with cleanS := AMap.erase r.2.cleanS (key g) })
      else (r.1, { r.2 with cleanS := AMap.set r.2.cleanS (key g) m }))
      (s, { c with cleanS := c.cleanS.filter (fun p => !stale p.1) })

/-- Write at a location; what came from poison is written poisoned. The parts of one command together are the single write
that clears poison (R221, R222). -/
def State.writeLoc (s : State) (t : Nat) (tm : Team) (c : Cmd) (l : Loc) (b : List Byte) (bad : List Nat) : State × Cmd :=
  match l with
  | .glob va =>
    (tm.pieces va b.length).foldl (fun (r : State × Cmd) p =>
      match (r.1.place? tm p true).1 with
      | .ok pa =>
        let k := p.va - va
        let lost := (bad.filter (fun i => k ≤ i && i < k + p.len)).map (fun i => i - k)
        ((((r.1.memWrite pa ((b.drop k).take p.len)).poisonLines pa lost).noteSig t p pa true).modTeam t
          (fun x => { x with since := { x.since with cmdWrite := true } })).tallyLine r.2 pa p.len lost
      | .error _ => r) (s, c)
  | .spad u o =>
    (bad.foldl (fun s i => s.poisonGranule u ((o + i) / 8)) (s.modTeam u (fun x => x.spadWrite o b))).tallyGranules c u o
      b.length bad
  | .buf p =>
    (s, { c with buf := Memory.writeN c.buf p b,
                 bufBad := c.bufBad.filter (fun i => i < p || p + b.length ≤ i) ++ bad.map (fun i => p + i) })
  | .win _ => (s, c)

def Loc.isBuf : Loc → Bool
  | .buf _ => true
  | _ => false

/-- The 4-byte word that a location lies in: its space and number. -/
def Loc.wordAt : Loc → Option (Option Nat × Nat)
  | .glob va => some (none, va / 4)
  | .spad t o => some (some t, o / 4)
  | _ => none

/-- The piece writes some byte of the word. -/
def Piece.inWord (p : Piece) (w : Option Nat × Nat) : Bool :=
  p.eff ≠ 0 &&
  (match p.dst.wordAt, (p.dst.plus (p.eff - 1)).wordAt with
   | some a, some b => a.1 = w.1 && a.2 ≤ w.2 && w.2 ≤ b.2
   | _, _ => false)

def Segment.inWord (g : Segment) (w : Option Nat × Nat) : Bool := g.pieces.any (fun p => p.inWord w)

def Segment.join (g : Segment) (p : Piece) : Segment := ⟨g.pieces ++ [p]⟩

/-- What a piece writes, cut at the first and the last word boundary of its destination. -/
def Piece.parts (p : Piece) : List Piece :=
  let o := match p.dst with
    | .glob va => va
    | .spad _ o => o
    | _ => 0
  let h := min p.eff ((4 - o % 4) % 4)
  let m := (p.eff - h) / 4 * 4
  let part (k n : Nat) : Piece := ⟨p.src.plus k, p.dst.plus k, n, n⟩
  [part 0 h, part h m, part (h + m) (p.eff - h - m)].filter (fun x => x.len ≠ 0)

/-- Where the Retriever keeps a byte of a destination word that another segment will complete. -/
def Loc.keep : Loc → Nat
  | .glob va => 2 ^ 80 + va
  | .spad t o => 2 ^ 81 + 2 ^ 40 * t + o
  | _ => 0

/-- A part of a word that a segment still to run also writes is left to that segment, so that the word is written once, as
a whole (R314): the command with the part moved there, read from the Retriever's buffer. -/
def Cmd.leave (c : Cmd) (p : Piece) : Option Cmd :=
  match p.dst.wordAt with
  | none => none
  | some w =>
    if 4 ≤ p.len then none
    else
      let x : Piece := { p with src := .buf p.dst.keep }
      match c.todo.findIdx? (fun g => g.inWord w), c.listed.findIdx? (fun y => y.seg.inWord w) with
      | some i, _ => some { c with todo := modifyAt c.todo i (fun g => g.join x) }
      | none, some i => some { c with listed := modifyAt c.listed i (fun y => { y with seg := y.seg.join x }) }
      | none, none => none

/-- Move the bytes of one part. -/
def State.doPart (s : State) (t : Nat) (tm : Team) (c : Cmd) (p : Piece) (dst : Loc) : State × Cmd :=
  let (b, bad) := s.readLoc tm c p.src p.len
  s.writeLoc t tm c dst b bad

/-- The piece writes payload: not a buffer, and not from a buffer that holds CPX's header. That the 256 header bytes which
CPX writes to DST do not count in DONE is a DESIGN CHOICE of the model (log 106). -/
def Cmd.isPayload (c : Cmd) (p : Piece) : Bool :=
  !p.dst.isBuf &&
  (match c.kind, p.src with
   | .cpx _, .buf x => 256 ≤ x
   | _, _ => true)

/-- Perform a segment whose translations succeed, already taken from the command's lists; DONE counts what is written, and
what later rows overwrite. -/
def State.doSegment (s : State) (t : Nat) (tm : Team) (c : Cmd) (g : Segment) : State × Cmd :=
  g.pieces.foldl (fun (r : State × Cmd) p =>
    let n (x : Cmd) (k : Nat) : Cmd := if x.isPayload p then { x with done := x.done + k } else x
    let q := p.parts.foldl (fun (r : State × Cmd) x =>
      match r.2.leave x with
      | some c1 => r.1.doPart t tm c1 x (.buf x.dst.keep)
      | none => let y := r.1.doPart t tm r.2 x x.dst; (y.1, n y.2 x.len)) r
    (q.1, n q.2 (p.len - p.eff))) (s, c)

/-- What was kept for a segment that is not transferred, of words whose other bytes were read, is written without it. -/
def State.writeKept (s : State) (t : Nat) (tm : Team) (c : Cmd) (g : Segment) : State × Cmd :=
  s.doSegment t tm c ⟨g.pieces.filter (fun p =>
    match p.src with
    | .buf x => 2 ^ 80 ≤ x
    | _ => false)⟩

/-- The window entry is read once, as CPX starts (R328, R338). -/
def Cmd.latch (c : Cmd) (s : State) : Cmd :=
  match c.kind with
  | .cpx true => { c with window := some (c.window.getD ((AMap.get? s.windows (c.w 6)).getD ⟨0, 0⟩)) }
  | _ => c

/-- A window read outside the window (R328). -/
def Cmd.windowBad (c : Cmd) (g : Segment) : Bool :=
  g.pieces.any (fun p =>
    match p.src, c.window with
    | .win o, some w => !w.word1.getLsbD 63 || (w.word1.toNat % 2 ^ 63) < o + p.len
    | .win _, none => true
    | _, _ => false)

/-! ## The course of a command -/

def PageFault.fail : PageFault → FailKind
  | .notPresent => .notPresent
  | .writeProt => .writeProt
  | .malformed => .malformed
  | .nonCanon => .nonCanon

/-- Where CPX keeps chunk `n` while it is checked: 65,536 bytes and the tag. -/
def chunkAt (n : Nat) : Nat := 256 + 65552 * n

/-- The chunk of CPX that a segment reads into its buffer or writes from it. -/
def Cmd.chunkOf (c : Cmd) (g : Segment) : Option Nat :=
  match c.kind, g.pieces.head? with
  | .cpx _, some p =>
    (match p.src, p.dst with
     | .buf x, _ => if 256 ≤ x then some ((x - 256) / 65552) else none
     | _, .buf x => if 256 ≤ x then some ((x - 256) / 65552) else none
     | _, _ => none)
  | _, _ => none

/-- The chunk has failed. -/
def Cmd.lostChunk (c : Cmd) (n : Nat) : Bool := c.lost.any (fun x => x.1 = chunkAt n)

/-- Record that a segment, or its chunk, is not transferred (R320, Table 14-4): a chunk is counted once and named by its
number, any other segment by its granule (log 106). -/
def Cmd.noteFail (c : Cmd) (va : Nat) (k : FailKind) (g : Segment) : Cmd :=
  let add (x : Cmd) (a : Nat) : Cmd := { x with fails := (x.fails ++ [(⟨a, k⟩ : Failure)]).take 4, nfail := x.nfail + 1 }
  match c.chunkOf g with
  | some n => if c.lostChunk n then c else add { c with lost := c.lost ++ [(chunkAt n, 0)] } (4096 * n)
  | none =>
    add { c with lost := c.lost ++ g.pieces.filterMap (fun p =>
      match p.dst with
      | .buf x => some (x, p.len)
      | _ => none) } (va / 4096 * 4096)

/-- The signal word is unresolvable: it stands among SEG0 to SEG3 even where four segments have failed before it (R320; log
106). -/
def Cmd.noteSignal (c : Cmd) (va : Nat) (k : FailKind) : Cmd :=
  { c with fails := c.fails.take 3 ++ [(⟨va / 4096 * 4096, k⟩ : Failure)], nfail := c.nfail + 1 }

/-- CRC-64 of R326: polynomial 0x42F0_E1EB_A9EA_3693, initial 0, no reflection. -/
def crcStep (r : DWord) (b : Byte) : DWord :=
  (upTo 8).foldl (fun r _ => if r.getLsbD 63 then (r <<< 1) ^^^ 0x42F0E1EBA9EA3693#64 else r <<< 1)
    (r ^^^ (b.setWidth 64 <<< 56))

def crc64 (l : List Byte) : DWord := l.foldl crcStep 0

/-- R327: none when the header passes. A header that breaks both MAJOR and a condition of BADHDR is reported as VERSION: DESIGN
CHOICE, log 107; R327 gives no order. -/
def headerFail (b : List Byte) : FailKind :=
  let at_ (o n : Nat) : Nat := leNat ((b.drop o).take n)
  let zero (lo hi : Nat) : Bool := ((b.drop lo).take (hi + 1 - lo)).all (fun x => x = 0)
  let chunks := at_ 40 8
  let payload := at_ 56 8
  if at_ 4 2 ≠ 1 then .version
  else if at_ 0 4 ≠ 0xC0DEF70A || at_ 32 4 ≠ 65536 || BitVec.ofNat 64 (at_ 248 8) ≠ crc64 (b.take 248) ||
      32 ≤ at_ 8 1 || (Fmt.dec (BitVec.ofNat 5 (at_ 8 1))).isNone ||
      !(1 ≤ chunks && chunks ≤ 2 ^ 32) || !(payload ≤ 65536 * chunks && 65536 * (chunks - 1) < payload) ||
      (at_ 6 2 = 0 && !(zero 9 11 && zero 36 39 && zero 64 247)) then .badHdr
  else .none

/-- Start reading the next chunk; after the last, and once nothing is listed, go on to the signal (R319, R329). -/
def Cmd.nextChunk (c : Cmd) : Cmd :=
  if c.chunkEnd ≤ c.chunk then (if c.listed.isEmpty then { c with st := .signal } else c)
  else
    let src : Loc := match c.kind with
      | .cpx true => .win (c.pair 0 + chunkAt c.chunk)
      | _ => .glob ((c.pair 0 + chunkAt c.chunk) % 2 ^ 64)
    { c with todo := segments [⟨src, .buf (chunkAt c.chunk), 65552, 65552⟩], chunk := c.chunk + 1 }

/-- Forget the buffer of a chunk. -/
def Cmd.dropChunk (c : Cmd) (n : Nat) : Cmd :=
  let out (x : Nat) : Bool := !(chunkAt n ≤ x && x < chunkAt (n + 1))
  { c with buf := c.buf.filter (fun p => out p.1), bufBad := c.bufBad.filter out }

/-- The tag of a chunk that has been read (R326): whole and in its place. -/
def Cmd.tagOk (c : Cmd) (n : Nat) : Bool :=
  BitVec.ofNat 64 (Memory.readLE c.buf (chunkAt n + 65536) 8) = crc64 (Memory.readN c.buf (chunkAt n) 65536) &&
  Memory.readLE c.buf (chunkAt n + 65544) 8 = n ^^^ Memory.readLE c.buf 48 8

/-- After a segment of a chunk: when all of the chunk has been read its tag decides whether it is written; when all of it has
been written, or it has failed, it is forgotten (R329). -/
def Cmd.after (c : Cmd) (g : Segment) : Cmd :=
  match c.chunkOf g with
  | none => c
  | some n =>
    if (c.todo ++ c.listed.map Listed.seg).any (fun x => c.chunkOf x = some n) then c
    else if c.lostChunk n || !g.pieces.any (fun p => p.dst.isBuf) then c.dropChunk n
    else if c.tagOk n then
      { c with todo := segments [⟨.buf (chunkAt n), .glob ((c.pair 2 + 256 + 65536 * n) % 2 ^ 64), 65536, 65536⟩] ++ c.todo }
    else (c.noteFail 0 .tagFail g).dropChunk n

/-- The stage is over: what the command does next. The timeout of a collective counts from here, when its IN has been read:
DESIGN CHOICE, log 108; R330 does not say from when. -/
def Cmd.advance (c : Cmd) (s : State) (t : Nat) : Cmd :=
  match c.st with
  | .index => { c with st := .move, todo := segments (c.payload s t) }
  | .move | .collOut => { c with st := .signal }
  | .header =>
    let b := Memory.readN c.buf 0 256
    let chunks := leNat ((b.drop 40).take 8)
    let stop := if c.w 5 = 0 then chunks else c.w 4 + c.w 5
    if c.fail ≠ .none || c.nfail ≠ 0 then { c with st := .signal }
    else if headerFail b ≠ .none then { c with st := .signal, fail := headerFail b }
    else if chunks < stop || chunks ≤ c.w 4 then { c with st := .signal, fail := .badBlock }
    else
      { c with st := .chunks, chunk := c.w 4, chunkEnd := stop,
               todo := segments [⟨.buf 0, .glob (c.pair 2), 256, 256⟩] }
  | .chunks => c.nextChunk
  | .collIn => if c.nfail ≠ 0 then { c with st := .signal } else { c with st := .collWait, began := s.clk }
  | _ => c

/-- Put a command back and, when its stage is over, take it to the next; a stage with nothing to move is passed. -/
def Cmd.settle (s : State) (t : Nat) : Nat → Cmd → Cmd
  | 0, c => c
  | fuel + 1, c =>
    if c.todo.isEmpty && (c.listed.isEmpty || c.st == .chunks) then
      let c1 := c.advance s t
      if c1.st = c.st then c1 else Cmd.settle s t fuel c1
    else c

def Team.putCmd (tm : Team) (c : Cmd) : Team := { tm with cmds := tm.cmds.map (fun x => if x.id = c.id then c else x) }

/-- The record that CPQ has written with CLR = 1 is discarded (R321). -/
def Team.discard (tm : Team) (c : Cmd) : Team :=
  match c.found with
  | some r => if c.st == .signal && c.nfail = 0 then { tm with fixups := tm.fixups.erase r } else tm
  | none => tm

def State.putCmd (s : State) (t : Nat) (c : Cmd) : State :=
  let full := 16 ≤ c.listed.length
  let c1 : Cmd := Cmd.settle s t 4 { c with draining := full || (c.draining && c.listed.any Listed.answered) }
  s.modTeam t (fun x => (x.discard c1).putCmd (if c1.st == .signal then { c1 with found := none } else c1))

def Team.cmd? (tm : Team) (id : Nat) : Option Cmd := tm.cmds.find? (fun c => c.id = id)

/-- The operation of the matrix engine still has to read or write a scratchpad. -/
def Op.touches (o : Op) : Bool :=
  match o.act with
  | .engine _ (.ld ..) | .engine _ (.st ..) | .engine _ (.out ..) => true
  | .engine _ (.mma _ _ _ st _ _ cap _ _) => cap.isNone || st.isSome
  | _ => false

/-- An access that the group issued before operation `id` is not performed yet; those of the matrix engine count
(R252, R314; DEDUCED, log 102). -/
def Group.accessOpen (g : Group) (id : Nat) : Bool := g.ops.any (fun o => o.id < id && (o.unperformed || o.touches))

/-- The command may be served: one of the eight oldest of its column, its group's earlier accesses performed, no member
it touches being moved (R252, R310, R318). -/
def State.cmdRuns (s : State) (t : Nat) (tm : Team) (c : Cmd) : Bool :=
  tm.resident && tm.st == .running && !tm.uce &&
  ((s.columnCmds (colOf tm.core)).filter (fun x => x.seq < c.seq)).length < 8 &&
  !(((tm.group? c.grp).map (fun g => g.accessOpen c.op)).getD false) &&
  !((c.todo ++ c.listed.map Listed.seg).any (fun g => g.pieces.any (fun p =>
      (match p.src with | .spad u _ => u ≠ t && s.moving (some u) | _ => false) ||
      (match p.dst with | .spad u _ => u ≠ t && s.moving (some u) | _ => false))))

/-- The activity and the unit that a command is charged to (Table 14-6). CPQ, which ignores PRIO and whose PRIO is 0, is held
by the budget of copy class 0: DESIGN CHOICE, log 101. -/
def Cmd.activity (c : Cmd) (tm : Team) : Nat × Nat := if CmdKind.isColl c.kind then (7, 0) else (c.prio, colOf tm.core)

/-- The command has a segment, a look-up or a replay to be served. -/
def Cmd.wants (c : Cmd) : Bool :=
  c.st == .query || (!c.todo.isEmpty && c.listed.length < 16) ||
  ((c.todo.isEmpty || c.draining) && c.listed.any Listed.answered)

/-- A command of a smaller class of the column, with budget left, is to be served first (R323). -/
def State.classAhead (s : State) (tm : Team) (c : Cmd) : Bool :=
  !CmdKind.isColl c.kind &&
  s.teams.any (fun p => p.2.resident && colOf p.2.core = colOf tm.core && p.2.cmds.any (fun x =>
    !CmdKind.isColl x.kind && x.prio < c.prio && x.wants && s.left x.prio (colOf tm.core) && s.cmdRuns p.1 p.2 x))

/-- The command may be served, its activity has budget left, and no smaller class goes before it (R323). -/
def State.cmdServed (s : State) (t : Nat) (tm : Team) (c : Cmd) : Bool :=
  s.cmdRuns t tm c && s.left (c.activity tm).1 (c.activity tm).2 && !s.classAhead tm c

/-- Its Retriever comes to the command next: round-robin among the commands of the column that are to be served (R310). -/
def State.cmdTurn (s : State) (t : Nat) (tm : Team) (c : Cmd) : Bool :=
  let col := colOf tm.core
  let passed (x : Cmd) : Bool := x.seq < (s.col col).served
  s.cmdServed t tm c &&
  s.teams.all (fun p => !(p.2.resident && colOf p.2.core = col) || p.2.cmds.all (fun x =>
    !(x.wants && s.cmdServed p.1 p.2 x) || (!passed c && passed x) || (passed c == passed x && c.seq ≤ x.seq)))

/-- The command has had its turn. -/
def State.noteServed (s : State) (tm : Team) (c : Cmd) : State :=
  s.modCol (colOf tm.core) (fun x => { x with served := c.seq + 1 })

/-- Bytes that a segment reads. -/
def Segment.bytes (g : Segment) : Nat := ((g.pieces.filter (fun p => !p.src.isBuf)).map Piece.len).sum

/-- Charge a segment's bytes to its copy class; a collective is charged when it sends (R323). -/
def State.chargeSeg (s : State) (tm : Team) (c : Cmd) (g : Segment) : State :=
  if CmdKind.isColl c.kind then s else s.charge (c.activity tm).1 (c.activity tm).2 g.bytes

/-- Bytes of a fix-up record (Table 14-4). -/
def FailKind.code : FailKind → Nat
  | .none => 0 | .notPresent => 1 | .writeProt => 2 | .malformed => 3 | .nonCanon => 4 | .badBlock => 5
  | .version => 6 | .badHdr => 7 | .tagFail => 8 | .window => 9 | .mismatch => 10 | .timeout => 11

def FixRec.bytes (r : FixRec) : List Byte :=
  let seg (i : Nat) : List Byte :=
    match r.segs[i]? with
    | some f => leBytes 8 (f.addr + FailKind.code f.kind)
    | none => leBytes 8 0
  leBytes 1 r.opc.toNat ++ leBytes 1 (FailKind.code r.kind) ++ leBytes 2 (min r.nseg 65535) ++ leBytes 4 r.sigv.toNat ++
    leBytes 8 r.sigaddr.toNat ++ leBytes 1 (if r.sigsp then 1 else 0) ++ List.replicate 7 0 ++
    seg 0 ++ seg 1 ++ seg 2 ++ seg 3 ++ leBytes 8 r.done

/-- CPQ's look-up (R321): the newest record under the key. -/
def Team.fixFind (tm : Team) (c : Cmd) : Option FixRec :=
  tm.fixups.find? (fun r => r.sigaddr = BitVec.ofNat 64 (c.pair 0) && (r.sigsp = decide (c.w 3 % 2 = 1)) && r.sigv.toNat = c.w 2)

/-- CPQ reads its record and turns to writing it; with CLR = 1 it is discarded once it is written. -/
def State.query (s : State) (t : Nat) (tm : Team) (c : Cmd) : State :=
  let r := tm.fixFind c
  let b := match r with
    | some x => x.bytes
    | none => List.replicate 64 0
  let dst : Loc := if c.w 6 % 2 = 1 then .glob (c.pair 4) else .spad t (c.w 4)
  s.putCmd t { c with st := .move, found := if c.w 6 / 2 % 2 = 1 then r else none, buf := Memory.writeN [] 0 b, todo := segments [⟨.buf 0, dst, 64, 64⟩] }

/-- Write the fault record of a command's segment (R319). -/
def State.cmdFault (s : State) (t : Nat) (tm : Team) (c : Cmd) (f : SegFault) : State :=
  (s.faultRec f.va 0 tm.grid tm.team c.grp 0 f.kind f.code (.cmd t c.id)).modTeam t (fun x => x.count 5 1)

/-- A segment can not be transferred: what was kept for it is written, and its failure noted. -/
def State.failSegment (s : State) (t : Nat) (tm : Team) (c : Cmd) (va : Nat) (k : FailKind) (g : Segment) : State :=
  let (s1, c1) := s.writeKept t tm c g
  s1.putCmd t ((c1.noteFail va k g).after g)

/-- A segment is transferred. -/
def State.moveSegment (s : State) (t : Nat) (tm : Team) (c : Cmd) (g : Segment) : State :=
  let (s1, c1) := s.doSegment t tm c g
  (s1.chargeSeg tm c g).putCmd t (c1.after g)

/-- The next segment of a command is served: moved, listed with its fault, or failed at its window. -/
def State.serveSegment (s : State) (t : Nat) (tm : Team) (c : Cmd) (g : Segment) : State :=
  if c.windowBad g then
    (if c.st == .header then s.putCmd t { c with fail := .window } else s.failSegment t tm c 0 .window g)
  else
    match s.segFault tm g with
    | (some f, s1) =>
      (s1.cmdFault t tm c f).putCmd t { c with listed := c.listed ++ [⟨g, f.va, s1.sched.nextTok, false⟩] }
    | (none, s1) => s1.moveSegment t tm c g

/-- RETRIEVER_SEGMENT (R310, R319): the next segment, or CPQ's look-up, of the command whose turn it is; a command that has
nothing to move goes on to its next stage. -/
def execRetrieverSegment (t cmd : Nat) (s : State) : Host.Outcome State Fault Refusal :=
  match s.team? t, (s.team? t).bind (·.cmd? cmd) with
  | some tm, some c =>
    if c.st == .query then .next (if s.cmdTurn t tm c then (s.query t tm c).noteServed tm c else s)
    else
      match c.todo with
      | [] => .next (if s.cmdServed t tm c then s.putCmd t c else s)
      | g :: r =>
        if s.cmdTurn t tm c && c.listed.length < 16 then
          .next ((s.serveSegment t tm { c.latch s with todo := r } g).noteServed tm c)
        else .next s
  | _, _ => .next s

/-! ## The end of a command (R313, R320, R321) -/

def Cmd.failed (c : Cmd) : Bool := c.fail ≠ .none || c.nfail ≠ 0

/-- Keep a fix-up record of a failed command, clear its flag, and drop it. -/
def State.endCmd (s : State) (t : Nat) (c : Cmd) : State :=
  let kind := if c.fail ≠ .none then c.fail else (c.fails.head?.map Failure.kind).getD .none
  let r : FixRec :=
    { opc := c.opcode, kind := kind, nseg := c.nfail, sigv := c.sigVal, sigaddr := c.sigAddr.getD (BitVec.allOnes 64),
      sigsp := c.sigAddr.isSome && c.sigSp, segs := c.fails, done := c.done }
  s.modTeam t (fun x =>
    { (x.modGroup c.grp (fun g => (g.dropOp c.op s.clk).spill)) with
      cmds := x.cmds.filter (fun y => y.id ≠ c.id),
      fixups := if c.failed then (r :: x.fixups).take 16 else x.fixups })

/-- The value of the signal: ERROR in bit 31 on failure. -/
def Cmd.sigWord (c : Cmd) : Word := if c.failed then c.sigVal ||| 0x80000000#32 else c.sigVal

/-- Write the signal word; a fault leaves it unwritten. -/
def State.writeSignal (s : State) (t : Nat) (tm : Team) (c : Cmd) (a : DWord) : Except SegFault Unit × State :=
  let va := a.toNat / 4 * 4
  let b := leBytes 4 c.sigWord.toNat
  if !c.sigSp then (.ok (), s.modTeam t (fun x => x.spadWrite va b))
  else
    match s.locFaults tm (.glob va) 4 true with
    | (f :: _, s1) => (.error f, s1)
    | ([], s1) => (.ok (), (s1.writeLoc t tm c (.glob va) b []).1)

/-- COMMAND_SIGNAL (R313): the signal, the flag, the fix-up record; a global signal word that faults is recorded. -/
def execCommandSignal (t cmd : Nat) (s : State) : Host.Outcome State Fault Refusal :=
  match s.team? t, (s.team? t).bind (·.cmd? cmd) with
  | some tm, some c =>
    if c.st ≠ .signal || !s.cmdRuns t tm c then .next s
    else
      match c.sigAddr with
      | none => .next (s.endCmd t c)
      | some a =>
        match s.writeSignal t tm c a with
        | (.ok _, s1) => .next (s1.endCmd t c)
        | (.error f, s1) =>
          .next ((s1.cmdFault t tm c f).modTeam t (fun x => x.putCmd { c with st := .sigFault s1.sched.nextTok false }))
  | _, _ => .next s

/-- The answered listed segment of lowest address. -/
def Cmd.nextReplay (c : Cmd) : Option Listed :=
  (c.listed.filter Listed.answered).foldl (fun (m : Option Listed) x =>
    match m with
    | none => some x
    | some y => if x.va < y.va then some x else some y) none

/-- A listed segment is tried once more. -/
def State.replaySegment (s : State) (t : Nat) (tm : Team) (c : Cmd) (g : Segment) : State :=
  match s.segFault tm g with
  | (some f, s1) => s1.failSegment t tm c f.va (PageFault.fail f.kind) g
  | (none, s1) => s1.moveSegment t tm c g

/-- SEGMENT_REPLAY (R319, R320): a listed segment, or the signal word, is tried once more; a second fault leaves it
unresolvable. -/
def execSegmentReplay (t cmd : Nat) (s : State) : Host.Outcome State Fault Refusal :=
  match s.team? t, (s.team? t).bind (·.cmd? cmd) with
  | some tm, some c =>
    if !s.cmdRuns t tm c then .next s
    else
      match c.st, c.sigAddr with
      | .sigFault _ true, some a =>
        (match s.writeSignal t tm c a with
         | (.ok _, s1) => .next (s1.endCmd t c)
         | (.error f, s1) => .next (s1.endCmd t (c.noteSignal f.va (PageFault.fail f.kind))))
      | .sigFault _ _, _ => .next s
      | _, _ =>
        if (!c.todo.isEmpty && !c.draining) || !s.cmdTurn t tm c then .next s
        else
          match c.nextReplay with
          | none => .next s
          | some x => .next ((s.replaySegment t tm { c with listed := c.listed.erase x } x.seg).noteServed tm c)
  | _, _ => .next s

/-! ## Collectives (R330, R331) -/

/-- Combine one element (R331). -/
def CollTy.combine (ty : CollTy) (a b : Nat) : Nat :=
  match ty with
  | .f32 => (fAdd fF32 .rne false a b).1
  | .bf16 => (fAdd fBF16 .rne false a b).1
  | .i32 => (a + b) % 2 ^ 32

/-- Combine two byte strings element by element. -/
def CollTy.combineBytes (ty : CollTy) (a b : List Byte) : List Byte :=
  let n := CollTy.bytes ty
  (upTo (a.length / n)).flatMap (fun i =>
    leBytes n (CollTy.combine ty (leNat ((a.drop (n * i)).take n)) (leNat ((b.drop (n * i)).take n))))

/-- The result in ascending rank (R331) of the participants' inputs. -/
def collResult (op : CollOp) (ty : CollTy) (rank len : Nat) (ins : List (List Byte)) : List Byte :=
  let fold (l : List (List Byte)) : List Byte :=
    match l with
    | [] => []
    | x :: r => r.foldl (CollTy.combineBytes ty) x
  match op with
  | .allred => fold ins
  | .allgath => ins.flatten
  | .redscat => fold (ins.map (fun b => (b.drop (rank * len)).take len))

/-- Positions of the result that come from poisoned bytes of the inputs (R322): of a reduction those of the element. -/
def collBad (op : CollOp) (ty : CollTy) (rank len : Nat) (bads : List (List Nat)) : List Nat :=
  let n := CollTy.bytes ty
  let elem (l : List Nat) : List Nat := (l.foldl (fun m i => setIns m (i / n)) []).flatMap (fun e => (upTo n).map (fun j => n * e + j))
  match op with
  | .allred => elem bads.flatten
  | .allgath => bads.zipIdx.flatMap (fun p => p.1.map (fun i => len * p.2 + i))
  | .redscat => elem ((bads.flatten.filter (fun i => rank * len ≤ i && i < (rank + 1) * len)).map (fun i => i - rank * len))

/-- The collective has waited for longer than the Kennel allows (R330). -/
def State.collLate (s : State) (c : Cmd) : Bool := c.began + 4000 * s.k.ctimeout.toNat ≤ s.clk

/-- COLL_COMPLETE (R330): every participant has arrived, in time, with what `parts` carries; different operations, types or
lengths fail with MISMATCH and write nothing. -/
def execCollComplete (t cmd : Nat) (parts : List PeerPart) (s : State) : Host.Outcome State Fault Refusal :=
  match s.team? t, (s.team? t).bind (·.cmd? cmd) with
  | some tm, some c =>
    match c.kind with
    | .coll op ty =>
      let (n, rank) := s.collGroup (c.w 5)
      let (i, o) := CollOp.sizes op n (c.w 4)
      let peer (k : Nat) : Option PeerPart := parts.find? (fun p => p.rank = k)
      let others := (upTo n).filter (fun k => k ≠ rank)
      let differ := others.any (fun k =>
        match peer k with
        | some p => !(p.op = op && p.ty = ty && p.len = c.w 4)
        | none => false)
      let whole := others.all (fun k =>
        match peer k with
        | some p => p.data.length = i
        | none => false)
      if c.st ≠ .collWait || s.collLate c || !s.cmdServed t tm c then .next s
      else if differ then .next (s.putCmd t { c with st := .signal, fail := .mismatch })
      else if !whole then .next s
      else
        let ins := (upTo n).map (fun k =>
          if k = rank then Memory.readN c.buf 0 i else ((peer k).map PeerPart.data).getD [])
        let bads := (upTo n).map (fun k => if k = rank then c.bufBad else ((peer k).map PeerPart.bad).getD [])
        let b := collResult op ty rank (c.w 4) ins
        .next ((s.charge 7 0 i).putCmd t
          { c with st := .collOut, buf := Memory.writeN [] 0 b, bufBad := collBad op ty rank (c.w 4) bads,
                   todo := segments [⟨.buf 0, .glob (c.pair 2), o, o⟩] })
    | _ => .next s
  | _, _ => .next s

/-- After a TIMEOUT each 4-byte word of the `n` bytes of OUT holds its old value or one the collective wrote (R330, log
55). -/
def State.spoilOut (s : State) (t : Nat) (tm : Team) (c : Cmd) (n : Nat) : State :=
  let put (x : State) (i : Nat) : State :=
    match Config.collWord (s.freeCtr + i) with
    | some w => (x.writeLoc t tm c ((Loc.glob (c.pair 2)).plus (4 * i)) ((leBytes 4 w.toNat).take (n - 4 * i)) []).1
    | none => x
  { (upTo (cdiv n 4)).foldl put s with freeCtr := s.freeCtr + cdiv n 4 }

/-- Bytes of a collective's OUT. -/
def Cmd.outLen (c : Cmd) (s : State) : Nat :=
  match c.kind with
  | .coll op _ => (CollOp.sizes op (s.collGroup (c.w 5)).1 (c.w 4)).2
  | _ => 0

/-- COLL_TIMEOUT (R330): not every participant has arrived in time. -/
def execCollTimeout (t cmd : Nat) (s : State) : Host.Outcome State Fault Refusal :=
  match s.team? t, (s.team? t).bind (·.cmd? cmd) with
  | some tm, some c =>
    if c.st == .collWait && s.collLate c then
      .next ((s.spoilOut t tm c (c.outLen s)).putCmd t { c with st := .signal, fail := .timeout })
    else .next s
  | _, _ => .next s

end Sys2Proof.Machine
end

