-- ==== Sys2Proof/Machine/Control.lean ====
section
/-! DEFINITION. The control instructions (06: R136 to R144). -/
namespace Sys2Proof.Machine

/-- The program counter lane `l` goes to: its target in ACTIVE, `Succ` elsewhere in the lane set (R136). -/
def Ctx.newPc (c : Ctx) (tgt : Nat → Option DWord) (l : Nat) : DWord :=
  if c.active.getLsbD l then (tgt l).getD c.cl.succ else c.cl.succ

/-- Some two limb lanes that are not switched off would stand at different program counters (R283). -/
def Ctx.diverges (c : Ctx) (tgt : Nat → Option DWord) : Bool :=
  match Mask.lanes (Mask.below c.g.limbs &&& ~~~c.g.svmask) c.g.width with
  | [] => false
  | l :: r => r.any (fun x => c.newPc tgt x ≠ c.newPc tgt l)

/-- Lanes of ACTIVE whose target fails `Target` (R136). -/
def Ctx.badTargets (c : Ctx) (s : State) (tgt : Nat → Option DWord) : Mask :=
  Mask.ofLanes ((Mask.lanes c.active c.g.width).filter (fun l =>
    match tgt l with
    | some t => !s.target (s.fetcher c.ag) t
    | none => false))

/-- Put the lanes of the clause at their new program counters. -/
def Ctx.setPcs (c : Ctx) (pc : Nat → DWord) (g : Group) : Group :=
  { g with lanes := mapLanes (fun l x =>
      if (c.cl.lanes &&& g.movers).getLsbD l then { x with pc := pc l, resume := none } else x) 0 g.lanes }

/-- A lane's program counter moves, which puts the group's next turn off (R148). -/
def Ctx.swerve (c : Ctx) (tgt : Nat → Option DWord) (g : Group) : Group :=
  { g with swerved := g.swerved || (Mask.lanes c.active c.g.width).any (fun l => (tgt l).isSome) }

/-- A branch: DIVBOUND, then the link's budget, then BADTARGET, then the move (R136, R139, R283). -/
def Ctx.branch (c : Ctx) (s : State) (xs : List (Src × Nat)) (link : Group → Group) (tgt : Nat → Option DWord) : Res :=
  if c.g.limbs ≠ 0 && c.diverges tgt then .trap .divBound (Mask.below c.g.limbs) 0
  else
    let g1 := link ((c.now s).endUses c.active xs)
    if overBudget c.g g1 then .trap .regBudget c.active 0
    else if c.badTargets s tgt ≠ 0 then .trap .badTarget (c.badTargets s tgt) 0
    else .jump (c.put s (c.setPcs (c.newPc tgt) (c.swerve tgt g1)))

/-- The target of a relative branch (R137). -/
def Ctx.relative (c : Ctx) (off : Word) : DWord := c.cl.here + 8#64 * off.signExtend 64

def Opnd.isV : Opnd → Bool
  | .v _ => true
  | _ => false

/-- On the Kennel core a link, target or condition is uniform (R116, R136). -/
def noVectorOnKennel (o : Opnd) (c : Ctx) : Bool := !(c.g.kennel && Opnd.isV o)

/-- BR (R137): `cond` is (NZ, source). -/
def execBr (gd : Guard) (cond : Option (Bool × Src)) (off : Word) : State → Host.Outcome State Fault Refusal :=
  match cond with
  | none =>
    issue { core := .both, guard := .lanes gd } (fun c s => c.branch s [] id (fun _ => some (c.relative off)))
  | some (z, x) =>
    issue { core := .both, guard := .lanes gd, encOk := noVectorOnKennel x.op, uses := fun c _ => readsOf c [(x, 1)] }
      (fun c s => c.branch s [(x, 1)] id (fun l =>
        if (c.rd s x.op l = 0) = z then some (c.relative off) else none))

/-- A branch to a register (R138, R140). -/
def branchTo (gd : Guard) (a : Src) : State → Host.Outcome State Fault Refusal :=
  issue { core := .both, guard := .lanes gd, encOk := noVectorOnKennel a.op, uses := fun c _ => readsOf c [(a, 2)] }
    (fun c s => c.branch s [(a, 2)] id (fun l => some (c.rd64 s a.op l)))

def execBrx (gd : Guard) (a : Src) : State → Host.Outcome State Fault Refusal := branchTo gd a

/-- RET has BRX's effect (R140). -/
def execRet (gd : Guard) (a : Src) : State → Host.Outcome State Fault Refusal := branchTo gd a

/-- CALL (R139). -/
def execCall (gd : Guard) (link : Opnd) (off : Word) : State → Host.Outcome State Fault Refusal :=
  issue
    { core := .both, guard := .lanes gd, encOk := noVectorOnKennel link,
      uses := fun c _ => [{ op := link, n := 2, lanes := c.active, wr := true }] }
    (fun c s => c.branch s []
      (fun g =>
        match link with
        | .v n => g.setLanes64 c.active n.toNat (fun _ => c.cl.succ)
        | .s n => g.setS64 n.toNat c.cl.succ
        | _ => g)
      (fun _ => some (c.relative off)))

/-- The lanes of `m` wait to be filed under their keys (R42, R144): they stand at the REFORM. -/
def Ctx.awaitFiling (c : Ctx) (now : Nat) (key : Nat → DWord) (g : Group) : Group :=
  let wait (l : Nat) (x : Lane) : Lane :=
    { x with resume := some { c.cl with lanes := 0 }, filing := some (key l), parkedAt := now }
  { g with lanes := mapLanes (fun l x => if c.active.getLsbD l then wait l x else x) 0 g.lanes }

/-- REFORM (R144). -/
def execReform (tgt : Option Src) : State → Host.Outcome State Fault Refusal :=
  let xs := match tgt with
    | some a => [(a, 2)]
    | none => []
  issue { uses := fun c _ => readsOf c xs } (fun c s =>
    let key (l : Nat) : DWord := match tgt with
      | some a => c.rd64 s a.op l
      | none => c.cl.succ
    if c.g.limbs ≠ 0 then .trap .bindState c.active 0
    else if c.badTargets s (fun l => some (key l)) ≠ 0 then
      .trap .badTarget (c.badTargets s (fun l => some (key l))) 0
    else
      .jump (c.mod s (fun g =>
        c.swerve (fun l => tgt.map (fun _ => key l)) (c.awaitFiling s.clk key (g.endUses c.active xs)))))

/-- The threads of the lanes of `m` end with their registers; operations in flight forget them (R141). -/
def Group.endThreads (g : Group) (m : Mask) (now : Nat) : Group :=
  let leave (o : Op) : Op := { o with gone := o.gone ||| m }
  ((({ g with ops := g.ops.map leave } : Group).freeLanes m).modLanes m (fun x =>
    { x with thread := .exited, resume := none, park := none })).dissolve now

/-- EXIT (R141); a bound group raises BINDSTATE (R284). On the Kennel core the only lane ends (log 24). -/
def execExit : State → Host.Outcome State Fault Refusal :=
  issue { core := .both } (fun c s =>
    if c.g.limbs ≠ 0 then .trap .bindState c.active 0 else .jump (c.mod s (·.endThreads c.active s.clk)))

/-- NOP and YIELD (R143): a slot and nothing else; YIELD asks the slice to prefer other groups, which R39 and R40 still
decide (R70). -/
def execNop : State → Host.Outcome State Fault Refusal := issue { core := .both } (fun _ s => .done s)

def execYield : State → Host.Outcome State Fault Refusal := issue { core := .both } (fun _ s => .done s)

end Sys2Proof.Machine
end

