-- ==== Sys2Proof/Machine/CrossLane.lean ====
section
/-! DEFINITION. The cross-lane instructions (07: R159, R172 to R177). -/
namespace Sys2Proof.Machine

/-- Segment width (R172). -/
def segWidth (seg : BitVec 3) (w : Nat) : Nat := if seg = 0 then w else min (2 ^ seg.toNat) w

/-- The lane V.SHFL reads for lane `l` (R173). -/
def shflLane (mode : ShMode) (w : Nat) (k : Int) (l : Nat) : Nat :=
  let base : Int := l - l % w
  let j : Int := match mode with
    | .idx => base + k % w
    | .up => l - k
    | .down => l + k
    | .xor => (l ^^^ ((k % 2 ^ 32).toNat &&& (w - 1)) : Nat)
  if j < base || base + w ≤ j then l else j.toNat

/-- V.SHFL (R173); source lanes outside ACTIVE are read under R159. Its holds for SRC0 are judged on the lanes that some lane
sources, which R159 names, and not on the others of the lane set (R156): DESIGN CHOICE, log 109; V.BCAST does the same. -/
def execVShfl (mode : ShMode) (seg : BitVec 3) (d : BitVec 8) (a k : Src) (off : BitVec 12) :
    State → Host.Outcome State Fault Refusal :=
  let from_ (c : Ctx) (s : State) (l : Nat) : Nat :=
    shflLane mode (segWidth seg c.g.width) ((c.rd s k.op l).toInt + off.toInt) l
  issue
    { uses := fun c s => wrV c d 1 ::
        ⟨a.op, 1, Mask.ofLanes ((Mask.lanes c.active c.g.width).map (from_ c s)), false⟩ :: readsOf c [(k, 1)] }
    (fun c s => c.retire s [(a, 1), (k, 1)] (fun g =>
      g.setLanes c.active d.toNat (fun l => c.rd s a.op (from_ c s l))))

/-- V.BCAST (R174). -/
def execVBcast (w64 : Bool) (seg : BitVec 3) (d : BitVec 8) (a i : Src) : State → Host.Outcome State Fault Refusal :=
  let n := if w64 then 2 else 1
  let from_ (c : Ctx) (s : State) (l : Nat) : Nat :=
    let w := segWidth seg c.g.width
    l - l % w + (c.rdU s i.op).toNat % w
  issue
    { uses := fun c s => wrV c d n ::
        ⟨a.op, n, Mask.ofLanes ((Mask.lanes c.active c.g.width).map (from_ c s)), false⟩ :: readsOf c [(i, 1)] }
    (fun c s => c.retire s [(a, n), (i, 1)] (fun g =>
      if w64 then g.setLanes64 c.active d.toNat (fun l => c.rd64 s a.op (from_ c s l))
      else g.setLanes c.active d.toNat (fun l => c.rd s a.op (from_ c s l))))

/-! ## Reductions and scans -/

/-- Value of an empty exclusive prefix (Table 7-6). -/
def RedOp.empty : RedOp → Word
  | .addI => 0
  | .addF => 0x80000000#32
  | .minI => 0x7FFFFFFF#32
  | .minN => 0xFFFFFFFF#32
  | .maxI => 0x80000000#32
  | .maxN => 0
  | .and => 0xFFFFFFFF#32
  | .or => 0
  | .xor => 0
  | .minF => 0x7F800000#32
  | .maxF => 0xFF800000#32

/-- The value a combination starts from: the operation's identity; for the float extrema a NaN, which any number
replaces (R175). -/
def RedOp.start : RedOp → Word
  | .minF | .maxF => 0x7FC00000#32
  | o => RedOp.empty o

/-- One combination; ADD.F32 has its own order. -/
def RedOp.comb (o : RedOp) (ftz : Bool) (x y : Word) : Word × FFlags :=
  let fx (r : Nat × FFlags) : Word × FFlags := (BitVec.ofNat 32 r.1, r.2)
  match o with
  | .addI => (x + y, {})
  | .addF => fx (fAdd fF32 .rne ftz x.toNat y.toNat)
  | .minI => (if x.toInt ≤ y.toInt then x else y, {})
  | .minN => (if x.toNat ≤ y.toNat then x else y, {})
  | .maxI => (if y.toInt ≤ x.toInt then x else y, {})
  | .maxN => (if y.toNat ≤ x.toNat then x else y, {})
  | .and => (x &&& y, {})
  | .or => (x ||| y, {})
  | .xor => (x ^^^ y, {})
  | .minF => fx (fMinMax fF32 false ftz x.toNat y.toNat)
  | .maxF => fx (fMinMax fF32 true ftz x.toNat y.toNat)

/-- Combine a list in order. -/
def redFold (o : RedOp) (ftz : Bool) (xs : List Word) : Word × FFlags :=
  xs.foldl (fun a x => let r := RedOp.comb o ftz a.1 x; (r.1, a.2.or r.2)) (RedOp.start o, {})

/-- One step of the log-step tree: neighbours are added (R102). -/
def pairUp (ftz : Bool) : List Word → List Word × FFlags
  | a :: b :: r =>
    let x := RedOp.comb .addF ftz a b
    let y := pairUp ftz r
    (x.1 :: y.1, x.2.or y.2)
  | xs => (xs, {})

/-- The log-step tree over GRPW lanes; six steps cover 64 lanes and leave a single value as it is. -/
def redTree (ftz : Bool) : Nat → List Word × FFlags → Word × FFlags
  | 0, acc => (acc.1.headD 0, acc.2)
  | n + 1, acc => let r := pairUp ftz acc.1; redTree ftz n (r.1, acc.2.or r.2)

/-- One step of the float scan: y(i) := y(i − d) + y(i) for i ≥ d (R176). -/
def scanStep (ftz : Bool) (d : Nat) (acc : List Word × FFlags) : List Word × FFlags :=
  let rs := (upTo acc.1.length).map (fun i =>
    if i < d then (acc.1.getD i 0, {}) else RedOp.comb .addF ftz (acc.1.getD (i - d) 0) (acc.1.getD i 0))
  (rs.map Prod.fst, rs.foldl (fun f r => f.or r.2) acc.2)

/-- Lane values with lanes outside ACTIVE at −0.0. -/
def Ctx.padded (c : Ctx) (s : State) (a : Src) : List Word :=
  (upTo c.g.width).map (fun l => if c.active.getLsbD l then c.rd s a.op l else 0x80000000#32)

/-- V.RED's value (R175). -/
def Ctx.reduce (c : Ctx) (s : State) (o : RedOp) (a : Src) : Word × FFlags :=
  match o with
  | .addF => redTree c.g.ftz 6 (c.padded s a, {})
  | _ => redFold o c.g.ftz ((Mask.lanes c.active c.g.width).map (fun l => c.rd s a.op l))

/-- V.RED (R175). -/
def execVRed (o : RedOp) (d : Opnd) (a : Src) : State → Host.Outcome State Fault Refusal :=
  issue { uses := fun c _ => destUse c d :: readsOf c [(a, 1)] } (fun c s =>
    let r := c.reduce s o a
    c.retire s [(a, 1)] (fun g =>
      let g1 := g.sticky r.2
      match d with
      | .v n => g1.setLanes c.active n.toNat (fun _ => r.1)
      | .s n => g1.setS n.toNat r.1
      | _ => g1))

/-- The prefix values of V.SCAN for every lane (R176). -/
def Ctx.scan (c : Ctx) (s : State) (excl : Bool) (o : RedOp) (a : Src) : List Word × FFlags :=
  match o with
  | .addF =>
    let y := [1, 2, 4, 8, 16, 32].foldl (fun acc d => if d < c.g.width then scanStep c.g.ftz d acc else acc)
      (c.padded s a, {})
    (if excl then RedOp.empty .addF :: y.1 else y.1, y.2)
  | _ =>
    let rs := (upTo c.g.width).map (fun l =>
      let js := (Mask.lanes c.active c.g.width).filter (fun j => if excl then j < l else j ≤ l)
      if js.isEmpty then (RedOp.empty o, {}) else redFold o c.g.ftz (js.map (fun j => c.rd s a.op j)))
    let all := redFold o c.g.ftz ((Mask.lanes c.active c.g.width).map (fun l => c.rd s a.op l))
    (rs.map Prod.fst, all.2)

/-- V.SCAN (R176). -/
def execVScan (excl : Bool) (o : RedOp) (d : BitVec 8) (a : Src) : State → Host.Outcome State Fault Refusal :=
  issue { uses := fun c _ => wrV c d 1 :: readsOf c [(a, 1)] } (fun c s =>
    let r := c.scan s excl o a
    c.retire s [(a, 1)] (fun g => (g.sticky r.2).setLanes c.active d.toNat (fun l => r.1.getD l 0)))

/-! ## Votes -/

/-- A lane's value in a vote. -/
def Ctx.vote (c : Ctx) (s : State) (a : Src) (l : Nat) : Word := c.rdBit s a.op l

/-- The result of a vote (Table 7-7). -/
def Ctx.voteResult (c : Ctx) (s : State) (o : VoteOp) (a : Src) : DWord :=
  let ls := Mask.lanes c.active c.g.width
  let b (x : Bool) : DWord := if x then 1 else 0
  match o with
  | .all => b (ls.all (fun l => c.vote s a l ≠ 0))
  | .any => b (ls.any (fun l => c.vote s a l ≠ 0))
  | .uni => b (ls.all (fun l => c.vote s a l = c.vote s a (ls.headD 0)))
  | .ballot => maskOf c.active c.g.width (fun l => c.vote s a l ≠ 0)
  | .count => BitVec.ofNat 64 (ls.filter (fun l => c.vote s a l ≠ 0)).length

/-- V.VOTE (R177). -/
def execVVote (o : VoteOp) (d : Opnd) (a : Src) : State → Host.Outcome State Fault Refusal :=
  let n := if o = .ballot then 2 else 1
  issue { uses := fun c _ => { destUse c d with n := n } :: readsOf c [(a, 1)] } (fun c s =>
    let r := c.voteResult s o a
    c.retire s [(a, 1)] (fun g =>
      match d with
      | .p i => g.setPred i.toNat c.active (if r = 0 then 0 else BitVec.allOnes 64)
      | .v x =>
        if n = 2 then g.setLanes64 c.active x.toNat (fun _ => r)
        else g.setLanes c.active x.toNat (fun _ => r.extractLsb' 0 32)
      | .s x => if n = 2 then g.setS64 x.toNat r else g.setS x.toNat (r.extractLsb' 0 32)
      | _ => g))

end Sys2Proof.Machine
end

