-- ==== Sys2Proof/Machine/Matrix.lean ====
section
/-! DEFINITION. The matrix engine (13: R288 to R307): instructions enter its queue at issue; MMA_CAPTURE, MMA_COMPLETE and
LOAD_LAND perform them. -/
namespace Sys2Proof.Machine

/-! ## Tile registers (R293, R295, R296) -/

abbrev Tile := BitVec 128

def tExt (t : Tile) : Nat := (t.extractLsb' 96 7).toNat
def tScBase (t : Tile) : Nat := (t.extractLsb' 64 24).toNat
def tOrient (t : Tile) : Bool := t.getLsbD 53
def tFmt (t : Tile) : Option Fmt := Fmt.dec (t.extractLsb' 48 5)
def tStride (t : Tile) : Nat := (t.extractLsb' 32 16).toNat
def tBase (t : Tile) : Nat := (t.extractLsb' 0 24).toNat

def Fmt.mx : Fmt → Bool
  | .mxe4m3 | .mxe5m2 | .mxe2m1 => true
  | _ => false

/-- Roles of a tile register (Table 13-2). -/
inductive TRole where
  | a | b | move | out (r : Rnd)
  deriving DecidableEq, Repr

def TRole.accepts (x : TRole) (f : Fmt) : Bool :=
  match x with
  | .a => f == .i8 || f == .n8 || f == .f16 || f == .bf16 || f == .ter || Fmt.mx f
  | .b => f == .i8 || f == .n8 || f == .f16 || f == .bf16 || Fmt.mx f
  | .move => f == .i32 || f == .f32
  | .out _ => f == .f16 || f == .bf16 || Fmt.mx f

/-- R295 for one tile register: the format of a well-formed one. -/
def tileFmt (x : TRole) (t : Tile) : Option Fmt :=
  match tFmt t with
  | none => none
  | some f =>
    let reserved := t.extractLsb' 103 25 ≠ 0 || t.extractLsb' 88 8 ≠ 0 || t.extractLsb' 54 10 ≠ 0 || t.extractLsb' 24 8 ≠ 0
    let isOp := x == .a || x == .b
    if reserved || tBase t % 16 ≠ 0 || tStride t % 16 ≠ 0 || !x.accepts f || (Fmt.mx f && tScBase t % 64 ≠ 0) ||
        (isOp && (tExt t = 0 || 64 < tExt t)) || (tOrient t && f == .ter) ||
        (match x with
         | .out r => Fmt.mx f && (tOrient t || r ≠ .rne)
         | _ => false) then none
    else some f

/-- Table 13-3. -/
def pairOk (a b : Fmt) : Bool :=
  (Fmt.mx a && Fmt.mx b) || (a == .f16 && b == .f16) || (a == .bf16 && b == .bf16) ||
  ((a == .i8 || a == .n8 || a == .ter) && (b == .i8 || b == .n8))

/-- The formats of an MMA's tiles, or none when one is malformed. -/
def mmaFmts (ta tb : Tile) : Option (Fmt × Fmt) :=
  match tileFmt .a ta, tileFmt .b tb with
  | some a, some b => if pairOk a b then some (a, b) else none
  | _, _ => none

/-- Bytes of element (x, k) (Table 13-4). -/
def elemOff (t : Tile) (f : Fmt) (koff x k : Nat) : Nat × Nat :=
  let k' := 32 * koff + k
  let (row, col) := if tOrient t then (k', x) else (x, k')
  let o := tBase t + row * tStride t
  match f with
  | .f16 | .bf16 => (o + 2 * col, 2)
  | .mxe2m1 => (o + col / 2, 1)
  | .ter => (o + 7 * koff + k / 5, 1)
  | _ => (o + col, 1)

/-- Every piece of the scratchpad an operand's capture reads, scales last. -/
def operandPieces (t : Tile) (f : Fmt) (koff : Nat) : List (Nat × Nat) :=
  (upTo (tExt t)).flatMap (fun x => (upTo 32).map (fun k => elemOff t f koff x k)) ++
  (if Fmt.mx f then (upTo (tExt t)).map (fun x => (tScBase t + 64 * koff + x, 1)) else [])

/-- The code of an element from its bytes: a trit's digit for TER, and whether its byte is illegal (R100). -/
def elemCode (t : Tile) (f : Fmt) (x k : Nat) (b : Nat) : Nat × Bool :=
  match f with
  | .mxe2m1 => (if (if tOrient t then x else k) % 2 = 0 then b % 16 else b / 16, false)
  | .ter => if 243 ≤ b then (0, true) else (b / 3 ^ (k % 5) % 3, false)
  | _ => (b, false)

/-- The codes of an operand, index x then k. -/
def readOperand (m : Memory) (t : Tile) (f : Fmt) (koff : Nat) : List (Nat × Bool) :=
  (upTo (tExt t)).flatMap (fun x => (upTo 32).map (fun k =>
    let o := elemOff t f koff x k
    elemCode t f x k (Memory.readLE m o.1 o.2)))

def readScales (m : Memory) (t : Tile) (f : Fmt) (koff : Nat) : List Byte :=
  if Fmt.mx f then (upTo (tExt t)).map (fun x => Memory.read m (tScBase t + 64 * koff + x)) else []

/-! ## Rows (R289 to R292) -/

/-- Rows the lanes of a mask own (R290). -/
def Group.rowOf (g : Group) (l : Nat) : Nat := g.width * (g.grp % (64 / g.width)) + l

def Team.elem (tm : Team) (acc row col : Nat) : Word := AMap.getD tm.acc (4096 * acc + 64 * row + col) 0

def Team.putElem (tm : Team) (acc row col : Nat) (w : Word) : Team :=
  { tm with acc := accPut tm.acc (4096 * acc + 64 * row + col) w }

/-- Write columns `lo` on of a row. -/
def Team.putRow (tm : Team) (acc row lo n : Nat) (f : Nat → Word) : Team :=
  (upTo n).foldl (fun t j => t.putElem acc row (lo + j) (f (lo + j))) tm

def Team.rowBad (tm : Team) (acc row : Nat) : Bool := tm.accBad.contains (64 * acc + row)

def Team.setBad (tm : Team) (acc row : Nat) (bad : Bool) : Team :=
  { tm with accBad := if bad then setIns tm.accBad (64 * acc + row) else setDel tm.accBad (64 * acc + row) }

/-- OR an outcome into the matrix status (R292). -/
def Team.orStat (tm : Team) (x : Byte) : Team := { tm with mstat := tm.mstat ||| x }

/-- The matrix status (R292). -/
def Team.matrixStatus (tm : Team) : Word :=
  let bad (i : Nat) : Bool := tm.accBad.any (fun r => r / 64 = i)
  BitVec.ofNat 32 (tm.mstat.toNat + 65536 * ((upTo 16).filter bad).foldl (fun n i => n + 2 ^ i) 0)

/-- STATUS bits (Table 13-6). -/
def stNanout : Byte := 128
def stInexact : Byte := 64
def stUnderflow : Byte := 32
def stTernbad : Byte := 16
def stBadtile : Byte := 8
def stSaturated : Byte := 4
def stUce : Byte := 2
def stCorrected : Byte := 1

def bitIf (b : Bool) (x : Byte) : Byte := if b then x else 0

/-! ## Arithmetic of the array (R101) -/

/-- The value of an MMA element, its scale included (R98). -/
def mmaVal (f : Fmt) (scale code : Nat) : FVal :=
  match f with
  | .f16 => fF16.val code
  | .bf16 => fBF16.val code
  | .mxe4m3 => mxVal fE4M3 scale code
  | .mxe5m2 => mxVal fE5M2 scale code
  | .mxe2m1 => mxVal fE2M1 scale code
  | _ => .fin false 0 0

def mmaInt (f : Fmt) (code : Nat) : Int :=
  match f with
  | .i8 => (BitVec.ofNat 8 code).toInt
  | .ter => if code = 1 then 1 else if code = 2 then -1 else 0
  | _ => code

/-- c + S in FP32, one rounding; a finite sum that overflows gives the largest finite value. -/
def mmaFloat (c : Word) (ps : List FVal) : Word × Bool :=
  let sum := ps.foldl (fun a p => (addVal .rne a p).1) (.fin false 0 0)
  match (addVal .rne (fF32.val c.toNat) sum).1 with
  | .nan _ => (0x7FC00000, false)
  | .inf n => (if n then 0xFF800000 else 0x7F800000, false)
  | .fin n m e =>
    let (x, fl) := fF32.round .rne 0 n m e
    if fl.ovf then (if n then 0xFF7FFFFF else 0x7F7FFFFF, true) else (BitVec.ofNat 32 x, false)

/-- SatS(c + S, 32). -/
def mmaSat (c : Word) (sum : Int) : Word × Bool :=
  let x := c.toInt + sum
  (satS 32 x, x < -(2 ^ 31) || 2 ^ 31 ≤ x)

/-- One element of an MMA; indices beyond an extent count as +0 at scale 0x7F (R296). -/
def mmaElem (fa fb : Fmt) (k : Capture) (za : Bool) (old : Word) (i j : Nat) : Word × Bool :=
  let c := if za then 0 else old
  let a (n : Nat) : Nat := (k.a.getD (32 * i + n) 0).toNat
  let b (n : Nat) : Nat := (k.b.getD (32 * j + n) 0).toNat
  match fb with
  | .i8 | .n8 => mmaSat c (((upTo 32).map (fun n => mmaInt fa (a n) * mmaInt fb (b n))).sum)
  | _ =>
    let sa := (k.scA.getD i 0x7F).toNat
    let sb := (k.scB.getD j 0x7F).toNat
    mmaFloat c ((upTo 32).map (fun n => (mulVal (mmaVal fa sa (a n)) (mmaVal fb sb (b n))).1))

/-! ## Issue -/

def State.nacc (s : State) (tm : Team) : Nat := ((s.grid? tm.grid).map (fun g => g.lr.nacc)).getD 0

/-- Put an engine operation in the core's queue. -/
def Ctx.enqueue (c : Ctx) (s : State) (t : Nat) (tm : Team) (o : Op) (xs : List (Src × Nat)) : Res :=
  let s1 := c.mod s (fun g => ((g.endUses c.active xs).bindDst o).addOp o)
  .done (s1.modCore tm.core (fun k => { k with engineQ := k.engineQ ++ [(t, c.g.grp, (c.now s).nextOp)] }))

/-- What an engine instruction does to the scratchpad. -/
inductive SpadUse where
  | none | reads | writes
  deriving DecidableEq, Repr

/-- Its accesses follow every fence and acquire the group issued before it (R224, R238). -/
def SpadUse.waits (u : SpadUse) (g : Group) : Bool :=
  match u with
  | .none => false
  | .reads => g.mustWait false false
  | .writes => g.mustWait true false

/-- AN ENGINE INSTRUCTION AT ISSUE: REGBUDGET on the tile number, fences, acquires and a full queue hold (R224, R288,
R289), then `body` with the team and the rows ACTIVE owns. -/
def engineIssue (f : FlagUse) (acc : Option (BitVec 4)) (sp : SpadUse) (hdrOk : Ctx → Bool)
    (uses : Ctx → State → List Use) (body : Ctx → State → Nat → Team → List Nat → Res) :
    State → Host.Outcome State Fault Refusal :=
  issue { flag := f, hdrOk := hdrOk, uses := uses } (fun c s =>
    match c.ag.team, c.ag.team.bind s.team? with
    | some t, some tm =>
      if acc.any (fun a => s.nacc tm ≤ a.toNat) then .trap .regBudget c.active 0
      else if sp.waits (c.now s) then .hold
      else if 16 ≤ (s.core tm.core).engineQ.length then .hold
      else body c s t tm ((Mask.lanes c.active c.g.width).map c.g.rowOf)
    | _, _ => .hold)

/-- Copy what an engine instruction will write, when it issues (R234). -/
def State.engineCopies (s : State) (t : Nat) (acc : Option Nat) (ps : List (Nat × Nat)) : State :=
  s.modTeam t (fun x =>
    let y := match acc with
      | some a => x.copyTile a
      | none => x
    ps.foldl (fun z p => z.copyBlocks (s.nscr x) p.1 p.2) y)

/-- TDEF (R294). -/
def execTdef (n : BitVec 4) (u : BitVec 9) : State → Host.Outcome State Fault Refusal :=
  issue { uses := fun c _ => [⟨.s u, 4, c.active, false⟩] } (fun c s =>
    .done (c.mod s (fun g =>
      { g with tiles := modifyAt g.tiles n.toNat (fun _ =>
          c.g.sVal (u.toNat + 3) ++ c.g.sVal (u.toNat + 2) ++ c.g.sVal (u.toNat + 1) ++ c.g.sVal u.toNat) })))

def Group.tile (g : Group) (n : BitVec 4) : Tile := g.tiles.getD n.toNat 0

/-- MMA (R297, R299). -/
def execMma (fs : Bool) (acc ta tb : BitVec 4) (stat : Option (BitVec 9)) (za capf : Bool) (koff : BitVec 4) :
    State → Host.Outcome State Fault Refusal :=
  let su (c : Ctx) : List Use := match stat with
    | some p => [⟨.s p, 2, c.active, false⟩]
    | none => []
  engineIssue (.may fs) (some acc) (if stat.isSome then .writes else .reads) (fun c => !capf || c.cl.other fs < 12) (fun c _ => su c)
    (fun c s t tm rows =>
      let a := c.g.tile ta
      let b := c.g.tile tb
      let word := stat.map (fun p => ((c.g.sVal p.toNat).toNat / 8 * 8, c.g.sVal (p.toNat + 1)))
      let cf := if capf then some (c.cl.other fs) else none
      let fmts := mmaFmts a b
      let pieces := match fmts with
        | some (fa, fb) => operandPieces a fa koff.toNat ++ operandPieces b fb koff.toNat
        | none => []
      let outside (p : Nat × Nat) : Bool := !s.spadOk tm p.1 p.2
      let o := { c.op (.may fs) (.engine rows (.mma acc.toNat a b word za koff.toNat none false false)) with capFlag := cf }
      if cf.any (fun f => 64 ≤ (c.now s).flagCount f) then .hold
      else if word.any (fun w => outside (w.1, 8)) || pieces.any outside then
        c.spadDone s (.may fs) [] c.active [] [] []
      else
        c.enqueue (s.engineCopies t (fmts.map (fun _ => acc.toNat)) ((word.map (fun w => (w.1, 8))).toList)) t tm o [])

/-- ACC.ZERO (R303). -/
def execAccZero (fs : Bool) (acc : BitVec 4) : State → Host.Outcome State Fault Refusal :=
  engineIssue (.may fs) (some acc) .none (fun _ => true) (fun _ _ => []) (fun c s t tm rows =>
    c.enqueue (s.engineCopies t (some acc.toNat) []) t tm (c.op (.may fs) (.engine rows (.zero acc.toNat))) [])

/-- Bytes of the elements of rows `rs`, `n` bytes each, 64 columns (R303, R304). -/
def rowPieces (t : Tile) (n : Nat) (rs : List Nat) : List (Nat × Nat) :=
  rs.flatMap (fun r =>
    if tOrient t then (upTo 64).map (fun j => (tBase t + j * tStride t + n * r, n))
    else [(tBase t + r * tStride t, 64 * n)])

/-- Bytes ACC.OUT writes. -/
def outPieces (t : Tile) (f : Fmt) (rs : List Nat) : List (Nat × Nat) :=
  if Fmt.mx f then
    rs.flatMap (fun r =>
      [(tBase t + r * tStride t, if f == .mxe2m1 then 32 else 64), (tScBase t + r, 1), (tScBase t + 64 + r, 1)])
  else rowPieces t 2 rs

/-- A movement through the scratchpad: outside it every ACTIVE lane violates; otherwise it is queued. -/
def Ctx.moveTile (c : Ctx) (s : State) (t : Nat) (tm : Team) (fs : Bool) (ps : List (Nat × Nat)) (writes : Bool)
    (acc : Option Nat) (a : OpAct) : Res :=
  if ps.any (fun p => !s.spadOk tm p.1 p.2) then c.spadDone s (.may fs) [] c.active [] [] []
  else c.enqueue (s.engineCopies t acc (if writes then ps else [])) t tm (c.op (.may fs) a) []

/-- ACC.LD (R303). -/
def execAccLd (fs : Bool) (acc ta : BitVec 4) : State → Host.Outcome State Fault Refusal :=
  engineIssue (.may fs) (some acc) .reads (fun _ => true) (fun _ _ => []) (fun c s t tm rows =>
    let a := c.g.tile ta
    let ok := (tileFmt .move a).isSome
    c.moveTile s t tm fs (if ok then rowPieces a 4 rows else []) false (if ok then some acc.toNat else none)
      (.engine rows (.ld acc.toNat a)))

/-- ACC.ST (R303). -/
def execAccSt (fs : Bool) (acc ta : BitVec 4) : State → Host.Outcome State Fault Refusal :=
  engineIssue (.may fs) (some acc) .writes (fun _ => true) (fun _ _ => []) (fun c s t tm rows =>
    let a := c.g.tile ta
    c.moveTile s t tm fs (if (tileFmt .move a).isSome then rowPieces a 4 rows else []) true none
      (.engine rows (.st acc.toNat a)))

/-- ACC.RD (R303). -/
def execAccRd (fs : Bool) (acc : BitVec 4) (v : BitVec 8) (cb : BitVec 3) : State → Host.Outcome State Fault Refusal :=
  engineIssue (.must fs) (some acc) .none (fun _ => true) (fun c _ => [wrV c v 8]) (fun c s t tm rows =>
    c.enqueue s t tm
      { c.op (.must fs) (.engine rows (.rd acc.toNat v.toNat cb.toNat)) with dstV := namesOf v.toNat 8 } [])

/-- ACC.WR (R303): the registers are read at issue. -/
def execAccWr (fs : Bool) (acc : BitVec 4) (v : BitVec 8) (cb : BitVec 3) (vlu : Bool) :
    State → Host.Outcome State Fault Refusal :=
  let x : Src := ⟨.v v, vlu, false⟩
  engineIssue (.may fs) (some acc) .none (fun _ => true) (fun c _ => readsOf c [(x, 8)]) (fun c s t tm rows =>
    let vals := (Mask.lanes c.active c.g.width).map (fun l => (c.g.rowOf l, c.span s (.v v) 8 l))
    c.enqueue (s.engineCopies t (some acc.toNat) []) t tm
      (c.op (.may fs) (.engine rows (.wr acc.toNat cb.toNat vals))) [(x, 8)])

/-- ACC.OUT (R304). -/
def execAccOut (fs : Bool) (acc ta : BitVec 4) (r : Rnd) : State → Host.Outcome State Fault Refusal :=
  engineIssue (.may fs) (some acc) .writes (fun _ => true) (fun _ _ => []) (fun c s t tm rows =>
    let a := c.g.tile ta
    let ps := match tileFmt (.out r) a with
      | some f => outPieces a f rows
      | none => []
    c.moveTile s t tm fs ps true none (.engine rows (.out acc.toNat a r)))

/-- MSTAT (R305). -/
def execMstat (fs : Bool) (d : BitVec 9) (clr : Bool) : State → Host.Outcome State Fault Refusal :=
  engineIssue (.must fs) none .none (fun _ => true) (fun c _ => [wrS c d 1]) (fun c s t tm rows =>
    c.enqueue s t tm { c.op (.must fs) (.engine rows (.mstat d.toNat clr)) with dstS := [d.toNat] } [])

/-! ## Performing (R288, R300) -/

/-- The accumulator an engine operation acts on. -/
def EngAct.acc? : EngAct → Option Nat
  | .mma a _ _ _ _ _ _ _ _ | .zero a | .ld a _ | .st a _ | .rd a _ _ | .wr a _ _ | .out a _ _ => some a
  | .mstat _ _ => none

/-- The operation at a queue entry. -/
def State.engineAt (s : State) (e : Nat × Nat × Nat) : Option (List Nat × EngAct) :=
  match ((s.group? e.1 e.2.1).bind (fun g => g.ops.find? (fun o => o.id = e.2.2))).map Op.act with
  | some (.engine rows a) => some (rows, a)
  | _ => none

/-- The MMA whose turn on tile `acc` of a team it is. -/
def State.mmaOn (s : State) (t acc : Nat) : Option (Nat × Nat × Nat) :=
  let on (e : Nat × Nat × Nat) : Bool := e.1 = t && (match s.engineAt e with
    | some (_, a) => a.acc? == some acc
    | none => false)
  let isMma (e : Nat × Nat × Nat) : Bool := match s.engineAt e with
    | some (_, .mma _ _ _ _ _ _ _ _ _) => true
    | _ => false
  ((s.team? t).bind (fun tm => (s.core tm.core).engineQ.find? on)).filter isMma

/-- Entries ahead of this one in its core's queue. -/
def State.ahead (s : State) (core : Nat) (e : Nat × Nat × Nat) : List (Nat × Nat × Nat) :=
  (s.core core).engineQ.takeWhile (fun x => x ≠ e)

/-- Every earlier instruction on the tile has been performed; MSTAT waits for all of its team's. -/
def State.tileTurn (s : State) (core : Nat) (e : Nat × Nat × Nat) (a : EngAct) : Bool :=
  (s.ahead core e).all (fun x =>
    x.1 ≠ e.1 || (match s.engineAt x, a.acc? with
      | some (_, y), some acc => y.acc? ≠ some acc
      | some _, none => false
      | none, _ => true))

/-- A capture may begin: earlier captures have ended, and the team's earlier ACC.ST and ACC.OUT have written (R300). It does not
wait for the read of an earlier ACC.LD (DESIGN CHOICE, log 119; R303). -/
def State.captureTurn (s : State) (core : Nat) (e : Nat × Nat × Nat) : Bool :=
  (s.ahead core e).all (fun x =>
    match s.engineAt x with
    | some (_, .mma _ ta tb _ _ _ cap _ _) => cap.isSome || (mmaFmts ta tb).isNone
    | some (_, .st _ _) => x.1 ≠ e.1
    | some (_, .out _ _ _) => x.1 ≠ e.1
    | _ => true)

/-- Captured operands in the core's buffer. -/
def State.captured (s : State) (core : Nat) : Nat :=
  ((s.core core).engineQ.filter (fun x =>
    match s.engineAt x with
    | some (_, .mma _ _ _ _ _ _ (some _) _ _) => true
    | _ => false)).length

/-- The 4-byte words of the scratchpad that an MMA's operands lie in. -/
def operandWords (ta tb : Tile) (fa fb : Fmt) (koff : Nat) : List Nat :=
  (operandPieces ta fa koff ++ operandPieces tb fb koff).flatMap (fun p =>
    (upTo ((p.1 + p.2 - 1) / 4 - p.1 / 4 + 1)).map (fun i => p.1 / 4 + i))

/-- The capture of an MMA's operands from scratchpad bytes `m`. -/
def captureOf (m : Memory) (ta tb : Tile) (fa fb : Fmt) (koff : Nat) (bad : Bool) : Capture :=
  let a := readOperand m ta fa koff
  let b := readOperand m tb fb koff
  let w (x : Nat × Bool) : Word := BitVec.ofNat 32 x.1
  { a := a.map w, b := b.map w, scA := readScales m ta fa koff, scB := readScales m tb fb koff,
    ternBad := a.any Prod.snd, bad := bad }

/-- Words `ws` are read now. -/
def Op.reads (o : Op) (tm : Team) (ws : List Nat) : Op :=
  { o with early := ws.foldl (fun m w => AMap.set m w (BitVec.ofNat 32 (Memory.readLE tm.scratch (4 * w) 4))) o.early,
           earlyBad := o.earlyBad || ws.any (fun w => tm.spadBad (4 * w) 4) }

/-- The scratchpad as the capture read it, word by word. -/
def Op.asRead (o : Op) : Memory := o.early.foldr (fun p m => Memory.writeN m (4 * p.1) (leBytes 4 p.2.toNat)) []

/-- The capture of an MMA in its turn, with a free entry in the buffer: the words of its operands among `ws` that it has not
read yet are read, or with `none` all that are left, and then the capture ends and its flag clears (R300). -/
def State.capture (s : State) (t gi id : Nat) (ws : Option (List Nat)) : State :=
  match s.team? t, (s.group? t gi).bind (fun g => g.ops.find? (fun o => o.id = id)) with
  | some tm, some o =>
    match o.act with
    | .engine rows (.mma acc ta tb st za koff none u c) =>
      (match mmaFmts ta tb with
       | none => s
       | some (fa, fb) =>
         if !s.captureTurn tm.core (t, gi, id) || 4 ≤ s.captured tm.core then s
         else
           let left := (operandWords ta tb fa fb koff).filter (fun w => !AMap.has o.early w)
           let o1 := o.reads tm (left.filter (fun w => (ws.map (·.contains w)).getD true))
           s.modGroup t gi (fun g => g.setOp (
             if ws.isSome then o1
             else
               { o with capFlag := none, early := [], earlyBad := false,
                        act := .engine rows (.mma acc ta tb st za koff
                          (some (captureOf o1.asRead ta tb fa fb koff o1.earlyBad)) u c) })))
    | _ => s
  | _, _ => s

/-- MMA_CAPTURE (R300): the capture ends. The agenda may have it read words earlier, so that a write which lands in between is
seen in each word by itself (DESIGN CHOICE, log 98: the agenda says which). -/
def execMmaCapture (t gi id : Nat) (s : State) : Host.Outcome State Fault Refusal := .next (s.capture t gi id none)

/-- Rows written with values that are not defined, all poisoned (R306). -/
def State.freeRows (s : State) (t acc : Nat) (rows : List Nat) : State :=
  let s1 := s.modTeam t (fun tm => (rows.zipIdx).foldl (fun tm r =>
    (tm.putRow acc r.1 0 64 (fun j => Config.freeWord (s.freeCtr + 64 * r.2 + j))).setBad acc r.1 true) tm)
  { s1 with freeCtr := s.freeCtr + 64 * rows.length }

/-- The operation leaves the queue and its group. -/
def State.endEngine (s : State) (core t gi id : Nat) : State :=
  (s.modCore core (fun k => { k with engineQ := k.engineQ.filter (fun e => e ≠ (t, gi, id)) })).modGroup t gi
    (fun g => (g.dropOp id s.clk).spill)

/-- The status word of an MMA (Table 13-6), if it has one. -/
def State.putStatus (s : State) (t acc : Nat) (word : Option (Nat × Word)) (st : Byte) : State :=
  match word with
  | none => s
  | some (o, tag) => s.spadStore t o (leBytes 4 tag.toNat ++ leBytes 1 acc ++ leBytes 1 st.toNat ++ leBytes 2 0)

/-- The update of an MMA's rows: the team and whether an element was clamped. -/
def Team.mmaRows (tm : Team) (acc : Nat) (za : Bool) (fa fb : Fmt) (k : Capture) (rows : List Nat) : Team × Bool :=
  rows.foldl (fun (x : Team × Bool) r =>
    let cells := (upTo 64).map (fun j => mmaElem fa fb k za (tm.elem acc r j) r j)
    let y := x.1.putRow acc r 0 64 (fun j => (cells.getD j (0, false)).1)
    (if za then y.setBad acc r false else y, x.2 || cells.any Prod.snd)) (tm, false)

/-- MMA_COMPLETE (R299, R301, R306): rows, matrix status, status word; the completion flag clears. -/
def execMmaComplete (t gi id : Nat) (s : State) : Host.Outcome State Fault Refusal :=
  match s.team? t, (s.group? t gi).bind (fun g => g.ops.find? (fun o => o.id = id)) with
  | some tm, some o =>
    match o.act with
    | .engine rows (.mma acc ta tb word za koff cap u c) =>
      let e := EngAct.mma acc ta tb word za koff cap u c
      if !s.tileTurn tm.core (t, gi, id) e then .next s
      else
        (match mmaFmts ta tb, cap with
         | none, _ =>
           let s1 := (s.modTeam t (·.orStat stBadtile)).putStatus t acc word stBadtile
           .next (s1.endEngine tm.core t gi id)
         | some _, none => .next s
         | some (fa, fb), some k =>
           let bad := u || k.bad
           let r := tm.mmaRows acc za fa fb k rows
           let s1 := if bad then s.freeRows t acc rows else s.setTeam t r.1
           let st := bitIf k.ternBad stTernbad ||| bitIf (!bad && r.2) stSaturated ||| bitIf bad stUce |||
             bitIf c stCorrected
           let s2 := (s1.modTeam t (·.orStat st)).putStatus t acc word st
           .next ((s2.modCore tm.core (fun k => { k with mmas := (k.mmas + 1) % 2 ^ 64 })).endEngine tm.core t gi id))
    | _ => .next s
  | _, _ => .next s

/-- One ACC.OUT block of 32 values: bytes, scale, outcome (R99, R304). -/
def outBlock (f : Fmt) (ws : List Word) : List Byte × Byte × Byte :=
  let F := match f with
    | .mxe5m2 => fE5M2
    | .mxe2m1 => fE2M1
    | _ => fE4M3
  let vs := ws.map (fun w => fF32.val w.toNat)
  let sc := scaleOf F vs
  let (codes, fl) := blockCodes F sc vs
  let nan := sc == .nanBlock
  let pairs (l : List Nat) : List Byte := (upTo 16).map (fun i => BitVec.ofNat 8 (l.getD (2 * i) 0 + 16 * l.getD (2 * i + 1) 0))
  (if f == .mxe2m1 then pairs codes else codes.map (BitVec.ofNat 8), BitVec.ofNat 8 sc.code,
   bitIf nan stNanout ||| bitIf fl.inexact stInexact ||| bitIf fl.saturated stSaturated ||| bitIf fl.underflow stUnderflow)

/-- Writes of ACC.OUT for one row: pieces of bytes, and the outcome. -/
def outRow (t : Tile) (f : Fmt) (r : Rnd) (row : Nat) (ws : List Word) : List (Nat × List Byte) × Byte :=
  if Fmt.mx f then
    let b0 := outBlock f (ws.take 32)
    let b1 := outBlock f (ws.drop 32)
    ([(tBase t + row * tStride t, b0.1 ++ b1.1), (tScBase t + row, [b0.2.1]), (tScBase t + 64 + row, [b1.2.1])],
     b0.2.2 ||| b1.2.2)
  else
    let F := if f == .f16 then fF16 else fBF16
    let one (w : Word) : Nat × FFlags := F.deliver r 0 (fF32.val w.toNat)
    let st := ws.foldl (fun (a : Byte) w =>
      let x := one w
      a ||| bitIf (fF32.val w.toNat).isNan stNanout ||| bitIf x.2.inx stInexact ||| bitIf x.2.unf stUnderflow |||
        bitIf x.2.ovf stSaturated) 0
    let bytes := ws.map (fun w => leBytes 2 (one w).1)
    if tOrient t then ((upTo 64).map (fun j => (tBase t + j * tStride t + 2 * row, bytes.getD j [])), st)
    else ([(tBase t + row * tStride t, bytes.flatten)], st)

def Team.row (tm : Team) (acc r : Nat) : List Word := (upTo 64).map (tm.elem acc r)

/-- Perform an engine movement in its turn: none when it must still wait; the state, or a consumed error (R307). Where the
bytes of an ACC.OUT overlap, rows are written in ascending order and a row's codes before its scales; where those of one row
do, ORIENT 1 with STRIDE 0, its columns in ascending order: DESIGN CHOICE of the model (log 99). -/
def State.performMove (s : State) (t gi : Nat) (tm : Team) (o : Op) (rows : List Nat) (a : EngAct) : Option (Except Unit State) :=
  let e := (t, gi, o.id)
  let badRow (acc : Nat) : Bool := rows.any (fun r => tm.rowBad acc r)
  if !s.tileTurn tm.core e a then none
  else
    match a with
    | .zero acc =>
      some (.ok (s.modTeam t (fun x => rows.foldl (fun x r => (x.putRow acc r 0 64 (fun _ => 0)).setBad acc r false) x)))
    | .ld acc ta =>
      if !s.captureTurn tm.core e then none
      else if (tileFmt .move ta).isNone then some (.ok (s.modTeam t (·.orStat stBadtile)))
      else if (rowPieces ta 4 rows).any (fun p => tm.spadBad p.1 p.2) then
        some (.ok ((s.freeRows t acc rows).modTeam t (·.orStat stUce)))
      else
        let off (r j : Nat) : Nat := if tOrient ta then tBase ta + j * tStride ta + 4 * r else tBase ta + r * tStride ta + 4 * j
        some (.ok (s.modTeam t (fun x => rows.foldl (fun x r =>
          (x.putRow acc r 0 64 (fun j => BitVec.ofNat 32 (Memory.readLE tm.scratch (off r j) 4))).setBad acc r false) x)))
    | .st acc ta =>
      if (tileFmt .move ta).isNone then some (.ok (s.modTeam t (·.orStat stBadtile)))
      else if badRow acc then some (.error ())
      else
        let put (s : State) (r : Nat) : State :=
          let ws := (tm.row acc r).map (fun w => leBytes 4 w.toNat)
          if tOrient ta then
            (upTo 64).foldl (fun s j => s.spadStore t (tBase ta + j * tStride ta + 4 * r) (ws.getD j [])) s
          else s.spadStore t (tBase ta + r * tStride ta) ws.flatten
        some (.ok ((rows.foldl put s).modTeam t (·.spadHeal (rowPieces ta 4 rows))))
    | .rd acc v cb =>
      if badRow acc then some (.error ())
      else
        some (.ok (s.modGroup t gi (fun g =>
          landAll ((Mask.lanes o.lanes g.width).zip rows |>.flatMap (fun p =>
            (upTo 8).map (fun m => ⟨some p.1, v + m, tm.elem acc p.2 (8 * cb + m), false⟩))) o.gone g)))
    | .wr acc cb vals =>
      some (.ok (s.modTeam t (fun x => vals.foldl (fun x p =>
        x.putRow acc p.1 (8 * cb) 8 (fun j => p.2.getD (j - 8 * cb) 0)) x)))
    | .out acc ta r =>
      (match tileFmt (.out r) ta with
       | none => some (.ok (s.modTeam t (·.orStat stBadtile)))
       | some f =>
         if badRow acc then some (.error ())
         else
           some (.ok ((rows.foldl (fun s row =>
             let x := outRow ta f r row (tm.row acc row)
             (x.1.foldl (fun s p => s.spadStore t p.1 p.2) s).modTeam t (·.orStat x.2)) s).modTeam t
               (·.spadHeal (outPieces ta f rows)))))
    | .mstat d clr =>
      let s1 := s.modGroup t gi (fun g => landAll [⟨none, d, tm.matrixStatus, false⟩] o.gone g)
      some (.ok (if clr then s1.modTeam t (fun x => { x with mstat := 0 }) else s1))
    | .mma _ _ _ _ _ _ _ _ _ => none

end Sys2Proof.Machine
end

