-- ==== Sys2Proof/Machine/MxAcc.lean ====
section
/-! DEFINITION. MX block accumulation (11: R256 to R268). The blocks of an MXACC are translated when it issues and
accumulated one by one by MXACC_BLOCK. -/
namespace Sys2Proof.Machine

/-- E2M1 granules and blocks are FP4. -/
def MxFmt.fp4 : MxFmt → Bool
  | .e2m1 => true
  | _ => false

/-- Bytes of a granule's image, of its elements, and lanes of its block (Tables 11-1, 11-3). -/
def MxFmt.granule (f : MxFmt) : Nat := if MxFmt.fp4 f then 32 else 64
def MxFmt.elemBytes (f : MxFmt) : Nat := if MxFmt.fp4 f then 16 else 32
def MxFmt.lanes (f : MxFmt) : Nat := if MxFmt.fp4 f then 4 else 8

/-- The 32 element codes of packed bytes (R89). -/
def MxFmt.unpack (f : MxFmt) (b : List Byte) : List Byte :=
  if MxFmt.fp4 f then b.flatMap (fun x => [x &&& 0xF, x >>> 4]) else b

/-- Pack element codes into bytes. -/
def MxFmt.pack (f : MxFmt) : List Nat → List Byte
  | a :: b :: r =>
    if MxFmt.fp4 f then BitVec.ofNat 8 (a + 16 * b) :: MxFmt.pack f r
    else BitVec.ofNat 8 a :: BitVec.ofNat 8 b :: MxFmt.pack f r
  | [a] => [BitVec.ofNat 8 a]
  | [] => []

/-- THE INDIVISIBLE STEP (R261): the granule's owned bytes, with one block added. -/
def mxStep (tf sf : MxFmt) (g : List Byte) (elems : List Byte) (scale : Nat) : List Byte :=
  let F := MxFmt.fmt tf
  let n := MxFmt.elemBytes tf
  let at_ (i : Nat) : Nat := (g.getD i 0).toNat
  let old := at_ n
  let xs := List.zipWith (fun a b =>
    (addVal .rne (mxVal F old a.toNat) (mxVal (MxFmt.fmt sf) scale b.toNat)).1) (MxFmt.unpack tf (g.take n)) elems
  let sc := scaleOf F xs
  let (codes, fl) := blockCodes F sc xs
  let sn := match sc with
    | .allZero => old
    | x => x.code
  let bit (b : Bool) (k : Nat) : Nat := if b then k else 0
  let st := match sc with
    | .nanBlock => 0x20
    | .allZero => 0
    | .scale _ => bit fl.inexact 1 + bit (old < sn) 2 + bit (sn < old) 4 + bit fl.saturated 8 + bit fl.underflow 16
  MxFmt.pack tf codes ++ leBytes 1 sn ++ leBytes 1 (at_ (n + 1) % 64 ||| st) ++
    leBytes 2 (leNat ((g.drop (n + 2)).take 2) + 1)

/-- Lanes of every block of `k` lanes that is partly in ACTIVE (R260). -/
def Ctx.partBlocks (c : Ctx) (k : Nat) : Mask :=
  let full : Mask := Mask.below k
  (upTo (c.g.width / k)).foldl (fun m i =>
    let x := (c.active >>> (k * i)) &&& full
    if x ≠ 0 && x ≠ full then m ||| (full <<< (k * i)) else m) 0

/-- First lanes of the blocks in ACTIVE. -/
def Ctx.leads (c : Ctx) (k : Nat) : List Nat := (Mask.lanes c.active c.g.width).filter (fun l => l % k = 0)

def Ctx.leadMask (c : Ctx) (k : Nat) : Mask := Mask.ofLanes (c.leads k)

/-- Lanes of every block whose address is not a multiple of `al` (R260). -/
def Ctx.misBlocks (c : Ctx) (k al : Nat) (at_ : Nat → Nat) : Mask :=
  (c.leads k).foldl (fun m l => if at_ l % al ≠ 0 then m ||| (Mask.below k <<< l) else m) 0

/-- The 32 element codes of the block that starts at lane `l` (Table 11-3). -/
def blockElems (sf : MxFmt) (v : OpVals) (l : Nat) : List Byte :=
  MxFmt.unpack sf ((upTo (MxFmt.lanes sf)).flatMap (fun j => leBytes 4 ((AMap.getD v.data (l + j) []).headD 0).toNat))

/-- MXACC's access of one block: translated now, accumulated later. The scale stands second in the lead lane's data. -/
def mxaccAcc (tf sf : MxFmt) : GAcc :=
  { one := false, blk := MxFmt.lanes sf, code := 3, store := true, len := MxFmt.granule tf, addr := OpVals.va,
    run := fun t v l cov s =>
      let fail (s : State) : LaneOut := ⟨[], [], false, false, cov, [], s⟩
      match s.team? t with
      | none => fail s
      | some tm =>
        match s.place? tm ⟨v.va l, MxFmt.granule tf, tm.rangeAt (v.va l)⟩ true with
        | (.error k, s1) => { fail s1 with faults := [(v.va l, k)] }
        | (.ok pa, s1) =>
          let sc := (((AMap.getD v.data l []).getD 1 0).extractLsb' 0 8)
          { fail s1 with mx := [⟨l, v.va l, pa, tf, sf, blockElems sf v l, sc⟩] } }

/-- MXACC (R259 to R263). -/
def execMxacc (gd : Guard) (fs : Bool) (tf sf : MxFmt) (x : Src) (m : MAddr) (slu : Bool) (sreg : BitVec 8) :
    State → Host.Outcome State Fault Refusal :=
  let k := MxFmt.lanes sf
  let sr : Src := ⟨.v sreg, slu, false⟩
  issue
    { flag := .may fs, guard := .lanes gd,
      uses := fun c _ =>
        [⟨x.op, 1, c.active, false⟩, ⟨m.base.op, 2, c.active, false⟩, ⟨m.offs.op, 1, c.leadMask k, false⟩,
         ⟨.v sreg, 1, c.leadMask k, false⟩] }
    (fun c s =>
      let v0 := c.vals s m (Mask.lanes c.active c.g.width) none
      let v := { v0 with data := (Mask.lanes c.active c.g.width).map (fun l =>
        (l, [c.rd s x.op l, c.g.vVal l sreg.toNat])) }
      if c.partBlocks k ≠ 0 then .trap .mxMask (c.partBlocks k) 0
      else if c.misBlocks k (MxFmt.granule tf) v.va ≠ 0 then .trap .mxAlign (c.misBlocks k (MxFmt.granule tf) v.va) 0
      else c.globalOp s (.may fs) (mxaccAcc tf sf) v ((x, 1) :: (sr, 1) :: MAddr.srcs m 2) [] [] false false)

/-- MXLD's access of one granule: the home value under the team's staged bytes, all at one instant (R266). -/
def mxldAcc (tf : MxFmt) (d : Nat) : GAcc :=
  { one := false, blk := MxFmt.lanes tf, code := 3, store := false, len := MxFmt.granule tf, addr := OpVals.va,
    run := fun t v l cov s =>
      let fail (s : State) : LaneOut := ⟨[], [], false, false, cov, [], s⟩
      match s.team? t with
      | none => fail s
      | some tm =>
        let p : MPiece := ⟨v.va l, MxFmt.granule tf, tm.rangeAt (v.va l)⟩
        match s.place? tm p false with
        | (.error k, s1) => { fail s1 with faults := [(v.va l, k)] }
        | (.ok pa, s1) =>
          if s1.poisoned pa (MxFmt.granule tf) then { fail s1 with uce := true }
          else
            let n := MxFmt.elemBytes tf
            let b := overlay tm.staged pa (Memory.readN s1.mem pa (n + 4))
            let w (i : Nat) : Word := BitVec.ofNat 32 (leNat ((b.drop (4 * i)).take 4))
            { fail (s1.noteSig t p pa false) with
              lands := (upTo (MxFmt.lanes tf)).flatMap (fun j => landWords (some (l + j)) d [w j, w (n / 4)]) } }

/-- MXLD (R265, R266): REGBUDGET for its pair comes before MXMASK and MXALIGN. -/
def execMxld (fs : Bool) (tf : MxFmt) (d : BitVec 8) (m : MAddr) : State → Host.Outcome State Fault Refusal :=
  let k := MxFmt.lanes tf
  issue
    { flag := .must fs,
      uses := fun c _ =>
        [⟨.v d, 2, c.active, true⟩, ⟨m.base.op, 2, c.active, false⟩, ⟨m.offs.op, 1, c.leadMask k, false⟩] }
    (fun c s =>
      let v := c.vals s m (Mask.lanes c.active c.g.width) none
      let g1 := ((c.now s).endUses c.active (MAddr.srcs m 2)).addOp
        { c.op (.must fs) .idle with dstV := namesOf d.toNat 2 }
      if overBudget c.g g1 then .trap .regBudget c.active 0
      else if c.partBlocks k ≠ 0 then .trap .mxMask (c.partBlocks k) 0
      else if c.misBlocks k (MxFmt.granule tf) v.va ≠ 0 then .trap .mxAlign (c.misBlocks k (MxFmt.granule tf) v.va) 0
      else c.globalOp s (.must fs) (mxldAcc tf d.toNat) v (MAddr.srcs m 2) (namesOf d.toNat 2) [] false false)

/-- Accumulate one block at the home slice (R261, R262): none when its granule's line is poisoned (R263). -/
def State.mxPerform (s : State) (t : Nat) (b : MxBlk) : Option State :=
  if s.poisoned b.pa (MxFmt.granule b.tf) then none
  else
    match s.team? t with
    | none => some s
    | some tm =>
      let n := MxFmt.elemBytes b.tf
      let p : MPiece := ⟨b.va, MxFmt.granule b.tf, tm.rangeAt b.va⟩
      let s1 := s.noteSig t p b.pa true
      let s2 := if atHome (p.range.map Extent.cls) then s1
                else s1.discardStaged t tm b.pa (MxFmt.granule b.tf)
      let x := mxStep b.tf b.sf (Memory.readN s2.mem b.pa (n + 4)) b.elems b.scale.toNat
      some ((s2.memWrite b.pa x).modTeam t (fun y => { y with since := { y.since with mxacc := true } }))

/-- MXACC_BLOCK (R261): the next block of an MXACC, in ascending order. A team that has consumed an uncorrectable error waits
for its kill: no block of it is performed any more (R263, R374). -/
def execMxaccBlock (t gi id : Nat) (s : State) : Host.Outcome State Fault Refusal :=
  match (s.group? t gi).bind (fun g => g.ops.find? (fun o => o.id = id)) with
  | none => .next s
  | some o =>
    if (s.team? t).any (fun x => x.uce) then .next s
    else
      match o.act with
      | .mx (b :: r) =>
        (match s.mxPerform t b with
         | none => .next (s.modTeam t (fun x => { x with uce := true }))
         | some s1 =>
           .next (s1.modGroup t gi (fun g => g.setOp { o with act := if r.isEmpty then .land [] else .mx r })))
      | _ => .next s

end Sys2Proof.Machine
end

