-- ==== Sys2Proof/Machine/Events.lean ====
section
/-! DEFINITION. What completes the work of groups: landing (03 R67, R69), operand-log replay (09 R219), waking (10 R242),
and the finding of integrity errors (09 R220 to R222, 13 R306, 16 R380, R381). -/
namespace Sys2Proof.Machine

/-! ## Landing -/

/-- The results of an operation land; it stays while lanes of it await replay. -/
def Group.landOp (g : Group) (now : Nat) (o : Op) (ws : List Land) : Group :=
  let g1 := landAll ws o.gone g
  (if o.faulted = 0 then g1.dropOp o.id now else g1.setOp { o with act := .land [], landed := true }).spill

/-- LOAD_LAND (R67, R69): a result lands and a fault is found (R59), an engine movement is performed in its turn, a fence is performed. -/
def execLoadLand (t gi id : Nat) (s : State) : Host.Outcome State Fault Refusal :=
  match s.team? t, s.group? t gi, (s.group? t gi).bind (·.op? id) with
  | some tm, some g, some o =>
    match o.act with
    | .land ws =>
      .next ((if o.landed then s else s.modGroup t gi (fun g => g.landOp s.clk o ws)).findFault t gi id)
    | .idle => .next (s.modGroup t gi (fun g => (g.dropOp id s.clk).spill))
    | .fence _ _ => if g.earlierOpen id then .next s else .next (s.modGroup t gi (fun g => g.dropOp id s.clk))
    | .engine rows a =>
      (match s.performMove t gi tm o rows a with
       | none => .next s
       | some (.error _) => .next (s.modTeam t (fun x => { x with uce := true }))
       | some (.ok s1) => .next (s1.endEngine tm.core t gi id))
    | .mx _ => .next (s.findFault t gi id)
    | .cmd _ => .next s
  | _, _, _ => .next s

/-! ## Replay (R219, R60, R243) -/

/-- The access that a logged instruction repeats. -/
def replayAcc (i : Instr) : Option GAcc :=
  match i with
  | .ld _ sz d _ _ => some (loadAcc false sz d.toNat 0)
  | .st _ _ sz _ _ _ => some (storeAcc false sz)
  | .ldu _ sz d _ _ => some (loadAcc true sz d.toNat 0)
  | .stu _ _ sz _ _ _ => some (storeAcc true sz)
  | .atom _ _ op _ _ ret x _ => some (atomAcc false op (if ret then some (Opnd.reg x.op) else none))
  | .atomu _ _ op _ _ ret x _ => some (atomAcc true op (if ret then some (Opnd.reg x.op) else none))
  | .mxld _ tf d _ => some (mxldAcc tf d.toNat)
  | .mxacc _ _ tf sf _ _ _ _ => some (mxaccAcc tf sf)
  | .tktTake _ _ d _ => some (tktTakeAcc d.toNat)
  | .tktPass _ _ _ _ => some tktPassAcc
  | .tktWait _ _ _ _ _ => some tktWaitAcc
  | .waita _ _ _ cc _ _ => some (waitaAcc cc)
  | _ => none

/-- Every fault record of the waiter has been answered RETRY. -/
def State.answered (s : State) (w : Faulter) : Bool := s.sched.tokens.all (fun k => k.who ≠ w || k.retried)

/-- The records of a waiter are done with. -/
def State.clearTokens (s : State) (w : Faulter) : State :=
  { s with sched := { s.sched with tokens := s.sched.tokens.filter (fun k => k.who ≠ w) } }

/-- The group's oldest operation that awaits replay: its fault may still have to be found. -/
def Group.oldestEntry (g : Group) : Option Op := g.ops.find? (fun o => o.faulted ≠ 0)

/-- Lanes parked at the operation: they pass it, or are parked on the object its test failed on. -/
def Group.endReplayPark (g : Group) (id : Nat) (w : Option (WaitObj × List Byte)) (now : Nat) : Group :=
  let f (x : Lane) : Lane :=
    if x.park == some (.replay id) then
      match w with
      | none => x.pass
      | some (o, seen) => { x with park := some (.sync o seen), parkedAt := now }
    else x
  { g with lanes := g.lanes.map f }

/-- What the replay leaves of the operation: its entry with the lanes that fault again, or nothing. -/
def Group.replayed (g : Group) (now : Nat) (o : Op) (r : RunOut) : Group :=
  let lands := r.lands.filter (fun w => match w.lane with
    | some l => !g.svmask.getLsbD l
    | none => true)
  let g1 := landAll lands o.gone g
  if o.faulted = 0 then g1.dropOp o.id now else g1.setOp { o with covered := r.cov, landed := true }

/-- The blocks an MXACC replays, one by one (R263); none where one meets poison. -/
def State.mxAll (t : Nat) : List MxBlk → State → Option State
  | [], s => some s
  | b :: r, s => (s.mxPerform t b).bind (State.mxAll t r)

/-- Blocks of the operation's first issue are still to be performed. -/
def Op.mxLeft (o : Op) : Bool :=
  match o.act with
  | .mx b => !b.isEmpty
  | _ => false

/-- OPERAND_LOG_REPLAY (R219): the oldest entry, once all its records are answered RETRY, is tried again; results of its
first completion land before, and an MXACC's blocks are performed (R263). -/
def execOperandLogReplay (t gi : Nat) (s : State) : Host.Outcome State Fault Refusal :=
  match s.team? t, (s.group? t gi).bind Group.oldestEntry with
  | some tm, some o =>
    match (decode o.word).toOption.bind replayAcc with
    | none => .next s
    | some a =>
      let w := Faulter.entry t gi o.id
      if !(o.entry.isSome && !o.mxLeft && tm.resident && tm.st == .running && !tm.uce && s.answered w) then
        .next s
      else
        let s0 := (s.clearTokens w).modGroup t gi (fun g =>
          match o.act with
          | .land ws => if o.landed then g else landAll ws o.gone g
          | _ => g)
        let width := ((s.group? t gi).map Group.width).getD 0
        let ls := (a.lanes o.faulted width)
        let cov := (((s.group? t gi).map (fun g => g.shade o.portB o.turn o.covered)).getD o.covered)
        let r := a.runLanes t o.vals ls ⟨[], [], false, false, cov, [], s0⟩
        match (if r.uce then none else State.mxAll t r.mx r.s) with
        | none => .next (s.modTeam t (fun x => { x with uce := true }))
        | some s1 =>
          let o1 := a.faulted o.faulted o.vals r.faults { o with act := .land [] }
          if r.blocked then
            match (s0.place? tm ⟨a.addr o.vals 0, a.len, tm.rangeAt (a.addr o.vals 0)⟩ false).1 with
            | .ok pa =>
              .next (r.s.modGroup t gi (fun g =>
                ((g.dropOp o.id s.clk).endReplayPark o.id (some (.glob pa a.len, Memory.readN s0.mem pa a.len)) s.clk).spill))
            | .error _ => .next s
          else
            let s2 := s1.modGroup t gi (fun g =>
              let g1 := g.replayed s.clk { o1 with recs := [] } r
              ((if r.faults.isEmpty then g1.endReplayPark o.id none s.clk else g1).spill).notesLater o.portB o.turn
                (coverBytes r.cov))
            .next (s2.pageFaults a.code t gi o.id (o.entry.getD 0) o1.recs)
  | _, _ => .next s

/-! ## Waking (R242) -/

/-- PARK_WAKE: the lane set of lane `lane` is woken when its object has been written, or 4,096 cycles after it parked, which
bounds a loop that waits by WAITA, TKT.WAIT or a barrier wait (R255). -/
def execParkWake (t gi lane : Nat) (s : State) : Host.Outcome State Fault Refusal :=
  match s.group? t gi with
  | none => .next s
  | some g =>
    let x := g.lane lane
    match x.park with
    | some (.sync w seen) =>
      if x.parkedAt + 4096 ≤ s.clk || s.objBytes t g w ≠ seen then
        .next (s.modGroup t gi (fun g => { g with lanes := g.lanes.map (fun y =>
          if y.park = x.park ∧ y.resume = x.resume ∧ y.pc = x.pc then { y with park := none } else y) }))
      else .next s
    | _ => .next s

/-! ## Integrity errors -/

/-- A block of a bank that cannot be repaired is reported: in the retired-block list while it has room, and in a REPAIR
record (R381, R390, R392). -/
def State.retireBlock (s : State) (b : Nat) : State :=
  if s.nvm.retired.contains b then s
  else
    let s1 : State :=
      if 7680 ≤ s.nvm.retired.length then s else { s with nvm := { s.nvm with retired := s.nvm.retired ++ [b] } }
    s1.hwLog 4 none 0xFFFF [b]

/-- The physical blocks of a BANK entry are retired. -/
def State.retireBank (s : State) (r : Repair) : State :=
  (Config.bankBlocks r.hbm.toNat r.chan.toNat r.bank.toNat).foldl State.retireBlock s

/-- A REPAIR record for an entry added or applied (R392). -/
def State.logRepair (s : State) (r : Repair) : State :=
  s.hwLog 4 none 0xFFFF [boolW r.applied |>.toNat, r.kind.toNat, r.hbm.toNat, r.chan.toNat, r.bank.toNat, r.pin.toNat,
    r.addr.toNat]

/-- Append an entry to the pending-repair list; a BANK entry's blocks are retired. A full list takes none, and the fault is
logged as an event only (R381). -/
def State.addRepair (s : State) (r0 : Repair) : State :=
  let r : Repair := { r0 with applied := false, time := s.clkLo.extractLsb' 32 32 }
  if 256 ≤ s.nvm.repair.length then s.logRepair r
  else
    let s1 := ({ s with nvm := { s.nvm with repair := s.nvm.repair ++ [r] } } : State).logRepair r
    if r.kind = 3 then s1.retireBank r else s1

/-- The row of a repair: a number for its stack, channel, bank and address. -/
def Repair.row (r : Repair) : Nat :=
  r.addr.toNat + 2 ^ 32 * (r.bank.toNat + 2 ^ 8 * (r.chan.toNat + 2 ^ 8 * r.hbm.toNat))

/-- 24 hours in core cycles. -/
def dayCycles : Nat := 86400 * 4000000000

/-- The repair waits in the list. -/
def State.listed (s : State) (r : Repair) : Bool :=
  s.nvm.repair.any (fun x => x.kind = r.kind && !x.applied && Repair.row x = Repair.row r)

/-- What an error does to the repair list: an uncorrectable one is entered, and the second correctable one in a row within
24 hours of one before it, once while the row's entry waits (R381). -/
def State.noteRepair (s : State) (k : EccKind) (r : Option Repair) : State :=
  match k, r with
  | .uncorrectable, some x => s.addRepair x
  | .corrected, some x =>
    let s1 := if s.nvm.fixedRows.any (fun p => p.1 = Repair.row x && s.clk < p.2 + dayCycles) &&
        !s.listed x then s.addRepair x else s
    { s1 with nvm := { s1.nvm with fixedRows :=
        (Repair.row x, s.clk) :: s1.nvm.fixedRows.filter (fun p => p.1 ≠ Repair.row x) } }
  | _, _ => s

/-- Set the outcome bits of an MMA in the queue (R306). -/
def Op.markMma (o : Op) (uce corrected : Bool) : Op :=
  match o.act with
  | .engine rows (.mma acc ta tb st za koff cap u c) =>
    { o with act := .engine rows (.mma acc ta tb st za koff cap (u || uce) (c || corrected)) }
  | _ => o

/-- The site is poisoned already. -/
def State.siteBad (s : State) (x : EccSite) : Bool :=
  match x with
  | .line pa => s.poison.contains (pa / 128)
  | .scratch t off => (s.team? t).any (fun y => y.scratchBad.contains (off / 8))
  | .vreg t g l n => (s.group? t g).any (fun y => (AMap.get? (y.lane l).regs n.toNat).any (fun r => r.bad))
  | .sreg t g n => (s.group? t g).any (fun y => (AMap.get? y.sregs n.toNat).any (fun r => r.bad))
  | .accRow t tile row _ => (s.team? t).any (fun y => y.rowBad tile row)
  | .engine _ _ _ => true
  | .sram a => s.k.sramBad.contains (a / 4 * 4)

/-- A record of the poison of a site, unless it was poisoned before (R392). -/
def State.logSite (s old : State) (x : EccSite) (a : Nat) : State := if old.siteBad x then s else s.logPoison a

/-- Bytes of the SCRATCH and FIFO banks of a team (R202). -/
def State.bankBytes (s : State) (t : Nat) : Nat :=
  bankSize * (((s.team? t).bind (fun x => s.grid? x.grid)).map (fun g => g.lr.nscr + g.lr.nfifo)).getD 0

/-- The site of an uncorrectable error becomes poisoned: a granule of a bank, an accumulator tile, that the team has (R20). What
a register with such an error reads as where the error is not signalled the spec does not say: a free value (DESIGN CHOICE,
log 133; R222, R379). -/
def State.poisonSite (s : State) (x : EccSite) : State :=
  match x with
  | .line pa => s.poisonLine (pa / 128)
  | .scratch t off => if off < s.bankBytes t then s.poisonGranule t (off / 8) else s
  | .vreg t g l n =>
    ({ s.modGroup t g (fun y => y.modLane l (fun z =>
        { z with regs := AMap.update z.regs n.toNat (fun _ => ⟨Config.freeWord s.freeCtr, true⟩) })) with
       freeCtr := s.freeCtr + 1 } : State).logSite s x n.toNat
  | .sreg t g n =>
    ({ s.modGroup t g (fun y =>
        { y with sregs := AMap.update y.sregs n.toNat (fun _ => ⟨Config.freeWord s.freeCtr, true⟩) }) with
       freeCtr := s.freeCtr + 1 } : State).logSite s x n.toNat
  | .accRow t tile row col =>
    if ((s.team? t).map s.nacc).getD 0 ≤ tile then s
    else
      ({ (s.modTeam t (fun y =>
          ((y.putElem tile row col (Config.freeWord s.freeCtr)).setBad tile row true).orStat stUce)) with
         freeCtr := s.freeCtr + 1 } : State).logSite s x row
  | .engine t g op => s.modGroup t g (fun y => { y with ops := y.ops.map (fun o => if o.id = op then o.markMma true false else o) })
  | .sram a => ({ s with k := { s.k with sramBad := setIns s.k.sramBad (a / 4 * 4) } } : State).logSite s x (a / 4 * 4)

/-- The site of a corrected error: data stand, and the matrix engine notes it: in the matrix status, and for the MMA that
runs on the row's tile in its status word (R306). -/
def State.correctSite (s : State) (x : EccSite) : State :=
  match x with
  | .accRow t tile _ _ =>
    let s1 := s.modTeam t (fun y => y.orStat stCorrected)
    (match s.mmaOn t tile with
     | some e => s1.modGroup t e.2.1 (fun y =>
         { y with ops := y.ops.map (fun o => if o.id = e.2.2 then o.markMma false true else o) })
     | none => s1)
  | .engine t g op => s.modGroup t g (fun y => { y with ops := y.ops.map (fun o => if o.id = op then o.markMma false true else o) })
  | _ => s

/-- An error found: the ECC interrupt, the poison, the repair list. -/
def State.found (s : State) (x : EccSite) (k : EccKind) (r : Option Repair) : State :=
  match k with
  | .clean => s
  | .corrected => ((s.correctSite x).kpend 6).noteRepair k r
  | .uncorrectable => ((s.poisonSite x).kpend 6).noteRepair k r

/-- ECC_EVENT (R220, R306). -/
def execEccEvent (site : EccSite) (kind : EccKind) (repair : Option Repair) (s : State) :
    Host.Outcome State Fault Refusal := .next (s.found site kind repair)

/-- SCRUB (R380): the scrubber of the granule's stack reads it, charged to the scrub budget with one core cycle (log 101). -/
def execScrub (pa : Nat) (kind : EccKind) (repair : Option Repair) (s : State) : Host.Outcome State Fault Refusal :=
  let st := pa / 4096 % 4
  if s.left 6 st then .next ((s.found (.line pa) kind repair).charge 6 st 1) else .next s

end Sys2Proof.Machine
end

