-- ==== Sys2Proof/Machine/SaveArea.lean ====
section
/-! DEFINITION. The context save area (15 R347, R348): what a save writes, its CRC, and what a restore reads. -/
namespace Sys2Proof.Machine

/-! ## Layout (Table 15-6) -/

/-- Byte offsets of the parts of a team's area. -/
structure AreaMap where
  base : Nat
  uni : Nat
  vec : Nat
  acc : Nat
  bank : Nat
  size : Nat
  deriving DecidableEq, Repr

def Launch.areaMap (lr : Launch) (team : Nat) : AreaMap :=
  let uni := 8192 + 4096 * lr.groups * (if lr.nckpt = 0 then 1 else 2)
  let vec := uni + up4k ((lr.roles.map (fun r => r.count * (4 * r.sregs))).sum)
  let acc := vec + up4k ((lr.roles.map (fun r => r.count * (4 * r.vregs * r.width))).sum)
  ⟨lr.save.toNat + team * lr.savestride, uni, vec, acc, acc + 16384 * lr.nacc, lr.saveSize⟩

/-- Where a group's uniform and vector areas begin. -/
def uniAt (am : AreaMap) (gs : List Group) (g : Nat) : Nat := am.uni + ((gs.take g).map (fun x => 4 * x.sbud)).sum
def vecAt (am : AreaMap) (gs : List Group) (g : Nat) : Nat :=
  am.vec + ((gs.take g).map (fun x => 4 * x.vbud * x.width)).sum

/-- Bytes at an offset of an area. -/
abbrev Chunk := Nat × List Byte

/-- A number's bits as bytes. -/
def bitsBytes {n : Nat} (k : Nat) (x : BitVec n) : List Byte := leBytes k x.toNat

/-! ## Group records -/

/-- The program counter an area or a halt window shows for a lane. -/
def Group.pcShown (g : Group) (l : Nat) : DWord :=
  if (g.lane l).thread == .running then (g.lane l).pc else BitVec.allOnes 64

/-- Vector live bits of one name. -/
def Group.liveV (g : Group) (n : Nat) : Mask := g.lanesWhere (fun _ x => AMap.has x.regs n)

def ArrMark.bytes (m : ArrMark) : List Byte := bitsBytes 8 m.lanes ++ leBytes 4 m.off ++ bitsBytes 4 m.phase

/-- What a checkpoint group record holds too: program counters, tile registers, wait counts, status, marks, thread
numbers. -/
def Group.recordCore (g : Group) (o : Nat) : List Chunk :=
  let tid (l : Nat) : List Byte := leBytes 4 (if (g.lane l).thread == .none then 2 ^ 32 - 1 else (g.lane l).tid)
  [(o + 2048, (upTo 64).flatMap (fun l => bitsBytes 8 (g.pcShown l))),
   (o + 2560, g.tiles.flatMap (bitsBytes 16)),
   (o + 2872, (upTo 64).map (fun l => BitVec.ofNat 8 (min 255 (g.lane l).waitCnt))),
   (o + 3064, bitsBytes 8 g.gstatRead ++ bitsBytes 8 g.fpctl ++ bitsBytes 8 g.fpflags ++ leBytes 8 g.limbs ++
      bitsBytes 8 g.lcarry ++ bitsBytes 8 g.clkhi ++ bitsBytes 8 g.ternbad ++ bitsBytes 8 g.svmask),
   (o + 3128, (g.marks.flatMap ArrMark.bytes).take 64),
   (o + 3248, (upTo 64).flatMap tid)]

/-- A group record (Table 15-6). -/
def Group.record (g : Group) (o : Nat) : List Chunk :=
  [(o, List.replicate 4096 0), (o, (upTo 256).flatMap (fun n => bitsBytes 8 (g.liveV n)))] ++ g.recordCore o ++
  [(o + 2816, g.preds.flatMap (bitsBytes 8)),
   (o + 2936, (upTo 64).flatMap (fun l => leBytes 2 (g.lane l).safeCnt)),
   (o + 3192, bitsBytes 8 g.idle),
   (o + 3200, leBytes 48 ((g.sregs.map (fun p => 2 ^ p.1)).sum))]

/-! ## Registers and banks -/

/-- A 32-bit word of a group's registers in the area: its offset, value and error. -/
structure Slot where
  off : Nat
  reg : Reg
  deriving DecidableEq, Repr

/-- The saved uniform names fill the slots in rising order. -/
def Group.uniSlots (g : Group) (o : Nat) : List Slot := (g.sregs.map Prod.snd).zipIdx.map (fun p => ⟨o + 4 * p.2, p.1⟩)

/-- The saved vector names, each with the lanes it lives in. -/
def Group.vecSlots (g : Group) (o : Nat) : List Slot :=
  g.boundV.zipIdx.flatMap (fun p =>
    (upTo g.width).filterMap (fun l => (g.vReg l p.1).map (fun r => ⟨o + 4 * (g.width * p.2 + l), r⟩)))

def Slot.chunk (x : Slot) : Chunk := (x.off, bitsBytes 4 x.reg.val)

def Team.slots (tm : Team) (am : AreaMap) : List Slot :=
  tm.groups.flatMap (fun g => g.uniSlots (uniAt am tm.groups g.grp) ++ g.vecSlots (vecAt am tm.groups g.grp))

/-- An entry of the bank table. -/
def bankEntry (lr : Launch) (tm : Team) (i : Nat) : List Byte :=
  let b (m x h n : Nat) : List Byte := leBytes 1 m ++ leBytes 1 x ++ leBytes 1 h ++ leBytes 1 n
  if i < lr.nscr then b 1 i 0 0
  else if i < lr.nscr + lr.nfifo then
    let f := tm.fifos.getD (i - lr.nscr) (0, 0)
    b 2 i f.1 f.2
  else if i < lr.nscr + lr.nfifo + lr.nckpt then b 3 (i - lr.nscr - lr.nfifo) 0 0
  else b 0 0 0 0

/-- Private bytes of a checked team's area (log 17); `n` is a fresh number of the run. -/
def privateBytes (lr : Launch) (n len : Nat) : List Byte :=
  if lr.nckpt = 0 then List.replicate len 0 else (upTo len).map (fun i => Config.privateByte (n + i))

def Sig.bytes (x : Sig) : List Byte := bitsBytes 128 x.h0 ++ bitsBytes 128 x.h1 ++ bitsBytes 128 x.h2 ++ bitsBytes 128 x.h3

/-- The poison bits of an accumulator tile. -/
def Team.accBits (tm : Team) (i : Nat) : Nat := ((tm.accBad.filter (fun r => r / 64 = i)).map (fun r => 2 ^ (r % 64))).sum

/-- The team header but for its CRC. -/
def Team.header (tm : Team) (lr : Launch) (fresh : Nat) : List Chunk :=
  [(0, bitsBytes 4 tm.phaseId ++ bitsBytes 4 tm.matrixStatus),
   (16, List.replicate 1024 0),
   (16, tm.fixups.flatMap FixRec.bytes),
   (1040, tm.rs.bytes ++ tm.ws.bytes),
   (2064, (upTo 16).flatMap (fun i => leBytes 8 (tm.accBits i))),
   (2192, (upTo 64).flatMap (bankEntry lr tm)),
   (2448, tm.perf.flatMap (leBytes 8)),
   (2512, leBytes 4 tm.restarts),
   (2516, privateBytes lr fresh 5676)]

/-- Everything a save writes but the CRC. -/
def Team.chunks (tm : Team) (lr : Launch) (fresh : Nat) : List Chunk :=
  let am := lr.areaMap tm.team
  let ck (g : Group) (i : Nat) : List Chunk := (8192 + 4096 * (lr.groups + i), List.replicate 4096 0) ::
    g.recordCore (8192 + 4096 * (lr.groups + i))
  tm.header lr fresh ++ tm.groups.flatMap (fun g => g.record (8192 + 4096 * g.grp)) ++
  (match tm.ckpt with
   | some k => k.groups.zipIdx.flatMap (fun p => ck p.1 p.2)
   | none => []) ++
  (tm.slots am).map Slot.chunk ++
  (upTo lr.nacc).map (fun i =>
    (am.acc + 16384 * i, (upTo 4096).flatMap (fun e => bitsBytes 4 (AMap.getD tm.acc (4096 * i + e) 0)))) ++
  (upTo (lr.nscr + lr.nfifo)).map (fun i => (am.bank + 32768 * i, Memory.readN tm.scratch (32768 * i) 32768)) ++
  (upTo lr.nckpt).map (fun i => (am.bank + 32768 * (lr.nscr + lr.nfifo + i),
    privateBytes lr (fresh + 5676 + 32768 * i) 32768))

/-- Offsets of the poisoned words a save writes. -/
def Team.badOffs (tm : Team) (am : AreaMap) : List Nat :=
  ((tm.slots am).filter (fun x => x.reg.bad)).map Slot.off ++ tm.scratchBad.map (fun g => am.bank + 8 * g)

/-! ## Saving and checking -/

/-- The physical line of an offset of the area, at its pinned translation. -/
def areaLine (ps : List PageT) (am : AreaMap) (o : Nat) : Option Nat :=
  (pageOf ps (am.base + o)).map (fun p => p.at (am.base + o) / 128)

/-- A line of the area reads poisoned. -/
def State.lineBad (s : State) (ps : List PageT) (am : AreaMap) (o : Nat) : Bool :=
  match areaLine ps am o with
  | some l => s.poison.contains l
  | none => false

/-- The area's bytes, those of poisoned lines as zero (R348). -/
def State.areaBytes (s : State) (ps : List PageT) (am : AreaMap) : List Byte :=
  (upTo (am.size / 128)).flatMap (fun i =>
    if s.lineBad ps am (128 * i) then List.replicate 128 0 else s.pinRead ps (am.base + 128 * i) 128)

/-- The CRC-64 of the area but for its own place. -/
def State.areaCrc (s : State) (ps : List PageT) (am : AreaMap) : DWord :=
  let b := s.areaBytes ps am
  crc64 (b.take 8 ++ b.drop 16)

/-- Write a team's area, the CRC last. Each register is a write of its own 4 bytes: a line that still holds poison of an
earlier save keeps it, though the save may write all of its words (DESIGN CHOICE, log 120; R221). -/
def State.writeArea (s : State) (g : Grid) (tm : Team) : State :=
  let am := g.lr.areaMap tm.team
  let s1 := (tm.chunks g.lr s.freeCtr).foldl (fun s c => s.pinWrite g.pins (am.base + c.1) c.2) s
  let s2 : State := { ((tm.badOffs am).filterMap (areaLine g.pins am)).foldl State.poisonLine s1 with
    freeCtr := s1.freeCtr + 5676 + 32768 * g.lr.nckpt }
  s2.pinWrite g.pins (am.base + 8) (bitsBytes 8 (s2.areaCrc g.pins am))

/-- The area passes the check of R348. -/
def State.areaOk (s : State) (g : Grid) (team : Nat) : Bool :=
  let am := g.lr.areaMap team
  (upTo (am.uni / 128)).all (fun i => !s.lineBad g.pins am (128 * i)) &&
  s.pinRead g.pins (am.base + 8) 8 == bitsBytes 8 (s.areaCrc g.pins am)

/-- A group as restored: its registers are poisoned where their line of the area is (R347); GSTAT.PREEMPT (R346) is set. -/
def State.restoreGroup (s : State) (ps : List PageT) (am : AreaMap) (gs : List Group) (g0 : Group) : Group :=
  let g := (g0.freshen s.clk).orGstat gPreempt
  let names := g.boundV
  let vBad (n l : Nat) : Bool := s.lineBad ps am (vecAt am gs g.grp + 4 * (g.width * names.findIdx (fun x => x = n) + l))
  let lane (l : Nat) (x : Lane) : Lane := { x with regs := x.regs.map (fun p => (p.1, { p.2 with bad := vBad p.1 l })) }
  { g with
    lanes := mapLanes lane 0 g.lanes,
    sregs := g.sregs.zipIdx.map (fun p =>
      (p.1.1, { p.1.2 with bad := s.lineBad ps am (uniAt am gs g.grp + 4 * p.2) })) }

/-- A team as its area gives it back (R348). -/
def State.restoreTeam (s : State) (g : Grid) (tm : Team) : Team :=
  let am := g.lr.areaMap tm.team
  { tm with
    groups := tm.groups.map (s.restoreGroup g.pins am tm.groups),
    scratchBad := (upTo (4096 * (g.lr.nscr + g.lr.nfifo))).filter (fun i => s.lineBad g.pins am (am.bank + 8 * i)) }

end Sys2Proof.Machine
end

