-- ==== Sys2Proof/Machine/Preempt.lean ====
section
/-! DEFINITION. How an admitted team starts (15 R344, 02 R31) or resumes (02 R51, 15 R348), and pre-emption (02 R46 to
R50, 15 R343, R346). -/
namespace Sys2Proof.Machine

/-! ## Start and resumption -/

/-- Threads of the roles below `r` (R31). -/
def roleThreads (rs : List Role) (r : Nat) : Nat := ((rs.take r).map (fun x => x.count * x.width)).sum

/-- A group's lanes at launch: every lane at CODE with its `%tid` (R31, R344). -/
def Group.launch (g : Group) (lr : Launch) : Group :=
  let base := roleThreads lr.roles g.role + (g.grp - roleBase lr.roles g.role) * g.width
  { g with lanes := (upTo g.width).map (fun l => { Lane.empty with thread := .running, pc := lr.code, tid := base + l }) }

/-- The drained banks of a team take their modes: on the layer of its core SCRATCH and FIFO by team bank index, the
others CKPT (R202, log 13). -/
def Column.setModes (c : Column) (t layer nscr own : Nat) : Column :=
  let mine := (c.banks.filter (fun p => p.2 = .ready t)).map Prod.fst
  let own' := (mine.filter (fun b => b / 32 = layer)).take own
  let rest := mine.filter (fun b => !own'.contains b)
  let b1 := own'.zipIdx.foldl (fun b p =>
    AMap.set b p.1 (if p.2 < nscr then BankUse.scratch t p.2 else .fifo t p.2)) c.banks
  { c with banks := rest.zipIdx.foldl (fun b p => AMap.set b p.1 (.ckpt t p.2)) b1 }

/-- A bank of the team has still to drain. -/
def State.drains (s : State) (t : Nat) (tm : Team) : Bool :=
  (s.col (colOf tm.core)).banks.any (fun p => p.2 = .draining t)

/-- A team that holds threads resumes; one that has none is new. -/
def Team.fresh (tm : Team) : Bool := tm.groups.all (fun g => g.lanes.all (fun x => x.thread == .none))

/-- The team runs from now on. -/
def State.begin (s : State) (t : Nat) (tm : Team) (g : Grid) : State :=
  let lr := g.lr
  let s1 := s.modCol (colOf tm.core) (fun c => c.setModes t (layerOf tm.core) lr.nscr (lr.nscr + lr.nfifo))
  let s2 := s1.modGrid g.num (fun x => { x with cores := setIns x.cores tm.core })
  s2.modTeam t (fun x =>
    if tm.fresh then
      ({ x with st := .running, groups := x.groups.map (fun y => y.launch lr), fifos := List.replicate lr.nfifo (0, 0) } :
        Team).takeCheckpoint (0 < lr.nckpt) s.sched.commitSeq
    else { s.restoreTeam g x with st := .running })

/-- TEAM_START (R344): an admitted team whose ranges are translated and whose banks have drained starts at CODE, or
resumes if its save area passes the check (R348). -/
def execTeamStart (t : Nat) (s : State) : Host.Outcome State Fault Refusal :=
  match s.team? t with
  | none => .next s
  | some tm =>
    match s.grid? tm.grid with
    | none => .next s
    | some g =>
      if !(tm.st == .translated) || s.drains t tm then .next s
      else if !tm.fresh && !s.areaOk g tm.team then .next (s.killTeam t .badCtx)
      else .next (s.begin t tm g)

/-! ## Arrival at safe points (R46, R48, R49) -/

/-- The lane is blocked in the first instruction of a SAFE clause, or parked at a PHASE there (R48, R237). -/
def Lane.blockedAtHead (x : Lane) : Bool :=
  match x.resume, x.park with
  | some c, some (.sync _ _) => c.pos = 0 && hSafe c.hdr
  | some c, some .phase => c.pos = 0 && hSafe c.hdr
  | _, _ => false

/-- The lane returns to its clause header. -/
def Lane.abandon (x : Lane) : Lane := if x.blockedAtHead then { x with resume := none, park := none } else x

/-- The lane has arrived: it holds no running thread, stands at no safe point for good, is blocked as R48 says, or has
stopped before a SAFE clause. -/
def State.arrived (s : State) (f : Fetcher) (g : Group) (l : Nat) : Bool :=
  let x := g.lane l
  x.thread != .running || g.svmask.getLsbD l || g.idle.getLsbD l || x.blockedAtHead ||
  (x.resume.isNone && !x.waits && s.target f x.pc && headerOk (s.peek f x.pc.toNat) && hSafe (s.peek f x.pc.toNat))

/-- The team can be saved (R49, R27, R58): every lane set has arrived, every operation has completed, no thread is filed,
and no halt, migration, commit or restart stands in the way. -/
def State.canSave (s : State) (tm : Team) : Bool :=
  tm.st == .running && tm.pre.isSome && tm.mig.isNone && !tm.uce && !tm.restarting && !tm.atPhase && tm.quiet &&
  tm.bins.all (fun b => b.threads.isEmpty) &&
  tm.groups.all (fun g => g.halt.isNone && !g.inTurn &&
    (upTo g.width).all (s.arrived ⟨tm.core, tm.grid⟩ g))

/-- The live-mask word of the safe point at which a lane has stopped. -/
def State.liveMask (s : State) (f : Fetcher) (x : Lane) : DWord := s.peek f (x.pc.toNat + 8)

/-- Registers a lane keeps: all where it stands at no safe point (R46). -/
def keepsV (all : Bool) (m : DWord) (n : Nat) : Bool := all || m.getLsbD (n / 8)
def keepsS (all : Bool) (m : DWord) (n : Nat) : Bool := all || m.getLsbD (32 + n / 16)

/-- Lanes of a group that stand at no safe point although their threads run. -/
def Group.offPoint (g : Group) : Mask := g.running &&& (g.svmask ||| g.idle)

/-- A group as the save keeps it (R46, Table 2-4). -/
def State.saveGroup (s : State) (f : Fetcher) (g0 : Group) : Group :=
  let g : Group := { g0.drained with lanes := g0.lanes.map Lane.abandon }
  let off := g.offPoint
  let at_ (l : Nat) : DWord := s.liveMask f (g.lane l)
  let lanes := Mask.lanes g.running g.width
  let deadV (n : Nat) : Mask := Mask.ofLanes (lanes.filter (fun l => !keepsV (off.getLsbD l) (at_ l) n))
  let keptP (i : Nat) : Mask := Mask.ofLanes (lanes.filter (fun l => off.getLsbD l || (at_ l).getLsbD (56 + i)))
  let slive (n : Nat) : Bool := lanes.any (fun l => keepsS (off ≠ 0#64) (at_ l) n)
  let g1 := g.boundV.foldl (fun g n => g.freeV (deadV n) n) g
  let g2 := (g1.sregs.filter (fun p => !slive p.1)).foldl (fun g p => g.freeS p.1) g1
  { g2 with preds := g2.preds.zipIdx.map (fun p => p.1 &&& keptP p.2) }

/-- Save a team that is ready (R346): its token is given up, its area written, its column resources released. -/
def State.save (s : State) (t : Nat) (tm : Team) (g : Grid) : State :=
  let s0 := s.dropToken t
  let f : Fetcher := ⟨tm.core, tm.grid⟩
  let tm1 := ({ tm with groups := tm.groups.map (s.saveGroup f), wantToken := false } : Team)
  let tm2 := (tm1.countResident s.clk).count 2 1
  let s1 := (s0.writeArea g tm2).freeResources t tm
  let tm3 : Team := { tm2 with st := .saved, resident := false, hold := (tm.pre.map PreReq.hold).getD false, pre := none,
                               dispAt := s.clk }
  (s1.setTeam t tm3).event .preempted 0 tm.core 0 tm.grid tm.team

/-- The team has reached a pre-empting safe point before its migration could start (R27): some lane set stands at one. -/
def State.overtaken (s : State) (tm : Team) : Bool :=
  tm.frozen s.clk && tm.pre.isSome && (tm.mig.map Migration.asked) == some true &&
  tm.groups.any (fun g => (upTo g.width).any (fun l => g.laneLive l && s.arrived ⟨tm.core, tm.grid⟩ g l))

/-- PREEMPT_SAVE (R346, R49): a team is saved once every member of its unit is ready or saved; a migration that has not
started when the team reaches a pre-empting safe point is cancelled (R27). -/
def execPreemptSave (t : Nat) (s : State) : Host.Outcome State Fault Refusal :=
  match s.team? t with
  | none => .next s
  | some tm =>
    match s.grid? tm.grid with
    | none => .next s
    | some g =>
      if s.overtaken tm then .next (s.cancelMove t tm)
      else if s.canSave tm && (s.unit tm).all (fun p => s.canSave p.2 || p.2.st == .saved) then .next (s.save t tm g)
      else .next s

/-! ## Requests -/

/-- The team has been admitted and not saved. -/
def Team.admitted (tm : Team) : Bool := tm.st == .admitted || tm.st == .translated || tm.st == .running

/-- A request to one member: lanes blocked at a safe point give their instruction up, unless the rendezvous is complete
(R48, R237); a saved member's HOLD changes. -/
def Team.request (tm : Team) (r : PreReq) : Team :=
  if tm.st == .saved then { tm with hold := if r.scan.isSome then tm.hold else r.hold }
  else if !tm.admitted then tm
  else
    let gs := if tm.atPhase then tm.groups
      else tm.groups.map (fun g => { g with lanes := g.lanes.map Lane.abandon })
    { tm with groups := gs, pre := some r,
              mig := if tm.frozen r.at_ then tm.mig else tm.mig.map (fun m => { m with asked := true }) }

/-- A request to any member of a unit pre-empts every member (R49). -/
def State.requestPre (s : State) (tm : Team) (r : PreReq) : State :=
  (s.unit tm).foldl (fun s p => s.modTeam p.1 (fun x => x.request r)) s

/-- The host's request (R346). -/
def State.preempt (s : State) (grid : Word) (team : Nat) (hold : Bool) : State :=
  match s.find? grid team with
  | some (_, tm) => s.requestPre tm ⟨hold, none, s.clk⟩
  | none => s

/-- PREEMPT (R346). -/
def execPreempt (grid : Word) (team : BitVec 24) (hold : Bool) (s : State) : Host.Outcome State Fault Refusal :=
  .next (s.preempt grid team.toNat hold)

/-- The HOLD of a unit ends, also one still to come (R346). -/
def State.unhold (s : State) (grid : Word) (team : Nat) : State :=
  match s.find? grid team with
  | some (_, tm) =>
    (s.unit tm).foldl (fun s p => s.modTeam p.1 (fun x =>
      { x with hold := false, pre := x.pre.map (fun r => { r with hold := false }) })) s
  | none => s

/-- RELEASE (R346). -/
def execRelease (grid : Word) (team : BitVec 24) (s : State) : Host.Outcome State Fault Refusal :=
  .next (s.unhold grid team.toNat)

/-- 100 µs in core cycles. -/
def prioWait : Nat := 400000

/-- Resident teams of PRIO below 3 in some columns, with their PRIO. -/
def State.victims (s : State) (cols : List Nat) : List (Nat × Nat × Team) :=
  s.teams.filterMap (fun p =>
    let pr := ((s.grid? p.2.grid).map (fun g => g.lr.prio)).getD 0
    if p.2.resident && p.2.admitted && pr < 3 && cols.contains (colOf p.2.core) then some (pr, p.1, p.2) else none)

/-- The lowest PRIO, then the highest dispatch number. -/
def worst : List (Nat × Nat × Team) → Option (Nat × Nat × Team)
  | [] => none
  | x :: r =>
    match worst r with
    | none => some x
    | some y => if y.1 < x.1 || (y.1 = x.1 && x.2.2.disp < y.2.2.disp) then some y else some x

/-- PRIO_PREEMPT (R343): a waiting team of PRIO 3 takes resources, one team at a time. -/
def execPrioPreempt (t : Nat) (s : State) : Host.Outcome State Fault Refusal :=
  match s.team? t with
  | none => .next s
  | some tm =>
    match s.grid? tm.grid with
    | none => .next s
    | some g =>
      let u := s.unit tm
      let vs := s.victims (packCols g.lr.shape ((s.homes g tm).headD 0))
      if s.sched.priopre && g.lr.prio = 3 && s.waiting u && tm.dispAt + prioWait ≤ s.clk && (s.placeUnit u).isNone &&
          vs.all (fun v => v.2.2.pre.isNone) then
        match worst vs with
        | some (_, _, v) => .next (s.requestPre v ⟨false, none, s.clk⟩)
        | none => .next s
      else .next s

end Sys2Proof.Machine
end

