-- ==== Sys2Proof/Machine/Power.lean ====
section
/-! DEFINITION. The column power loop, hops, droop and the Leash (16: R360 to R366, R370), the Shepherd (R367 to R369)
and migration (02 R52 to R54). -/
namespace Sys2Proof.Machine

/-- One microsecond in core cycles (01 R19: 4.0 GHz). -/
def usec : Nat := 4000

/-! ## Rationing level and target ratio (R361, R369) -/

/-- Table 16-1. -/
def levelG (lam : Nat) : Nat := if lam ≤ 7 then 8 - lam else 1
def levelK (lam : Nat) : Nat := if lam ≤ 7 then 16 else 16 - (lam - 7)

/-- The throttle level that applies to a core's slices: the column's on the layers that exceeded a quarter of the
budget, 0 on the others. -/
def Column.level (c : Column) (layer : Nat) : Nat := if c.hotLayers.getLsbD layer then c.lam else 0

/-- G and the target of k of a slice on a core, clamped (R369) or under its ceilings. -/
def Slice.tune (clamp : Bool) (lam : Nat) (x : Slice) : Slice :=
  if clamp then { x with g := 1, target := 4 }
  else { x with g := min (levelG lam) x.gcap, target := min (levelK lam) x.kcap }

/-- G and the targets of the six slices of a core follow from its column, its ceilings and its clamp. -/
def State.retune (s : State) (core : Nat) : State :=
  let lam := (s.col (colOf core)).level (layerOf core)
  s.modCore core (fun c => (upTo 6).foldl (fun c i => c.modSlice i (Slice.tune c.clamp lam)) c)

/-- Every core of a column. -/
def State.retuneCol (s : State) (col : Nat) : State := (upTo 4).foldl (fun s l => s.retune (144 * l + col)) s

/-! ## The budget period (R360, R370) -/

/-- The energy E of the period (R360): that of the four layers. -/
def ColPeriod.energy (x : ColPeriod) : Nat := x.layersNJ.sum

/-- The layers whose share of E exceeds one quarter of the budget `lim` (R361). -/
def ColPeriod.hot (x : ColPeriod) (lim : Nat) : BitVec 4 :=
  BitVec.ofNat 4 (((upTo 4).filter (fun i => lim < 4 * x.layersNJ.getD i 0)).map (fun i => 2 ^ i)).sum

/-- λ after a period, and the layers it applies to; 0.125 W over 1 µs is 125 nJ. -/
def Column.period (c : Column) (x : ColPeriod) : Column :=
  let lim := 125 * c.budget
  let e := ColPeriod.energy x
  let c1 : Column :=
    if lim < e then { c with lam := min (c.lam + 1) 19, low := 0 }
    else if 8 * e ≤ 7 * lim then
      if 3 ≤ c.low then { c with lam := c.lam - 1, low := 0 } else { c with low := c.low + 1 }
    else { c with low := 0 }
  { c1 with hotLayers := ColPeriod.hot x lim }

/-- A new budget takes effect at the period end (R25). -/
def Column.newBudget (c : Column) : Column :=
  match c.pendBudget with
  | some b => { c with budget := b, pendBudget := none }
  | none => c

/-- Whole microjoules are added, the rest is carried; the accumulator saturates (R370). -/
def Energy.add (e : Energy) (nJ : Nat) : Energy :=
  { e with val := min (2 ^ 64 - 1) (e.val + (e.rem + nJ) / 1000), rem := (e.rem + nJ) % 1000 }

/-- Energies of a period are added to the accumulators in order. -/
def addEnergies : List Energy → List Nat → List Energy
  | e :: r, x :: y => e.add x :: addEnergies r y
  | r, [] => r
  | [], _ => []

/-- What a period has measured of column `m`: its entry, the first of it; a column that is not listed has used no energy. -/
def periodOf (cols : List ColPeriod) (m : Nat) : ColPeriod := (cols.find? (fun x => x.col = m)).getD ⟨m, []⟩

/-- Each of the 144 columns is judged, once (R360); the budgets set since take effect (R25). -/
def State.judge (s : State) (cols : List ColPeriod) : State :=
  (upTo 144).foldl (fun s m => s.modCol m (fun c => (c.period (periodOf cols m)).newBudget)) s

/-- The columns whose slices are to follow: those measured, and those whose level has moved. -/
def State.toRetune (old new : State) (cols : List ColPeriod) : List Nat :=
  (upTo 144).filter (fun m => cols.any (fun x => x.col = m) || (old.col m).lam ≠ (new.col m).lam ||
    (old.col m).hotLayers ≠ (new.col m).hotLayers)

/-- BUDGET_PERIOD (R360): 1 µs after the last, λ of each column, the budgets set since, the accumulators; the activity budgets
begin anew (R323). -/
def execBudgetPeriod (cols : List ColPeriod) (accs : List Nat) (s : State) : Host.Outcome State Fault Refusal :=
  if s.clk < s.periodAt + usec then .next s
  else
    let s1 := s.judge cols
    let s2 : State := { s1 with periodAt := s.clk, k := { s1.k.newPeriod with energy := addEnergies s1.k.energy accs } }
    .next ((s.toRetune s1 cols).foldl State.retuneCol s2)

/-! ## Hops (R362) and droop (R363, R364) -/

/-- The ratio one step nearer the target. -/
def Slice.step (x : Slice) : Nat := if x.k < x.target then x.k + 1 else x.k - 1

/-- Begin a hop toward the target. -/
def Slice.beginHop (x : Slice) (now : Nat) : Slice := { x with hop := some ⟨x.step, now⟩, retryAt := none }

/-- A turn of the slice is in progress (R146). -/
def State.sliceTurn (s : State) (core slice : Nat) : Bool := (s.onSlice core slice).any (fun x => x.2.2.inTurn)

/-- A hop may begin: the ratio differs from the target, no hop runs, no turn is in progress, the clock is not
stretched. -/
def State.mayHop (s : State) (core slice : Nat) : Bool :=
  let x := (s.core core).slice slice
  x.k ≠ x.target && x.hop.isNone && (s.core core).stretch.isNone && !s.sliceTurn core slice

/-- A hop of the slice is due: its ratio differs from its target, no turn and no hop is in progress, and it waits for no
retry. -/
def State.hopDue (s : State) (core slice : Nat) : Bool :=
  let x := (s.core core).slice slice
  x.k ≠ x.target && x.hop.isNone && x.retryAt.isNone && !s.sliceTurn core slice

/-- HOP_BEGIN (R362); a slice whose hop was abandoned waits for its retry, and one that would begin in the cycle in which a
stretch begins is abandoned (R364). -/
def execHopBegin (core slice : Nat) (s : State) : Host.Outcome State Fault Refusal :=
  if s.hopDue core slice && (s.core core).stretch = some s.clk then
    .next (s.modCore core (fun c => c.modSlice slice (fun x => { x with retryAt := some s.clk })))
  else if s.mayHop core slice && ((s.core core).slice slice).retryAt.isNone then
    .next (s.modCore core (fun c => c.modSlice slice (fun x => x.beginHop s.clk)))
  else .next s

/-- HOP_END (R362): after 64 core cycles the ratio is the new one. -/
def execHopEnd (core slice : Nat) (s : State) : Host.Outcome State Fault Refusal :=
  match ((s.core core).slice slice).hop with
  | some h =>
    if h.began + 64 ≤ s.clk then
      .next (s.modCore core (fun c =>
        { c.modSlice slice (fun x => { x with k := h.goal, hop := none }) with hops := (c.hops + 1) % 2 ^ 64 }))
    else .next s
  | none => .next s

/-- A hop that runs, or is `due`, is abandoned; the slice will retry. -/
def Slice.abandonHop (x : Slice) (due : Bool) (now : Nat) : Slice :=
  if x.hop.isSome || due then { x with hop := none, retryAt := some now } else x

/-- DROOP_STRETCH (R363, R364): a detector that fires during a stretch prolongs it; hops that run or would begin in this
cycle are abandoned. -/
def execDroopStretch (core : Nat) (s : State) : Host.Outcome State Fault Refusal :=
  .next (s.modCore core (fun c =>
    { c with stretch := some s.clk, stretches := if c.stretch.isNone then (c.stretches + 1) % 2 ^ 64 else c.stretches,
             slices := c.slices.map (fun p => (p.1, p.2.abandonHop (c.stretch.isNone && s.hopDue core p.1) s.clk)) }))

/-- STRETCH_END (R363): slices whose hop or retry the stretch has met retry 256 core cycles later (R364). -/
def execStretchEnd (core : Nat) (s : State) : Host.Outcome State Fault Refusal :=
  match (s.core core).stretch with
  | some t =>
    if t + 64 ≤ s.clk then
      .next (s.modCore core (fun c =>
        { c with stretch := none,
                 slices := c.slices.map (fun p => (p.1, { p.2 with retryAt := p.2.retryAt.map (fun r => if r ≤ s.clk then s.clk + 256 else r) })) }))
    else .next s
  | none => .next s

/-- HOP_RETRY (R364): toward the current target; a slice that is there has nothing to retry. -/
def execHopRetry (core slice : Nat) (s : State) : Host.Outcome State Fault Refusal :=
  let x := (s.core core).slice slice
  match x.retryAt with
  | some t =>
    if s.clk < t || (s.core core).stretch.isSome then .next s
    else if x.k = x.target then .next (s.modCore core (fun c => c.modSlice slice (fun x => { x with retryAt := none })))
    else if s.mayHop core slice then
      .next (s.modCore core (fun c => c.modSlice slice (fun x => x.beginHop s.clk)))
    else .next s
  | none => .next s

/-! ## The Leash (R365, R366) -/

/-- Slots available in 64 core cycles: two ports in each slice cycle of 16 / k core cycles. -/
def Slice.room (x : Slice) : Nat := 8 * x.k

/-- The demand exceeds one half and the slice has then issued nothing for 16 core cycles, for the first time since. -/
def Slice.sinks (x : Slice) (now : Nat) : Bool :=
  match x.issued with
  | [] => false
  | last :: _ => x.room < 2 * x.issued.length && last + 16 ≤ now && x.sank ≠ some last

/-- LEASH_TRIGGER: the fade starts, or starts again, from the demand, which is the count the slice holds. -/
def execLeashTrigger (core slice demand : Nat) (s : State) : Host.Outcome State Fault Refusal :=
  if ((s.core core).slice slice).sinks s.clk && ((s.core core).slice slice).issued.length == demand then
    .next (s.modCore core (fun c => c.modSlice slice (fun x =>
      { x with leash := some ⟨x.issued.length, x.room, 0, s.clk⟩, sank := x.issued.head? })))
  else .next s

/-- LEASH_STEP: each of the 16 steps lasts 500 core cycles. -/
def execLeashStep (core slice : Nat) (s : State) : Host.Outcome State Fault Refusal :=
  match ((s.core core).slice slice).leash with
  | some l =>
    if l.at_ + 500 ≤ s.clk then
      .next (s.modCore core (fun c => c.modSlice slice (fun x =>
        { x with leash := if 15 ≤ l.step then none else some { l with step := l.step + 1, at_ := l.at_ + 500 } })))
    else .next s
  | none => .next s

/-! ## Migration (R27, R28, R52 to R54) -/

/-- A migration of the team may begin: it runs, none of its groups is halted, no commit, restart, pre-emption or kill of
its unit stands in the way (R27, R54). -/
def State.mayMove (s : State) (tm : Team) : Bool :=
  tm.st == .running && tm.mig.isNone && tm.pre.isNone && !tm.restarting && !tm.atPhase &&
  tm.groups.all (fun g => g.halt.isNone) && !s.packDying tm

/-- A migration of a team to a core is chosen, its banks there reserved: no turn of the team begins any more, and it starts
once every lane set is at a clause boundary and the bins, which age at once, are empty (R27, R45, R52). -/
def State.beginMove (s : State) (t : Nat) (lr : Launch) (dst : Nat) (slots : List (Nat × Nat)) : State :=
  (s.modCol (colOf dst) (fun c => c.reserve t (layerOf dst) (lr.nscr + lr.nfifo) 0)).modTeam t (fun x =>
    { x with mig := some ⟨dst, slots, s.clk, false⟩ })

/-- The operation is an MXACC's. -/
def Op.isMxacc (o : Op) : Bool := (o.word.extractLsb' 56 8).toNat = 0x9D

/-- An operation that a migration need not wait for: a Retriever command charged to a flag (R53, R68), or landed lanes that
await replay. Whether migration waits for the latter R52 does not say, since it names no operand log among what is copied:
DEDUCED, log 73. An MXACC's blocks are performed before (R263). -/
def Op.travels (o : Op) : Bool :=
  match o.act with
  | .cmd _ => o.flag.isSome
  | .land _ => o.flag.isSome && o.entry.isSome && o.landed && !o.isMxacc
  | _ => false

/-- The copy is complete: issue has stopped at clause boundaries, issued work has completed, the banks are drained, and no
member of the pack is to be killed for an error (R54, R378). -/
def State.moved (s : State) (t : Nat) (tm : Team) : Bool :=
  tm.st == .running && s.migrating tm && tm.groups.all (fun g => g.ops.all Op.travels) && !s.drains t tm

/-- The team goes on at its new core with everything as it was (R52); MIGCYCLES counts from its freeze (Table 15-10). -/
def State.arrive (s : State) (t : Nat) (tm : Team) (m : Migration) : State :=
  let lr := (s.grid? tm.grid).map Grid.lr
  let nscr := (lr.map Launch.nscr).getD 0
  let old (u : BankUse) : Bool :=
    match u with
    | .scratch x _ => x = t
    | .fifo x _ => x = t
    | _ => false
  let s1 := s.modCol (colOf m.dst) (fun c =>
    Column.setModes { c with banks := c.banks.filter (fun b => !old b.2) } t (layerOf m.dst) nscr
      (nscr + (lr.map Launch.nfifo).getD 0))
  let s2 := s1.modGrid tm.grid (fun g => { g with cores := setIns g.cores m.dst })
  s2.modTeam t (fun x =>
    (({ x with core := m.dst, groups := placeSaved x.groups m.slots, mig := none, moveAt := s.clk } : Team).count 0 1).count 1
      (s.clk - tm.frozeAt m))

/-- Bytes of a group's state (R28): its allocated vector and uniform registers, bound or retained, its tile registers, and its
flag state: predicates, LCARRY, FPCTL, FPFLAGS, GSTAT, TERNBAD and SVMASK (log 101). -/
def Group.moveBytes (g : Group) : Nat :=
  4 * g.width * (g.boundV.length + g.retained.v.length) + 4 * (g.boundS.length + g.retained.s.length) + 16 * g.tiles.length +
    (8 * g.preds.length + 32)

/-- Bytes that a migration of the team copies (R28, R52): every bank it holds, its accumulator tiles, its groups' state. A CKPT
bank, which may lie on any layer (R18), keeps its number (log 101). -/
def Team.moveBytes (tm : Team) (s : State) : Nat :=
  match s.grid? tm.grid with
  | none => 0
  | some g => bankSize * (g.lr.nscr + g.lr.nfifo + g.lr.nckpt) + 16384 * g.lr.nacc + (tm.groups.map Group.moveBytes).sum

/-- MIGRATION_END (R52), or the end of one that a pre-emption overtakes (R27). It is charged to the column's migration budget
(R28, R323). -/
def execMigrationEnd (t : Nat) (s : State) : Host.Outcome State Fault Refusal :=
  match s.team? t with
  | none => .next s
  | some tm =>
    match tm.mig with
    | none => .next s
    | some m =>
      if s.overtaken tm then .next (s.cancelMove t tm)
      else if s.moved t tm && s.left 4 (colOf tm.core) then
        .next ((s.arrive t tm m).charge 4 (colOf tm.core) (tm.moveBytes s))
      else .next s

/-! ## The Shepherd (R367 to R369) -/

/-- A reading of a core: temperature, HOT and the clamp, with THERMAL when the clamp starts or ends (R369). -/
def State.readDiode (s : State) (core : Nat) : State :=
  let c := s.core core
  let clamp := if (s.k.crit : Int) ≤ c.diode then true else if c.diode < s.k.hot then false else c.clamp
  let s1 := s.modCore core (fun c => { c with deg := c.diode, hot := (s.k.hot : Int) < c.diode, clamp := clamp })
  if clamp ≠ c.clamp then (s1.kpend 4).retune core else s1

/-- The hottest core of a column above HOT; of two equal ones the lower layer. -/
def State.source (s : State) (col : Nat) : Option Nat :=
  (((upTo 4).map (fun l => 144 * l + col)).filter (fun c => (s.core c).hot)).foldl
    (fun best c =>
      match best with
      | none => some c
      | some b => if (s.core b).deg < (s.core c).deg then some c else some b) none

/-- The energy of a team in the last period. -/
def energyOf (es : List TeamEnergy) (t : Nat) : Nat := ((es.find? (fun e => e.team = t)).map TeamEnergy.energyNJ).getD 0

/-- The team of a core that moves: past RESIDE, the largest energy, then the lower dispatch number. -/
def State.mover (s : State) (core : Nat) (es : List TeamEnergy) : Option (Nat × Team) :=
  (s.teams.filter (fun p => p.2.resident && p.2.core = core && s.mayMove p.2 && p.2.moveAt + s.k.reside * usec ≤ s.clk)).foldl
    (fun best p =>
      match best with
      | none => some p
      | some b => if energyOf es b.1 < energyOf es p.1 then some p else some b) none

/-- The coolest core of the column that takes the team, other than its own; at or below COOL for the Shepherd. -/
def State.destFor (s : State) (lr : Launch) (core : Nat) (limit : Option Nat) : Option (Nat × List (Nat × Nat)) :=
  ((s.byHeat (colOf core)).filter (fun d => d ≠ core &&
    (match limit with
     | some l => decide ((s.core d).deg ≤ l)
     | none => true))).findSome? (fun d => (s.fits lr d true).map (fun x => (d, x)))

/-- No migration runs in the column. -/
def State.stillCol (s : State) (col : Nat) : Bool :=
  s.teams.all (fun p => !(p.2.mig.isSome && p.2.resident && colOf p.2.core = col))

/-- What the Shepherd does in a column (R368). -/
def State.shepherd (s : State) (es : List TeamEnergy) (col : Nat) : State :=
  if !s.stillCol col then s
  else
    match (s.source col).bind (fun c => s.mover c es) with
    | none => s
    | some (t, tm) =>
      match s.grid? tm.grid with
      | none => s
      | some g =>
        match s.destFor g.lr tm.core (some s.k.cool) with
        | none => s
        | some (d, sl) => s.beginMove t g.lr d sl

/-- SHEPHERD_READING (R367 to R369): every 10 µs, once the compute stacks are powered. -/
def execShepherdReading (energies : List TeamEnergy) (s : State) : Host.Outcome State Fault Refusal :=
  if !s.released || s.readAt.any (fun t => s.clk < t + 10 * usec) then .next s
  else
    let s1 := (s.cores.map Prod.fst).foldl State.readDiode { s with readAt := some s.clk }
    .next ((upTo 144).foldl (fun s c => s.shepherd energies c) s1)

end Sys2Proof.Machine
end

