-- ==== Sys2Proof/Machine/Scan.lean ====
section
/-! DEFINITION. The scan rotation (16 R372, R373) with what it does to completion records (15 R354), and the coolant and
its shutdown (01 R26, 17 R395). -/
namespace Sys2Proof.Machine

/-! ## The rotation -/

/-- One millisecond in core cycles. -/
def msec : Nat := 4000000

/-- The cores of a stack by core number. -/
def stackCores (st : Nat) : List Nat :=
  (upTo 4).flatMap (fun l => (upTo 36).map (fun i => 144 * l + 36 * st + i))

/-- Stack of a core. -/
def coreStack (core : Nat) : Nat := stackOf (colOf core)

/-- Teams that execute on a core. -/
def State.onCore (s : State) (core : Nat) : List (Nat × Team) := s.teams.filter (fun p => p.2.resident && p.2.core = core)

/-- What makes a scan pass a core by: a halted group. -/
def State.coreHalted (s : State) (core : Nat) : Bool :=
  (s.onCore core).any (fun p => p.2.groups.any (fun g => g.halt.isSome))

/-- Nothing holds a pre-emption of the team: no group of it is halted, no fault or command of it is outstanding, and its
declared ranges wait for no answer. -/
def State.teamClear (s : State) (p : Nat × Team) : Bool :=
  p.2.cmds.isEmpty && p.2.groups.all (fun g => g.halt.isNone && g.ops.all (fun o => o.faulted = 0)) &&
  s.sched.tokens.all (fun k => !k.who.ofTeam p.1)

/-- What held the pre-emption of a core's teams has ended, for every member of their packs (R49). -/
def State.coreClear (s : State) (core : Nat) : Bool :=
  !s.coreHalted core && (s.onCore core).all (fun p => (s.unit p.2).all s.teamClear)

/-- The core was passed over and what it waited for has ended: its halt, or what held the pre-emption that was withdrawn. -/
def State.dueFirst (s : State) (core : Nat) : Bool :=
  match (s.core core).scan with
  | .skipped => !s.coreHalted core
  | .withdrawn => s.coreClear core
  | _ => false

/-- The core the rotation of a stack visits next: one passed over that is due, else the next in service. -/
def State.nextVisit (s : State) (st : Nat) : Option Nat :=
  let cs := (stackCores st).filter (fun c => (s.core c).inService)
  match cs.find? s.dueFirst with
  | some c => some c
  | none =>
    match AMap.get? s.scanAt st with
    | none => cs.head?
    | some l => (cs.find? (fun c => l < c)).or cs.head?

/-- No core of the stack is being scanned. -/
def State.scanFree (s : State) (st : Nat) : Bool := (stackCores st).all (fun c => !(s.core c).scan.under)

/-- Migrate the teams of a core that can move (R372). -/
def State.emptyCore (s : State) (core : Nat) : State :=
  (s.onCore core).foldl (fun s p =>
    match s.team? p.1, s.grid? p.2.grid with
    | some tm, some g =>
      if s.mayMove tm && s.stillCol (colOf core) then
        match s.destFor g.lr core none with
        | some (d, sl) => s.beginMove p.1 g.lr d sl
        | none => s
      else s
    | _, _ => s) s

/-- SCAN_VISIT (R372): the next core stops taking teams and is emptied; once empty its patterns begin; one with a halted
group is skipped. -/
def execScanVisit (core : Nat) (s : State) : Host.Outcome State Fault Refusal :=
  let st := coreStack core
  match (s.core core).scan with
  | .draining _ =>
    if (s.onCore core).isEmpty && s.teams.all (fun p => (p.2.mig.map Migration.dst) ≠ some core) then
      .next ((s.modCore core (fun c => { c with scan := .patterns s.clk })).charge 5 st (50 * usec))
    else .next (s.emptyCore core)
  | .patterns _ => .next s
  | _ =>
    if !s.released || s.nextVisit st ≠ some core || !s.scanFree st then .next s
    else
      let s1 : State := { s with scanAt := AMap.set s.scanAt st core }
      if s.coreHalted core then .next (s1.modCore core (fun c => { c with scan := .skipped }))
      else .next ((s1.modCore core (fun c => { c with scan := .draining s.clk })).emptyCore core)

/-- SCAN_MOVE_TIMEOUT (R372): a team still on the core after 1 ms is pre-empted; R27 says what becomes of a migration chosen
for it. -/
def execScanMoveTimeout (core t : Nat) (s : State) : Host.Outcome State Fault Refusal :=
  match (s.core core).scan, s.team? t with
  | .draining since, some tm =>
    if since + msec ≤ s.clk && tm.resident && tm.core = core && tm.pre.isNone then
      .next (s.requestPre tm ⟨false, some core, s.clk⟩)
    else .next s
  | _, _ => .next s

/-- The pre-emptions that the scan of a core asked for and that `late` says have failed are withdrawn, wherever their teams now
are: the team asked may have left the core, and its pack's members need not be on it (R49). -/
def State.withdraw (s : State) (core : Nat) (late : PreReq → Bool) : State :=
  { s with teams := s.teams.map (fun p =>
      (p.1, { p.2 with pre := p.2.pre.filter (fun r => !(r.scan = some core && late r)) })) }

/-- SCAN_PREEMPT_WITHDRAW (R372): after a further 1 ms the pre-emptions asked for the scan are withdrawn, and the core is
returned unscanned where it has not been emptied. -/
def execScanPreemptWithdraw (core : Nat) (s : State) : Host.Outcome State Fault Refusal :=
  let undone : Bool := match (s.core core).scan with
    | .draining since => since + 2 * msec ≤ s.clk && !(s.onCore core).isEmpty
    | _ => false
  if undone then .next ((s.withdraw core (fun _ => true)).modCore core (fun c => { c with scan := .withdrawn }))
  else .next (s.withdraw core (fun r => r.at_ + msec ≤ s.clk))

/-! ## The end of the patterns (R354, R373) -/

/-- A core has passed a scan that began at `began`: records completed before then wait for it no more (R354). -/
def State.corePassed (s : State) (core began : Nat) : State :=
  (s.grids.filter (fun g => g.cores.contains core &&
      (match g.completedAt with
       | some c => decide (c < began)
       | none => false))).foldl (fun s g =>
    let s1 := s.modGrid g.num (fun x => { x with cores := setDel x.cores core })
    if setDel g.cores core = [] then s1.finalByte g g.flags .confirm else s1) s

/-- A core has failed: completed records that wait for it get FAILSCAN, later ones get it when they complete (R354,
R373). -/
def State.coreFailed (s : State) (core : Nat) : State :=
  (s.grids.filter (fun g => g.cores.contains core)).foldl (fun s g =>
    if g.completedAt.isSome then s.finalByte g (g.flags + 3) .failScan
    else s.modGrid g.num (fun x => { x with scanFail := true })) s

/-- SCHED becomes writable when bring-up has scanned every core (R394). -/
def State.schedOpen (s : State) : State :=
  if s.cores.all (fun p => match p.2.scan with
    | .patterns _ => false
    | _ => true) then { s with schedRw := true } else s

/-- SCAN_COMPLETE (R372, R373): after 50 µs of patterns, which the stack's scan budget has covered, the core returns to service, or is removed with a SCAN
interrupt and a SCANFAIL record. -/
def execScanComplete (core : Nat) (ok : Bool) (s : State) : Host.Outcome State Fault Refusal :=
  match (s.core core).scan with
  | .patterns began =>
    if s.clk < began + 50 * usec || !s.left 5 (coreStack core) then .next s
    else if ok then
      .next ((s.modCore core (fun c => { c with scan := .idle, lastScan := some began })).corePassed core began).schedOpen
    else
      .next ((((s.modCore core (fun c => { c with scan := .idle, inService := false })).kpend 7).hwLog 5 none core
        [core]).coreFailed core).schedOpen
  | _ => .next s

/-! ## Coolant (R26, R395) -/

/-- 5 W in 0.125 W. -/
def cutBudget : Nat := 40

/-- The budget a column is set to. -/
def Column.setting (c : Column) : Nat := c.pendBudget.getD c.budget

/-- Set every column budget; each takes effect at the next period (R25). -/
def State.setBudgets (s : State) (f : Nat → Nat) : State :=
  (upTo 144).foldl (fun s m => s.modCol m (fun c => { c with pendBudget := some (f m) })) s

/-- When a circuit lost flow-good, as it changes at `now`. -/
def flowClock (good : Bool) (old : Option Nat) (now : Nat) : Option Nat := if good then none else some (old.getD now)

/-- FLOW_CHANGE (R26): the FLOW interrupt and a record; when both are good again a cut is forgotten unless a shutdown
holds. -/
def execFlowChange (lid good : Bool) (s : State) : Host.Outcome State Fault Refusal :=
  let c := s.cool
  if (if lid then c.lid else c.micro) = good then .next s
  else
    let c1 : Coolant :=
      if lid then { c with lid := good, lidBad := flowClock good c.lidBad s.clk, lidCut := c.lidCut && !good }
      else { c with micro := good, microBad := flowClock good c.microBad s.clk, microCut := c.microCut && !good }
    let c2 : Coolant :=
      if c1.lid && c1.micro then { c1 with goodSince := some s.clk, cut := c.cut && c.shutdown }
      else { c1 with goodSince := none }
    .next ((({ s with cool := c2 } : State).kpend 5).hwLog 2 none 0xFFFF [if lid then 1 else 0, if good then 1 else 0])

/-- How long the circuit that has been without flow-good longest has been so (log 116). -/
def State.badFor (s : State) : Nat :=
  let since (x : Option Nat) : Nat := (x.map (fun c => s.clk - c)).getD 0
  max (since s.cool.lidBad) (since s.cool.microBad)

/-- A cut holds, and no budget has been set since. -/
def State.stillCut (s : State) : Bool := s.cool.cut && (upTo 144).all (fun m => (s.col m).setting = cutBudget)

/-- The budgets to restore after a shutdown: those set, all of them, or all of those set before the cut where the Kennel has set
none since: settings of two times might add up to more than R25 allows (DEDUCED, log 74). -/
def State.keptBudgets (s : State) : List Nat :=
  (upTo 144).map (fun m => if s.stillCut then s.cool.saved.getD m cutBudget else (s.col m).setting)

/-- Every column budget is set to 5 W; what was set is kept. -/
def State.cutBudgets (s : State) : State :=
  State.setBudgets { s with cool := { s.cool with cut := true, saved := s.keptBudgets } } (fun _ => cutBudget)

/-- A circuit without flow-good since `bad` has been so for more than 100 ms. -/
def State.lostLong (s : State) (bad : Option Nat) : Bool := bad.any (fun c => c + 100 * msec < s.clk)

/-- FLOW_LOSS_BUDGET_CUT (R26): once for each loss of a circuit's flow-good that lasts more than 100 ms, with an event record.
That the record's TYPE is 2, FLOW, is a DESIGN CHOICE of the model (log 100): R26 names no type. -/
def execFlowLossBudgetCut (s : State) : Host.Outcome State Fault Refusal :=
  let lid := s.lostLong s.cool.lidBad
  let micro := s.lostLong s.cool.microBad
  if ((lid && !s.cool.lidCut) || (micro && !s.cool.microCut)) && s.released then
    let s1 := s.cutBudgets
    .next (({ s1 with cool := { s1.cool with lidCut := s1.cool.lidCut || lid, microCut := s1.cool.microCut || micro } } : State).hwLog
      2 none 0xFFFF [2])
  else .next s

/-- COOLANT_SHUTDOWN (R395): after 2 s every snapshotted grid is killed and completes with COOLANT. The 2 s run for each circuit
by itself, from its loss of flow-good (DESIGN CHOICE, log 116; R26 says "if the condition persists for 2 s"). -/
def execCoolantShutdown (s : State) : Host.Outcome State Fault Refusal :=
  if 2000 * msec ≤ s.badFor && !s.cool.shutdown && s.released then
    let s1 := s.cutBudgets.hwLog 2 (some 2) 0xFFFF [3]
    let s2 : State := { s1 with sched := { s1.sched with enable := false }, cool := { s1.cool with shutdown := true } }
    .next ((s2.grids.filter (fun g => g.completedAt.isNone)).foldl (fun s g =>
      (s.killGrid g.num .coolant (s.firstTeam g.num)).event .coolant Cause.coolant.code 0 0 g.num 0) s2)
  else .next s

/-- COOLANT_RECOVERY (R395): after 10 s of both flow-good signals the budgets are restored and SCHED.ENABLE may be
set. -/
def execCoolantRecovery (s : State) : Host.Outcome State Fault Refusal :=
  match s.cool.goodSince with
  | some c =>
    if s.cool.shutdown && c + 10000 * msec ≤ s.clk then
      let s1 := (s.hwLog 2 (some 0) 0xFFFF [4]).setBudgets (fun m => s.cool.saved.getD m 68)
      .next { s1 with cool := { s1.cool with shutdown := false, cut := false, saved := [] } }
    else .next s
  | none => .next s

end Sys2Proof.Machine
end

