-- ==== Sys2Proof/Machine/Reset.lean ====
section
/-! DEFINITION. Firmware images (17 R393), bring-up (R394) and the resets (R396). -/
namespace Sys2Proof.Machine

/-! ## Images -/

/-- An image's fields: the bytes the signatures cover, the signatures, VERSION, the payload. -/
structure Image where
  covered : List Byte
  rsa : List Byte
  slh : List Byte
  version : Nat
  payload : List Byte
  deriving DecidableEq, Repr

/-- The image in some bytes (R393): the magic and the lengths must be right. -/
def Image.parse (b : List Byte) : Option Image :=
  let l := leNat ((b.drop 8).take 8)
  if leNat (b.take 4) = 0x4B4E4C31 && b.length = 16 + l + 384 + 16224 then
    some ⟨b.take (16 + l), (b.drop (16 + l)).take 384, b.drop (16 + l + 384), leNat ((b.drop 4).take 4), (b.drop 16).take l⟩
  else none

def Image.rsaOk (i : Image) : Bool := Config.rsaVerify i.covered i.rsa
def Image.slhOk (i : Image) : Bool := Config.slhVerify i.covered i.slh

/-- Accepted (R393): both signatures verify and VERSION is at least the rollback counter. -/
def Image.accepted (i : Image) (rollback : Nat) : Bool := i.rsaOk && i.slhOk && rollback ≤ i.version

/-! ## Bring-up, step 1 -/

/-- A slot's image if the boot ROM may run it: accepted, its payload at most 512 KiB. -/
def bootable (n : Nvm) (f : Option FwSlot) : Option Image :=
  ((f.bind (fun x => Image.parse x.image)).filter (fun i => i.accepted n.rollback)).filter
    (fun i => i.payload.length ≤ 0x80000)

/-- The slot that runs: the accepted one with the higher VERSION; of two equal ones slot A. True is slot B. -/
def bootSlot (n : Nvm) : Option (Bool × Image) :=
  match bootable n n.slotA, bootable n n.slotB with
  | some a, some b => if a.version < b.version then some (true, b) else some (false, a)
  | some a, none => some (false, a)
  | none, some b => some (true, b)
  | none, none => none

/-- The boot ROM runs a slot: SRAM zeroed, the payload copied from address 0, the core started there (R394). -/
def State.boot (s : State) : State :=
  match bootSlot s.nvm with
  | none => s
  | some (b, i) =>
    { s with nvm := { s.nvm with activeB := b },
             k := { s.k with sram := Memory.writeN [] 0 i.payload, sramBad := [], started := true } }

/-! ## Resets -/

/-- What neither reset touches: the outside, the sensors, non-volatile memory. -/
def State.keepOutside (s old : State) : State :=
  { s with
    bus := old.bus, agenda := old.agenda, freeCtr := old.freeCtr,
    nvm := { old.nvm with fixedRows := [] },
    cores := (old.cores.filter (fun p => p.2.diode ≠ 0)).map (fun p => (p.1, { Core.init with diode := p.2.diode })),
    cool := { Coolant.init with lid := old.cool.lid, micro := old.cool.micro, rail := old.cool.rail,
                                goodSince := if old.cool.lid && old.cool.micro then some 0 else none } }

/-- A warm reset (R396): all work is discarded, logic is reset, memory, poison and the energy accumulators stay, and TOKENs
go on, so that an answer to one of before is ignored; then the firmware is loaded again. -/
def State.warmReset (s : State) : State :=
  let k := { State.reset.k with energy := s.k.energy.map (fun e => { e with shadow := 0 }) }
  (State.keepOutside { State.reset with k := k, sched := { Sched.init with nextTok := s.sched.nextTok }, mem := s.mem, poison := s.poison, hbmReady := s.hbmReady } s).boot

/-- WARM_RESET, PCIE_HOT_RESET (R396). -/
def execWarmReset (s : State) : Host.Outcome State Fault Refusal := .next s.warmReset

def execPcieHotReset (s : State) : Host.Outcome State Fault Refusal := .next s.warmReset

/-- A write to WARMRST (Table 17-3): 0x5752 resets, any other value is refused (R391). -/
def State.warmrst (s : State) (x : Word) : State :=
  if x = 0x5752 then s.warmReset else s.refuse

/-- WARMRST (R396). -/
def execWarmrst (x : Word) (s : State) : Host.Outcome State Fault Refusal := .next (s.warmrst x)

/-- LOCKUP_RESET (R396): 1 s after the lockup record. -/
def execLockupReset (s : State) : Host.Outcome State Fault Refusal :=
  match s.k.locked with
  | some c => if c + 1000 * msec ≤ s.clk then .next s.warmReset else .next s
  | none => .next s

/-! ## Cold reset -/

/-- Pending repairs at a cold reset (R381): ROW, COLUMN and PIN entries are applied; one whose spare is exhausted becomes
a BANK entry, whose blocks are retired. -/
def State.applyRepair (s : State) (i : Nat) : State :=
  match s.nvm.repair[i]? with
  | none => s
  | some r =>
    if r.applied || r.kind = 3 then s
    else
      let put (s : State) (x : Repair) : State := { s with nvm := { s.nvm with repair := modifyAt s.nvm.repair i (fun _ => x) } }
      if Config.spareExhausted r.hbm.toNat r.chan.toNat r.bank.toNat r.addr.toNat r.pin.toNat then
        (put s { r with kind := 3 }).retireBank r
      else (put s { r with applied := true }).logRepair { r with applied := true }

/-- COLD_RESET (R394): everything but non-volatile memory and the outside takes its reset value; the firmware is verified
and run; then repairs are applied and memory is initialised. With no slot accepted the boot ROM stays in the ROM. -/
def execColdReset (s : State) : Host.Outcome State Fault Refusal :=
  let s1 := (State.keepOutside State.reset s).boot
  if s1.k.started then .next { (upTo s1.nvm.repair.length).foldl State.applyRepair s1 with hbmReady := true }
  else .next s1

/-- COMPUTE_RELEASE (R394, R26): with both coolant circuits flow-good and the main rail in range the compute stacks leave
reset, and every core runs its scan patterns once, all of them at once (DESIGN CHOICE, log 117; R372 scans a stack's cores one
at a time in rotation); SCHED becomes writable when they have ended (SCAN_COMPLETE). -/
def execComputeRelease (s : State) : Host.Outcome State Fault Refusal :=
  if s.hbmReady && s.k.started && s.cool.lid && s.cool.micro && s.cool.rail && !s.released then
    .next { s with released := true, cores := (upTo 576).map (fun c => (c, { s.core c with scan := .patterns s.clk })) }
  else .next s

end Sys2Proof.Machine
end

