-- ==== Sys2Proof/Machine/Mspace.lean ====
section
/-! DEFINITION. The Kennel's M space (17 R389 to R391, Table 17-3) with its event log (R392), update engine (R393) and
energy accumulators (16 R371), and MMLD and MMST. -/
namespace Sys2Proof.Machine

/-- The low 32 bits of a number. -/
def w32 (n : Nat) : Word := BitVec.ofNat 32 n

/-! ## Where an address lies -/

/-- Registers of Table 17-3. -/
inductive MReg where
  | temp (c : Nat) | btemp (i : Nat) | pmon (i : Nat) | sctl (n : Nat) | sctlAll (c : Nat) | cbud (m : Nat)
  | cacheMin (m : Nat) | cool | hot | crit | reside | bud (j : Nat) | enlo (i : Nat) | enhi (i : Nat)
  | coll0 (g : Nat) | coll1 (g : Nat) | ctimeout | logbuf (i : Nat) | logcommit | logseq | logrd
  | repair (e w : Nat) | retired (b : Nat) (hi : Bool) | upsrc (hi : Bool) | updst (hi : Bool) | uplen | upzero | upcmd
  | upstat | warmrst
  deriving DecidableEq, Repr

/-- The register at a word address of the M space, if there is one (Table 17-3, log 31). -/
def mreg (a : Nat) : Option MReg :=
  let row (base n : Nat) : Option Nat := if base ≤ a && a < base + 4 * n then some ((a - base) / 4) else none
  if a % 4 ≠ 0 then none
  else if a < 0x20000 then
    ((row 0x10000 576).map MReg.temp).or (((row 0x11000 32).map MReg.btemp).or ((row 0x12000 16).map MReg.pmon))
  else if a < 0x30000 then ((row 0x20000 3456).map MReg.sctl).or ((row 0x28000 576).map MReg.sctlAll)
  else if a < 0x40000 then ((row 0x30000 144).map MReg.cbud).or ((row 0x31000 144).map MReg.cacheMin)
  else if a < 0x50000 then
    match a with
    | 0x40000 => some .cool
    | 0x40004 => some .hot
    | 0x40008 => some .crit
    | 0x4000C => some .reside
    | _ => ((row 0x40100 9).map MReg.bud).or ((row 0x40200 12).map (fun i =>
        if i % 2 = 0 then MReg.enlo (i / 2) else MReg.enhi (i / 2)))
  else if a < 0x60000 then
    if a = 0x51000 then some .ctimeout
    else (row 0x50000 256).bind (fun i =>
      match i % 4 with
      | 0 => some (.coll0 (i / 4))
      | 1 => some (.coll1 (i / 4))
      | _ => none)
  else if a < 0x70000 then
    match a with
    | 0x60020 => some .logcommit
    | 0x60024 => some .logseq
    | 0x60028 => some .logrd
    | _ => (row 0x60000 8).map MReg.logbuf
  else if a < 0x80000 then
    ((row 0x70000 1024).map (fun i => MReg.repair (i / 4) (i % 4))).or
      ((row 0x71000 15360).map (fun i => MReg.retired (i / 2) (i % 2 = 1)))
  else
    match a with
    | 0x80000 => some (.upsrc false)
    | 0x80004 => some (.upsrc true)
    | 0x80008 => some (.updst false)
    | 0x8000C => some (.updst true)
    | 0x80010 => some .uplen
    | 0x80014 => some .upzero
    | 0x80018 => some .upcmd
    | 0x8001C => some .upstat
    | 0x90000 => some .warmrst
    | _ => none

/-! ## Reads -/

/-- TEMP of a core (Table 17-4). -/
def Core.temp (c : Core) : Word :=
  (BitVec.ofInt 16 c.deg).setWidth 32 ||| (if c.clamp then 0x10000 else 0) ||| (if c.hot then 0x20000 else 0)

/-- SCTL of a slice (Table 17-5). -/
def Slice.sctl (x : Slice) : Word := w32 (x.k * 2 ^ 24 + x.g * 2 ^ 16 + x.kcap * 2 ^ 8 + x.gcap)

/-- A 16-byte repair entry as a number (Table 16-5). -/
def Repair.bits (r : Repair) : Nat :=
  (if r.applied then 1 else 0) + 2 ^ 8 * r.kind.toNat + 2 ^ 16 * r.hbm.toNat + 2 ^ 24 * r.chan.toNat + 2 ^ 32 * r.bank.toNat +
    2 ^ 40 * r.pin.toNat + 2 ^ 64 * r.addr.toNat + 2 ^ 96 * r.time.toNat

/-- A half of a 64-bit register. -/
def halfOf (hi : Bool) (x : DWord) : Word := if hi then x.extractLsb' 32 32 else x.extractLsb' 0 32

/-- The value of a register. -/
def State.mval (s : State) (r : MReg) : Word :=
  match r with
  | .temp c => (s.core c).temp
  | .btemp i => AMap.getD s.k.btemp i 0
  | .pmon i => AMap.getD s.k.pmon i 0
  | .sctl n => ((s.core (n / 6)).slice (n % 6)).sctl
  | .sctlAll _ => 0
  | .cbud m => w32 ((s.col m).setting + 2 ^ 8 * (s.col m).lam)
  | .cacheMin m => w32 (s.col m).cacheMin
  | .cool => w32 s.k.cool
  | .hot => w32 s.k.hot
  | .crit => w32 s.k.crit
  | .reside => w32 s.k.reside
  | .bud j => s.k.bud.getD j 0
  | .enlo i => w32 ((s.k.energy.getD i ⟨0, 0, 0⟩).val)
  | .enhi i => (s.k.energy.getD i ⟨0, 0, 0⟩).shadow
  | .coll0 g => ((AMap.get? s.k.coll g).map CollGroup.w0).getD 0
  | .coll1 g => ((AMap.get? s.k.coll g).map CollGroup.w1).getD 0
  | .ctimeout => s.k.ctimeout
  | .logbuf i => s.k.logbuf.getD i 0
  | .logcommit => 0
  | .logseq => s.nvm.logSeq
  | .logrd => s.k.logrd
  | .repair e w => w32 (((s.nvm.repair[e]?).map Repair.bits).getD 0 / 2 ^ (32 * w))
  | .retired b hi => w32 (s.nvm.retired.getD b 0 / (if hi then 2 ^ 32 else 1))
  | .upsrc hi => halfOf hi s.k.upsrc
  | .updst hi => halfOf hi s.k.updst
  | .uplen => s.k.uplen
  | .upzero => 0
  | .upcmd => s.k.upcmd
  | .upstat => s.k.upstat
  | .warmrst => 0

/-- Reading ENLO latches the high half into ENHI (R371). -/
def State.enLatch (s : State) (i : Nat) : State :=
  { s with k := { s.k with energy := modifyAt s.k.energy i (fun e => { e with shadow := w32 (e.val / 2 ^ 32) }) } }

/-- A read with its effect. -/
def State.mread (s : State) (r : MReg) : Word × State :=
  match r with
  | .enlo i => (s.mval r, s.enLatch i)
  | _ => (s.mval r, s)

/-! ## Writes -/

/-- KCAP and GCAP of a slice: a value out of range leaves its field and is refused (Table 17-5, R391). -/
def State.sctlWrite (s : State) (core slice : Nat) (x : Word) : State :=
  let kc := (x.extractLsb' 8 5).toNat
  let gc := (x.extractLsb' 0 4).toNat
  let kok : Bool := 4 ≤ kc && kc ≤ 16
  let gok : Bool := 1 ≤ gc && gc ≤ 8
  let s1 := (s.modCore core (fun c => c.modSlice slice (fun y =>
    { y with kcap := if kok then kc else y.kcap, gcap := if gok then gc else y.gcap }))).retune core
  if kok && gok then s1 else s1.refuse

/-- SCTLALL (R390). -/
def State.sctlAllWrite (s : State) (core : Nat) (x : Word) : State :=
  (upTo 6).foldl (fun s i => s.sctlWrite core i x) s

/-- Budgets of all columns as set. -/
def State.budgetSum (s : State) : Nat := ((upTo 144).map (fun m => (s.col m).setting)).sum

/-- CBUD (R25): 5 W to 10 W, the sum at most 1,224 W, and refused otherwise (R391); it takes effect at the next period. A
coolant shutdown holds every budget at 5 W (R395): a value within the limits is not taken then. -/
def State.cbudWrite (s : State) (m : Nat) (x : Word) : State :=
  let b := (x.extractLsb' 0 7).toNat
  if 40 ≤ b && b ≤ 80 && s.budgetSum - (s.col m).setting + b ≤ 9792 then
    (if s.cool.shutdown then s else s.modCol m (fun c => { c with pendBudget := some b }))
  else s.refuse

def State.cacheMinWrite (s : State) (m : Nat) (x : Word) : State :=
  if 8 ≤ x.toNat && x.toNat ≤ 128 then s.modCol m (fun c => { c with cacheMin := x.toNat }) else s.refuse

/-- The thresholds of R367: 60 °C to 125 °C and COOL < HOT < CRIT. -/
def State.thresholds (s : State) (cool hot crit : Nat) : State :=
  if [cool, hot, crit].all (fun t => 240 ≤ t && t ≤ 500) && cool < hot && hot < crit then
    { s with k := { s.k with cool := cool, hot := hot, crit := crit } }
  else s.refuse

/-- LOGCOMMIT (R392): LOGBUF is appended with the hardware's TIME and SEQ; TYPE must be 0x80 to 0xFF. What the hardware still
appends in this cycle goes before it. -/
def State.logCommit (s : State) : State :=
  let w2 := s.k.logbuf.getD 2 0
  let type := (w2.extractLsb' 0 8).toNat
  if 0x80 ≤ type then
    ({ s with k := { s.k with commitAt := some s.clk } } : State).log type (w2.extractLsb' 8 8).toNat
      (w2.extractLsb' 16 16).toNat (s.k.logbuf.drop 4)
  else s.refuse

/-- The update engine is at work. -/
def State.upBusy (s : State) : Bool := s.k.upstat.getLsbD 0

/-- UPCMD (R393): 1 verifies, 2 attests; while BUSY it is refused. -/
def State.upcmdWrite (s : State) (x : Word) : State :=
  if s.upBusy then s.refuse
  else
    let start (j : UpJob) : State := { s with k := { s.k with upcmd := x, upstat := 1, upjob := some j } }
    if x = 1 then start (.verify s.k.upsrc.toNat s.k.uplen.toNat)
    else if x = 2 then start (.attest s.k.upsrc.toNat s.k.updst.toNat)
    else { s with k := { s.k with upcmd := x } }

/-- Replace a half of a 64-bit register. -/
def setHalf (hi : Bool) (old : DWord) (x : Word) : DWord :=
  if hi then x ++ old.extractLsb' 0 32 else old.extractLsb' 32 32 ++ x

/-- A write to an M-space register (R389, R391): RO registers ignore it. -/
def State.mwrite (s : State) (r : MReg) (x : Word) : State :=
  match r with
  | .sctl n => s.sctlWrite (n / 6) (n % 6) x
  | .sctlAll c => s.sctlAllWrite c x
  | .cbud m => s.cbudWrite m x
  | .cacheMin m => s.cacheMinWrite m x
  | .cool => s.thresholds (x.toNat % 1024) s.k.hot s.k.crit
  | .hot => s.thresholds s.k.cool (x.toNat % 1024) s.k.crit
  | .crit => s.thresholds s.k.cool s.k.hot (x.toNat % 1024)
  | .reside => { s with k := { s.k with reside := x.toNat % 2 ^ 20 } }
  | .bud j => { s with k := { s.k with bud := modifyAt s.k.bud j (fun _ => x) } }
  | .coll0 g =>
    { s with k := { s.k with coll := AMap.set s.k.coll g ⟨x &&& 0x00FF01FF#32, s.mval (.coll1 g)⟩ } }
  | .coll1 g => { s with k := { s.k with coll := AMap.set s.k.coll g ⟨s.mval (.coll0 g), x⟩ } }
  | .ctimeout => { s with k := { s.k with ctimeout := x } }
  | .logbuf i => { s with k := { s.k with logbuf := modifyAt s.k.logbuf i (fun _ => x) } }
  | .logcommit => s.logCommit
  | .logrd => { s with k := { s.k with logrd := x } }
  | .upsrc hi => { s with k := { s.k with upsrc := setHalf hi s.k.upsrc x } }
  | .updst hi => { s with k := { s.k with updst := setHalf hi s.k.updst x } }
  | .uplen => { s with k := { s.k with uplen := x } }
  | .upcmd => s.upcmdWrite x
  | .warmrst => s.warmrst x
  | .temp _ | .btemp _ | .pmon _ | .enlo _ | .enhi _ | .logseq | .repair _ _ | .retired _ _ | .upzero | .upstat => s

/-! ## MMLD and MMST (R389) -/

/-- The M address: Trunc(base + off, 32). -/
def Ctx.maddr (c : Ctx) (s : State) (m : MAddr) : Nat := (c.rdU s m.base.op + c.rdU s m.offs.op).toNat

/-- The registers of an access: one, or two at a and a + 4; none where the access is misaligned or one is missing. -/
def mregs (b64 : Bool) (a : Nat) : Option (List MReg) :=
  if b64 then
    if a % 8 ≠ 0 then none
    else
      match mreg a, mreg (a + 4) with
      | some x, some y => some [x, y]
      | _, _ => none
  else (mreg a).map (fun x => [x])

/-- MMLD. -/
def execMmld (fs b64 : Bool) (d : BitVec 9) (m : MAddr) : State → Host.Outcome State Fault Refusal :=
  let xs := [(m.base, 1), (m.offs, 1)]
  issue { core := .kennel, flag := .must fs, uses := fun c _ => wrS c d (if b64 then 2 else 1) :: readsOf c xs }
    (fun c s =>
      match mregs b64 (c.maddr s m) with
      | none => .busErr (BitVec.ofNat 64 (c.maddr s m)) false
      | some rs =>
        let (ws, s1) := rs.foldl (fun (acc : List Word × State) r => (acc.1 ++ [(acc.2.mread r).1], (acc.2.mread r).2)) ([], s)
        .done (c.mod s1 (landAll (landWords none d.toNat ws) 0)))

/-- MMST; a reset ends the clause with everything else. -/
def execMmst (fs b64 : Bool) (x : Src) (m : MAddr) : State → Host.Outcome State Fault Refusal :=
  let xs := [(x, if b64 then 2 else 1), (m.base, 1), (m.offs, 1)]
  issue { core := .kennel, flag := .may fs, uses := fun c _ => readsOf c xs } (fun c s =>
    match mregs b64 (c.maddr s m) with
    | none => .busErr (BitVec.ofNat 64 (c.maddr s m)) false
    | some rs =>
      let v := c.rdU64 s x.op
      let w (i : Nat) : Word := if b64 then halfOf (i = 1) v else c.rdU s x.op
      let s1 := rs.zipIdx.foldl (fun s r => s.mwrite r.1 (w r.2)) s
      if rs = [.warmrst] && w 0 = 0x5752 then .jump s1 else .done s1)

/-! ## Rows of the opcode table for single registers -/

/-- SCTLALL (R390). -/
def execSctlall (core : Nat) (x : Word) (s : State) : Host.Outcome State Fault Refusal := .next (s.sctlAllWrite core x)

/-- LOGCOMMIT (R392). -/
def execLogcommit (s : State) : Host.Outcome State Fault Refusal := .next s.logCommit

/-- ENLO_READ (R371): the latch; the value read is the MMLD's. -/
def execEnloRead (i : Nat) (s : State) : Host.Outcome State Fault Refusal := .next (s.enLatch i)

/-- UPCMD_VERIFY, UPCMD_ATTEST (R393). -/
def execUpcmdVerify (s : State) : Host.Outcome State Fault Refusal := .next (s.upcmdWrite 1)

def execUpcmdAttest (s : State) : Host.Outcome State Fault Refusal := .next (s.upcmdWrite 2)

/-! ## The update engine finishes (R393) -/

/-- Bytes of the SRAM or of the physical window; none where an address lies in neither. -/
def State.upRead (s : State) (a n : Nat) : Option (List Byte) :=
  if a + n ≤ 0x80000 then some (Memory.readN s.k.sram a n)
  else if a / 2 ^ 48 = 1 && a % 2 ^ 48 + n ≤ Config.physEnd then some (Memory.readN s.mem (a % 2 ^ 48) n)
  else none

/-- Write them there. -/
def State.upWrite (s : State) (a : Nat) (b : List Byte) : Option State :=
  if a + b.length ≤ 0x80000 then some { s with k := { s.k with sram := Memory.writeN s.k.sram a b } }
  else if a / 2 ^ 48 = 1 && a % 2 ^ 48 + b.length ≤ Config.physEnd then some (s.memWrite (a % 2 ^ 48) b)
  else none

/-- An image's UPSTAT once it is done (Table 17-6). -/
def upstatOf (i : Option Image) (rollback : Nat) : Word :=
  match i with
  | none => 0
  | some x =>
    boolW x.rsaOk <<< 1 ||| boolW x.slhOk <<< 2 ||| boolW (x.accepted rollback) <<< 3 ||| boolW (x.version < rollback) <<< 4

/-- An accepted image goes to the inactive slot and raises the rollback counter. -/
def State.install (s : State) (b : List Byte) (i : Image) : State :=
  let n := s.nvm
  if i.accepted n.rollback then
    let f := some (FwSlot.mk b)
    { s with nvm := { n with slotA := if n.activeB then f else n.slotA, slotB := if n.activeB then n.slotB else f,
                             rollback := i.version } }
  else s

/-- The active firmware's bytes. -/
def Nvm.active (n : Nvm) : List Byte := ((if n.activeB then n.slotB else n.slotA).map FwSlot.image).getD []

/-- Completion: UPSTAT, UPDATE, a type 6 record. -/
def State.upDone (s : State) (st : Word) : State :=
  (({ s with k := { s.k with upstat := st, upjob := none } } : State).kpend 10).hwLog 6 none 0xFFFF
    [st.toNat, s.k.upcmd.toNat]

/-- UPDATE_DONE (R393). -/
def execUpdateDone (s : State) : Host.Outcome State Fault Refusal :=
  match s.k.upjob with
  | none => .next s
  | some (.verify src len) =>
    (match s.upRead src len with
     | none => .fault .absentMemory
     | some b =>
       let i := Image.parse b
       let s1 := match i with
         | some x => s.install b x
         | none => s
       .next (s1.upDone (upstatOf i s.nvm.rollback)))
  | some (.attest src dst) =>
    match s.upRead src 32 with
    | none => .fault .absentMemory
    | some nonce =>
      match s.upWrite dst (Config.attestReport s.nvm.active s.nvm.rollback nonce) with
      | none => .fault .absentMemory
      | some s1 => .next (s1.upDone 0)

end Sys2Proof.Machine
end

