-- ==== Sys2Proof/Machine/Window.lean ====
section
/-! DEFINITION. Halt windows (15 R349 to R351, 12 R286): what they show, the host's edits, resumption. -/
namespace Sys2Proof.Machine

/-! ## What REGDATA shows (R350) -/

/-- The fields of REGSEL. -/
def selClass (r : DWord) : Nat := (r.extractLsb' 56 8).toNat
def selNum (r : DWord) : Nat := (r.extractLsb' 32 16).toNat
def selHi (r : DWord) : Bool := r.getLsbD 8
def selLane (r : DWord) : Nat := (r.extractLsb' 0 6).toNat

/-- A context in which a halted group's status registers read. -/
def viewOf (t : Nat) (g : Group) : Ctx := ⟨.port t g.grp false, g, ⟨0, 0, none, [], 0, 0⟩, 0⟩

/-- OFFS of a logged instruction differs by lane: a vector register, `%lane`, `%tid`. -/
def Op.laneOffs (o : Op) : Bool :=
  match Src.dec (fOffs o.word) with
  | some x =>
    (match x.op with
     | .v _ => true
     | .special k => k = 0 || k = 1
     | _ => false)
  | none => false

/-- Word `w` of an operand-log entry (Table 15-11). -/
def Op.logWord (o : Op) (w : Nat) : Word :=
  let half (x : DWord) (i : Nat) : Word := if i % 2 = 1 then x.extractLsb' 32 32 else x.extractLsb' 0 32
  if w < 2 then half o.word w
  else if w < 4 then half o.addr w
  else if w < 6 then half o.faulted w
  else if w < 8 then half o.vals.base w
  else if w < 72 then
    if o.laneOffs then AMap.getD o.vals.offs (w - 8) 0
    else if w = 8 then (o.vals.offs.head?.map Prod.snd).getD 0   -- uniform: one value, whatever ACTIVE
    else 0
  else if w < 328 then (AMap.getD o.vals.data ((w - 72) / 4) []).getD ((w - 72) % 4) 0
  else 0

/-- The operation that holds a log entry. -/
def Group.entryOp (g : Group) (e : Nat) : Option Op := g.ops.find? (fun o => o.entry = some e)

/-- A status register number that the window shows. -/
def winStat (r : DWord) : Bool := statKnown false (selNum r)

/-- The selected value. -/
def State.selVal (s : State) (t : Nat) (g : Group) (r : DWord) : Word :=
  let n := selNum r
  match selClass r with
  | 0 => g.vVal (selLane r) n
  | 1 => g.sVal n
  | 2 => if n = 7 || (g.predMask n).getLsbD (selLane r) then 1 else 0
  | 3 =>
    if !winStat r || (selHi r && !statWide false n) then 0
    else
      let x := (viewOf t g).statGroup s n
      if selHi r then x.extractLsb' 32 32 else x.extractLsb' 0 32
  | 4 => ((g.tiles.getD (n / 4) 0).extractLsb' (32 * (n % 4)) 32)
  | 5 => ((g.entryOp (n / 512)).map (fun o => o.logWord (n % 512))).getD 0
  | _ => 0

/-- A read of REGDATA that sets EDERR: a status register that is not listed. -/
def selBad (r : DWord) : Bool := selClass r = 3 && !winStat r

/-! ## Edits (R350) -/

/-- An edit is refused at `now`: EDERR is set. -/
def Group.refuseEdit (g : Group) (now : Nat) : Group :=
  { g with halt := g.halt.map (fun h => { h with ederr := true, edAt := some now }) }

/-- A lane that the host may give registers: it holds a thread that has not exited. -/
def Group.holds (g : Group) (l : Nat) : Bool := l < g.width && (g.lane l).thread == .running

/-- A write of REGDATA to a group that stands as at the present cycle, `now`. -/
def Group.editNow (g : Group) (now : Nat) (r : DWord) (x : Word) : Group :=
  let n := selNum r
  let l := selLane r
  match selClass r with
  | 0 =>
    if 256 ≤ n || !g.holds l || (!g.boundV.contains n && g.vbud ≤ g.boundV.length) then g.refuseEdit now
    else (g.setV l n x).spill
  | 1 => if 384 ≤ n || (!g.boundS.contains n && g.sbud ≤ g.boundS.length) then g.refuseEdit now
    else (g.setS n x).spill
  | 2 =>
    if 8 ≤ n || g.width ≤ l then g.refuseEdit now
    else g.setPred n (Mask.one l) (if x.getLsbD 0 then Mask.one l else 0)
  | 3 =>
    if !winStat r || !statWritable false n then g.refuseEdit now
    else if selHi r then
      if statWide false n then g.statWrite n (x ++ 0#32) else g
    else g.statWrite n (x.setWidth 64)
  | 4 =>
    if 64 ≤ n then g.refuseEdit now
    else
      let sh := 32 * (n % 4)
      { g with tiles := modifyAt g.tiles (n / 4) (fun t =>
          (t &&& ~~~((0xFFFFFFFF#128) <<< sh)) ||| (x.setWidth 128 <<< sh)) }
  | _ => g.refuseEdit now

/-- A write of REGDATA at `now`: flags that have landed stand in FPFLAGS before it, and only what is set in this cycle withstands
a clear (R8, R181). -/
def Group.edit (g : Group) (now : Nat) (r : DWord) (x : Word) : Group := ((g.settled now).freshen now).editNow now r x

/-- A write of PCn: refused where the lane has no thread that runs, is switched off, or is an idle limb lane (R350). -/
def Group.editPc (g : Group) (now l : Nat) (pc : DWord) : Group :=
  if !g.holds l || g.svmask.getLsbD l || g.idle.getLsbD l then g.refuseEdit now
  else
    let put (h : Halt) : Halt := { h with edited := h.edited ||| Mask.one l }
    { (g.modLane l (fun x => { x with pc := pc, resume := none, park := none, filing := none })) with
      halt := g.halt.map put }

/-- The halted group of a window is changed. -/
def State.modHalted (s : State) (core slot : Nat) (f : Group → Group) : State :=
  match s.halted core slot with
  | some (t, g) => s.modGroup t g.grp f
  | none => s

def Group.regsel (g : Group) : DWord := (g.halt.map Halt.regsel).getD 0

/-- The host writes what REGSEL of a halt window selects. Retained registers that it displaces are copied out and paid for
(R234, R323). -/
def State.writeRegdata (s : State) (core slot : Nat) (x : Word) : State :=
  match s.halted core slot with
  | some (t, g) => (s.modGroup t g.grp (fun h => h.edit s.clk h.regsel x)).payCkpt t
  | none => s

/-- REGDATA_WRITE (R350): bits 31:0 to what REGSEL selects. -/
def execRegdataWrite (core slot : Nat) (x : DWord) (s : State) : Host.Outcome State Fault Refusal :=
  .next (s.writeRegdata core slot (x.extractLsb' 0 32))

/-! ## Resumption (R58, R351) -/

/-- Edited lanes whose counter fails `Target` (R66). -/
def State.badEdits (s : State) (f : Fetcher) (g : Group) : Mask :=
  let ed := (g.halt.map Halt.edited).getD 0
  Mask.ofLanes ((Mask.lanes ed g.width).filter (fun l => g.holds l && !s.target f (g.lane l).pc))

/-- Limb lanes that are not switched off. -/
def Group.limbLanes (g : Group) : List Nat := Mask.lanes (Mask.below g.limbs &&& ~~~g.svmask) g.width

/-- The lowest limb lane whose counter differs from the first limb lane's (R286, R351). -/
def Group.limbSplit (g : Group) : Option Nat :=
  match g.limbLanes with
  | [] => none
  | l :: r => if g.limbs = 0 then none else r.find? (fun x => (g.lane x).pc ≠ (g.lane l).pc)

/-- A trap raised afresh by a resume: it has no instruction, and the edited counters stay as written. -/
def State.haltAgain (s : State) (t : Nat) (g : Group) (c : Cause) (hpc : DWord) (lanes : Mask) : State :=
  s.halt t g.grp false
    { cause := c, hpc := hpc, lanes := lanes, instr := 0, pos := 0, num := 0, regsel := 0, ederr := false, edAt := none,
      edited := (g.halt.map Halt.edited).getD 0 } false

/-- Resume a halted group, or raise the trap of a counter that fails. -/
def State.resume (s : State) (core slot : Nat) : State :=
  match s.halted core slot with
  | none => s
  | some (t, g) =>
    let bad := s.badEdits (s.fetcher (.port t g.grp false)) g
    match Mask.lanes bad g.width with
    | l :: _ => s.haltAgain t g .badTarget (g.lane l).pc bad
    | [] =>
      match g.limbSplit with
      | some l => s.haltAgain t g .divBound (g.lane l).pc (Mask.below g.limbs)
      | none => s.modGroup t g.grp (fun g => { g with halt := none })

/-- CMD_RESUME (R351). -/
def execCmdResume (core slot : Nat) (s : State) : Host.Outcome State Fault Refusal := .next (s.resume core slot)

/-! ## The window's registers (Tables 15-5, 15-7) -/

/-- HSTAT of a halted group. -/
def Group.hstat (g : Group) (h : Halt) : DWord :=
  let loge := ((g.ops.find? (fun o => o.entry.isSome)).bind Op.entry).getD 0xFF
  BitVec.ofNat 64 (loge * 2 ^ 48 + h.pos * 2 ^ 40 + h.cause.code * 2 ^ 32 + (if h.ederr then 2 else 0) + 1)

/-- The register at offset `o` of a window, 0 while no group of its slot is halted. -/
def State.winReg (s : State) (core slot o : Nat) : DWord :=
  match s.halted core slot with
  | none => 0
  | some (t, g) =>
    match s.team? t, g.halt with
    | some tm, some h =>
      if 0x200 ≤ o then
        if (o - 0x200) / 8 < g.width then g.pcShown ((o - 0x200) / 8) else 0
      else
        match o with
        | 0x00 => g.hstat h
        | 0x08 => BitVec.ofNat 64 (tm.grid.toNat + 2 ^ 32 * tm.team)
        | 0x10 => BitVec.ofNat 64 (g.grp + 256 * g.role + 65536 * g.width)
        | 0x18 => h.hpc
        | 0x20 => h.lanes
        | 0x28 => h.instr
        | 0x30 => h.num.setWidth 64
        | 0x40 => h.regsel
        | 0x48 => (s.selVal t g h.regsel).setWidth 64
        | _ => 0
    | _, _ => 0

/-- Bits of REGSEL that are fields. -/
def regselMask : DWord := 0xFF00FFFF0000013F#64

end Sys2Proof.Machine
end

