-- ==== Sys2Proof/Machine/HostLink.lean ====
section
/-! DEFINITION. The host link's registers (15 R338, Tables 15-2, 15-3): their values, the host's writes and reads. -/
namespace Sys2Proof.Machine

/-! ## Where an offset lies -/

/-- Registers of Table 15-2, each 64 bits. -/
inductive HReg where
  | sched | frbase | frsize | frcount | frdoor | evbase | evsize | evcount | preempt | release | kill
  | push (q : Nat) | qstat (q : Nat) | qprio (q : Nat) | wbase (w : Nat) | wlen (w : Nat)
  | win (core slot o : Nat)
  deriving DecidableEq, Repr

/-- The register at an offset that is a multiple of 8. -/
def hreg (o : Nat) : Option HReg :=
  if o < 0x10000 then
    match o with
    | 0x00 => some .sched
    | 0x08 => some .frbase
    | 0x10 => some .frsize
    | 0x18 => some .frcount
    | 0x20 => some .frdoor
    | 0x28 => some .evbase
    | 0x30 => some .evsize
    | 0x38 => some .evcount
    | 0x40 => some .preempt
    | 0x48 => some .release
    | 0x50 => some .kill
    | _ => none
  else if o < 0x20000 then
    let q := (o - 0x10000) / 64
    if 64 ≤ q then none
    else
      match (o - 0x10000) % 64 with
      | 0x00 => some (.push q)
      | 0x08 => some (.qstat q)
      | 0x10 => some (.qprio q)
      | _ => none
  else if o < 0x1000000 then
    let w := (o - 0x20000) / 32
    if 16 ≤ w then none
    else
      match (o - 0x20000) % 32 with
      | 0x00 => some (.wbase w)
      | 0x08 => some (.wlen w)
      | _ => none
  else
    let n := (o - 0x1000000) / 1024
    if n < 96 * 576 then some (.win (n / 96) (n % 96) ((o - 0x1000000) % 1024)) else none

/-! ## Values -/

/-- Head and tail of a ring as one register. -/
def Ring.count (r : Ring) : DWord := r.tail ++ r.head

def Sched.word (x : Sched) : DWord :=
  (boolW x.enable ||| boolW x.priopre <<< 1 ||| boolW x.accerr <<< 2).setWidth 64

def Queue.word (x : Queue) : DWord :=
  BitVec.ofNat 64 (min 64 x.fifo.length + (if x.enable then 128 else 0) + (if x.ovf then 256 else 0))

def State.hval (s : State) (r : HReg) : DWord :=
  match r with
  | .sched => s.sched.word
  | .frbase => s.sched.fr.base
  | .frsize => s.sched.fr.size
  | .frcount => s.sched.fr.count
  | .evbase => s.sched.ev.base
  | .evsize => s.sched.ev.size
  | .evcount => s.sched.ev.count
  | .qstat q => (s.queue q).word
  | .qprio q => BitVec.ofNat 64 (s.queue q).prio
  | .wbase w => ((AMap.get? s.windows w).map Window.base).getD 0
  | .wlen w => ((AMap.get? s.windows w).map Window.word1).getD 0
  | .win c sl o => s.winReg c sl o
  | .frdoor | .preempt | .release | .kill | .push _ => 0

/-! ## Writes -/

/-- A register whose write acts: it takes whole words only. -/
def HReg.acts : HReg → Bool
  | .frdoor | .preempt | .release | .kill | .push _ => true
  | .win _ _ o => o = 0x50
  | _ => false

/-- SCHED: ENABLE and PRIOPRE once bring-up has made it writable, ENABLE not while a coolant shutdown holds (R394, R395);
ACCERR is W1C. -/
def State.schedWrite (s : State) (merged raw : DWord) : State :=
  if !s.schedRw then s
  else
    { s with sched := { s.sched with
        enable := merged.getLsbD 0 && !s.cool.shutdown, priopre := merged.getLsbD 1,
        accerr := stickyLeft s.sched.accerr (raw.getLsbD 2) s.sched.accAt s.clk } }

/-- A write to a halt window's register. -/
def State.winWrite (s : State) (core slot o : Nat) (merged raw : DWord) : State :=
  if o = 0x00 then
    s.modHalted core slot (fun g =>
      { g with halt := g.halt.map (fun h => { h with ederr := stickyLeft h.ederr (raw.getLsbD 1) h.edAt s.clk }) })
  else if o = 0x40 then
    s.modHalted core slot (fun g =>
      { g with halt := g.halt.map (fun h => { h with regsel := merged &&& regselMask }) })
  else if o = 0x48 then s.writeRegdata core slot (merged.extractLsb' 0 32)
  else if o = 0x50 then
    match s.halted core slot with
    | none => s
    | some (t, _) =>
      if raw = 1 then s.resume core slot
      else if raw = 2 then s.killTeam t .hostKill
      else if raw = 3 then
        match s.team? t with
        | some tm => s.killGrid tm.grid .hostKill tm.team
        | none => s
      else s
  else if 0x200 ≤ o && o < 0x400 then s.modHalted core slot (fun g => g.editPc s.clk ((o - 0x200) / 8) merged)
  else s

/-- What a write does, by access type (R5): RW fields take `merged`, the old value with the written half or halves
replaced; W1C and acting fields take `raw`, 0 where nothing was written. -/
def State.hput (s : State) (r : HReg) (merged raw : DWord) : State :=
  match r with
  | .sched => s.schedWrite merged raw
  | .frbase => { s with sched := { s.sched with fr := { s.sched.fr with base := merged } } }.flushRings
  | .frsize => { s with sched := { s.sched with fr := { s.sched.fr with size := merged } } }.flushRings
  | .frcount => { s with sched := { s.sched with fr := { s.sched.fr with tail := merged.extractLsb' 32 32 } } }.flushRings
  | .evbase => { s with sched := { s.sched with ev := { s.sched.ev with base := merged } } }.flushRings
  | .evsize => { s with sched := { s.sched with ev := { s.sched.ev with size := merged } } }.flushRings
  | .evcount => { s with sched := { s.sched with ev := { s.sched.ev with tail := merged.extractLsb' 32 32 } } }.flushRings
  | .frdoor =>
    if raw.getLsbD 32 then s.frKill (raw.extractLsb' 0 32) else s.frRetry (raw.extractLsb' 0 32)
  | .preempt => s.preempt (raw.extractLsb' 0 32) (raw.extractLsb' 32 24).toNat (raw.getLsbD 63)
  | .release => s.unhold (raw.extractLsb' 0 32) (raw.extractLsb' 32 24).toNat
  | .kill => s.hostKill (raw.extractLsb' 0 32)
  | .push q => s.push q raw
  | .qstat q => s.modQueue q (fun x =>
    { x with enable := merged.getLsbD 7, ovf := stickyLeft x.ovf (raw.getLsbD 8) x.ovfAt s.clk })
  | .qprio q => s.modQueue q (fun x => { x with prio := merged.toNat % 4 })
  | .wbase w => { s with windows := AMap.set s.windows w ⟨merged, s.hval (.wlen w)⟩ }
  | .wlen w => { s with windows := AMap.set s.windows w ⟨s.hval (.wbase w), merged⟩ }
  | .win c sl o => s.winWrite c sl o merged raw

/-- A legal host access: 8 bytes or 4, naturally aligned. -/
def hostOk (a size : Nat) : Bool := (size = 8 && a % 8 = 0) || (size = 4 && a % 4 = 0)

/-- A host write (R338). -/
def State.hostWrite (s : State) (a size : Nat) (x : DWord) : State :=
  if !hostOk a size then s.accErr
  else
    match hreg (a / 8 * 8) with
    | none => s
    | some r =>
      let old := s.hval r
      let lo := x.extractLsb' 0 32
      if size = 8 then s.hput r x x
      else if r.acts then s.accErr
      else if a % 8 = 0 then s.hput r (old.extractLsb' 32 32 ++ lo) (0#32 ++ lo)
      else
        match r with
        | .win _ _ 0x48 => s
        | _ => s.hput r (lo ++ old.extractLsb' 0 32) (lo ++ 0#32)

/-! ## Reads -/

/-- A host read: its value and what it leaves behind: ACCERR for one that is ignored, EDERR for a status register that is
not listed (R338, R350). -/
def State.hostRead (s : State) (a size : Nat) : DWord × State :=
  if !hostOk a size then (0, s.accErr)
  else
    match hreg (a / 8 * 8) with
    | none => (0, s)
    | some r =>
      let s1 := match r with
        | .win c sl 0x48 => s.modHalted c sl (fun g => if selBad g.regsel then g.refuseEdit s.clk else g)
        | _ => s
      let v := s.hval r
      if size = 8 then (v, s1)
      else if a % 8 = 0 then ((v.extractLsb' 0 32).setWidth 64, s1)
      else ((v.extractLsb' 32 32).setWidth 64, s1)

/-! ## REGISTER_WRITE -/

/-- A write to the M space from outside an instruction: two registers for 8 bytes; what is in no register is ignored. -/
def State.mspaceWrite (s : State) (a size : Nat) (x : DWord) : State :=
  match mregs (size = 8) a with
  | some rs => rs.zipIdx.foldl (fun s r => s.mwrite r.1 (halfOf (r.2 = 1) x)) s
  | none => s

/-- REGISTER_WRITE (R5): a write to a host-link register, or to one of the M space. -/
def execRegisterWrite (kennel : Bool) (addr size : Nat) (x : DWord) (s : State) : Host.Outcome State Fault Refusal :=
  .next (if kennel then s.mspaceWrite addr size x else s.hostWrite addr size x)

end Sys2Proof.Machine
end

