-- ==== Sys2Proof/Machine/System.lean ====
section
/-! DEFINITION. The system instructions but LAUNCH (15: R356 to R359). -/
namespace Sys2Proof.Machine

/-- A Kennel clause keeps an effect for its end (R387, R388). -/
def State.atEnd (s : State) (e : ClauseEnd) : State := { s with k := { s.k with ends := s.k.ends ++ [e] } }

/-- TRAP (R356): TRAPN of the whole group; on the Kennel core TRAPV at the end of the clause. -/
def execTrap (n : Word) : State → Host.Outcome State Fault Refusal :=
  issue { core := .both } (fun c s =>
    match c.ag with
    | .kennel => .done (s.atEnd .trap)
    | .port _ _ _ => .trap .trapN c.active n)

/-- The grid's record sets NOBRK. -/
def Ctx.noBrk (c : Ctx) (s : State) : Bool :=
  (((c.team? s).bind (fun t => s.grid? t.grid)).map (fun g => g.lr.nobrk)).getD false

/-- BRK (R356): BRKPT unless NOBRK is set; on the Kennel core BRKV at the end of the clause. -/
def execBrk (n : Word) : State → Host.Outcome State Fault Refusal :=
  issue { core := .both } (fun c s =>
    match c.ag with
    | .kennel => .done (s.atEnd .brk)
    | .port _ _ _ => if c.noBrk s then .done s else .trap .brkpt c.active n)

/-! ## Performance counters (Table 15-10) -/

/-- A team counter; RESIDENT counts to now while the team is resident. -/
def Team.perfRead (t : Team) (i now : Nat) : Nat :=
  (t.perf.getD i 0 + (if i = 7 && t.resident then now - t.resAt else 0)) % 2 ^ 64

def Team.perfClear (t : Team) (i now : Nat) : Team :=
  { t with perf := modifyAt t.perf i (fun _ => 0), resAt := if i = 7 then now else t.resAt }

def Group.perfRead (g : Group) (i : Nat) : Nat :=
  match i with
  | 0x10 => g.clauses
  | 0x11 => g.instrs
  | 0x12 => g.promotes
  | _ => g.grantHold

def Group.perfClear (g : Group) (i : Nat) : Group :=
  match i with
  | 0x10 => { g with clauses := 0 }
  | 0x11 => { g with instrs := 0 }
  | 0x12 => { g with promotes := 0 }
  | _ => { g with grantHold := 0 }

def Core.perfRead (c : Core) (i : Nat) : Nat :=
  match i with
  | 0x20 => c.mmas
  | 0x21 => c.hops
  | _ => c.stretches

/-- The count of a counter as it stands at issue. -/
def Ctx.perf (c : Ctx) (s : State) (i : Nat) : Nat :=
  if i < 0x10 then ((c.team? s).map (fun t => t.perfRead i s.clk)).getD 0
  else if i < 0x20 then c.g.perfRead i
  else ((c.team? s).map (fun t => (s.core t.core).perfRead i)).getD 0

def Ctx.perfClear (c : Ctx) (s : State) (i : Nat) : State :=
  if i < 0x10 then c.modTeam s (fun t => t.perfClear i s.clk) else c.mod s (fun g => g.perfClear i)

/-- PERF (R357). -/
def execPerf (w64 clr : Bool) (d : BitVec 9) (num : BitVec 12) : State → Host.Outcome State Fault Refusal :=
  issue { uses := fun c _ => [wrS c d (if w64 then 2 else 1)] } (fun c s =>
    let x : DWord := BitVec.ofNat 64 (c.perf s num.toNat)
    let s1 := if clr then c.perfClear s num.toNat else s
    .done (c.mod s1 (fun g => if w64 then g.setS64 d.toNat x else g.setS d.toNat (x.extractLsb' 0 32))))

/-! ## Instruction caches and the clock -/

/-- Discard cached words of [a, a + n) in the core's cache, or in every cache. -/
def State.icDrop (s : State) (core : Nat) (all : Bool) (a n : Nat) : State :=
  { s with icache := s.icache.filter (fun x =>
      !((all || x.core = core) && a < x.addr + 8 && x.addr < a + n)) }

/-- ICINV (R358): it completes at once (log 8). -/
def execIcinv (fs all : Bool) (a l : Src) : State → Host.Outcome State Fault Refusal :=
  let xs := [(a, 2), (l, 1)]
  issue { core := .both, flag := .may fs, uses := fun c _ => readsOf c xs } (fun c s =>
    c.retire (s.icDrop (s.fetcher c.ag).core all (c.rdU64 s a.op).toNat (c.rdU s l.op).toNat) xs id)

/-- CLK (R359): once every flag of the group is clear and every fixed-latency result has landed, the whole count, with the
CLKHI shadow. -/
def execClk (d : BitVec 9) : State → Host.Outcome State Fault Refusal :=
  issue { core := .both, uses := fun c _ => [wrS c d 2] } (fun c s =>
    if !(c.now s).flagsClear (BitVec.allOnes 12) || (c.now s).flying.any (fun f => s.clk ≤ f.due) then .hold
    else .done (c.mod s (fun g => { g.setS64 d.toNat s.clkLo with clkhi := s.clkLo.extractLsb' 32 32 })))

end Sys2Proof.Machine
end

