-- ==== Sys2Proof/Machine/Kennel.lean ====
section
/-! DEFINITION. WFI and IRET (17 R388), the Kennel's interrupts and timer (R386, R387). -/
namespace Sys2Proof.Machine

/-- WFI (R388): holds until an enabled interrupt is pending. -/
def execWfi : State → Host.Outcome State Fault Refusal :=
  issue { core := .kennel } (fun _ s => if s.kPending = 0#32 then .hold else .done s)

/-- IRET (R388, R383): takes effect at the end of its clause; with INH = 0 it is illegal. -/
def execIret : State → Host.Outcome State Fault Refusal :=
  issue { core := .kennel } (fun c s =>
    if s.k.inh then .done (s.atEnd (.iret c.cl.word)) else .trap .illOp c.active 0)

/-- The lowest enabled pending vector (R387). -/
def State.lowestVector (s : State) : Option Nat := (upTo 32).find? (fun v => s.kPending.getLsbD v)

/-- INTERRUPT_ENTRY (R387): at a clause boundary with INH = 0. -/
def execInterruptEntry (s : State) : Host.Outcome State Fault Refusal :=
  if s.k.started && s.k.locked.isNone && s.k.grp.portA.isNone && (s.k.grp.lane 0).thread == .running && !s.k.inh then
    match s.lowestVector with
    | some v => .next ((s.kVector v s.kPc false).tick 1)
    | none => .next s
  else .next s

/-- KTIMER_MATCH (R386): TIMER is set when CLKLO equals KTIMER. -/
def execKtimerMatch (s : State) : Host.Outcome State Fault Refusal :=
  .next (if s.clkLo = s.k.ktimer then s.kpend 8 else s)

end Sys2Proof.Machine
end

