-- ==== Sys2Proof/Machine/LongInt.lean ====
section
/-! DEFINITION. The long-integer instructions (12: R272 to R281). Results land at issue; the carry chain's timing (R282) is
left out. -/
namespace Sys2Proof.Machine

/-- Limb lanes (R272). -/
def Group.limbMask (g : Group) : Mask := Mask.below g.limbs

/-- A long value (R272): the pairs from register `r` of the limb lanes. -/
def Group.long (g : Group) (r : Nat) : Nat :=
  ((upTo g.limbs).map (fun i => (g.vVal i (r + 1) ++ g.vVal i r : DWord).toNat * 2 ^ (64 * i))).sum

/-- A long operand (R278): a constant stands for itself modulo 2^(64n). -/
def Ctx.longOp (c : Ctx) (s : State) (o : Opnd) : Nat :=
  match o with
  | .v r => c.g.long r.toNat
  | _ => ((c.rd64 s o 0).toInt.emod (2 ^ (64 * c.g.limbs))).toNat

/-- The two's-complement reading (R272). -/
def signedLong (n x : Nat) : Int := if 2 * x < 2 ^ (64 * n) then x else (x : Int) - 2 ^ (64 * n)

/-- Exact result, carry and overflow of Table 12-3. -/
structure LRes where
  r : Int
  c : Bool
  ov : Bool
  deriving DecidableEq, Repr

def lAdd (n x y ci : Nat) : LRes :=
  let r := x + y + ci
  ⟨r, 2 ^ (64 * n) ≤ r, 2 ^ (64 * n) ≤ r⟩

def lSub (x y ci : Nat) : LRes :=
  let r : Int := (x : Int) - y - ci
  ⟨r, r < 0, r < 0⟩

def lNeg (x : Nat) : LRes := ⟨-(x : Int), x ≠ 0, false⟩

/-- An amount beyond 64n + 1 acts as 64n + 1: every bit is shifted out. -/
def lShl (n x a : Nat) : LRes :=
  let r := x * 2 ^ min a (64 * n + 1)
  ⟨r, r.testBit (64 * n), 2 ^ (64 * n) ≤ r⟩

def lShr (n : Nat) (x : Int) (a : Nat) : LRes :=
  let a' := min a (64 * n + 1)
  ⟨shrI x a', a ≠ 0 && shrI x (a' - 1) % 2 = 1, false⟩

def lMulw (n d x s j : Nat) : LRes :=
  let r := d + x * s * 2 ^ (64 * j)
  ⟨r, 2 ^ (64 * n) ≤ r, 2 ^ (64 * n) ≤ r⟩

/-- LCARRY after an instruction: C, and OV sticky (R279). -/
def carryWord (old : Word) (x : LRes) : Word :=
  (if x.c then 1 else 0) ||| (if old.getLsbD 1 || x.ov then 2 else 0)

/-- A long result in the limb lanes. -/
def Group.setLong (g : Group) (d : Nat) (r : Int) : Group :=
  let x := (r.emod (2 ^ (64 * g.limbs))).toNat
  g.setLanes64 g.limbMask d (fun i => BitVec.ofNat 64 (x / 2 ^ (64 * i)))

/-- Uses in the limb lanes, R278. -/
def limbUses (c : Ctx) (xs : List (Src × Nat)) : List Use := xs.map (fun x => ⟨x.1.op, x.2, c.g.limbMask, false⟩)

/-- R279: BINDSTATE when not bound; the result, LCARRY, last uses in the limb lanes. -/
def longOp (d : BitVec 8) (xs : List (Src × Nat)) (readsD : Bool) (f : Ctx → State → LRes) :
    State → Host.Outcome State Fault Refusal :=
  issue
    { uses := fun c _ =>
        ⟨.v d, 2, c.g.limbMask, true⟩ :: limbUses c xs ++ (if readsD then [⟨.v d, 2, c.g.limbMask, false⟩] else []) }
    (fun c s =>
      if c.g.limbs = 0 then .trap .bindState c.active 0
      else
        let x := f c s
        .done (c.mod s (fun g =>
          { ((g.endUses g.limbMask xs).setLong d.toNat x.r) with lcarry := carryWord g.lcarry x })))

/-- The carry an instruction with `cin` takes in. -/
def Ctx.carryIn (c : Ctx) (cin : Bool) : Nat := if cin && c.g.lcarry.getLsbD 0 then 1 else 0

def execLadd (cin : Bool) (d : BitVec 8) (x y : Src) : State → Host.Outcome State Fault Refusal :=
  longOp d [(x, 2), (y, 2)] false (fun c s =>
    lAdd c.g.limbs (c.longOp s x.op) (c.longOp s y.op) (c.carryIn cin))

def execLsub (cin : Bool) (d : BitVec 8) (x y : Src) : State → Host.Outcome State Fault Refusal :=
  longOp d [(x, 2), (y, 2)] false (fun c s => lSub (c.longOp s x.op) (c.longOp s y.op) (c.carryIn cin))

def execLneg (d : BitVec 8) (x : Src) : State → Host.Outcome State Fault Refusal :=
  longOp d [(x, 2)] false (fun c s => lNeg (c.longOp s x.op))

def execLshl (d : BitVec 8) (x a : Src) : State → Host.Outcome State Fault Refusal :=
  longOp d [(x, 2), (a, 1)] false (fun c s => lShl c.g.limbs (c.longOp s x.op) (c.rdU s a.op).toNat)

def execLshr (arith : Bool) (d : BitVec 8) (x a : Src) : State → Host.Outcome State Fault Refusal :=
  longOp d [(x, 2), (a, 1)] false (fun c s =>
    let v := c.longOp s x.op
    lShr c.g.limbs (if arith then signedLong c.g.limbs v else v) (c.rdU s a.op).toNat)

/-- LMULW adds x × s × 2^(64j) into its destination. -/
def execLmulw (d : BitVec 8) (x a : Src) (j : BitVec 6) : State → Host.Outcome State Fault Refusal :=
  longOp d [(x, 2), (a, 2)] true (fun c s =>
    lMulw c.g.limbs (c.g.long d.toNat) (c.longOp s x.op) (c.rdU64 s a.op).toNat j.toNat)

/-- A condition of Table 5-5 between integers. -/
def Cond.holdsInt (cc : Cond) (x y : Int) : Bool :=
  match cc with
  | .eq => x = y
  | .ne => x ≠ y
  | .lt => x < y
  | .le => x ≤ y
  | .gt => y < x
  | .ge => y ≤ x
  | _ => false

/-- LCMP (R280). -/
def execLcmp (cc : Cond) (sgn : Bool) (d : Opnd) (x y : Src) : State → Host.Outcome State Fault Refusal :=
  issue
    { uses := fun c _ =>
        ⟨d, 1, c.g.limbMask, true⟩ :: limbUses c [(x, 2), (y, 2)] }
    (fun c s =>
      if c.g.limbs = 0 then .trap .bindState c.active 0
      else
        let rd (o : Opnd) : Int :=
          if sgn then signedLong c.g.limbs (c.longOp s o) else c.longOp s o
        let b := Cond.holdsInt cc (rd x.op) (rd y.op)
        .done (c.mod s (fun g =>
          let g1 := g.endUses g.limbMask [(x, 2), (y, 2)]
          match d with
          | .s n => g1.setS n.toNat (boolW b)
          | .p i => g1.setPred i.toNat g1.limbMask (if b then BitVec.allOnes 64 else 0)
          | _ => g1)))

/-- LCARRY (R281). -/
def execLcarry (clr : Bool) (d : BitVec 9) : State → Host.Outcome State Fault Refusal :=
  issue { uses := fun c _ => [wrS c d 1] } (fun c s =>
    .done (c.mod s (fun g =>
      let g1 := g.setS d.toNat c.g.lcarry
      if clr then { g1 with lcarry := 0 } else g1)))

/-- LBIND (R274): lanes n and above become idle from the next instruction. -/
def execLbind (n : BitVec 12) : State → Host.Outcome State Fault Refusal :=
  issue {} (fun c s =>
    let all := Mask.below c.g.width
    let here := c.cl.lanes &&& c.g.running &&& ~~~c.g.svmask
    if c.g.limbs ≠ 0 || c.g.width < n.toNat || here &&& all ≠ all then .trap .bindState c.active 0
    else
      let idle := all &&& ~~~Mask.below n.toNat
      .leave idle (c.mod s (fun g => { g with limbs := n.toNat, lcarry := 0, idle := idle })))

/-- LFREE (R276): the idle lanes stand at `Succ`. -/
def execLfree : State → Host.Outcome State Fault Refusal :=
  issue {} (fun c s =>
    if c.g.limbs = 0 then .done s
    else
      .done (c.mod s (fun g =>
        { g.modLanes g.idle (fun x => { x with pc := c.cl.succ, resume := none }) with limbs := 0, idle := 0 })))

end Sys2Proof.Machine
end

