-- ==== Sys2Proof/Machine/Regroup.lean ====
section
/-! DEFINITION. REFORM's regroup buffer: filing and releasing threads (02 R42 to R45, 06 R125, R145). -/
namespace Sys2Proof.Machine

/-- ⌈Σ / 64⌉ over the live vector lane-registers moved. -/
def moveCost (fs : List (AMap Reg)) : Nat := cdiv ((fs.map List.length).sum) 64

/-! ## Filing (R42) -/

/-- The lanes that wait to be filed at the same REFORM as lane `l`. -/
def Group.filers (g : Group) (l : Nat) : Mask :=
  g.lanesWhere (fun _ x => x.filing.isSome && x.resume = (g.lane l).resume && x.pc = (g.lane l).pc)

/-- Lane `l` as the bin holds it. -/
def Group.fileOf (g0 : Group) (l at_ : Nat) : Filed :=
  let g := g0.drained
  let x := g.lane l
  { tid := x.tid, addr := (x.resume.map Clause.addr).getD 0, word := (x.resume.map Clause.word).getD 0,
    pos := (x.resume.map Clause.position).getD 0, regs := x.regs,
    preds := BitVec.ofNat 7 (((upTo 7).map (fun i => if (g.preds.getD i 0).getLsbD l then 2 ^ i else 0)).sum),
    tern := g.ternbad.getLsbD l, from_ := g.grp, sregs := g.sregs, tiles := g.tiles, lcarry := g.lcarry,
    fpctl := g.fpctl, fpflags := g.fpflags, gstat := g.gstat, safeCnt := x.safeCnt, at_ := at_ }

/-- Put a thread into its bin; false when no bin matches and none is free. -/
def binPut (role : Nat) (key : DWord) (f : Filed) (bs : List Bin) : Option (List Bin) :=
  if bs.any (fun b => b.role = role && b.key = key) then
    some (bs.map (fun b => if b.role = role && b.key = key then { b with threads := b.threads ++ [f] } else b))
  else if bs.length < 64 then some (bs ++ [⟨role, key, [f]⟩])
  else none

/-- The lane is left empty: its registers, predicate bits and TERNBAD bit are gone. -/
def Group.leaveLane (g : Group) (l : Nat) : Group :=
  let g1 := g.freeLanes (Mask.one l)
  { g1.modLane l (fun _ => Lane.empty) with
    preds := g1.preds.map (fun p => p &&& ~~~Mask.one l), ternbad := g1.ternbad &&& ~~~Mask.one l }

/-- File one lane of a group. -/
def Team.fileLane (tm : Team) (gi l at_ : Nat) : Team :=
  match tm.group? gi with
  | none => tm
  | some g =>
    match (g.lane l).filing with
    | none => tm
    | some key =>
      match binPut g.role key (g.fileOf l at_) tm.bins with
      | none => tm
      | some bs => { (tm.modGroup gi (·.leaveLane l)) with bins := bs }

/-- The lanes of `ls` filed into the team's bins, received at `at_`. Where their keys need more bins than are free, the lower
lanes get them (DESIGN CHOICE, log 113). -/
def Team.fileLanes (tm : Team) (gi at_ : Nat) (ls : List Nat) : Team := ls.foldl (fun x l => x.fileLane gi l at_) tm

/-- Those of `ls` for which a bin exists or is free. -/
def Team.filable (tm : Team) (gi : Nat) (ls : List Nat) : List Nat :=
  ls.filter (fun l => (((tm.fileLanes gi 0 ls).group? gi).map (fun g => (g.lane l).filing.isNone)).getD false)

/-- Lanes that found no bin ask again from `now` on (R42). -/
def Group.askAgain (g : Group) (m : Mask) (now : Nat) : Group :=
  g.modLanes m (fun x => if x.filing.isSome then { x with parkedAt := now } else x)

/-! ## Releasing (R43) -/

/-- When a bin's oldest present thread was received. -/
def Bin.oldest (b : Bin) : Nat :=
  match b.threads with
  | [] => 0
  | f :: r => r.foldl (fun m x => min m x.at_) f.at_

/-- Insert a thread by rising `%tid`. -/
def insTid (f : Filed) : List Filed → List Filed
  | [] => [f]
  | x :: r => if f.tid < x.tid then f :: x :: r else x :: insTid f r

def byTid (l : List Filed) : List Filed := l.foldl (fun acc f => insTid f acc) []

/-- The lowest free slot of a role: that of a dissolved group (R42, R141). -/
def Team.freeSlot (tm : Team) (role : Nat) : Option Nat :=
  (tm.groups.find? (fun g => g.role = role && !g.live)).map Group.grp

/-- A bin is full: it has threads for a whole group and the role has a free slot. -/
def Team.binFull (tm : Team) (b : Bin) : Bool :=
  match (tm.groups.find? (fun g => g.role = b.role)).map Group.width with
  | some w => w ≤ b.threads.length && (tm.freeSlot b.role).isSome
  | none => false

/-- Since when the team has been asked to be pre-empted or to migrate, which ages its bins (R45). -/
def Team.asked (tm : Team) : Option Nat :=
  match tm.pre.map PreReq.at_, tm.mig.map Migration.began with
  | some x, some y => some (min x y)
  | some x, none => some x
  | none, y => y

/-- The cycle from which the bin counts as aged. -/
def Bin.agesAt (b : Bin) (asked : Option Nat) : Nat :=
  match asked with
  | some x => min x (b.oldest + 256)
  | none => b.oldest + 256

/-- 256 core cycles have passed since its oldest thread was received, or a pre-emption or migration is requested (R45). -/
def Bin.aged (b : Bin) (now : Nat) (asked : Option Nat) : Bool := b.agesAt asked ≤ now

/-- Insert a number in rising order. -/
def insNat (n : Nat) : List Nat → List Nat
  | [] => [n]
  | x :: r => if n < x then n :: x :: r else x :: insNat n r

/-- The cycle from which the bin counts as full: it has the threads for a group, and the role a free slot. -/
def Team.fullAt (tm : Team) (b : Bin) : Nat :=
  let w := ((tm.groups.find? (fun g => g.role = b.role)).map Group.width).getD 1
  let got := (b.threads.foldl (fun l f => insNat f.at_ l) []).getD (w - 1) 0
  max got (((tm.groups.find? (fun g => g.role = b.role && !g.live)).map Group.quietAt).getD 0)

/-- Since when a bin qualifies (R43), if it does. -/
def Team.binSince (tm : Team) (b : Bin) (now : Nat) : Option Nat :=
  match tm.binFull b, b.aged now tm.asked with
  | true, true => some (min (tm.fullAt b) (b.agesAt tm.asked))
  | true, false => some (tm.fullAt b)
  | false, true => some (b.agesAt tm.asked)
  | false, false => none

/-! ## The order of requests (R145) -/

/-- Lane `l` asks to be filed: its group's flags are clear and its operand log is empty. Once a migration of its team is chosen it
asks only when the team has moved (DESIGN CHOICE, log 125). -/
def Team.asksFiling (tm : Team) (g : Group) (l : Nat) : Bool :=
  tm.st == .running && tm.mig.isNone && !tm.uce && g.live && g.halt.isNone && g.ops.isEmpty && (g.lane l).filing.isSome

/-- When its request arrived: as its wait under R42 ended. -/
def Group.filingAt (g : Group) (l : Nat) : Nat := max g.quietAt (g.lane l).parkedAt

/-- When the filing requests of a core that wait arrived. -/
def State.filingReqs (s : State) (core : Nat) : List Nat :=
  (s.teams.filter (fun p => p.2.resident && p.2.core = core)).flatMap (fun p =>
    p.2.groups.flatMap (fun g => ((upTo g.width).filter (p.2.asksFiling g)).map g.filingAt))

/-- The bins of a core that qualify: since when, their oldest receipt, their key. -/
def State.releaseReqs (s : State) (core : Nat) : List (Nat × Nat × Nat) :=
  (s.teams.filter (fun p => p.2.resident && p.2.core = core)).flatMap (fun p =>
    p.2.bins.filterMap (fun b => (p.2.binSince b s.clk).map (fun x => (x, b.oldest, b.key.toNat))))

/-- No request of the core arrived before a filing request that arrived at `at_`, and the network is free. -/
def State.filingTurn (s : State) (core at_ : Nat) : Bool :=
  (s.core core).netBusy ≤ s.clk && (s.filingReqs core).all (fun x => at_ ≤ x) &&
  (s.releaseReqs core).all (fun x => at_ ≤ x.1)

/-- No request of the core goes before a bin that qualifies since `at_`, and the network is free: of bins that qualify in
one cycle the one whose oldest thread was received first, then the lower key address. -/
def State.releaseTurn (s : State) (core at_ : Nat) (b : Bin) : Bool :=
  (s.core core).netBusy ≤ s.clk && (s.filingReqs core).all (fun x => at_ ≤ x) &&
  (s.releaseReqs core).all (fun x => at_ < x.1 || (at_ = x.1 &&
    (b.oldest < x.2.1 || (b.oldest = x.2.1 && b.key.toNat ≤ x.2.2))))

/-- REFORM_FILING (R42, R145): the lanes that wait with lane `lane` are filed, those for which a bin exists or is free. An
attempt that finds a bin for none of them takes the network for its 8 cycles too, and they ask again from its end (DESIGN
CHOICE, log 112). -/
def execReformFiling (t gi lane : Nat) (s : State) : Host.Outcome State Fault Refusal :=
  match s.team? t, s.group? t gi with
  | some tm, some g =>
    if !(tm.asksFiling g lane && s.filingTurn tm.core (g.filingAt lane)) then .next s
    else
      let all := Mask.lanes (g.filers lane) g.width
      let ls := tm.filable gi all
      let done := s.clk + 8 + moveCost (ls.map (fun l => (g.lane l).regs))
      let tm1 := (tm.fileLanes gi done ls).modGroup gi (fun x => ((x.askAgain (g.filers lane) done).dissolve done).spill)
      .next (((s.setTeam t tm1).payCkpt t).modCore tm.core (fun c => { c with netBusy := done }))
  | _, _ => .next s

/-- A thread takes a lane at `now` and is ready there at `at_`: its program counter, registers, predicate bits, TERNBAD bit
and count of clauses since a safe point. What its group had in FPFLAGS and GSTAT is set (R125). -/
def Group.takeLane (g0 : Group) (now at_ l : Nat) (key : DWord) (f : Filed) : Group :=
  let g := ((f.regs.foldl (fun g p => g.touchV p.1) (g0.freshen now)).orFp f.fpflags).orGstat f.gstat
  let bit (i : Nat) (p : Mask) : Mask := (p &&& ~~~Mask.one l) ||| (if f.preds.getLsbD i then Mask.one l else 0)
  let tern : Mask := if f.tern then Mask.one l else 0
  { g.modLane l (fun _ => { Lane.empty with thread := .running, pc := key, tid := f.tid, regs := f.regs,
                                                  safeCnt := f.safeCnt, readyAt := at_ }) with
    preds := (g.preds.zipIdx).map (fun p => bit p.2 p.1),
    ternbad := (g.ternbad &&& ~~~Mask.one l) ||| tern, fresh := { g.fresh with tern := g.fresh.tern ||| tern } }

/-- An operation that a dissolved group left behind: it completes, charged to no flag of the new group, ordered with none of
its accesses, and its register results are discarded (R44, R141). -/
def Op.orphan (o : Op) : Op :=
  { o with flag := none, capFlag := none, dstV := [], dstS := [], acq := false, spots := [], gone := BitVec.allOnes 64 }

def Op.isFence (o : Op) : Bool :=
  match o.act with
  | .fence _ _ => true
  | _ => false

/-- A new group in a free slot, formed at `now` and ready at `at_` (R44, R125): the uniform and tile registers, LCARRY and
FPCTL of the group that its lowest-`%tid` thread left. -/
def Group.refill (old : Group) (now at_ : Nat) (fs : List (DWord × Filed)) : Group :=
  match fs with
  | [] => old
  | (_, f) :: _ =>
    let g : Group := { Group.init old.grp old.role old.width old.vbud old.sbud old.slice old.slot with
      retained := old.retained, nextOp := old.nextOp, svGone := old.svGone ||| old.svmask,
      ops := (old.ops.filter (fun o => !o.isFence)).map Op.orphan,
      sregs := f.sregs, tiles := f.tiles, lcarry := f.lcarry, fpctl := f.fpctl }
    (fs.zipIdx).foldl (fun g p => g.takeLane now at_ p.2 p.1.1 p.1.2) (f.sregs.foldl (fun g p => g.touchS p.1) g)

/-- A move that binds more names than the budget allows halts the destination group with REGBUDGET (R44); retained registers
that it displaces are copied out and paid for (R323). A move raises no CKPTFULL (R234: an instruction does): the pool may
hold more copies than it has slots until the next commit, in which the team's instructions that copy raise it (DESIGN
CHOICE, log 111). -/
def State.moveBudget (s : State) (t gi : Nat) (before : Nat) (m : Mask) (f : Filed) : State :=
  match s.group? t gi with
  | none => s
  | some g =>
    if g.vbud < g.boundV.length && before < g.boundV.length then
      s.halt t gi false
        { cause := .regBudget, hpc := f.addr, lanes := m, instr := f.word, pos := f.pos, num := 0, regsel := 0,
          ederr := false, edAt := none, edited := 0 } false
    else (s.modGroup t gi Group.spill).payCkpt t

/-- Take threads out of the bins; empty bins go. -/
def takeOut (tids : List Nat) (bs : List Bin) : List Bin :=
  (bs.map (fun b => { b with threads := b.threads.filter (fun f => !tids.contains f.tid) })).filter
    (fun b => !b.threads.isEmpty)

/-- The new group of keyed threads in slot `gi`, ready at `at_`. That lanes of the slot's last group were switched off stays
known to the grid (R353). -/
def State.formGroup (s : State) (t gi at_ : Nat) (fs : List (DWord × Filed)) : State :=
  let s0 := match s.team? t, s.group? t gi with
    | some tm, some g => if g.svmask = 0#64 then s else s.modGrid tm.grid (fun x => { x with sviol := true })
    | _, _ => s
  let s1 := s0.modTeam t (fun x =>
    { x.modGroup gi (fun g => g.refill s.clk at_ fs) with bins := takeOut (fs.map (fun p => p.2.tid)) x.bins })
  match fs with
  | [] => s1
  | (_, f) :: _ => s1.moveBudget t gi 0 (Mask.below fs.length) f

/-- Keyed threads in rising `%tid`. -/
def keyed (b : Bin) : List (DWord × Filed) := (byTid b.threads).map (fun f => (b.key, f))

def insKeyed (p : DWord × Filed) : List (DWord × Filed) → List (DWord × Filed)
  | [] => [p]
  | x :: r => if p.2.tid < x.2.tid then p :: x :: r else x :: insKeyed p r

/-- Threads of the role's other bins, oldest bin first, each in rising `%tid`. Of bins of one age the one created first goes
first (DESIGN CHOICE, log 114). -/
def othersByAge (b : Bin) : Nat → List Bin → List (DWord × Filed)
  | 0, _ => []
  | n + 1, bs =>
    let rest := bs.filter (fun x => x.role = b.role && x.key ≠ b.key)
    match rest with
    | [] => []
    | x :: r =>
      let old := r.foldl (fun m y => if y.oldest < m.oldest then y else m) x
      keyed old ++ othersByAge b n (rest.filter (fun y => y.key ≠ old.key))

/-- The threads an aged bin's new group of `w` lanes takes (R43.2): the bin's, then those of the role's other bins, oldest
bin first, in rising `%tid`; keyed, in rising `%tid`. -/
def Team.gathered (tm : Team) (b : Bin) (w : Nat) : List (DWord × Filed) :=
  ((keyed b ++ othersByAge b 64 tm.bins).take w).foldl (fun acc p => insKeyed p acc) []

/-- When a release of these threads ends (R145). -/
def State.releaseEnd (s : State) (fs : List Filed) : Nat := s.clk + 4 + moveCost (fs.map Filed.regs)

/-- The regroup network is taken for a release. -/
def State.netRelease (s : State) (core : Nat) (fs : List Filed) : State :=
  s.modCore core (fun c => { c with netBusy := s.releaseEnd fs })

/-- The team's bin of index `b`, when it qualifies and its turn has come on its core. -/
def State.releasable (s : State) (t b : Nat) : Option (Team × Bin) :=
  match s.team? t with
  | some tm =>
    match tm.bins[b]? with
    | some x =>
      match tm.binSince x s.clk with
      | some at_ => if tm.st == .running && !tm.uce && s.releaseTurn tm.core at_ x then some (tm, x) else none
      | none => none
    | none => none
  | none => none

/-- BIN_RELEASE_FULL (R43.1). -/
def execBinReleaseFull (t bin : Nat) (s : State) : Host.Outcome State Fault Refusal :=
  match s.releasable t bin with
  | none => .next s
  | some (tm, b) =>
    match tm.freeSlot b.role with
    | none => .next s
    | some gi =>
      let w := ((tm.group? gi).map Group.width).getD 0
      let fs := (keyed b).take w
      if b.threads.length < w then .next s
      else .next ((s.formGroup t gi (s.releaseEnd (fs.map Prod.snd)) fs).netRelease tm.core (fs.map Prod.snd))

/-- Vacant lanes of the role's groups, lowest `%grp` and `%lane` first. -/
def Team.vacant (tm : Team) (role : Nat) : List (Nat × Nat) :=
  (tm.groups.filter (fun g => g.role = role && g.live)).flatMap (fun g =>
    ((upTo g.width).filter (fun l => (g.lane l).thread ≠ .running)).map (fun l => (g.grp, l)))

/-- Threads enter vacant lanes of one group and adopt its uniform and tile registers; together they may go beyond its budget
(R44). -/
def State.enterGroup (s : State) (t at_ : Nat) (key : DWord) (ps : List ((Nat × Nat) × Filed)) (gi : Nat) : State :=
  let mine := ps.filter (fun p => p.1.1 = gi)
  let before := ((s.group? t gi).map (fun g => g.boundV.length)).getD 0
  let s1 := s.modTeam t (fun x =>
    { x.modGroup gi (fun g => mine.foldl (fun g p => g.takeLane s.clk at_ p.1.2 key p.2) g) with
      bins := takeOut (mine.map (fun p => p.2.tid)) x.bins })
  match mine with
  | [] => s1
  | p :: _ => s1.moveBudget t gi before (Mask.ofLanes (mine.map (fun p => p.1.2))) p.2

/-- BIN_AGE_EXPIRE (R43.2, R43.3). In R43.3 the bin's threads take the vacant lanes in rising `%tid` (DESIGN CHOICE,
log 115). -/
def execBinAgeExpire (t bin : Nat) (s : State) : Host.Outcome State Fault Refusal :=
  match s.releasable t bin with
  | none => .next s
  | some (tm, b) =>
    if !b.aged s.clk tm.asked then .next s
    else
      match tm.freeSlot b.role with
      | some gi =>
        let fs := tm.gathered b (((tm.group? gi).map Group.width).getD 0)
        .next ((s.formGroup t gi (s.releaseEnd (fs.map Prod.snd)) fs).netRelease tm.core (fs.map Prod.snd))
      | none =>
        let ps := (tm.vacant b.role).zip (byTid b.threads)
        let at_ := s.releaseEnd (ps.map Prod.snd)
        .next (((tm.groups.map Group.grp).foldl (fun s gi => s.enterGroup t at_ b.key ps gi) s).netRelease tm.core
          (ps.map Prod.snd))

end Sys2Proof.Machine
end

