-- ==== Sys2Proof/Machine/Dispatch.lean ====
section
/-! DEFINITION. One arm per constructor of Instr: a direct call of its meaning. -/
namespace Sys2Proof.Machine



def exec (i : Instr) (s : State) : Host.Outcome State Fault Refusal :=
  match i with
  | .sMov x0 x1 x2 => Sys2Proof.Machine.execSMov x0 x1 x2 s
  | .sLi x0 x1 x2 => Sys2Proof.Machine.execSLi x0 x1 x2 s
  | .sAdd x0 x1 x2 x3 x4 => Sys2Proof.Machine.execSAdd x0 x1 x2 x3 x4 s
  | .sSub x0 x1 x2 x3 x4 => Sys2Proof.Machine.execSSub x0 x1 x2 x3 x4 s
  | .sMul x0 x1 x2 x3 => Sys2Proof.Machine.execSMul x0 x1 x2 x3 s
  | .sMulhi x0 x1 x2 x3 => Sys2Proof.Machine.execSMulhi x0 x1 x2 x3 s
  | .sAnd x0 x1 x2 x3 => Sys2Proof.Machine.execSAnd x0 x1 x2 x3 s
  | .sOr x0 x1 x2 x3 => Sys2Proof.Machine.execSOr x0 x1 x2 x3 s
  | .sXor x0 x1 x2 x3 => Sys2Proof.Machine.execSXor x0 x1 x2 x3 s
  | .sNot x0 x1 x2 => Sys2Proof.Machine.execSNot x0 x1 x2 s
  | .sShl x0 x1 x2 x3 => Sys2Proof.Machine.execSShl x0 x1 x2 x3 s
  | .sShr x0 x1 x2 x3 => Sys2Proof.Machine.execSShr x0 x1 x2 x3 s
  | .sSra x0 x1 x2 x3 => Sys2Proof.Machine.execSSra x0 x1 x2 x3 s
  | .sMin x0 x1 x2 x3 => Sys2Proof.Machine.execSMin x0 x1 x2 x3 s
  | .sMax x0 x1 x2 x3 => Sys2Proof.Machine.execSMax x0 x1 x2 x3 s
  | .sAdd64 x0 x1 x2 => Sys2Proof.Machine.execSAdd64 x0 x1 x2 s
  | .sSub64 x0 x1 x2 => Sys2Proof.Machine.execSSub64 x0 x1 x2 s
  | .sShl64 x0 x1 x2 => Sys2Proof.Machine.execSShl64 x0 x1 x2 s
  | .sCmp x0 x1 x2 x3 x4 => Sys2Proof.Machine.execSCmp x0 x1 x2 x3 x4 s
  | .sSel x0 x1 x2 x3 x4 x5 => Sys2Proof.Machine.execSSel x0 x1 x2 x3 x4 x5 s
  | .sBfe x0 x1 x2 x3 x4 => Sys2Proof.Machine.execSBfe x0 x1 x2 x3 x4 s
  | .sBfi x0 x1 x2 x3 x4 x5 => Sys2Proof.Machine.execSBfi x0 x1 x2 x3 x4 x5 s
  | .sClz x0 x1 => Sys2Proof.Machine.execSClz x0 x1 s
  | .sPopc x0 x1 => Sys2Proof.Machine.execSPopc x0 x1 s
  | .sRsr x0 x1 x2 => Sys2Proof.Machine.execSRsr x0 x1 x2 s
  | .sWsr x0 x1 x2 => Sys2Proof.Machine.execSWsr x0 x1 x2 s
  | .sVget x0 x1 x2 x3 => Sys2Proof.Machine.execSVget x0 x1 x2 x3 s
  | .br x0 x1 x2 => Sys2Proof.Machine.execBr x0 x1 x2 s
  | .brx x0 x1 => Sys2Proof.Machine.execBrx x0 x1 s
  | .call x0 x1 x2 => Sys2Proof.Machine.execCall x0 x1 x2 s
  | .ret x0 x1 => Sys2Proof.Machine.execRet x0 x1 s
  | .reform x0 => Sys2Proof.Machine.execReform x0 s
  | .exit => Sys2Proof.Machine.execExit s
  | .nop => Sys2Proof.Machine.execNop s
  | .yield => Sys2Proof.Machine.execYield s
  | .vMov x0 x1 x2 => Sys2Proof.Machine.execVMov x0 x1 x2 s
  | .vLi x0 x1 x2 => Sys2Proof.Machine.execVLi x0 x1 x2 s
  | .vAdd x0 x1 x2 x3 x4 => Sys2Proof.Machine.execVAdd x0 x1 x2 x3 x4 s
  | .vSub x0 x1 x2 x3 x4 => Sys2Proof.Machine.execVSub x0 x1 x2 x3 x4 s
  | .vMul x0 x1 x2 x3 => Sys2Proof.Machine.execVMul x0 x1 x2 x3 s
  | .vMulhi x0 x1 x2 x3 => Sys2Proof.Machine.execVMulhi x0 x1 x2 x3 s
  | .vMad x0 x1 x2 x3 x4 x5 => Sys2Proof.Machine.execVMad x0 x1 x2 x3 x4 x5 s
  | .vMadw x0 x1 x2 x3 x4 => Sys2Proof.Machine.execVMadw x0 x1 x2 x3 x4 s
  | .vAnd x0 x1 x2 x3 => Sys2Proof.Machine.execVAnd x0 x1 x2 x3 s
  | .vOr x0 x1 x2 x3 => Sys2Proof.Machine.execVOr x0 x1 x2 x3 s
  | .vXor x0 x1 x2 x3 => Sys2Proof.Machine.execVXor x0 x1 x2 x3 s
  | .vNot x0 x1 x2 => Sys2Proof.Machine.execVNot x0 x1 x2 s
  | .vShl x0 x1 x2 x3 => Sys2Proof.Machine.execVShl x0 x1 x2 x3 s
  | .vShr x0 x1 x2 x3 => Sys2Proof.Machine.execVShr x0 x1 x2 x3 s
  | .vSra x0 x1 x2 x3 => Sys2Proof.Machine.execVSra x0 x1 x2 x3 s
  | .vMin x0 x1 x2 x3 => Sys2Proof.Machine.execVMin x0 x1 x2 x3 s
  | .vMax x0 x1 x2 x3 => Sys2Proof.Machine.execVMax x0 x1 x2 x3 s
  | .vAbs x0 x1 x2 x3 => Sys2Proof.Machine.execVAbs x0 x1 x2 x3 s
  | .vCmp x0 x1 x2 x3 x4 => Sys2Proof.Machine.execVCmp x0 x1 x2 x3 x4 s
  | .vSel x0 x1 x2 x3 x4 x5 => Sys2Proof.Machine.execVSel x0 x1 x2 x3 x4 x5 s
  | .vBfe x0 x1 x2 x3 x4 => Sys2Proof.Machine.execVBfe x0 x1 x2 x3 x4 s
  | .vBfi x0 x1 x2 x3 x4 x5 => Sys2Proof.Machine.execVBfi x0 x1 x2 x3 x4 x5 s
  | .vPopc x0 x1 x2 => Sys2Proof.Machine.execVPopc x0 x1 x2 s
  | .vClz x0 x1 x2 => Sys2Proof.Machine.execVClz x0 x1 x2 s
  | .vDot4 x0 x1 x2 x3 x4 x5 x6 => Sys2Proof.Machine.execVDot4 x0 x1 x2 x3 x4 x5 x6 s
  | .vReq x0 x1 x2 x3 x4 => Sys2Proof.Machine.execVReq x0 x1 x2 x3 x4 s
  | .vUnpk3 x0 x1 x2 x3 => Sys2Proof.Machine.execVUnpk3 x0 x1 x2 x3 s
  | .vCvt x0 x1 x2 x3 => Sys2Proof.Machine.execVCvt x0 x1 x2 x3 s
  | .vShfl x0 x1 x2 x3 x4 x5 => Sys2Proof.Machine.execVShfl x0 x1 x2 x3 x4 x5 s
  | .vRed x0 x1 x2 => Sys2Proof.Machine.execVRed x0 x1 x2 s
  | .vScan x0 x1 x2 x3 => Sys2Proof.Machine.execVScan x0 x1 x2 x3 s
  | .vBcast x0 x1 x2 x3 x4 => Sys2Proof.Machine.execVBcast x0 x1 x2 x3 x4 s
  | .vVote x0 x1 x2 => Sys2Proof.Machine.execVVote x0 x1 x2 s
  | .vFadd x0 x1 x2 x3 x4 => Sys2Proof.Machine.execVFadd x0 x1 x2 x3 x4 s
  | .vFsub x0 x1 x2 x3 x4 => Sys2Proof.Machine.execVFsub x0 x1 x2 x3 x4 s
  | .vFmul x0 x1 x2 x3 x4 => Sys2Proof.Machine.execVFmul x0 x1 x2 x3 x4 s
  | .vFmin x0 x1 x2 x3 => Sys2Proof.Machine.execVFmin x0 x1 x2 x3 s
  | .vFfma x0 x1 x2 x3 x4 x5 => Sys2Proof.Machine.execVFfma x0 x1 x2 x3 x4 x5 s
  | .vFmax x0 x1 x2 x3 => Sys2Proof.Machine.execVFmax x0 x1 x2 x3 s
  | .vFcmp x0 x1 x2 x3 x4 => Sys2Proof.Machine.execVFcmp x0 x1 x2 x3 x4 s
  | .vFclass x0 x1 x2 => Sys2Proof.Machine.execVFclass x0 x1 x2 s
  | .vFrnd x0 x1 x2 x3 => Sys2Proof.Machine.execVFrnd x0 x1 x2 x3 s
  | .vFcvt x0 x1 x2 x3 x4 x5 => Sys2Proof.Machine.execVFcvt x0 x1 x2 x3 x4 x5 s
  | .vFicvt x0 x1 x2 x3 x4 => Sys2Proof.Machine.execVFicvt x0 x1 x2 x3 x4 s
  | .vFrcp x0 x1 => Sys2Proof.Machine.execVFrcp x0 x1 s
  | .vFrsq x0 x1 => Sys2Proof.Machine.execVFrsq x0 x1 s
  | .vFsqrt x0 x1 x2 => Sys2Proof.Machine.execVFsqrt x0 x1 x2 s
  | .vFexp2 x0 x1 => Sys2Proof.Machine.execVFexp2 x0 x1 s
  | .vFlog2 x0 x1 => Sys2Proof.Machine.execVFlog2 x0 x1 s
  | .vFsin x0 x1 => Sys2Proof.Machine.execVFsin x0 x1 s
  | .vFcos x0 x1 => Sys2Proof.Machine.execVFcos x0 x1 s
  | .vHfma2 x0 x1 x2 x3 x4 x5 => Sys2Proof.Machine.execVHfma2 x0 x1 x2 x3 x4 x5 s
  | .vHadd2 x0 x1 x2 x3 x4 => Sys2Proof.Machine.execVHadd2 x0 x1 x2 x3 x4 s
  | .vHmul2 x0 x1 x2 x3 x4 => Sys2Proof.Machine.execVHmul2 x0 x1 x2 x3 x4 s
  | .vMxscl x0 x1 x2 => Sys2Proof.Machine.execVMxscl x0 x1 x2 s
  | .vMxpack x0 x1 x2 x3 x4 x5 => Sys2Proof.Machine.execVMxpack x0 x1 x2 x3 x4 x5 s
  | .ld x0 x1 x2 x3 x4 => Sys2Proof.Machine.execLd x0 x1 x2 x3 x4 s
  | .st x0 x1 x2 x3 x4 x5 => Sys2Proof.Machine.execSt x0 x1 x2 x3 x4 x5 s
  | .lds x0 x1 x2 x3 => Sys2Proof.Machine.execLds x0 x1 x2 x3 s
  | .sts x0 x1 x2 x3 x4 => Sys2Proof.Machine.execSts x0 x1 x2 x3 x4 s
  | .ldr x0 x1 x2 x3 x4 => Sys2Proof.Machine.execLdr x0 x1 x2 x3 x4 s
  | .str x0 x1 x2 x3 x4 x5 => Sys2Proof.Machine.execStr x0 x1 x2 x3 x4 x5 s
  | .ldu x0 x1 x2 x3 x4 => Sys2Proof.Machine.execLdu x0 x1 x2 x3 x4 s
  | .stu x0 x1 x2 x3 x4 x5 => Sys2Proof.Machine.execStu x0 x1 x2 x3 x4 x5 s
  | .ldc x0 x1 x2 x3 => Sys2Proof.Machine.execLdc x0 x1 x2 x3 s
  | .pref x0 x1 x2 x3 => Sys2Proof.Machine.execPref x0 x1 x2 x3 s
  | .fence x0 x1 x2 => Sys2Proof.Machine.execFence x0 x1 x2 s
  | .phase x0 => Sys2Proof.Machine.execPhase x0 s
  | .mxld x0 x1 x2 x3 => Sys2Proof.Machine.execMxld x0 x1 x2 x3 s
  | .mxacc x0 x1 x2 x3 x4 x5 x6 x7 => Sys2Proof.Machine.execMxacc x0 x1 x2 x3 x4 x5 x6 x7 s
  | .atom x0 x1 x2 x3 x4 x5 x6 x7 => Sys2Proof.Machine.execAtom x0 x1 x2 x3 x4 x5 x6 x7 s
  | .atoms x0 x1 x2 x3 x4 x5 x6 x7 x8 => Sys2Proof.Machine.execAtoms x0 x1 x2 x3 x4 x5 x6 x7 x8 s
  | .atomu x0 x1 x2 x3 x4 x5 x6 x7 => Sys2Proof.Machine.execAtomu x0 x1 x2 x3 x4 x5 x6 x7 s
  | .tdef x0 x1 => Sys2Proof.Machine.execTdef x0 x1 s
  | .mma x0 x1 x2 x3 x4 x5 x6 x7 => Sys2Proof.Machine.execMma x0 x1 x2 x3 x4 x5 x6 x7 s
  | .accZero x0 x1 => Sys2Proof.Machine.execAccZero x0 x1 s
  | .accLd x0 x1 x2 => Sys2Proof.Machine.execAccLd x0 x1 x2 s
  | .accSt x0 x1 x2 => Sys2Proof.Machine.execAccSt x0 x1 x2 s
  | .accRd x0 x1 x2 x3 => Sys2Proof.Machine.execAccRd x0 x1 x2 x3 s
  | .accWr x0 x1 x2 x3 x4 => Sys2Proof.Machine.execAccWr x0 x1 x2 x3 x4 s
  | .accOut x0 x1 x2 x3 => Sys2Proof.Machine.execAccOut x0 x1 x2 x3 s
  | .mstat x0 x1 x2 => Sys2Proof.Machine.execMstat x0 x1 x2 s
  | .cp x0 => Sys2Proof.Machine.execCp x0 s
  | .cpt x0 x1 x2 => Sys2Proof.Machine.execCpt x0 x1 x2 s
  | .cpg x0 x1 => Sys2Proof.Machine.execCpg x0 x1 s
  | .cpsc x0 x1 => Sys2Proof.Machine.execCpsc x0 x1 s
  | .cpr x0 => Sys2Proof.Machine.execCpr x0 s
  | .cpx x0 x1 => Sys2Proof.Machine.execCpx x0 x1 s
  | .coll x0 x1 x2 => Sys2Proof.Machine.execColl x0 x1 x2 s
  | .cpq x0 => Sys2Proof.Machine.execCpq x0 s
  | .barInit x0 x1 x2 => Sys2Proof.Machine.execBarInit x0 x1 x2 s
  | .barArr x0 x1 x2 => Sys2Proof.Machine.execBarArr x0 x1 x2 s
  | .barWait x0 x1 => Sys2Proof.Machine.execBarWait x0 x1 s
  | .barAw x0 x1 x2 => Sys2Proof.Machine.execBarAw x0 x1 x2 s
  | .tktTake x0 x1 x2 x3 => Sys2Proof.Machine.execTktTake x0 x1 x2 x3 s
  | .tktWait x0 x1 x2 x3 x4 => Sys2Proof.Machine.execTktWait x0 x1 x2 x3 x4 s
  | .tktPass x0 x1 x2 x3 => Sys2Proof.Machine.execTktPass x0 x1 x2 x3 s
  | .waita x0 x1 x2 x3 x4 x5 => Sys2Proof.Machine.execWaita x0 x1 x2 x3 x4 x5 s
  | .waitf x0 x1 => Sys2Proof.Machine.execWaitf x0 x1 s
  | .fifoPush x0 x1 x2 x3 => Sys2Proof.Machine.execFifoPush x0 x1 x2 x3 s
  | .fifoPop x0 x1 x2 x3 => Sys2Proof.Machine.execFifoPop x0 x1 x2 x3 s
  | .lbind x0 => Sys2Proof.Machine.execLbind x0 s
  | .lfree => Sys2Proof.Machine.execLfree s
  | .ladd x0 x1 x2 x3 => Sys2Proof.Machine.execLadd x0 x1 x2 x3 s
  | .lsub x0 x1 x2 x3 => Sys2Proof.Machine.execLsub x0 x1 x2 x3 s
  | .lneg x0 x1 => Sys2Proof.Machine.execLneg x0 x1 s
  | .lshl x0 x1 x2 => Sys2Proof.Machine.execLshl x0 x1 x2 s
  | .lshr x0 x1 x2 x3 => Sys2Proof.Machine.execLshr x0 x1 x2 x3 s
  | .lmulw x0 x1 x2 x3 => Sys2Proof.Machine.execLmulw x0 x1 x2 x3 s
  | .lcmp x0 x1 x2 x3 x4 => Sys2Proof.Machine.execLcmp x0 x1 x2 x3 x4 s
  | .lcarry x0 x1 => Sys2Proof.Machine.execLcarry x0 x1 s
  | .trap x0 => Sys2Proof.Machine.execTrap x0 s
  | .brk x0 => Sys2Proof.Machine.execBrk x0 s
  | .launch x0 x1 x2 x3 => Sys2Proof.Machine.execLaunch x0 x1 x2 x3 s
  | .perf x0 x1 x2 x3 => Sys2Proof.Machine.execPerf x0 x1 x2 x3 s
  | .icinv x0 x1 x2 x3 => Sys2Proof.Machine.execIcinv x0 x1 x2 x3 s
  | .clk x0 => Sys2Proof.Machine.execClk x0 s
  | .wfi => Sys2Proof.Machine.execWfi s
  | .iret => Sys2Proof.Machine.execIret s
  | .mmld x0 x1 x2 x3 => Sys2Proof.Machine.execMmld x0 x1 x2 x3 s
  | .mmst x0 x1 x2 x3 => Sys2Proof.Machine.execMmst x0 x1 x2 x3 s
  | .turn x0 x1 => Sys2Proof.Machine.execTurn x0 x1 s
  | .loadLand x0 x1 x2 => Sys2Proof.Machine.execLoadLand x0 x1 x2 s
  | .frdoorRetry x0 => Sys2Proof.Machine.execFrdoorRetry x0 s
  | .frdoorKill x0 => Sys2Proof.Machine.execFrdoorKill x0 s
  | .operandLogReplay x0 x1 => Sys2Proof.Machine.execOperandLogReplay x0 x1 s
  | .parkWake x0 x1 x2 => Sys2Proof.Machine.execParkWake x0 x1 x2 s
  | .reformFiling x0 x1 x2 => Sys2Proof.Machine.execReformFiling x0 x1 x2 s
  | .binReleaseFull x0 x1 => Sys2Proof.Machine.execBinReleaseFull x0 x1 s
  | .binAgeExpire x0 x1 => Sys2Proof.Machine.execBinAgeExpire x0 x1 s
  | .mmaCapture x0 x1 x2 => Sys2Proof.Machine.execMmaCapture x0 x1 x2 s
  | .mmaComplete x0 x1 x2 => Sys2Proof.Machine.execMmaComplete x0 x1 x2 s
  | .mxaccBlock x0 x1 x2 => Sys2Proof.Machine.execMxaccBlock x0 x1 x2 s
  | .commandSignal x0 x1 => Sys2Proof.Machine.execCommandSignal x0 x1 s
  | .segmentReplay x0 x1 => Sys2Proof.Machine.execSegmentReplay x0 x1 s
  | .collComplete x0 x1 x2 => Sys2Proof.Machine.execCollComplete x0 x1 x2 s
  | .collTimeout x0 x1 => Sys2Proof.Machine.execCollTimeout x0 x1 s
  | .phaseCommit x0 => Sys2Proof.Machine.execPhaseCommit x0 s
  | .phaseRestart x0 => Sys2Proof.Machine.execPhaseRestart x0 s
  | .teamExit x0 => Sys2Proof.Machine.execTeamExit x0 s
  | .push x0 x1 => Sys2Proof.Machine.execPush x0 x1 s
  | .snapshot x0 => Sys2Proof.Machine.execSnapshot x0 s
  | .startConditionPoll x0 => Sys2Proof.Machine.execStartConditionPoll x0 s
  | .dispatch => Sys2Proof.Machine.execDispatch s
  | .admission x0 => Sys2Proof.Machine.execAdmission x0 s
  | .bankDrain x0 x1 => Sys2Proof.Machine.execBankDrain x0 x1 s
  | .rangeTranslation x0 => Sys2Proof.Machine.execRangeTranslation x0 s
  | .teamStart x0 => Sys2Proof.Machine.execTeamStart x0 s
  | .prioPreempt x0 => Sys2Proof.Machine.execPrioPreempt x0 s
  | .preempt x0 x1 x2 => Sys2Proof.Machine.execPreempt x0 x1 x2 s
  | .preemptSave x0 => Sys2Proof.Machine.execPreemptSave x0 s
  | .release x0 x1 => Sys2Proof.Machine.execRelease x0 x1 s
  | .kill x0 => Sys2Proof.Machine.execKill x0 s
  | .regdataWrite x0 x1 x2 => Sys2Proof.Machine.execRegdataWrite x0 x1 x2 s
  | .cmdResume x0 x1 => Sys2Proof.Machine.execCmdResume x0 x1 s
  | .cmdKillTeam x0 x1 => Sys2Proof.Machine.execCmdKillTeam x0 x1 s
  | .cmdKillGrid x0 x1 => Sys2Proof.Machine.execCmdKillGrid x0 x1 s
  | .registerWrite x0 x1 x2 x3 => Sys2Proof.Machine.execRegisterWrite x0 x1 x2 x3 s
  | .shepherdReading x0 => Sys2Proof.Machine.execShepherdReading x0 s
  | .migrationEnd x0 => Sys2Proof.Machine.execMigrationEnd x0 s
  | .budgetPeriod x0 x1 => Sys2Proof.Machine.execBudgetPeriod x0 x1 s
  | .hopBegin x0 x1 => Sys2Proof.Machine.execHopBegin x0 x1 s
  | .hopEnd x0 x1 => Sys2Proof.Machine.execHopEnd x0 x1 s
  | .droopStretch x0 => Sys2Proof.Machine.execDroopStretch x0 s
  | .stretchEnd x0 => Sys2Proof.Machine.execStretchEnd x0 s
  | .hopRetry x0 x1 => Sys2Proof.Machine.execHopRetry x0 x1 s
  | .leashTrigger x0 x1 x2 => Sys2Proof.Machine.execLeashTrigger x0 x1 x2 s
  | .leashStep x0 x1 => Sys2Proof.Machine.execLeashStep x0 x1 s
  | .scanVisit x0 => Sys2Proof.Machine.execScanVisit x0 s
  | .scanPreemptWithdraw x0 => Sys2Proof.Machine.execScanPreemptWithdraw x0 s
  | .scanComplete x0 x1 => Sys2Proof.Machine.execScanComplete x0 x1 s
  | .packKill x0 x1 => Sys2Proof.Machine.execPackKill x0 x1 s
  | .eccEvent x0 x1 x2 => Sys2Proof.Machine.execEccEvent x0 x1 x2 s
  | .scrub x0 x1 x2 => Sys2Proof.Machine.execScrub x0 x1 x2 s
  | .flowChange x0 x1 => Sys2Proof.Machine.execFlowChange x0 x1 s
  | .flowLossBudgetCut => Sys2Proof.Machine.execFlowLossBudgetCut s
  | .coolantShutdown => Sys2Proof.Machine.execCoolantShutdown s
  | .coolantRecovery => Sys2Proof.Machine.execCoolantRecovery s
  | .coldReset => Sys2Proof.Machine.execColdReset s
  | .computeRelease => Sys2Proof.Machine.execComputeRelease s
  | .warmReset => Sys2Proof.Machine.execWarmReset s
  | .pcieHotReset => Sys2Proof.Machine.execPcieHotReset s
  | .warmrst x0 => Sys2Proof.Machine.execWarmrst x0 s
  | .lockupReset => Sys2Proof.Machine.execLockupReset s
  | .interruptEntry => Sys2Proof.Machine.execInterruptEntry s
  | .ktimerMatch => Sys2Proof.Machine.execKtimerMatch s
  | .logcommit => Sys2Proof.Machine.execLogcommit s
  | .sctlall x0 x1 => Sys2Proof.Machine.execSctlall x0 x1 s
  | .enloRead x0 => Sys2Proof.Machine.execEnloRead x0 s
  | .upcmdVerify => Sys2Proof.Machine.execUpcmdVerify s
  | .upcmdAttest => Sys2Proof.Machine.execUpcmdAttest s
  | .updateDone => Sys2Proof.Machine.execUpdateDone s
  | .retrieverSegment x0 x1 => Sys2Proof.Machine.execRetrieverSegment x0 x1 s
  | .scanMoveTimeout x0 x1 => Sys2Proof.Machine.execScanMoveTimeout x0 x1 s

end Sys2Proof.Machine
end

