-- ==== Sys2Proof/Machine/Env.lean ====
section
/-! DEFINITION. Inputs of the outside (log 5): sensors, rails, host memory, the host's accesses to module memory and
registers. -/
namespace Sys2Proof.Machine

/-- A base-die diode's reading; one at or above CRIT is logged, and its later return below HOT (R392). -/
def State.readBtemp (s : State) (i : Nat) (t : Int) : State :=
  let s1 : State := { s with k := { s.k with btemp := AMap.set s.k.btemp i ((BitVec.ofInt 16 t).setWidth 32) } }
  let d : List Nat := [i, (BitVec.ofInt 16 t).toNat]
  if (s.k.crit : Int) ≤ t && !s.k.btAlarm.contains i then
    ({ s1 with k := { s1.k with btAlarm := setIns s1.k.btAlarm i } } : State).hwLog 1 none 0xFFFF d
  else if t < s.k.hot && s.k.btAlarm.contains i then
    ({ s1 with k := { s1.k with btAlarm := setDel s1.k.btAlarm i } } : State).hwLog 1 none 0xFFFF d
  else s1

/-- An input arrives. When the main rail leaves its range, compute stacks that are released run on: what becomes of them R26 does
not say (DESIGN CHOICE, log 121). -/
def State.input (s : State) (e : Env) : State :=
  match e with
  | .diode c t => if 576 ≤ c then s else s.modCore c (fun x => { x with diode := t })
  | .btemp i t => if i < 32 then s.readBtemp i t else s
  | .pmon i x => if i < 16 then { s with k := { s.k with pmon := AMap.set s.k.pmon i x } } else s
  | .rail good => { s with cool := { s.cool with rail := good } }
  | .bus a d => { s with bus := Memory.writeN s.bus a d }
  | .mem a d => if a + d.length ≤ Config.physEnd then s.memWrite a d else s
  | .hostRead a n => (s.hostRead a n).2

end Sys2Proof.Machine
end

