-- ==== Sys2Proof/Machine/Step.lean ====
section
/-! DEFINITION. One step: the next move of the agenda, or the next slot of the agent in focus. -/
namespace Sys2Proof.Machine

/-- The agent in focus changes. In a turn port A, which has the lower program counter, issues first (R199, R224). -/
def State.refocus (s : State) (a : Agent) : State :=
  match a with
  | .port t gi true =>
    { s with focus := .port t gi (((s.group? t gi).map (fun g => g.portA.isNone)).getD true), cycle := none }
  | _ => { s with focus := a, cycle := none }

/-- Port A has had its slot of this slice cycle and port B has not: nothing comes in between but the bank conflict that
port B meets (R118, R155). -/
def State.midCycle (s : State) : Bool :=
  (s.pair? s.focus).isSome &&
  (match s.agenda with
   | .conflict _ :: _ => false
   | _ => true)

/-- The next slot of the agent in focus. -/
def runSlot (s : State) : Host.Outcome State Fault Refusal :=
  match s.nextSlot with
  | .instr i => exec i s
  | .move i => exec i s
  | .bad s' => .next s'
  | .go s' => .next s'

/-- Before the Kennel's timer is looked at (R386). -/
def stepCore (s : State) : Host.Outcome State Fault Refusal :=
  if s.midCycle then runSlot s
  else
    match s.agenda with
    | .elapse n :: r => .next (State.tick { s with agenda := r } n)
    | .event i :: r => if isEvent i && i.wf then exec i { s with agenda := r } else .next { s with agenda := r }
    | .focus a :: r => .next (State.refocus { s with agenda := r } a)
    | .conflict n :: r => .next { s with agenda := r, conflict := some n }
    | .capture t gi id ws :: r => .next (State.capture { s with agenda := r } t gi id (some ws))
    | .env e :: r => .next (State.input { s with agenda := r } e)
    | [] => runSlot s

/-- A step; TIMER is set when CLKLO passes KTIMER (Table 17-1). -/
def step (s : State) : Host.Outcome State Fault Refusal :=
  match stepCore s with
  | .next s' => .next (s'.timer s.clk)
  | .fault f => .fault f
  | .refused r => .refused r

def State.withFetchWord (s : State) (_nbits w : Nat) : State := s.place (BitVec.ofNat 64 w)

end Sys2Proof.Machine
end

