-- ==== Sys2Proof/Safety.lean ====
section
/-! DEFINITION. The terms the statements are made in: the canonical form every step keeps, what it is for an instruction
to issue unhindered and to complete, what a frame leaves alone, and, family by family, the rules of the spec as functions
of the operands. -/
namespace Sys2Proof.Machine

/-! ## Canonical form -/

/-- Physical memory, the host's bus memory and the Kennel's SRAM are in canonical form. -/
def State.canonical (s : State) : Prop :=
  Memory.wf s.mem = true ∧ Memory.wf s.bus = true ∧ Memory.wf s.k.sram = true

/-- Every team's scratchpad is in canonical form. -/
def State.scratchWf (s : State) : Prop := ∀ n tm, s.team? n = some tm → Memory.wf tm.scratch = true

/-! ## Issue and completion -/

/-- The slot in focus is `c0`'s, on a core the opcode is legal on; `c` is the slot with the ACTIVE that the guard leaves
(R71, R119), and it is not empty. The instruction, which uses `us` in a slot, waits in its whole lane set for no result, no unit
and no status register (R69, R117, R156), its operands are collected (R153), and, unless it consumes none, no register it
reads in ACTIVE holds an uncorrectable error (R222, R379). -/
structure Ctx.IssuesUnder (c0 c : Ctx) (s : State) (core : CoreSet) (gd : GuardUse) (us : Ctx → List Use)
    (consumes : Bool := true) : Prop where
  slot : s.ctx? = some c0
  legal : core.allows c0.g.kennel = true
  narrowed : c = { c0 with active := gd.narrow c0.g c0.active }
  active : c.active ≠ 0
  free : c0.held s (gd.uses c0.laneSet ++ us c0.whole) = false
  collected : c.short s (us c0.whole) = false
  sound : consumes = true → (us c).any c.readsBad = false

/-- The same for an instruction without a guard. -/
def Ctx.Issues (c : Ctx) (s : State) (core : CoreSet) (us : Ctx → List Use) : Prop := c.IssuesUnder c s core .all us

/-- The same for a long-latency instruction: its flag field is legal and its flag takes one more charge (R67, R68). -/
structure Ctx.IssuesLong (c0 c : Ctx) (s : State) (core : CoreSet) (flag : FlagUse) (gd : GuardUse) (us : Ctx → List Use)
    (consumes : Bool := true) : Prop where
  base : c0.IssuesUnder c s core gd us consumes
  field : flag.ok c0.cl = true
  room : ∀ f, flag.flag c0.cl = some f → (c.now s).flagCount f < 64

/-- What issuing leaves before the instruction's own effect: its grants, operand caches and unit are taken (R151, R154), its
result is on its way (R157), POISONRD is set when it reads poison (R36), and the CLKHI shadow when it reads `%clk`
(R124). -/
def Ctx.begun (c0 c : Ctx) (s : State) (us : Ctx → List Use) : State := c.noteReads (c.presents s (us c0.whole)) (us c)

/-- The budgets and the checkpoint hold the effect that leaves state `x` (R37, R234). -/
def Ctx.Settles (c : Ctx) (x : State) : Prop := ∃ s2, c.settle x = .ok s2

/-- `t` is what stands after the effect that leaves `x`: registers the checkpoint must keep copied out, the slot counted,
the clause moved on. -/
def Ctx.Completes (c : Ctx) (x t : State) : Prop := ∃ s2, c.settle x = .ok s2 ∧ t = c.next (c.advance s2)

/-- The same for a control instruction, which ends its clause and has set its lanes' program counters. -/
def Ctx.Jumps (c : Ctx) (x t : State) : Prop := ∃ s2, c.settle x = .ok s2 ∧ t = c.next (c.endClause (c.slot s2))

/-- The instruction raises `cause` for the lanes given and has no effect of its own (R56, R77). -/
def TrapsTo (i : Instr) (c : Ctx) (s : State) (cause : Cause) (lanes : Mask) (num : Word) : Prop :=
  exec i s = .next ((c.takeTrap s cause lanes num).tick 1)

/-- The port holds: the instruction stays in its slot. -/
def HoldsAt (i : Instr) (c : Ctx) (s : State) : Prop := exec i s = .next (c.next s)

/-- The instruction consumes an uncorrectable error: its team is stopped, to be killed, and it has no effect of its own
(R222, R374). -/
def ConsumesAt (i : Instr) (c : Ctx) (s : State) : Prop :=
  exec i s = .next ((c.modTeam s (fun t => { t with uce := true })).tick 1)

/-- Where the effect that leaves `x` does not fit, it has not taken place: REGBUDGET or CKPTFULL is raised for ACTIVE, or the
port holds for the bandwidth of the copies (R37, R234, R323). -/
def Unfit (i : Instr) (c : Ctx) (s x : State) : Prop :=
  (∀ e, c.settle x = .error (some e) → TrapsTo i c s e c.active 0) ∧ (c.settle x = .error none → HoldsAt i c s)

/-- In `s` the instruction has the effect that leaves `x`, and completes, where that fits. -/
def RunsTo (i : Instr) (c : Ctx) (s x : State) : Prop :=
  (c.Settles x → ∃ t, c.Completes x t ∧ exec i s = .next t) ∧ Unfit i c s x

/-- The same for a control instruction. -/
def JumpsTo (i : Instr) (c : Ctx) (s x : State) : Prop :=
  (c.Settles x → ∃ t, c.Jumps x t ∧ exec i s = .next t) ∧ Unfit i c s x

/-- The same for an instruction with which the lanes of `m` leave the clause; a group that it leaves without a running thread
dissolves (R42). -/
def LeavesTo (i : Instr) (c : Ctx) (s x : State) (m : Mask) : Prop :=
  (c.Settles x → ∃ s2, c.settle x = .ok s2 ∧
    exec i s = .next (c.next (c.mod (Ctx.advance { c with cl := { c.cl with lanes := c.cl.lanes &&& ~~~m } } s2)
      (fun g => g.dissolve s.clk)))) ∧ Unfit i c s x

/-- The instruction's condition fails: its lanes keep their place in the clause and park (R242). -/
def ParksTo (i : Instr) (c : Ctx) (s x : State) (p : Park) : Prop :=
  (c.Settles x → ∃ s2, c.settle x = .ok s2 ∧
    exec i s = .next (c.next (c.mod s2 (fun g => (g.suspend c.cl (some p) s.clk).leavePort c.ag.isB s.clk)))) ∧ Unfit i c s x

/-- What an instruction with uses `us` leaves when it does `eff` to the group and nothing else. -/
def Ctx.did (c0 c : Ctx) (s : State) (us : Ctx → List Use) (eff : Group → Group) : State := c.mod (c0.begun c s us) eff

/-! ## Frames -/

/-- Nothing a memory holds differs: physical memory, host memory, the Kennel's SRAM, every team's scratchpad and
accumulators. -/
structure State.SameMemory (s t : State) : Prop where
  mem : ∀ a, Memory.read t.mem a = Memory.read s.mem a
  sram : ∀ a, Memory.read t.k.sram a = Memory.read s.k.sram a
  scratch : ∀ n, (t.team? n).map Team.scratch = (s.team? n).map Team.scratch
  acc : ∀ n, (t.team? n).map Team.acc = (s.team? n).map Team.acc

/-! ## Rules of the register instructions -/

/-- A register instruction as the spec writes it: the cores it is legal on, its guard, the registers it uses, the source
fields whose last uses end (R35), and what it leaves in the group once they have ended. -/
structure RegRule where
  core : CoreSet := .compute
  guard : GuardUse := .all
  uses : Ctx → State → List Use
  ends : List (Src × Nat)
  res : Ctx → State → Group → Group

def RegRule.eff (r : RegRule) (c : Ctx) (s : State) : Group → Group := fun g => r.res c s (g.endUses c.active r.ends)

/-- The instruction completes: wherever it issues with its operands clear and its results fit, it leaves the state the
rule gives. -/
def RegRule.completes (r : RegRule) (i : Instr) : Prop :=
  ∀ (c0 c : Ctx) (s : State), c0.IssuesUnder c s r.core r.guard (r.uses · s) →
    RunsTo i c s (c0.did c s (r.uses · s) (r.eff c s))

/-- A uniform result of 32 bits, and of 64. -/
def uRule (d : BitVec 9) (xs : List Src) (f : (Opnd → Word) → Word) : RegRule :=
  let ss := xs.map (fun x => (x, 1))
  { core := .both, uses := fun c _ => wrS c d 1 :: readsOf c ss, ends := ss,
    res := fun c s g => g.setS d.toNat (f (fun o => c.rd s o 0)) }

def uRule64 (d : BitVec 9) (xs : List Src) (f : (Opnd → DWord) → DWord) : RegRule :=
  let ss := xs.map (fun x => (x, 2))
  { core := .both, uses := fun c _ => wrS c d 2 :: readsOf c ss, ends := ss,
    res := fun c s g => g.setS64 d.toNat (f (fun o => c.rd64 s o 0)) }

/-- The value of a word as the type reads it, and the range of the type (R128). -/
def STy.lo : STy → Int
  | .i32 => -2147483648
  | .n32 => 0

def STy.hi : STy → Int
  | .i32 => 2147483647
  | .n32 => 4294967295

/-- Clamp to the range of the type (R128). -/
def STy.clamp (t : STy) (r : Int) : Word :=
  if r < STy.lo t then BitVec.ofInt 32 (STy.lo t) else if STy.hi t < r then BitVec.ofInt 32 (STy.hi t) else BitVec.ofInt 32 r

/-- Bits `pos` to `pos + len − 1` of a word (R132). -/
def fieldOf (w : Word) (pos len : Nat) : Word := (w >>> pos) &&& BitVec.ofNat 32 (2 ^ len - 1)

/-- The number of leading zeros: the largest `k` up to `n` whose top `k` bits are 0. -/
def leadingZeros (n x : Nat) : Nat := ((upTo (n + 1)).filter (fun k => x / 2 ^ (n - k) = 0)).getLastD 0

/-- Table 6-6 and R126 to R133: the uniform arithmetic, logic, shift, field and count instructions. -/
def uniRule : Instr → Option RegRule
  | .sMov w64 d a => some (if w64 then uRule64 d [a] (fun r => r a.op) else uRule d [a] (fun r => r a.op))
  | .sLi sx64 d imm => some (if sx64 then uRule64 d [] (fun _ => imm.signExtend 64) else uRule d [] (fun _ => imm))
  | .sAdd t sat d a b => some (uRule d [a, b] (fun r =>
      if sat then STy.clamp t (STy.ext t (r a.op) + STy.ext t (r b.op)) else r a.op + r b.op))
  | .sSub t sat d a b => some (uRule d [a, b] (fun r =>
      if sat then STy.clamp t (STy.ext t (r a.op) - STy.ext t (r b.op)) else r a.op - r b.op))
  | .sMul _ d a b => some (uRule d [a, b] (fun r => r a.op * r b.op))
  | .sMulhi t d a b => some (uRule d [a, b] (fun r =>
      BitVec.ofInt 32 ((STy.ext t (r a.op) * STy.ext t (r b.op)).fdiv (2 ^ 32))))
  | .sAnd _ d a b => some (uRule d [a, b] (fun r => r a.op &&& r b.op))
  | .sOr _ d a b => some (uRule d [a, b] (fun r => r a.op ||| r b.op))
  | .sXor _ d a b => some (uRule d [a, b] (fun r => r a.op ^^^ r b.op))
  | .sNot _ d a => some (uRule d [a] (fun r => ~~~(r a.op)))
  | .sShl _ d a b => some (uRule d [a, b] (fun r =>
      if (r b.op).toNat < 32 then r a.op <<< (r b.op).toNat else 0))
  | .sShr _ d a b => some (uRule d [a, b] (fun r => r a.op >>> (r b.op).toNat))
  | .sSra _ d a b => some (uRule d [a, b] (fun r => (r a.op).sshiftRight (r b.op).toNat))
  | .sMin t d a b => some (uRule d [a, b] (fun r =>
      if STy.ext t (r a.op) ≤ STy.ext t (r b.op) then r a.op else r b.op))
  | .sMax t d a b => some (uRule d [a, b] (fun r =>
      if STy.ext t (r b.op) ≤ STy.ext t (r a.op) then r a.op else r b.op))
  | .sAdd64 d a b => some (uRule64 d [a, b] (fun r => r a.op + r b.op))
  | .sSub64 d a b => some (uRule64 d [a, b] (fun r => r a.op - r b.op))
  | .sShl64 d a b => some (uRule64 d [a, b] (fun r =>
      if (r b.op).toNat < 64 then r a.op <<< (r b.op).toNat else 0))
  | .sBfe t d a pos len => some (uRule d [a] (fun r =>
      let f := fieldOf (r a.op) pos.toNat len.toNat
      match t with
      | .n32 => f
      | .i32 => (f <<< (32 - len.toNat)).sshiftRight (32 - len.toNat)))
  | .sBfi _ d a b pos len => some (uRule d [a, b] (fun r =>
      let m : Word := BitVec.ofNat 32 (2 ^ len.toNat - 1) <<< pos.toNat
      (r a.op &&& ~~~m) ||| ((r b.op <<< pos.toNat) &&& m)))
  | .sClz d a => some (uRule d [a] (fun r => BitVec.ofNat 32 (leadingZeros 32 (r a.op).toNat)))
  | .sPopc d a => some (uRule d [a] (fun r =>
      BitVec.ofNat 32 (((upTo 32).map (fun i => if (r a.op).getLsbD i then 1 else 0)).sum)))
  | _ => none

/-- A vector result of one register, and of an aligned pair, in each lane of ACTIVE. -/
def vRule (d : BitVec 8) (xs : List Src) (f : (Opnd → Word) → Word) : RegRule :=
  let ss := xs.map (fun x => (x, 1))
  { uses := fun c _ => wrV c d 1 :: readsOf c ss, ends := ss,
    res := fun c s g => g.setLanes c.active d.toNat (fun l => f (fun o => c.rd s o l)) }

def vRule64 (d : BitVec 8) (xs : List (Src × Nat)) (f : (Opnd → Word) → (Opnd → DWord) → DWord) : RegRule :=
  { uses := fun c _ => wrV c d 2 :: readsOf c xs, ends := xs,
    res := fun c s g => g.setLanes64 c.active d.toNat (fun l => f (fun o => c.rd s o l) (fun o => c.rd64 s o l)) }

/-- Each element of two words as patterns of `n` bits, modulo 2ⁿ (R89, R163). -/
def elemWrap (t : ITy) (f : Nat → Nat → Nat → Nat) (a b : Word) : Word :=
  packWord (ITy.bits t) (fun k => f (2 ^ ITy.bits t) (elemAt (ITy.bits t) k a) (elemAt (ITy.bits t) k b))

/-- Each element as an integer of the type, clamped to its range (R163). -/
def elemClamp (t : ITy) (f : Int → Int → Int → Int) (a b c : Word) : Word :=
  let n := ITy.bits t
  let rd (w : Word) (k : Nat) : Int := readInt (ITy.sgn t) n (elemAt n k w)
  let lo : Int := if ITy.sgn t then -(2 ^ (n - 1)) else 0
  let hi : Int := if ITy.sgn t then 2 ^ (n - 1) - 1 else 2 ^ n - 1
  packWord n (fun k =>
    let r := f (rd a k) (rd b k) (rd c k)
    ((if r < lo then lo else if hi < r then hi else r) % 2 ^ n).toNat)

/-- R160 to R171: the vector integer instructions that write one register or a pair in each lane of ACTIVE. -/
def vecRule : Instr → Option RegRule
  | .vLi sx64 d imm => some (if sx64 then vRule64 d [] (fun _ _ => imm.signExtend 64) else vRule d [] (fun _ => imm))
  | .vAdd t sat d a b => some (vRule d [a, b] (fun r =>
      if sat then elemClamp t (fun x y _ => x + y) (r a.op) (r b.op) 0
      else elemWrap t (fun _ x y => x + y) (r a.op) (r b.op)))
  | .vSub t sat d a b => some (vRule d [a, b] (fun r =>
      if sat then elemClamp t (fun x y _ => x - y) (r a.op) (r b.op) 0
      else elemWrap t (fun m x y => x + (m - y)) (r a.op) (r b.op)))
  | .vMul t d a b => some (vRule d [a, b] (fun r => elemWrap t (fun _ x y => x * y) (r a.op) (r b.op)))
  | .vMulhi t d a b => some (vRule d [a, b] (fun r =>
      elemOp t false (fun n x y _ => (x * y).fdiv (2 ^ n)) (r a.op) (r b.op) 0))
  | .vMad t sat d a b e => some (vRule d [a, b, e] (fun r =>
      if sat then elemClamp t (fun x y z => x * y + z) (r a.op) (r b.op) (r e.op)
      else elemOp t false (fun _ x y z => x * y + z) (r a.op) (r b.op) (r e.op)))
  | .vMadw t d a b e => some (vRule64 d [(a, 1), (b, 1), (e, 2)] (fun r q =>
      match t with
      | .n32 => (r a.op).setWidth 64 * (r b.op).setWidth 64 + q e.op
      | .i32 => (r a.op).signExtend 64 * (r b.op).signExtend 64 + q e.op))
  | .vAnd _ d a b => some (vRule d [a, b] (fun r => r a.op &&& r b.op))
  | .vOr _ d a b => some (vRule d [a, b] (fun r => r a.op ||| r b.op))
  | .vXor _ d a b => some (vRule d [a, b] (fun r => r a.op ^^^ r b.op))
  | .vNot _ d a => some (vRule d [a] (fun r => ~~~(r a.op)))
  | .vShl t d a b => some (vRule d [a, b] (fun r =>
      elemWrap t (fun m x y => if y < 32 then x * 2 ^ y % m else 0) (r a.op) (r b.op)))
  | .vShr t d a b => some (vRule d [a, b] (fun r => elemWrap t (fun _ x y => if y < 32 then x / 2 ^ y else 0) (r a.op) (r b.op)))
  | .vSra t d a b => some (vRule d [a, b] (fun r =>
      packWord (ITy.bits t) (fun k =>
        ((readInt true (ITy.bits t) (elemAt (ITy.bits t) k (r a.op))).fdiv
          (2 ^ min (elemAt (ITy.bits t) k (r b.op)) (ITy.bits t)) % 2 ^ ITy.bits t).toNat)))
  | .vMin t d a b => some (vRule d [a, b] (fun r => elemClamp t (fun x y _ => if x ≤ y then x else y) (r a.op) (r b.op) 0))
  | .vMax t d a b => some (vRule d [a, b] (fun r => elemClamp t (fun x y _ => if y ≤ x then x else y) (r a.op) (r b.op) 0))
  | .vAbs t sat d a => some (vRule d [a] (fun r =>
      if sat then elemClamp t (fun x _ _ => if x < 0 then -x else x) (r a.op) 0 0
      else elemOp t false (fun _ x _ _ => if x < 0 then -x else x) (r a.op) 0 0))
  | .vBfe t d a pos len => some (vRule d [a] (fun r =>
      let f := fieldOf (r a.op) pos.toNat len.toNat
      match t with
      | .n32 => f
      | .i32 => (f <<< (32 - len.toNat)).sshiftRight (32 - len.toNat)))
  | .vBfi _ d a b pos len => some (vRule d [a, b] (fun r =>
      let m : Word := BitVec.ofNat 32 (2 ^ len.toNat - 1) <<< pos.toNat
      (r a.op &&& ~~~m) ||| ((r b.op <<< pos.toNat) &&& m)))
  | .vPopc t d a => some (vRule d [a] (fun r =>
      packWord (ITy.bits t) (fun k => ((upTo (ITy.bits t)).filter (fun i => (elemAt (ITy.bits t) k (r a.op)).testBit i)).length)))
  | .vClz t d a => some (vRule d [a] (fun r =>
      packWord (ITy.bits t) (fun k => leadingZeros (ITy.bits t) (elemAt (ITy.bits t) k (r a.op)))))
  | .vDot4 sa sb sat d a b e => some (vRule d [a, b, e] (fun r =>
      let p (k : Nat) : Int := readInt sa 8 (elemAt 8 k (r a.op)) * readInt sb 8 (elemAt 8 k (r b.op))
      let t : Int := (r e.op).toInt + p 0 + p 1 + p 2 + p 3
      if sat then STy.clamp .i32 t else BitVec.ofInt 32 t))
  | .vReq out4 d a m q => some (vRule d [a, m, q] (fun r =>
      requant out4 (r a.op).toInt (r m.op).toInt (r q.op)))
  | _ => none

/-- The three uniform rules with a shape of their own: S.CMP (R130), S.SEL (R131, under a guard as a whole, R119) and
S.VGET (R135), which reads one lane of a vector register whether or not it is in ACTIVE. -/
def uniRule2 : Instr → Option RegRule
  | .sCmp cc t d a b => some
      { core := .both, uses := fun c _ => destUse c d :: readsOf c [(a, 1), (b, 1)], ends := [(a, 1), (b, 1)],
        res := fun c s g =>
          let x := Cond.holdsI cc (STy.ext t (c.rd s a.op 0)) (STy.ext t (c.rd s b.op 0))
          match d with
          | .p i => g.setPred i.toNat c.active (if x then BitVec.allOnes 64 else 0)
          | .s n => g.setS n.toNat (if x then 1 else 0)
          | _ => g }
  | .sSel gd w64 d a b x =>
      let n := if w64 then 2 else 1
      some
        { core := .both, guard := .whole gd, uses := fun c _ => wrS c d n :: readsOf c [(a, n), (b, n), (x, 1)],
          ends := [(a, n), (b, n), (x, 1)],
          res := fun c s g =>
            if w64 then g.setS64 d.toNat (if c.rd s x.op 0 = 0 then c.rd64 s b.op 0 else c.rd64 s a.op 0)
            else g.setS d.toNat (if c.rd s x.op 0 = 0 then c.rd s b.op 0 else c.rd s a.op 0) }
  | .sVget w64 d a i =>
      let n := if w64 then 2 else 1
      let lane (c : Ctx) (s : State) : Nat := (c.rd s i.op 0).toNat % c.g.width
      some
        { uses := fun c s => wrS c d n :: ⟨a.op, n, Mask.one (lane c s), false⟩ :: readsOf c [(i, 1)],
          ends := [(a, n), (i, 1)],
          res := fun c s g =>
            if w64 then g.setS64 d.toNat (c.rd64 s a.op (lane c s)) else g.setS d.toNat (c.rd s a.op (lane c s)) }
  | _ => none

/-- A lane's bit of a predicate source, or the 32-bit value of any other (R160, R162, R177). -/
def Ctx.bitOr (c : Ctx) (s : State) (o : Opnd) (l : Nat) : Word :=
  match o with
  | .p i => if (c.g.predMask i.toNat).getLsbD l then 1 else 0
  | _ => c.rd s o l

/-- V.MOV (R160), V.SEL (R162), V.CMP (R165), V.UNPK3 (R170). -/
def vecRule2 : Instr → Option RegRule
  | .vMov w64 d a =>
      let n := if w64 then 2 else 1
      some
        { uses := fun c _ => wrV c d n :: readsOf c [(a, n)], ends := [(a, n)],
          res := fun c s g =>
            if w64 then g.setLanes64 c.active d.toNat (fun l => c.rd64 s a.op l)
            else g.setLanes c.active d.toNat (fun l => c.bitOr s a.op l) }
  | .vSel gd w64 d a b x =>
      let n := if w64 then 2 else 1
      some
        { guard := .lanes gd, uses := fun c _ => wrV c d n :: readsOf c [(a, n), (b, n), (x, 1)],
          ends := [(a, n), (b, n), (x, 1)],
          res := fun c s g =>
            if w64 then g.setLanes64 c.active d.toNat (fun l =>
              if c.bitOr s x.op l = 0 then c.rd64 s b.op l else c.rd64 s a.op l)
            else g.setLanes c.active d.toNat (fun l =>
              if c.bitOr s x.op l = 0 then c.rd s b.op l else c.rd s a.op l) }
  | .vCmp cc t d a b =>
      let n := ITy.bits t
      let at_ (c : Ctx) (s : State) (l k : Nat) : Bool :=
        Cond.holdsI cc (readInt (ITy.sgn t) n (elemAt n k (c.rd s a.op l))) (readInt (ITy.sgn t) n (elemAt n k (c.rd s b.op l)))
      some
        { uses := fun c _ => destUse c d :: readsOf c [(a, 1), (b, 1)], ends := [(a, 1), (b, 1)],
          res := fun c s g =>
            match d with
            | .p i => g.setPred i.toNat c.active (maskOf c.active g.width (fun l => at_ c s l 0))
            | .v r => g.setLanes c.active r.toNat (fun l => packWord n (fun k => if at_ c s l k then 2 ^ n - 1 else 0))
            | _ => g }
  | .vUnpk3 byte pd d a =>
      let b (c : Ctx) (s : State) (l : Nat) : Nat := elemAt 8 byte.toNat (c.rd s a.op l)
      let trit (x i : Nat) : Nat := if x / 3 ^ i % 3 = 2 then 0xFF else x / 3 ^ i % 3
      let five (x : Nat) : DWord := BitVec.ofNat 64 (trit x 0 + 2 ^ 8 * trit x 1 + 2 ^ 16 * trit x 2 + 2 ^ 24 * trit x 3 + 2 ^ 32 * trit x 4)
      some
        { uses := fun c _ => wrV c d 2 :: destUse c (.p pd) :: readsOf c [(a, 1)], ends := [(a, 1)],
          res := fun c s g =>
            let bad := maskOf c.active c.g.width (fun l => 243 ≤ b c s l)
            let g1 := (g.setLanes64 c.active d.toNat (fun l => if 243 ≤ b c s l then 0 else five (b c s l))).setPred
              pd.toNat c.active bad
            if bad = 0 then g1 else g1.orTern bad }
  | _ => none

/-- The cross-lane instructions (R172 to R177): V.SHFL and V.BCAST read other lanes of the group; V.VOTE, V.RED and
V.SCAN combine the values of ACTIVE. -/
def laneRule : Instr → Option RegRule
  | .vShfl mode seg d a k off =>
      let src (c : Ctx) (s : State) (l : Nat) : Nat :=
        shflLane mode (segWidth seg c.g.width) ((c.rd s k.op l).toInt + off.toInt) l
      some
        { uses := fun c s => wrV c d 1 ::
            ⟨a.op, 1, Mask.ofLanes ((Mask.lanes c.active c.g.width).map (src c s)), false⟩ :: readsOf c [(k, 1)],
          ends := [(a, 1), (k, 1)],
          res := fun c s g => g.setLanes c.active d.toNat (fun l => c.rd s a.op (src c s l)) }
  | .vBcast w64 seg d a i =>
      let n := if w64 then 2 else 1
      let src (c : Ctx) (s : State) (l : Nat) : Nat :=
        let w := segWidth seg c.g.width
        l - l % w + (c.rd s i.op 0).toNat % w
      some
        { uses := fun c s => wrV c d n ::
            ⟨a.op, n, Mask.ofLanes ((Mask.lanes c.active c.g.width).map (src c s)), false⟩ :: readsOf c [(i, 1)],
          ends := [(a, n), (i, 1)],
          res := fun c s g =>
            if w64 then g.setLanes64 c.active d.toNat (fun l => c.rd64 s a.op (src c s l))
            else g.setLanes c.active d.toNat (fun l => c.rd s a.op (src c s l)) }
  | .vVote o d a =>
      let n := if o = .ballot then 2 else 1
      let ls (c : Ctx) : List Nat := Mask.lanes c.active c.g.width
      let yes (c : Ctx) (s : State) (l : Nat) : Bool := c.bitOr s a.op l ≠ 0
      let r (c : Ctx) (s : State) : DWord :=
        match o with
        | .all => if (ls c).all (yes c s) then 1 else 0
        | .any => if (ls c).any (yes c s) then 1 else 0
        | .uni => if (ls c).all (fun l => c.bitOr s a.op l = c.bitOr s a.op ((ls c).headD 0)) then 1 else 0
        | .ballot => Mask.ofLanes ((ls c).filter (yes c s))
        | .count => BitVec.ofNat 64 ((ls c).filter (yes c s)).length
      some
        { uses := fun c _ => ⟨d, n, c.active, true⟩ :: readsOf c [(a, 1)], ends := [(a, 1)],
          res := fun c s g =>
            match d with
            | .p i => g.setPred i.toNat c.active (if r c s = 0 then 0 else BitVec.allOnes 64)
            | .v x => if o = .ballot then g.setLanes64 c.active x.toNat (fun _ => r c s)
                      else g.setLanes c.active x.toNat (fun _ => (r c s).extractLsb' 0 32)
            | .s x => if o = .ballot then g.setS64 x.toNat (r c s) else g.setS x.toNat ((r c s).extractLsb' 0 32)
            | _ => g }
  | .vRed o d a => some
      { uses := fun c _ => destUse c d :: readsOf c [(a, 1)], ends := [(a, 1)],
        res := fun c s g =>
          let r := c.reduce s o a
          let g1 := g.sticky r.2
          match d with
          | .v n => g1.setLanes c.active n.toNat (fun _ => r.1)
          | .s n => g1.setS n.toNat r.1
          | _ => g1 }
  | .vScan excl o d a => some
      { uses := fun c _ => wrV c d 1 :: readsOf c [(a, 1)], ends := [(a, 1)],
        res := fun c s g =>
          let r := c.scan s excl o a
          (g.sticky r.2).setLanes c.active d.toNat (fun l => r.1.getD l 0) }
  | _ => none

/-- A float result in each lane of ACTIVE; the flags of all lanes travel with it and are ORed into FPFLAGS as it lands (R181,
R183). -/
def fRule (d : BitVec 8) (xs : List Src) (f : Ctx → State → Nat → Nat × FFlags) : RegRule :=
  let ss := xs.map (fun x => (x, 1))
  { uses := fun c _ => wrV c d 1 :: readsOf c ss, ends := ss,
    res := fun c s g =>
      let fl : FFlags := (Mask.lanes c.active g.width).foldl (fun (a : FFlags) l => a.or (f c s l).2) {}
      (g.sticky fl).setLanes c.active d.toNat (fun l => BitVec.ofNat 32 (f c s l).1) }

/-- Table 8-4 and R183 to R190: one rounding by the selected mode, with FTZ as FPCTL says, of one value per lane; of each
half for the packed instructions, which know no FTZ (R97). -/
def fltRule : Instr → Option RegRule
  | .vFadd ty r d a b => some (fRule d [a, b] (fun c s l => fAdd (FTy.fmt ty) (Rnd.mode r c.g.fpctl) c.g.ftz
      (c.rdF s (FTy.fmt ty) a.op 0 l) (c.rdF s (FTy.fmt ty) b.op 0 l)))
  | .vFsub ty r d a b => some (fRule d [a, b] (fun c s l => fSub (FTy.fmt ty) (Rnd.mode r c.g.fpctl) c.g.ftz
      (c.rdF s (FTy.fmt ty) a.op 0 l) (c.rdF s (FTy.fmt ty) b.op 0 l)))
  | .vFmul ty r d a b => some (fRule d [a, b] (fun c s l => fMul (FTy.fmt ty) (Rnd.mode r c.g.fpctl) c.g.ftz
      (c.rdF s (FTy.fmt ty) a.op 0 l) (c.rdF s (FTy.fmt ty) b.op 0 l)))
  | .vFfma ty r d a b e => some (fRule d [a, b, e] (fun c s l => fFma (FTy.fmt ty) (Rnd.mode r c.g.fpctl) c.g.ftz
      (c.rdF s (FTy.fmt ty) a.op 0 l) (c.rdF s (FTy.fmt ty) b.op 0 l) (c.rdF s (FTy.fmt ty) e.op 0 l)))
  | .vFmin ty d a b => some (fRule d [a, b] (fun c s l => fMinMax (FTy.fmt ty) false c.g.ftz
      (c.rdF s (FTy.fmt ty) a.op 0 l) (c.rdF s (FTy.fmt ty) b.op 0 l)))
  | .vFmax ty d a b => some (fRule d [a, b] (fun c s l => fMinMax (FTy.fmt ty) true c.g.ftz
      (c.rdF s (FTy.fmt ty) a.op 0 l) (c.rdF s (FTy.fmt ty) b.op 0 l)))
  | .vFclass ty d a => some (fRule d [a] (fun c s l => (2 ^ fClass (FTy.fmt ty) (c.rdF s (FTy.fmt ty) a.op 0 l), {})))
  | .vFrnd ty r d a => some (fRule d [a] (fun c s l => fRound (FTy.fmt ty) (Rnd.mode r c.g.fpctl) c.g.ftz
      (c.rdF s (FTy.fmt ty) a.op 0 l)))
  | .vFsqrt r d a => some (fRule d [a] (fun c s l => fSqrt (Rnd.mode r c.g.fpctl) c.g.ftz (c.rdF s fF32 a.op 0 l)))
  | .vFrcp d a => some (fRule d [a] (fun c s l => fRcp c.g.ftz (c.rdF s fF32 a.op 0 l)))
  | .vFrsq d a => some (fRule d [a] (fun c s l => fRsq c.g.ftz (c.rdF s fF32 a.op 0 l)))
  | .vFexp2 d a => some (fRule d [a] (fun c s l => fExp2 c.g.ftz (c.rdF s fF32 a.op 0 l)))
  | .vFlog2 d a => some (fRule d [a] (fun c s l => fLog2 c.g.ftz (c.rdF s fF32 a.op 0 l)))
  | .vFsin d a => some (fRule d [a] (fun c s l => fSin c.g.ftz (c.rdF s fF32 a.op 0 l)))
  | .vFcos d a => some (fRule d [a] (fun c s l => fCos c.g.ftz (c.rdF s fF32 a.op 0 l)))
  | .vHadd2 ty r d a b => some (fRule d [a, b] (fun c s l =>
      let h (k : Nat) := fAdd (FTy.fmt ty) (Rnd.mode r c.g.fpctl) false (c.rdF s (FTy.fmt ty) a.op k l)
        (c.rdF s (FTy.fmt ty) b.op k l)
      ((h 0).1 + 65536 * (h 1).1, (h 0).2.or (h 1).2)))
  | .vHmul2 ty r d a b => some (fRule d [a, b] (fun c s l =>
      let h (k : Nat) := fMul (FTy.fmt ty) (Rnd.mode r c.g.fpctl) false (c.rdF s (FTy.fmt ty) a.op k l)
        (c.rdF s (FTy.fmt ty) b.op k l)
      ((h 0).1 + 65536 * (h 1).1, (h 0).2.or (h 1).2)))
  | .vHfma2 ty r d a b e => some (fRule d [a, b, e] (fun c s l =>
      let h (k : Nat) := fFma (FTy.fmt ty) (Rnd.mode r c.g.fpctl) false (c.rdF s (FTy.fmt ty) a.op k l)
        (c.rdF s (FTy.fmt ty) b.op k l) (c.rdF s (FTy.fmt ty) e.op k l)
      ((h 0).1 + 65536 * (h 1).1, (h 0).2.or (h 1).2)))
  | .vFcmp cc ty d a b =>
      let r (c : Ctx) (s : State) (l : Nat) := fCmp (FTy.fmt ty) c.g.ftz cc (c.rdF s (FTy.fmt ty) a.op 0 l)
        (c.rdF s (FTy.fmt ty) b.op 0 l)
      some
        { uses := fun c _ => destUse c d :: readsOf c [(a, 1), (b, 1)], ends := [(a, 1), (b, 1)],
          res := fun c s g =>
            let fl : FFlags := (Mask.lanes c.active g.width).foldl (fun (a : FFlags) l => a.or (r c s l).2) {}
            let g1 := g.sticky fl
            match d with
            | .p i => g1.setPred i.toNat c.active (maskOf c.active g.width (fun l => (r c s l).1))
            | .v n => g1.setLanes c.active n.toNat (fun l => if (r c s l).1 then 0xFFFFFFFF#32 else 0)
            | _ => g1 }
  | _ => none

/-- A conversion of `e` elements a lane, from a span of elements of `sw` bits to one of `dw` bits (R171, R191): `f` is
element `k` of lane `l` with its flags. -/
def cRule (e sw dw : Nat) (d : BitVec 8) (a : Src) (ys : List (Src × Nat)) (f : Ctx → State → Nat → Nat → Nat × FFlags) :
    RegRule :=
  let xs := (a, spanRegs e sw) :: ys
  { uses := fun c _ => wrV c d (spanRegs e dw) :: readsOf c xs, ends := xs,
    res := fun c s g =>
      let fl : FFlags := (Mask.lanes c.active g.width).foldl (fun (z : FFlags) l =>
        z.or ((List.range e).foldl (fun (y : FFlags) k => y.or (f c s l k).2) {})) {}
      (List.range (spanRegs e dw)).foldl
        (fun g j => g.setLanes c.active (d.toNat + j) (fun l => packWord dw (fun p => (f c s l (j * (32 / dw) + p)).1)))
        (g.sticky fl) }

/-- V.CVT (R171), V.FCVT (R191, R192), V.FICVT (R193), and the MX instructions in lanes (R194 to R196). -/
def cvtRule : Instr → Option RegRule
  | .vCvt df sf d a => some (cRule (cvtElems df sf) (Fmt.width sf) (Fmt.width df) d a [] (fun c s l k =>
      let x := readInt (Fmt.signed sf) (Fmt.width sf) (c.spanElem s none a.op (Fmt.width sf) k l)
      let n := Fmt.width df
      let lo : Int := if Fmt.signed df then -(2 ^ (n - 1)) else 0
      let hi : Int := if Fmt.signed df then 2 ^ (n - 1) - 1 else 2 ^ n - 1
      (((if x < lo then lo else if hi < x then hi else x) % 2 ^ n).toNat, {})))
  | .vFcvt df sf r d a rb =>
      let e := cvtElems df sf
      some (cRule e (Fmt.width sf) (Fmt.width df) d a (match rb with | some x => [(x, e / 2)] | none => []) (fun c s l k =>
        let D := (Fmt.flt df).getD fF32
        let S := (Fmt.flt sf).getD fF32
        ftzOut c.g.ftz D (D.deliver (Rnd.mode r c.g.fpctl) (c.randBits s rb k l)
          (S.val (c.spanElem s (some S) a.op (Fmt.width sf) k l)))))
  | .vFicvt df sf r d a => some (cRule (cvtElems df sf) (Fmt.width sf) (Fmt.width df) d a [] (fun c s l k =>
      let code := c.spanElem s (Fmt.flt sf) a.op (Fmt.width sf) k l
      match Fmt.flt sf with
      | some S => toInteger (Fmt.signed df) (Fmt.width df) (Rnd.mode r c.g.fpctl) (S.val (ftzIn c.g.ftz S code))
      | none =>
        let x := readInt (Fmt.signed sf) (Fmt.width sf) code
        ((Fmt.flt df).getD fF32).round (Rnd.mode r c.g.fpctl) 0 (x < 0) x.natAbs 0))
  | .vMxscl mf d a => some (fRule d [a] (fun c s l =>
      let v (x : Nat) : FVal := fF32.val (c.rd s a.op x).toNat
      ((scaleOf (MxFmt.fmt mf) ((c.blockLanes l).map v)).code, { inv := (v l).isSig })))
  | .vMxpack mf r d a sc rb =>
      let w := if mf = .e2m1 then 4 else 8
      let dst (c : Ctx) : Mask := maskOf c.active c.g.width (fun l => l % 32 < w)
      let xs : List (Src × Nat) := (a, 1) :: (sc, 1) :: (match rb with | some x => [(x, 1)] | none => [])
      let code (c : Ctx) (s : State) (l : Nat) := c.mxCode s mf (Rnd.mode r c.g.fpctl) a sc rb l
      some
        { uses := fun c _ => { wrV c d 1 with lanes := dst c } :: readsOf c xs, ends := xs,
          res := fun c s g =>
            let fl : FFlags := (Mask.lanes c.active g.width).foldl (fun (z : FFlags) l => z.or (code c s l).2) {}
            (g.sticky fl).setLanes (dst c) d.toNat (fun l =>
              packWord w (fun m =>
                let x := l / 32 * 32 + 32 / w * (l % 32) + m
                if c.active.getLsbD x then (code c s x).1 else 0)) }
  | _ => none

/-- The rules of the uniform and vector instructions that work on registers alone. -/
def regRule (i : Instr) : Option RegRule :=
  (uniRule i).or ((uniRule2 i).or ((vecRule i).or ((vecRule2 i).or ((laneRule i).or ((fltRule i).or (cvtRule i))))))

/-! ## Their frame -/

/-- The names of a use. -/
def Use.vNames (u : Use) : List Nat :=
  match u.op with
  | .v r => (List.range u.n).map (fun k => r.toNat + k)
  | _ => []

def Use.sNames (u : Use) : List Nat :=
  match u.op with
  | .s r => (List.range u.n).map (fun k => r.toNat + k)
  | _ => []

/-- The uses that change a register: destinations, and sources whose last use this is (R35). -/
def RegRule.changed (r : RegRule) (c : Ctx) (s : State) : List Use :=
  (r.uses c s).filter (·.wr) ++ (r.ends.filter (fun x => x.1.lu)).map (fun x => ⟨x.1.op, x.2, c.active, true⟩)

/-- The predicates an instruction writes. -/
def predDst : Instr → List Nat
  | .sCmp _ _ (.p i) _ _ => [i.toNat]
  | .vCmp _ _ (.p i) _ _ => [i.toNat]
  | .vFcmp _ _ (.p i) _ _ => [i.toNat]
  | .vVote _ (.p i) _ => [i.toNat]
  | .vUnpk3 _ i _ _ => [i.toNat]
  | _ => []

/-- What a register instruction in slot `c` leaves, as `h`, of its group as it stood, `g`: every register lane but those of its
destinations and last uses in ACTIVE, every predicate bit but its destination's in ACTIVE, the status registers but the sticky
ones its rule names (FPFLAGS with what is on its way to it), the operations in flight, and every lane's thread. -/
structure RegFrame (i : Instr) (c : Ctx) (names : List Use) (g h : Group) : Prop where
  vregs : ∀ l n, (n ∉ names.flatMap Use.vNames ∨ c.active.getLsbD l = false) → h.vReg l n = g.vReg l n
  sregs : ∀ n, n ∉ names.flatMap Use.sNames → AMap.get? h.sregs n = AMap.get? g.sregs n
  preds : ∀ p l, (p ∉ predDst i ∨ c.active.getLsbD l = false) → (h.predMask p).getLsbD l = (g.predMask p).getLsbD l
  tiles : h.tiles = g.tiles
  limbs : h.limbs = g.limbs ∧ h.lcarry = g.lcarry ∧ h.idle = g.idle
  control : h.fpctl = g.fpctl ∧ h.svmask = g.svmask ∧ h.marks = g.marks
  sticky : g.drained.fpflags &&& ~~~h.drained.fpflags = 0 ∧ g.ternbad &&& ~~~h.ternbad = 0 ∧ g.gstat &&& ~~~h.gstat = 0
  flags : laneRule i = none → fltRule i = none → cvtRule i = none → h.drained.fpflags = g.drained.fpflags
  trits : (∀ b p d a, i ≠ .vUnpk3 b p d a) → h.ternbad = g.ternbad
  gstat : h.gstat &&& ~~~3#32 = g.gstat &&& ~~~3#32
  ops : h.ops = g.ops
  threads : ∀ l, (h.lane l).thread = (g.lane l).thread ∧ (h.lane l).tid = (g.lane l).tid

/-! ## Rules of the accesses to global memory -/

/-- An instruction that accesses global memory, as the spec writes it: core, flag, guard, uses; the access of one lane;
the operand values it keeps; its source fields; the registers its results land in; whether it acquires or releases. -/
structure GRule where
  core : CoreSet := .compute
  flag : FlagUse
  guard : GuardUse := .all
  uses : Ctx → List Use
  acc : Ctx → GAcc
  vals : Ctx → State → OpVals
  ends : List (Src × Nat)
  dV : List Nat := []
  dS : List Nat := []
  acq : Bool := false
  rel : Bool := false
  ok : Ctx → State → Prop := fun _ _ => True

/-- Every block of `k` lanes is wholly in ACTIVE or wholly outside, and the addresses of its first lanes are multiples of
`al` (R260). -/
def Ctx.blocksOk (c : Ctx) (k al : Nat) (v : OpVals) : Prop :=
  (∀ l, l < c.g.width / k * k → c.active.getLsbD l = c.active.getLsbD (l / k * k)) ∧
  ∀ l, l < c.g.width → c.active.getLsbD l = true → l % k = 0 → v.va l % al = 0

/-- LD, ST, LDU, STU (R213), ATOM, ATOMU (R239), MXLD (R265), MXACC (R259). -/
def globRule : Instr → Option GRule
  | .ld fs sz d m pol => some
      { flag := .must fs, uses := fun c => wrV c d (MSize.regs sz) :: readsOf c (MAddr.srcs m 2) ++ polUse c pol,
        acc := fun c => loadAcc false sz d.toNat (c.policy pol),
        vals := fun c s => c.vals s m (Mask.lanes c.active c.g.width) none, ends := MAddr.srcs m 2,
        dV := namesOf d.toNat (MSize.regs sz) }
  | .st gd fs sz x m pol => some
      { flag := .may fs, guard := .lanes gd,
        uses := fun c => readsOf c ((x, MSize.regs sz) :: MAddr.srcs m 2) ++ polUse c pol,
        acc := fun _ => storeAcc false sz,
        vals := fun c s => c.vals s m (Mask.lanes c.active c.g.width) (some (x, MSize.regs sz)),
        ends := (x, MSize.regs sz) :: MAddr.srcs m 2 }
  | .ldu fs sz d m pol => some
      { core := .both, flag := .must fs,
        uses := fun c => wrS c d (MSize.regs sz) :: readsOf c (MAddr.srcs m 2) ++ polUse c pol,
        acc := fun c => loadAcc true sz d.toNat (c.policy pol), vals := fun c s => c.vals s m [0] none,
        ends := MAddr.srcs m 2, dS := namesOf d.toNat (MSize.regs sz) }
  | .stu gd fs sz x m pol => some
      { core := .both, flag := .may fs, guard := .whole gd,
        uses := fun c => readsOf c ((x, MSize.regs sz) :: MAddr.srcs m 2) ++ polUse c pol,
        acc := fun _ => storeAcc true sz, vals := fun c s => c.vals s m [0] (some (x, MSize.regs sz)),
        ends := (x, MSize.regs sz) :: MAddr.srcs m 2 }
  | .atom gd fs op _ o ret x m => some
      { flag := atomFlag fs ret, guard := .lanes gd, uses := fun c => atomUses c op ret x m 2,
        acc := fun _ => atomAcc false op (if ret then some (Opnd.reg x.op) else none),
        vals := fun c s => c.vals s m (Mask.lanes c.active c.g.width) (some (x, AtomOp.regs op)),
        ends := (x, AtomOp.regs op) :: MAddr.srcs m 2,
        dV := if ret then namesOf (Opnd.reg x.op) (AtomOp.bytes op / 4) else [],
        acq := o = .acq || o = .ar, rel := o = .rel || o = .ar }
  | .atomu gd fs op _ o ret x m => some
      { flag := atomFlag fs ret, guard := .whole gd, uses := fun c => atomUses c op ret x m 2,
        acc := fun _ => atomAcc true op (if ret then some (Opnd.reg x.op) else none),
        vals := fun c s => c.vals s m [0] (some (x, AtomOp.regs op)), ends := (x, AtomOp.regs op) :: MAddr.srcs m 2,
        dS := if ret then namesOf (Opnd.reg x.op) (AtomOp.bytes op / 4) else [],
        acq := o = .acq || o = .ar, rel := o = .rel || o = .ar }
  | .mxld fs tf d m =>
      let k := MxFmt.lanes tf
      some
        { flag := .must fs,
          uses := fun c => [⟨.v d, 2, c.active, true⟩, ⟨m.base.op, 2, c.active, false⟩,
            ⟨m.offs.op, 1, Mask.ofLanes ((Mask.lanes c.active c.g.width).filter (fun l => l % k = 0)), false⟩],
          acc := fun _ => mxldAcc tf d.toNat, vals := fun c s => c.vals s m (Mask.lanes c.active c.g.width) none,
          ends := MAddr.srcs m 2, dV := [d.toNat, d.toNat + 1],
          ok := fun c s => c.blocksOk k (MxFmt.granule tf) (c.vals s m (Mask.lanes c.active c.g.width) none) }
  | .mxacc gd fs tf sf x m slu sreg =>
      let k := MxFmt.lanes sf
      let leads (c : Ctx) : Mask := Mask.ofLanes ((Mask.lanes c.active c.g.width).filter (fun l => l % k = 0))
      let vals (c : Ctx) (s : State) : OpVals :=
        { c.vals s m (Mask.lanes c.active c.g.width) none with
          data := (Mask.lanes c.active c.g.width).map (fun l => (l, [c.rd s x.op l, c.g.vVal l sreg.toNat])) }
      some
        { flag := .may fs, guard := .lanes gd,
          uses := fun c => [⟨x.op, 1, c.active, false⟩, ⟨m.base.op, 2, c.active, false⟩, ⟨m.offs.op, 1, leads c, false⟩,
            ⟨.v sreg, 1, leads c, false⟩],
          acc := fun _ => mxaccAcc tf sf, vals := vals,
          ends := (x, 1) :: (⟨.v sreg, slu, false⟩, 1) :: MAddr.srcs m 2,
          ok := fun c s => c.blocksOk k (MxFmt.granule tf) (vals c s) }
  | _ => none

/-- What the lanes of an access come to, in ascending order, from state `s`. -/
def GRule.run (r : GRule) (c : Ctx) (s : State) (t : Nat) : RunOut :=
  (r.acc c).runLanes t (r.vals c s) ((r.acc c).lanes c.active c.g.width) (c.noLanes s)

/-- The operation an access leaves in flight (R67, R69): it carries the results that will land, the lanes that have faulted,
with the fault records that are written once the fault is found (R59, R218), and the operand values. -/
def GRule.op (r : GRule) (c : Ctx) (s : State) (o : RunOut) : Op :=
  { c.op r.flag (if o.mx.isEmpty then .land o.lands else .mx o.mx) with
    dstV := r.dV, dstS := r.dS, acq := r.acq, vals := r.vals c s,
    faulted := (r.acc c).faultMask c.active o.faults, recs := (r.acc c).faultPages c.active o.faults.length o.faults,
    code := (r.acc c).code, spots := (o.faults.map (fun f => (f.1, (r.acc c).addr (r.vals c s) f.1, (r.acc c).len))).eraseDups,
    covered := if o.faults.isEmpty then [] else o.cov }

/-- The state an access leaves: its lanes performed, its sources ended, its operation in flight, and what port B has stored
noted, so that port A's stores of the turn come before it (R199). -/
def GRule.after (r : GRule) (c : Ctx) (s : State) (t : Nat) : State :=
  let o := r.run c s t
  c.mod o.s (fun g => ((g.endUses c.active r.ends).addWork (r.op c s o)).notesLater c.ag.isB (c.g.lastIssue.getD 0)
    (coverBytes o.cov))

/-- The access waits neither for order (R224, R225) nor for the operand log (R59), no lane of it would pass an earlier access
of the lane that has faulted (R225), and it reads no poisoned line (R222). -/
structure GRule.Free (r : GRule) (c : Ctx) (s : State) (t : Nat) : Prop where
  order : (r.acc c).waits s t (c.now s) (r.vals c s) ((r.acc c).lanes c.active c.g.width) r.rel = false
  lane : (r.acc c).overtakes (c.now s) (r.vals c s) ((r.acc c).lanes c.active c.g.width) (r.run c s t) = false
  sound : (r.run c s t).uce = false
  ok : r.ok c s

/-! ## Control -/

/-- A branch as the spec writes it (R136 to R140): guard, uses, sources whose last use ends, the operand that must be
uniform on the Kennel core, the link it writes, and where lane `l` goes: none, to the word after the clause. -/
structure BranchRule where
  guard : Guard
  uses : Ctx → List Use := fun _ => []
  ends : List (Src × Nat) := []
  opnd : Option Opnd := none
  link : Ctx → Group → Group := fun _ g => g
  target : Ctx → State → Nat → Option DWord

/-- Eight bytes for each step of a signed offset from the clause's header (R137). -/
def Ctx.at (c : Ctx) (off : Word) : DWord := c.cl.here + BitVec.ofInt 64 (8 * off.toInt)

def branchRule : Instr → Option BranchRule
  | .br gd none off => some { guard := gd, target := fun c _ _ => some (c.at off) }
  | .br gd (some (z, x)) off => some
      { guard := gd, uses := fun c => readsOf c [(x, 1)], ends := [(x, 1)], opnd := some x.op,
        target := fun c s l => if (z = true ↔ c.rd s x.op l = 0) then some (c.at off) else none }
  | .brx gd a => some
      { guard := gd, uses := fun c => readsOf c [(a, 2)], ends := [(a, 2)], opnd := some a.op,
        target := fun c s l => some (c.rd64 s a.op l) }
  | .ret gd a => some
      { guard := gd, uses := fun c => readsOf c [(a, 2)], ends := [(a, 2)], opnd := some a.op,
        target := fun c s l => some (c.rd64 s a.op l) }
  | .call gd link off => some
      { guard := gd, uses := fun c => [⟨link, 2, c.active, true⟩], opnd := some link,
        link := fun c g =>
          match link with
          | .v n => g.setLanes64 c.active n.toNat (fun _ => c.cl.succ)
          | .s n => g.setS64 n.toNat c.cl.succ
          | _ => g,
        target := fun c _ _ => some (c.at off) }
  | _ => none

/-- Where lane `l` of the clause stands after the branch. -/
def BranchRule.pc (b : BranchRule) (c : Ctx) (s : State) (l : Nat) : DWord :=
  if c.active.getLsbD l then (b.target c s l).getD c.cl.succ else c.cl.succ

/-- What the branch leaves: the link, the last uses, the moved lanes of its clause, and, where a lane of ACTIVE has a target,
a mark that puts off the group's next turn (R148). -/
def BranchRule.after (b : BranchRule) (c0 c : Ctx) (s : State) : State :=
  c.mod (c0.begun c s b.uses) (fun g => c.setPcs (b.pc c s) (c.swerve (b.target c s) (b.link c (g.endUses c.active b.ends))))

/-- All limb lanes that are not switched off go to one place (R283); vacuous in a group that is not bound. -/
def BranchRule.together (b : BranchRule) (c : Ctx) (s : State) : Prop :=
  ∀ l m, l < 64 → m < 64 → l < c.g.limbs → m < c.g.limbs → l < c.g.width → m < c.g.width →
    c.g.svmask.getLsbD l = false → c.g.svmask.getLsbD m = false → b.pc c s l = b.pc c s m

/-- The lanes of ACTIVE whose target is no clause header within the code extent (R136). -/
def BranchRule.bad (b : BranchRule) (c : Ctx) (s : State) (l : Nat) : Prop :=
  l < c.g.width ∧ c.active.getLsbD l = true ∧ ∃ a, b.target c s l = some a ∧ s.target (s.fetcher c.ag) a = false

/-! ## Long integers -/

/-- A long-integer instruction as Table 12-3 writes it: destination, sources in the limb lanes, whether the destination is
read too, and its exact result with the carry and the overflow. -/
structure LongRule where
  d : BitVec 8
  ends : List (Src × Nat)
  readsD : Bool := false
  val : Ctx → State → Int × Bool × Bool

/-- Table 12-3: X and Y are the long operands, CI the carry taken in. -/
def longRule : Instr → Option LongRule
  | .ladd cin d x y => some ⟨d, [(x, 2), (y, 2)], false, fun c s =>
      let ci := if cin then c.g.lcarry.toNat % 2 else 0
      let r := c.longOp s x.op + c.longOp s y.op + ci
      (r, 2 ^ (64 * c.g.limbs) ≤ r, 2 ^ (64 * c.g.limbs) ≤ r)⟩
  | .lsub cin d x y => some ⟨d, [(x, 2), (y, 2)], false, fun c s =>
      let ci := if cin then c.g.lcarry.toNat % 2 else 0
      let r : Int := (c.longOp s x.op : Int) - c.longOp s y.op - ci
      (r, r < 0, r < 0)⟩
  | .lneg d x => some ⟨d, [(x, 2)], false, fun c s => (-(c.longOp s x.op : Int), c.longOp s x.op ≠ 0, false)⟩
  | .lshl d x a => some ⟨d, [(x, 2), (a, 1)], false, fun c s =>
      let r := c.longOp s x.op * 2 ^ (c.rd s a.op 0).toNat
      (r, r / 2 ^ (64 * c.g.limbs) % 2 = 1, 2 ^ (64 * c.g.limbs) ≤ r)⟩
  | .lshr arith d x a => some ⟨d, [(x, 2), (a, 1)], false, fun c s =>
      let v : Int := if arith then signedLong c.g.limbs (c.longOp s x.op) else c.longOp s x.op
      let n := (c.rd s a.op 0).toNat
      (v.fdiv (2 ^ n), n ≠ 0 ∧ v.fdiv (2 ^ (n - 1)) % 2 = 1, false)⟩
  | .lmulw d x a j => some ⟨d, [(x, 2), (a, 2)], true, fun c s =>
      let r := c.g.long d.toNat + c.longOp s x.op * (c.rd64 s a.op 0).toNat * 2 ^ (64 * j.toNat)
      (r, 2 ^ (64 * c.g.limbs) ≤ r, 2 ^ (64 * c.g.limbs) ≤ r)⟩
  | _ => none

/-- Uses, in the limb lanes (R278, R279). -/
def LongRule.uses (r : LongRule) (c : Ctx) : List Use :=
  ⟨.v r.d, 2, Mask.below c.g.limbs, true⟩ :: r.ends.map (fun x => ⟨x.1.op, x.2, Mask.below c.g.limbs, false⟩) ++
    (if r.readsD then [⟨.v r.d, 2, Mask.below c.g.limbs, false⟩] else [])

/-- R279: limb `i` receives bits 64i + 63 to 64i of the result, C is replaced, OV is sticky. -/
def LongRule.eff (r : LongRule) (c : Ctx) (s : State) (g : Group) : Group :=
  let v := r.val c s
  { (g.endUses (Mask.below g.limbs) r.ends).setLanes64 (Mask.below g.limbs) r.d.toNat
      (fun i => BitVec.ofInt 64 (v.1.fdiv (2 ^ (64 * i)))) with
    lcarry := BitVec.ofNat 32 ((if v.2.1 then 1 else 0) + (if g.lcarry.getLsbD 1 || v.2.2 then 2 else 0)) }

/-! ## Scratchpads -/

/-- An instruction that accesses a scratchpad lane by lane (R202, R203): whose, where, how many bytes; whether it stores,
is a release, reads; what the lanes that violate nothing do, in ascending order; the registers its results land in. -/
structure SpadRule where
  flag : FlagUse
  guard : GuardUse := .all
  uses : Ctx → List Use
  ends : List (Src × Nat)
  own : Ctx → State → Option Nat
  remote : Bool := false
  len : Nat
  addr : Ctx → State → Nat → Int
  store : Bool := false
  rel : Bool := false
  reads : Bool := true
  eff : Ctx → State → Nat → Nat → List Nat → List Land × State
  names : List Nat := []

/-- The bytes lane `l` reads from the scratchpad of team `u`, as register words. -/
def Ctx.spadWords (c : Ctx) (s : State) (sz : MSize) (m : MAddr) (u l : Nat) : List Word :=
  MSize.load sz (Memory.readN (((s.team? u).map Team.scratch).getD []) (c.offset s m l).toNat (MSize.bytes sz))

def spadLoadRule (fs : Bool) (sz : MSize) (d : BitVec 8) (m : MAddr) : SpadRule :=
  { flag := .must fs, uses := fun c => wrV c d (MSize.regs sz) :: readsOf c (MAddr.srcs m 1), ends := MAddr.srcs m 1,
    own := fun c _ => c.ag.team, len := MSize.bytes sz, addr := fun c s l => c.offset s m l,
    eff := fun c s _ u good => (good.flatMap (fun l => landWords (some l) d.toNat (c.spadWords s sz m u l)), s),
    names := namesOf d.toNat (MSize.regs sz) }

def spadStoreRule (gd : Guard) (fs : Bool) (sz : MSize) (x : Src) (m : MAddr) : SpadRule :=
  { flag := .may fs, guard := .lanes gd, uses := fun c => readsOf c ((x, MSize.regs sz) :: MAddr.srcs m 1),
    ends := (x, MSize.regs sz) :: MAddr.srcs m 1, own := fun c _ => c.ag.team, len := MSize.bytes sz,
    addr := fun c s l => c.offset s m l, store := true, reads := false,
    eff := fun c s t u good => ([], c.spadLanes s t u (MSize.bytes sz) (fun l => (c.offset s m l).toNat)
      (fun l => wordBytes (MSize.bytes sz) (c.span s x.op (MSize.regs sz) l)) good) }

/-- LDS, STS, LDR, STR (R213), ATOMS (R239). -/
def spadRule : Instr → Option SpadRule
  | .lds fs sz d m => some (spadLoadRule fs sz d m)
  | .ldr fs sz pk d m => some
      { spadLoadRule fs sz d m with own := fun c s => c.ag.team.bind (fun t => s.member t pk.toNat), remote := true }
  | .sts gd fs sz x m => some (spadStoreRule gd fs sz x m)
  | .str gd fs sz pk x m => some
      { spadStoreRule gd fs sz x m with own := fun c s => c.ag.team.bind (fun t => s.member t pk.toNat), remote := true }
  | .atoms gd fs op _ o ret pk x m =>
      let n := AtomOp.bytes op
      let at_ (c : Ctx) (s : State) (l : Nat) : Int := c.offset s m l / n * n
      some
        { flag := atomFlag fs ret, guard := .lanes gd, uses := fun c => atomUses c op ret x m 1,
          ends := (x, AtomOp.regs op) :: MAddr.srcs m 1,
          own := fun c s =>
            match pk with
            | none => c.ag.team
            | some k => c.ag.team.bind (fun t => s.member t k.toNat),
          remote := pk.isSome, len := n, addr := at_, store := true, rel := o = .rel || o = .ar,
          eff := fun c s t u good => c.spadAtomics s t u op x (fun l => (at_ c s l).toNat)
            (if ret then some (Opnd.reg x.op) else none) good [] s,
          names := if ret then namesOf (Opnd.reg x.op) (n / 4) else [] }
  | _ => none

/-- The lanes of ACTIVE that violate the scratchpad (R203): all of them where there is no such team. -/
def SpadRule.viol (r : SpadRule) (c : Ctx) (s : State) : Mask :=
  Mask.ofLanes ((Mask.lanes c.active c.g.width).filter (fun l =>
    match (r.own c s).bind s.team? with
    | some tm => !(0 ≤ r.addr c s l && r.addr c s l + r.len ≤ s.spadSize tm)
    | none => true))

def SpadRule.good (r : SpadRule) (c : Ctx) (s : State) : List Nat :=
  Mask.lanes (c.active &&& ~~~r.viol c s) c.g.width

/-- What the good lanes do. -/
def SpadRule.run (r : SpadRule) (c : Ctx) (s : State) : List Land × State :=
  match c.ag.team, r.own c s with
  | some t, some u => r.eff c s t u (r.good c s)
  | _, _ => ([], s)

/-- What the access leaves: sources ended, the operation in flight, violating lanes switched off (R203). -/
def SpadRule.after (r : SpadRule) (c : Ctx) (s : State) : State :=
  c.mod (r.run c s).2 (fun g =>
    ((g.endUses c.active r.ends).addWork
      { c.op r.flag (.land (r.run c s).1) with
        dstV := if (r.good c s).isEmpty then [] else r.names, lanes := c.active &&& ~~~r.viol c s }).switchOff
      (r.viol c s) c.cl.succ)

/-- It need not wait for order, for a member being moved, nor read an uncorrectable error. -/
structure SpadRule.Free (r : SpadRule) (c : Ctx) (s : State) : Prop where
  order : (c.now s).mustWait r.store r.rel = false
  still : r.remote = true → s.moving (r.own c s) = false
  sound : r.reads = true → ∀ l ∈ r.good c s, ∀ tm, (r.own c s).bind s.team? = some tm →
    tm.spadBad (r.addr c s l).toNat r.len = false

/-! ## Synchronisation objects -/

/-- What an instruction leaves that adds one operation to those in flight. -/
def Ctx.flies (c : Ctx) (s : State) (f : FlagUse) (xs : List (Src × Nat)) (lands : List Land) (dV dS : List Nat) : State :=
  c.mod s (fun g => (g.endUses c.active xs).addWork { c.op f (.land lands) with dstV := dV, dstS := dS })

/-- An instruction on an object in the scratchpad (R243): its alignment, the bytes it reads, whether it writes or is a
release, the condition it waits for and, that met, what it does and what lands. -/
structure ObjRule where
  flag : FlagUse
  uses : Ctx → List Use
  ends : List (Src × Nat)
  m : MAddr
  al : Nat
  rd : Nat × Nat
  store : Bool
  rel : Bool
  ready : Ctx → State → Team → Nat → Bool := fun _ _ _ _ => true
  eff : Ctx → State → Nat → Team → Nat → State := fun _ s _ _ _ => s
  lands : Ctx → State → Team → Nat → List Land := fun _ _ _ _ => []
  dS : List Nat := []

def objUses (m : MAddr) (xs : List (Src × Nat)) (c : Ctx) : List Use := readsOf c (xs ++ MAddr.srcs m 1)

/-- BAR.INIT to BAR.AW (R245 to R247), TKT.TAKE, TKT.WAIT and TKT.PASS in the scratchpad (R248), WAITA there (R249). -/
def objRule : Instr → Option ObjRule
  | .barInit fs m n => some
      { flag := .may fs, uses := objUses m [(n, 1)], ends := (n, 1) :: MAddr.srcs m 1, m := m, al := 32, rd := (0, 0),
        store := true, rel := false,
        eff := fun c s t _ o =>
          (s.putBarrier t o ⟨0, 0, (c.rd s n.op 0).toNat % 256, 0⟩).modTeam t (·.wakeObj o) }
  | .barArr fs m drop => some
      { flag := .may fs, uses := objUses m [], ends := MAddr.srcs m 1, m := m, al := 32, rd := (0, 20),
        store := true, rel := true, eff := fun c s t tm o => c.arriveAt s t tm o drop }
  | .barWait fs m => some
      { flag := .may fs, uses := objUses m [], ends := MAddr.srcs m 1, m := m, al := 32, rd := (8, 12),
        store := false, rel := false,
        ready := fun c _ tm o => !(Barrier.read tm.scratch o).arr.testBit c.g.grp }
  | .barAw fs m drop =>
      let now (tm : Team) (o : Nat) : Word := BitVec.ofNat 32 (Memory.readLE tm.scratch o 4)
      some
        { flag := .may fs, uses := objUses m [], ends := MAddr.srcs m 1, m := m, al := 32, rd := (0, 20),
          store := true, rel := true,
          ready := fun c s tm o =>
            let b := Barrier.read tm.scratch o
            let marks := (c.now s).marks
            if (c.marksOn s o).isEmpty then
              (marks.length < 4 || marks.any (fun k => k.off = o && k.phase = now tm o)) &&
              !b.arr.testBit c.g.grp && b.expected tm.groups.length ≤ b.count + 1
            else (c.marksOn s o).all (fun k => k.phase ≠ now tm o),
          eff := fun c s t tm o =>
            if (c.marksOn s o).isEmpty then c.arriveAt s t tm o drop else c.mod s (c.clearMarks o) }
  | .tktTake fs false d m => some
      { flag := .must fs, uses := fun c => wrS c d 1 :: objUses m [] c, ends := MAddr.srcs m 1, m := m, al := 16,
        rd := (0, 8), store := true, rel := false,
        eff := fun _ s t tm o => s.spadStore t o (leBytes 4 (Memory.readLE tm.scratch o 4 + 1)),
        lands := fun _ _ tm o => [⟨none, d.toNat, BitVec.ofNat 32 (Memory.readLE tm.scratch o 4), false⟩],
        dS := [d.toNat] }
  | .tktWait fs false _ m x => some
      { flag := .may fs, uses := objUses m [(x, 1)], ends := (x, 1) :: MAddr.srcs m 1, m := m, al := 16, rd := (0, 8),
        store := false, rel := false,
        ready := fun c s tm o => Memory.readLE tm.scratch (o + 4) 4 = (c.rd s x.op 0).toNat }
  | .tktPass fs false _ m => some
      { flag := .may fs, uses := objUses m [], ends := MAddr.srcs m 1, m := m, al := 16, rd := (0, 8),
        store := true, rel := true,
        eff := fun _ s t tm o => s.spadStore t (o + 4) (leBytes 4 (Memory.readLE tm.scratch (o + 4) 4 + 1)) }
  | .waita fs false _ cc m x => some
      { flag := .may fs, uses := objUses m [(x, 1)], ends := (x, 1) :: MAddr.srcs m 1, m := m, al := 4, rd := (0, 4),
        store := false, rel := false,
        ready := fun c s tm o => WaitCc.holds cc (Memory.readLE tm.scratch o 4) (c.rd s x.op 0).toNat }
  | _ => none

/-- The offset of the object: the address rounded down to its alignment (R243). -/
def ObjRule.off (r : ObjRule) (c : Ctx) (s : State) : Nat := (c.offset s r.m 0 / r.al * r.al).toNat

/-- The object lies in the scratchpad, order allows it, and what is read of it holds no error. -/
structure ObjRule.Free (r : ObjRule) (c : Ctx) (s : State) (t : Nat) (tm : Team) : Prop where
  order : (c.now s).mustWait r.store r.rel = false
  own : c.ag.team = some t
  team : s.team? t = some tm
  low : 0 ≤ c.offset s r.m 0
  high : r.off c s + r.al ≤ s.spadSize tm
  sound : r.rd.2 ≠ 0 → tm.spadBad (r.off c s + r.rd.1) r.rd.2 = false

def ObjRule.after (r : ObjRule) (c : Ctx) (s : State) (t : Nat) (tm : Team) : State :=
  c.flies (r.eff c s t tm (r.off c s)) r.flag r.ends (r.lands c s tm (r.off c s)) [] r.dS

/-- An instruction on an object in global memory (R243). -/
structure GlobSyncRule where
  flag : FlagUse
  uses : Ctx → List Use
  ends : List (Src × Nat)
  acc : GAcc
  vals : Ctx → State → OpVals
  acq : Bool := false
  rel : Bool
  dS : List Nat := []

/-- TKT.TAKE, TKT.WAIT, TKT.PASS and WAITA in global memory (R248, R249). -/
def globSyncRule : Instr → Option GlobSyncRule
  | .tktTake fs true d m => some
      { flag := .must fs, uses := fun c => wrS c d 1 :: readsOf c (MAddr.srcs m 2), ends := MAddr.srcs m 2,
        acc := tktTakeAcc d.toNat, vals := fun c s => c.vals s m [0] none, rel := false, dS := [d.toNat] }
  | .tktWait fs true _ m x => some
      { flag := .may fs, uses := fun c => readsOf c ((x, 1) :: MAddr.srcs m 2), ends := (x, 1) :: MAddr.srcs m 2,
        acc := tktWaitAcc, vals := fun c s => c.vals s m [0] (some (x, 1)), acq := true, rel := false }
  | .tktPass fs true _ m => some
      { flag := .may fs, uses := fun c => readsOf c (MAddr.srcs m 2), ends := MAddr.srcs m 2, acc := tktPassAcc,
        vals := fun c s => c.vals s m [0] none, rel := true }
  | .waita fs true _ cc m x => some
      { flag := .may fs, uses := fun c => readsOf c ((x, 1) :: MAddr.srcs m 2), ends := (x, 1) :: MAddr.srcs m 2,
        acc := waitaAcc cc, vals := fun c s => c.vals s m [0] (some (x, 1)), acq := true, rel := false }
  | _ => none

def GlobSyncRule.run (r : GlobSyncRule) (c : Ctx) (s : State) (t : Nat) : RunOut :=
  r.acc.runLanes t (r.vals c s) [0] ⟨[], [], false, false, [], [], s⟩

/-- It waits neither for order nor for the operand log, reads no poisoned line, and would not pass a faulted access. -/
structure GlobSyncRule.Free (r : GlobSyncRule) (c : Ctx) (s : State) (t : Nat) : Prop where
  order : r.acc.waits s t (c.now s) (r.vals c s) [0] r.rel = false
  lane : r.acc.overtakes (c.now s) (r.vals c s) [0] (r.run c s t) = false
  sound : (r.run c s t).uce = false

/-- What it leaves when its access faults: an operation that awaits its replay (R59, R243). -/
def GlobSyncRule.faulted (r : GlobSyncRule) (c : Ctx) (s : State) (t : Nat) : State :=
  let o := r.run c s t
  c.mod o.s (fun g => (g.endUses c.active r.ends).addWork (r.acc.faulted c.active (r.vals c s) o.faults
    { c.op r.flag (.land []) with dstS := r.dS, acq := r.acq, vals := r.vals c s }))

/-! ## The matrix engine -/

/-- An engine instruction at issue (R288, R289): the tile number it names, whether it will read or write the scratchpad
(R224), further limits of its clause's header, registers used, sources ended, the bytes of the scratchpad it touches, what is
copied for the checkpoint, and the operation queued. -/
structure EngRule where
  flag : FlagUse
  acc : Option (BitVec 4)
  spad : SpadUse := .none
  hdr : Ctx → Bool := fun _ => true
  uses : Ctx → List Use := fun _ => []
  ends : List (Src × Nat) := []
  cap : Ctx → Option Nat := fun _ => none
  pieces : Ctx → List Nat → List (Nat × Nat) := fun _ _ => []
  copies : Ctx → State → Nat → List Nat → State := fun _ s _ _ => s
  act : Ctx → State → List Nat → OpAct
  dV : List Nat := []
  dS : List Nat := []

/-- MMA (R297, R299), ACC.ZERO to ACC.WR (R303), ACC.OUT (R304), MSTAT (R305). -/
def engRule : Instr → Option EngRule
  | .mma fs acc ta tb stat za capf koff =>
      let word (c : Ctx) : Option (Nat × Word) :=
        stat.map (fun p => ((c.g.sVal p.toNat).toNat / 8 * 8, c.g.sVal (p.toNat + 1)))
      let fmts (c : Ctx) := mmaFmts (c.g.tile ta) (c.g.tile tb)
      some
        { flag := .may fs, acc := some acc, spad := if stat.isSome then .writes else .reads,
          hdr := fun c => !capf || c.cl.other fs < 12,
          uses := fun c => match stat with
            | some p => [⟨.s p, 2, c.active, false⟩]
            | none => [],
          cap := fun c => if capf then some (c.cl.other fs) else none,
          pieces := fun c _ => (word c).toList.map (fun w => (w.1, 8)) ++
            (match fmts c with
             | some (fa, fb) =>
               operandPieces (c.g.tile ta) fa koff.toNat ++ operandPieces (c.g.tile tb) fb koff.toNat
             | none => []),
          copies := fun c s t _ =>
            s.engineCopies t ((fmts c).map (fun _ => acc.toNat)) ((word c).toList.map (fun w => (w.1, 8))),
          act := fun c _ rows =>
            .engine rows (.mma acc.toNat (c.g.tile ta) (c.g.tile tb) (word c) za koff.toNat none false false) }
  | .accZero fs acc => some
      { flag := .may fs, acc := some acc, copies := fun _ s t _ => s.engineCopies t (some acc.toNat) [],
        act := fun _ _ rows => .engine rows (.zero acc.toNat) }
  | .accLd fs acc ta =>
      let ok (c : Ctx) : Bool := (tileFmt .move (c.g.tile ta)).isSome
      some
        { flag := .may fs, acc := some acc, spad := .reads, pieces := fun c rows => if ok c then rowPieces (c.g.tile ta) 4 rows else [],
          copies := fun c s t _ => s.engineCopies t (if ok c then some acc.toNat else none) [],
          act := fun c _ rows => .engine rows (.ld acc.toNat (c.g.tile ta)) }
  | .accSt fs acc ta =>
      let ps (c : Ctx) (rows : List Nat) :=
        if (tileFmt .move (c.g.tile ta)).isSome then rowPieces (c.g.tile ta) 4 rows else []
      some
        { flag := .may fs, acc := some acc, spad := .writes, pieces := ps,
          copies := fun c s t rows => s.engineCopies t none (ps c rows),
          act := fun c _ rows => .engine rows (.st acc.toNat (c.g.tile ta)) }
  | .accRd fs acc v cb => some
      { flag := .must fs, acc := some acc, uses := fun c => [wrV c v 8],
        act := fun _ _ rows => .engine rows (.rd acc.toNat v.toNat cb.toNat), dV := namesOf v.toNat 8 }
  | .accWr fs acc v cb vlu => some
      { flag := .may fs, acc := some acc, uses := fun c => readsOf c [(⟨.v v, vlu, false⟩, 8)],
        ends := [(⟨.v v, vlu, false⟩, 8)], copies := fun _ s t _ => s.engineCopies t (some acc.toNat) [],
        act := fun c _ rows => .engine rows (.wr acc.toNat cb.toNat ((Mask.lanes c.active c.g.width).map (fun l =>
          (c.g.rowOf l, (upTo 8).map (fun j => c.g.vVal l (v.toNat + j)))))) }
  | .accOut fs acc ta r =>
      let ps (c : Ctx) (rows : List Nat) :=
        match tileFmt (.out r) (c.g.tile ta) with
        | some f => outPieces (c.g.tile ta) f rows
        | none => []
      some
        { flag := .may fs, acc := some acc, spad := .writes, pieces := ps,
          copies := fun c s t rows => s.engineCopies t none (ps c rows),
          act := fun c _ rows => .engine rows (.out acc.toNat (c.g.tile ta) r) }
  | .mstat fs d clr => some
      { flag := .must fs, acc := none, uses := fun c => [wrS c d 1],
        act := fun _ _ rows => .engine rows (.mstat d.toNat clr), dS := [d.toNat] }
  | _ => none

/-- The rows of the accumulators that ACTIVE owns (R290). -/
def Ctx.rows (c : Ctx) : List Nat := (Mask.lanes c.active c.g.width).map c.g.rowOf

/-- The tile exists, no fence or acquire holds it back, a place is free in the queue and in the capture flag, and every byte
touched lies in the scratchpad. -/
structure EngRule.Free (r : EngRule) (c : Ctx) (s : State) (t : Nat) (tm : Team) : Prop where
  own : c.ag.team = some t
  team : s.team? t = some tm
  limits : r.hdr c = true
  order : r.spad.waits (c.now s) = false
  tile : ∀ a, r.acc = some a → a.toNat < s.nacc tm
  queue : (s.core tm.core).engineQ.length < 16
  capture : ∀ f, r.cap c = some f → (c.now s).flagCount f < 64
  inside : ∀ p ∈ r.pieces c c.rows, p.1 + p.2 ≤ s.spadSize tm

/-- The operation it queues. -/
def EngRule.op (r : EngRule) (c : Ctx) (s : State) : Op :=
  { c.op r.flag (r.act c s c.rows) with capFlag := r.cap c, dstV := r.dV, dstS := r.dS }

/-- What it leaves: copies taken, sources ended, the operation last in its group and in its core's queue. -/
def EngRule.after (r : EngRule) (c : Ctx) (s : State) (t : Nat) (tm : Team) : State :=
  (c.mod (r.copies c s t c.rows) (fun g => ((g.endUses c.active r.ends).bindDst (r.op c s)).addOp (r.op c s))).modCore
    tm.core (fun k => { k with engineQ := k.engineQ ++ [(t, c.g.grp, (c.now s).nextOp)] })

/-! ## Retriever commands -/

/-- The commands of Table 14-1: opcode, common fields, kind. -/
def cmdRule : Instr → Option (Nat × CmdF × CmdKind)
  | .cp f => some (0xC0, f, .cp)
  | .cpt f g mx => some (0xC1, f, .cpt g mx)
  | .cpg f x => some (0xC2, f, .cpg x)
  | .cpsc f x => some (0xC3, f, .cpsc x)
  | .cpr f => some (0xC4, f, .cpr)
  | .cpx f w => some (0xC5, f, .cpx w)
  | .coll f o ty => some (0xC6, f, .coll o ty)
  | .cpq f => some (0xC7, f, .cpq)
  | _ => none

/-- The bytes a command's checks look at lie in the scratchpads: the signal's, and the payload's unless the block is
malformed (R312). -/
structure CmdFits (c : Ctx) (s : State) (t : Nat) (tm : Team) (f : CmdF) (x : Cmd) : Prop where
  own : c.ag.team = some t
  team : s.team? t = some tm
  signal : ∀ a, x.sigAddr = some a → f.ssp = false → s.outside (some t) (a.toNat / 4 * 4) 4 = false
  payload : x.badBlock s = false → ∀ p ∈ x.spadPieces s t, s.outside p.1 p.2.1 p.2.2 = false
  room : (s.columnCmds (colOf tm.core)).length < 64

/-- What issuing command `x` leaves: its operation in flight, and the command last in its team's queue, begun, or to end at
once as BADBLOCK, or as MISMATCH where a COLL of its GROUP and SEQ has begun before (R312, R330). -/
def Ctx.queued (c : Ctx) (s : State) (t : Nat) (f : CmdF) (x : Cmd) : State :=
  let s1 := (c.mod s (fun g => g.addOp (c.op (.may f.fs) (.cmd x.id)))).modTeam t (fun y => { y with
    cmds := y.cmds ++ [x.enter s t (x.badBlock s)], nextCmd := y.nextCmd + 1,
    since := { y.since with coll := y.since.coll || CmdKind.isColl x.kind } })
  { s1.noteColl x (x.badBlock s) with cmdSeq := s1.cmdSeq + 1 }

/-! ## What every instruction issues with -/

/-- The instructions that no rule above describes: core, flag field, limits of the word, registers used (Table 5-2). -/
def otherSpec : Instr → Option Spec
  | .nop | .yield | .exit | .trap _ | .brk _ => some { core := .both }
  | .reform tgt => some { uses := fun c _ => readsOf c (match tgt with | some a => [(a, 2)] | none => []) }
  | .lbind _ | .lfree => some {}
  | .lcmp _ _ d x y => some { uses := fun c _ =>
      [⟨d, 1, Mask.below c.g.limbs, true⟩, ⟨x.op, 2, Mask.below c.g.limbs, false⟩, ⟨y.op, 2, Mask.below c.g.limbs, false⟩] }
  | .lcarry _ d => some { uses := fun c _ => [wrS c d 1] }
  | .sRsr w64 d num => some { core := .both, encOk := fun c => statKnown c.g.kennel num.toNat,
                              uses := fun c _ => [wrS c d (if w64 then 2 else 1)] }
  | .sWsr w64 num a => some
      { core := .both, encOk := fun c => statWritable c.g.kennel num.toNat && (!w64 || statWide c.g.kennel num.toNat),
        uses := fun c _ => readsOf c [(a, if w64 then 2 else 1)] }
  | .ldc fs sz d m => some
      { flag := .must fs, uses := fun c _ => ⟨d, MSize.regs sz, c.active, true⟩ :: readsOf c (MAddr.srcs m 1) }
  | .pref fs _ m pol => some { flag := .may fs, uses := fun c _ => readsOf c (MAddr.srcs m 2) ++ polUse c pol, consumes := false }
  | .fence fs _ _ => some { core := .both, flag := .may fs }
  | .phase fs | .waitf fs _ => some { flag := .may fs }
  | .fifoPush fs w64 b x => some { flag := .may fs, uses := fun c _ => readsOf c [(x, if w64 then 2 else 1), (b, 1)] }
  | .fifoPop fs w64 b d => some
      { flag := .must fs, uses := fun c _ => wrV c d (if w64 then 2 else 1) :: readsOf c [(b, 1)] }
  | .tdef _ u => some { uses := fun c _ => [⟨.s u, 4, c.active, false⟩] }
  | .perf w64 _ d _ => some { uses := fun c _ => [wrS c d (if w64 then 2 else 1)] }
  | .clk d => some { core := .both, uses := fun c _ => [wrS c d 2] }
  | .icinv fs _ a l => some { core := .both, flag := .may fs, uses := fun c _ => readsOf c [(a, 2), (l, 1)] }
  | .launch fs d q a => some
      { core := .both, flag := .must fs, uses := fun c _ => wrS c d 1 :: readsOf c [(q, 1), (a, 2)] }
  | .wfi | .iret => some { core := .kennel }
  | .mmld fs b64 d m => some
      { core := .kennel, flag := .must fs,
        uses := fun c _ => wrS c d (if b64 then 2 else 1) :: readsOf c [(m.base, 1), (m.offs, 1)] }
  | .mmst fs b64 x m => some
      { core := .kennel, flag := .may fs,
        uses := fun c _ => readsOf c [(x, if b64 then 2 else 1), (m.base, 1), (m.offs, 1)] }
  | _ => none

/-- What the instruction issues with: the cores it is legal on, its flag field, the limits of its word and of its clause's
header, its guard, the registers it uses. -/
def issueSpec (i : Instr) : Option Spec :=
  ((regRule i).map (fun r => { core := r.core, guard := r.guard, uses := r.uses : Spec })).or <|
  ((globRule i).map (fun r => { core := r.core, flag := r.flag, guard := r.guard, uses := fun c _ => r.uses c : Spec })).or <|
  ((branchRule i).map (fun b => { core := .both, guard := .lanes b.guard, uses := fun c _ => b.uses c,
                                  encOk := fun c => b.opnd.all (noVectorOnKennel · c) : Spec })).or <|
  ((longRule i).map (fun r => { uses := fun c _ => r.uses c : Spec })).or <|
  ((spadRule i).map (fun r => { flag := r.flag, guard := r.guard, uses := fun c _ => r.uses c : Spec })).or <|
  ((objRule i).map (fun r => { flag := r.flag, uses := fun c _ => r.uses c : Spec })).or <|
  ((globSyncRule i).map (fun r => { flag := r.flag, uses := fun c _ => r.uses c : Spec })).or <|
  ((engRule i).map (fun r => { flag := r.flag, hdrOk := r.hdr, uses := fun c _ => r.uses c : Spec })).or <|
  ((cmdRule i).map (fun x => { flag := .may x.2.1.fs, uses := fun c _ => cmdUses c x.2.1 : Spec })).or (otherSpec i)

end Sys2Proof.Machine
end

