-- ==== Sys2Proof/Certificates/Slice0/Obligations.lean ====
section
/-! DEFINITION. The statements for the provers. -/
open Sys2Proof Sys2Proof.Machine

/-! ## Encoding -/

/-- Decoding the word of a well-formed instruction gives it back, with every operand at every value its encoding admits (R71 to
R76, Table 5-2). -/
def Obligations.DecodeOfEncode : Prop :=
  ∀ (i : Instr) (w : DWord), i.wf = true → encode i = some w → decode w = .ok i

/-- A word that decodes holds a well-formed instruction and is that instruction's own word: no bit of it is ignored. -/
def Obligations.EncodeOfDecode : Prop :=
  ∀ (w : DWord) (i : Instr), decode w = .ok i → i.wf = true ∧ encode i = some w

/-- Words that the spec prints, one for each class, decode to the instructions they stand for (R71, R72, R137, R213, R247,
R276, R294, R311, R356, R389). -/
def Obligations.DecodeWords : Prop :=
  decode 0x1872280000000181#64 = .ok (.sRsr true 20 0x00C) ∧
  decode 0x3010000000000280#64 = .ok (.br ⟨false, 1⟩ none 5) ∧
  decode 0x4C70045806060001#64 = .ok (.vShl .n32 2 ⟨.special 0, false, false⟩ ⟨.nat 3, false, false⟩) ∧
  decode 0x7470090028040080#64 =
    .ok (.vFfma .f32 .dyn 4 ⟨.v 1, true, false⟩ ⟨.v 2, false, true⟩ ⟨.v 4, false, false⟩) ∧
  decode 0x9070020840017FE8#64 = .ok (.ld false .b64 4 ⟨⟨.s 8, false, false⟩, ⟨.v 2, false, false⟩⟩ 0x1FF) ∧
  decode 0xB070087FC0000010#64 = .ok (.tdef 1 16) ∧
  decode 0xC07043FE00000000#64 = .ok (.cp ⟨false, 16, none, false, 0, .g⟩) ∧
  decode 0xD3700009D1800000#64 = .ok (.barAw false ⟨⟨.s 58, false, false⟩, ⟨.nat 0, false, false⟩⟩ false) ∧
  decode 0xE170000000000000#64 = .ok .lfree ∧
  decode 0xEC7000000000002A#64 = .ok (.trap 0x2A)

/-- What an opcode that Table 5-2 assigns to nothing comes to (R106). No clause admits one of the control range, every clause
one of the uniform range, and a clause of its class alone one of another range. The structural check of a clause whose header
is well formed goes through its words in order: a word outside the extent, or one that is not admitted, fails it at its
position; one that is admitted leaves the rest to be checked. A clause that fails the check raises ILLHDR at its header, with
the position and the word, as the lane set reaches it, and no instruction of it issues; on the Kennel core it enters ILLEGAL. A
lane set whose header lies outside the extent raises BADTARGET, and one that passes the check, but with a lane that has begun
1,024 clauses since its last safe point, raises SAFEOVR for those lanes. An unassigned opcode that reaches issue raises ILLOP,
whatever the word's other bits and whether or not ACTIVE is empty (R47, R65, R66). What the halt window shows of these traps of
a header is the model's reading, log 39: HINSTR 0 for a word that is not fetched, HINSTR and POS 0 for BADTARGET, HINSTR the
header for SAFEOVR. -/
def Obligations.UnassignedOpcodes : Prop :=
  (∀ w : DWord, opAssigned (w.extractLsb' 56 8).toNat = false → decode w = .error .illOp) ∧
  (∀ (s : State) (c : Ctx), s.agenda = [] → s.ctx? = some c → opAssigned (c.cl.word.extractLsb' 56 8).toNat = false →
    step s = .next (((c.takeTrap s .illOp c.active 0).tick 1).timer s.clk)) ∧
  (∀ (cls op : Nat) (last : Bool), opAssigned op = false → op < 255 → cls ≤ 6 →
    (0x38 ≤ op → op ≤ 0x3F → admits cls op last = false) ∧ (op ≤ 0x2F → admits cls op last = true) ∧
    (0x40 ≤ op → (admits cls op last = true ↔ opClass op = cls))) ∧
  (∀ (f : Fetcher) (cls n a p : Nat) (s : State), s.inExtent f a = true →
    admits cls ((s.fetch f a).1.extractLsb' 56 8).toNat (n = 0) = false →
    (fetchBody f cls (n + 1) a p s).2.1 = some ⟨p, (s.fetch f a).1⟩) ∧
  (∀ (f : Fetcher) (cls n a p : Nat) (s : State),
    (s.inExtent f a = false → (fetchBody f cls (n + 1) a p s).2.1 = some ⟨p, 0⟩) ∧
    (s.inExtent f a = true → admits cls ((s.fetch f a).1.extractLsb' 56 8).toNat (n = 0) = true →
      ((s.fetch f a).1.extractLsb' 56 8).toNat ≠ 0xFF →
      (fetchBody f cls (n + 1) a p s).2.1 = (fetchBody f cls n (a + 8) (p + 1) (s.fetch f a).2).2.1)) ∧
  (∀ (f : Fetcher) (a h : DWord) (lanes : Mask) (s s1 : State), s.fetch f a.toNat = (h, s1) →
    (headerOk h = false → (fetchClause f a lanes s).1 = .error ⟨0, h⟩) ∧
    (headerOk h = true → hSafe h = false → ∀ e, (fetchBody f (hClass h) (hCount h) (a.toNat + 8) 1 s1).2.1 = some e →
      (fetchClause f a lanes s).1 = .error e) ∧
    (headerOk h = true → hSafe h = true →
      (s1.inExtent f (a.toNat + 8) = false → (fetchClause f a lanes s).1 = .error ⟨1, 0⟩) ∧
      (∀ m s2, s1.inExtent f (a.toNat + 8) = true → s1.fetch f (a.toNat + 8) = (m, s2) →
        (m.getLsbD 63 = true → (fetchClause f a lanes s).1 = .error ⟨1, m⟩) ∧
        (m.getLsbD 63 = false → ∀ e, (fetchBody f (hClass h) (hCount h) (a.toNat + 16) 2 s2).2.1 = some e →
          (fetchClause f a lanes s).1 = .error e)))) ∧
  (∀ (f : Fetcher) (s : State) (t gi : Nat) (b : Bool) (x : LaneSet) (tm : Team) (g : Group), s.team? t = some tm →
    s.group? t gi = some g → g.halt = none → x.resume = none →
    let u := s.takeSet t gi b f x
    let halts (cause : Cause) (w : DWord) (pos : Nat) (lanes : Mask) : Prop :=
      ∃ h y, u.group? t gi = some h ∧ h.halt = some y ∧ y.cause = cause ∧ y.hpc = x.pc ∧ y.lanes = lanes ∧ y.instr = w ∧
        y.pos = pos ∧ h.portA = none ∧ h.portB = none ∧ (∀ l, (h.lane l).regs = (g.lane l).regs) ∧ u.mem = s.mem
    (s.inExtent f x.pc.toNat = false → halts .badTarget 0 0 x.lanes) ∧
    (∀ e s1, s.inExtent f x.pc.toNat = true → fetchClause f x.pc x.lanes s = (.error e, s1) →
      halts .illHdr e.word e.pos x.lanes) ∧
    (∀ cl s1 m, s.inExtent f x.pc.toNat = true → fetchClause f x.pc x.lanes s = (.ok cl, s1) → hSafe cl.hdr = false →
      (∀ l, m.getLsbD l = true ↔ x.lanes.getLsbD l = true ∧ 1024 ≤ (g.lane l).safeCnt) → m ≠ 0 →
      halts .safeOvr cl.hdr 0 m)) ∧
  (∀ (s s1 : State) (e : BadClause), s.inExtent .kennel s.kPc.toNat = true → fetchClause .kennel s.kPc 1 s = (.error e, s1) →
    s.kBegin = (s1.kIllegal .illHdr e.word s.kPc).tick 1)

/-! ## The step -/

/-- With nothing on the agenda, or with port A's slot of this slice cycle behind it and port B's to come, and a slot in focus
whose word the issuing core reads as `i`, the step is the meaning of `i` there; a next state then has TIMER looked at (Table
17-1). Between two slice cycles, what stands first on the agenda happens before that: time passes, the issuing agent changes, a
well-formed event fires, the banks set the grants of the next instruction, a capture reads some of its words, or an input
arrives (logs 5, 97 and 98, the model's choice). -/
def Obligations.StepRunsDecoded : Prop :=
  (∀ (s : State) (c : Ctx) (i : Instr), (s.agenda = [] ∨ s.midCycle = true) → s.ctx? = some c →
    decodeFor c.g.kennel c.cl.word = .ok i →
    (∀ t, exec i s = .next t → step s = .next (t.timer s.clk)) ∧
    (∀ f, exec i s = .fault f → step s = .fault f) ∧ (∀ r, exec i s = .refused r → step s = .refused r)) ∧
  (∀ (s : State) (r : List Move), s.midCycle = false →
    (∀ n, s.agenda = .elapse n :: r → step s = .next ((({ s with agenda := r } : State).tick n).timer s.clk)) ∧
    (∀ a, s.agenda = .focus a :: r → step s = .next ((({ s with agenda := r } : State).refocus a).timer s.clk)) ∧
    (∀ n, s.agenda = .conflict n :: r → step s = .next { s with agenda := r, conflict := some n }) ∧
    (∀ t gi id ws, s.agenda = .capture t gi id ws :: r →
      step s = .next ((({ s with agenda := r } : State).capture t gi id (some ws)).timer s.clk)) ∧
    (∀ e, s.agenda = .env e :: r → step s = .next ((({ s with agenda := r } : State).input e).timer s.clk)) ∧
    (∀ i t, s.agenda = .event i :: r → encode i = none → i.wf = true → exec i { s with agenda := r } = .next t →
      step s = .next (t.timer s.clk)) ∧
    (∀ i, s.agenda = .event i :: r → i.wf = false → step s = .next { s with agenda := r }))

/-- A word that is no instruction of the issuing core raises ILLOP or ILLENC and has no other effect, whether or not ACTIVE is
empty (R77, R106, R107). -/
def Obligations.StepTrapsBadWords : Prop :=
  ∀ (s : State) (c : Ctx) (e : BadWord), s.agenda = [] → s.ctx? = some c → decodeFor c.g.kennel c.cl.word = .error e →
    step s = .next (((c.takeTrap s (match e with | .illOp => .illOp | .illEnc => .illEnc) c.active 0).tick 1).timer s.clk)

/-- Every step keeps physical memory, host memory and the Kennel's SRAM in canonical form. -/
def Obligations.StepKeepsCanonical : Prop :=
  ∀ s t : State, s.canonical → step s = .next t → t.canonical

/-- The state after reset is in canonical form. -/
def Obligations.ResetCanonical : Prop := State.reset.canonical

/-- What reset leaves (Tables 15-2, 15-3, 16-2, 17-1, 17-3): INH is set, KTIMER holds all ones, no vector is enabled or
pending, no ring and no queue has an entry, no queue and no dispatch is enabled, a slice has k = 16 and G = 8, a column a
budget of 8.5 W, and the Shepherd's thresholds are 80, 95, 105 °C. -/
def Obligations.ResetValues : Prop :=
  State.reset.k.inh = true ∧ State.reset.k.ktimer = 0xFFFFFFFFFFFFFFFF#64 ∧ State.reset.k.kien = 0 ∧
  State.reset.k.kipend = 0 ∧ State.reset.k.kvbase = 0 ∧ State.reset.clkLo = 0 ∧ State.reset.sched.enable = false ∧
  State.reset.sched.fr.head = 0 ∧ State.reset.sched.fr.tail = 0 ∧ State.reset.sched.fr.held = [] ∧
  State.reset.sched.ev.head = 0 ∧ State.reset.sched.ev.tail = 0 ∧ State.reset.sched.ev.held = [] ∧
  (∀ q, (State.reset.queue q).enable = false ∧ (State.reset.queue q).fifo = [] ∧ (State.reset.queue q).ovf = false) ∧
  (∀ m, (State.reset.col m).budget = 68) ∧
  (∀ c i, ((State.reset.core c).slice i).k = 16 ∧ ((State.reset.core c).slice i).g = 8) ∧
  State.reset.k.cool = 320 ∧ State.reset.k.hot = 380 ∧ State.reset.k.crit = 420

/-! ## Exceptions -/

/-- A trap that an instruction raises in a port of a compute group, of a cause other than UCE, ILLHDR and SAFEOVR: the group
halts with the cause, the lanes, the instruction and its position, and HPC at the instruction, or at the next for BRKPT and
TRAPN; both ports stop; the lanes of the trapping clause keep their place in it, or, after a BRKPT or TRAPN on the clause's
last word, stand at the word after the clause; those of the other port's clause, where its header has issued, keep theirs, and
every other lane stands as it was; no lane's registers change, nor any register, predicate or status of the group, nor memory
(R55 to R58, R349). An effect that binds more vector or uniform registers than before, and more than its budget, raises
REGBUDGET; one that would copy for the checkpoint beyond the team's CKPT slots raises CKPTFULL (R37, R234). -/
def Obligations.TrapHaltsGroup : Prop :=
  (∀ (c : Ctx) (x : State) (t gi : Nat) (b : Bool), c.ag = .port t gi b →
    let g := c.merged x
    let exceeds : Prop := (g.vbud < g.boundV.length ∧ c.g.boundV.length < g.boundV.length) ∨
      (g.sbud < g.boundS.length ∧ c.g.boundS.length < g.boundS.length)
    g.kennel = false →
    (exceeds → c.settle x = .error (some .regBudget)) ∧
    (¬exceeds → ∀ tm gr, (c.put x g.spill).team? t = some tm → x.grid? tm.grid = some gr →
      (tm.ckpt.map Checkpoint.paid).getD 0 < tm.ckptUsed → 16 * gr.lr.nckpt < tm.ckptUsed →
      c.settle x = .error (some .ckptFull))) ∧
  (∀ (c : Ctx) (s : State) (n gi : Nat) (b : Bool) (tm : Team) (g : Group) (cause : Cause) (lanes : Mask) (num : Word),
    c.ag = .port n gi b → s.team? n = some tm → s.group? n gi = some g → g.port b = some c.cl →
    c.cl.pos < c.cl.words.length → cause ≠ .uce → cause ≠ .illHdr → cause ≠ .safeOvr →
    let after := cause = .brkpt ∨ cause = .trapN
    ∃ h x, (c.takeTrap s cause lanes num).group? n gi = some h ∧ h.halt = some x ∧
      x.cause = cause ∧ x.lanes = lanes ∧ x.instr = c.cl.word ∧ x.pos = c.cl.position ∧ x.num = num ∧
      x.hpc = (if after then c.cl.addr + 8 else c.cl.addr) ∧
      h.portA = none ∧ h.portB = none ∧
      (∀ l, (c.cl.lanes &&& g.movers).getLsbD l = true →
        (∀ d, g.port (!b) = some d → d.words = [] ∨ d.lanes.getLsbD l = false) →
        (¬after → (h.lane l).resume = some { c.cl with lanes := 0 } ∧ (h.lane l).pc = (g.lane l).pc) ∧
        (after → c.cl.pos + 1 < c.cl.words.length →
          (h.lane l).resume = some { c.cl with lanes := 0, pos := c.cl.pos + 1 } ∧ (h.lane l).pc = (g.lane l).pc) ∧
        (after → c.cl.pos + 1 = c.cl.words.length → (h.lane l).resume = none ∧ (h.lane l).pc = c.cl.succ)) ∧
      (∀ d l, g.port (!b) = some d → d.pos < d.words.length → (d.lanes &&& g.movers).getLsbD l = true →
        c.cl.lanes.getLsbD l = false →
        (h.lane l).resume = some { d with lanes := 0 } ∧ (h.lane l).pc = (g.lane l).pc) ∧
      (∀ l, c.cl.lanes.getLsbD l = false →
        (∀ d, g.port (!b) = some d → d.words = [] ∨ d.lanes.getLsbD l = false) → h.lane l = g.lane l) ∧
      (∀ l, (h.lane l).regs = (g.lane l).regs ∧ (h.lane l).thread = (g.lane l).thread) ∧
      h.sregs = g.sregs ∧ h.preds = g.preds ∧ h.tiles = g.tiles ∧ h.gstat = g.gstat ∧ h.fpctl = g.fpctl ∧
      h.fpflags = g.fpflags ∧ h.flying = g.flying ∧ h.limbs = g.limbs ∧ h.lcarry = g.lcarry ∧ h.ops = g.ops ∧
      (∀ a, Memory.read (c.takeTrap s cause lanes num).mem a = Memory.read s.mem a))

/-- A trap cause other than TRAPN, BRKPT and UCE on the Kennel core with INH = 0 enters ILLEGAL: KCAUSE.CODE, KBAD the word,
KEPC the clause's header, INH set, and the pc from the third entry of the vector table; with INH = 1 the core locks up (R383,
R387). IRET's return clears INH and goes on at KEPC; a KEPC that is no clause header in the SRAM enters ILLEGAL with CODE
BADTARGET, KBAD that address and KEPC unchanged (R388). -/
def Obligations.KennelTakesTraps : Prop :=
  (∀ (c : Ctx) (s : State) (cause : Cause) (lanes : Mask) (num : Word), c.ag = .kennel →
    cause ≠ .trapN → cause ≠ .brkpt → cause ≠ .uce →
    let t := c.takeTrap s cause lanes num
    let v := BitVec.ofNat 64 (Memory.readLE s.k.sram (s.k.kvbase.toNat / 256 * 256 + 16) 8)
    (s.k.inh = true → s.k.locked = none → t.k.locked = some s.clk) ∧
    (s.k.inh = false → s.k.locked = none →
      t.k.code = BitVec.ofNat 8 cause.code ∧ t.k.kbad = c.cl.word ∧ t.k.kepc = c.cl.here ∧ t.k.vec = 2 ∧
      t.k.inh = true ∧ t.mem = s.mem ∧ t.k.sram = s.k.sram ∧
      (s.target .kennel v = true → 0 < s.k.grp.lanes.length → t.kPc = v ∧ t.k.locked = none) ∧
      (s.target .kennel v = false → t.k.locked = some s.clk))) ∧
  (∀ s : State,
    (s.target .kennel s.k.kepc = true → 0 < s.k.grp.lanes.length →
      s.kReturn.kPc = s.k.kepc ∧ s.kReturn.k.inh = false ∧ s.kReturn.k.kepc = s.k.kepc ∧
        s.kReturn.k.grp.sregs = s.k.grp.sregs) ∧
    (s.target .kennel s.k.kepc = false →
      s.kReturn.k.code = BitVec.ofNat 8 Cause.badTarget.code ∧ s.kReturn.k.kbad = s.k.kepc ∧
        s.kReturn.k.kepc = s.k.kepc ∧ s.kReturn.k.inh = true))

/-- An instruction whose ACTIVE is empty, or whose guard leaves no lane of it or, for the uniform ones, does not hold, occupies
its slot, with its holds, its grants and its unit, and has no other effect, unless the core or a limit of its word refuses it
(R12, R65, R71, R77, R119, R156); leaving the port changes no memory, nothing of the Kennel but its group's notice of results,
and of the group only the operand collectors and caches and the notice of results on their way: what those will have set in
FPFLAGS stands. Every instruction that has a word issues this way. -/
def Obligations.EmptyActiveIdles : Prop :=
  (∀ i : Instr, (encode i).isSome = true → (issueSpec i).isSome = true) ∧
  (∀ (i : Instr) (sp : Spec) (c0 c : Ctx) (s : State), issueSpec i = some sp → s.ctx? = some c0 →
    sp.core.allows c0.g.kennel = true → c = { c0 with active := sp.guard.narrow c0.g c0.active } → c.active = 0 →
    let us := sp.uses c0.whole s
    (sp.encOk c0 = false → TrapsTo i c0 s .illEnc c0.active 0) ∧
    (sp.encOk c0 = true → c0.held s (sp.guard.uses c0.laneSet ++ us) = true → HoldsAt i c s) ∧
    (sp.encOk c0 = true → c0.held s (sp.guard.uses c0.laneSet ++ us) = false →
      (c.short s us = true → exec i s = .next (c.next (c.collect s us))) ∧
      (c.short s us = false → exec i s = .next (c.next (c.advance (c.presents s us)))))) ∧
  (∀ (c : Ctx) (s : State) (us : List Use) (n gi : Nat) (b : Bool) (g : Group), c.ag = .port n gi b →
    s.group? n gi = some g →
    (c.presents s us).mem = s.mem ∧ (c.presents s us).k = s.k ∧
      ∃ x y z w v, (c.presents s us).group? n gi =
          some { g with colA := x, colB := y, flying := z, fpflags := w, fresh := v } ∧
        ({ g with flying := z, fpflags := w } : Group).drained.fpflags = g.drained.fpflags ∧
        ∀ f ∈ g.flying, s.clk ≤ f.due → f ∈ z) ∧
  (∀ (c : Ctx) (s : State) (us : List Use), c.ag = .kennel → c.g.kennel = true →
    ∃ z w v, c.presents s us = { s with k := { s.k with grp := { s.k.grp with flying := z, fpflags := w, fresh := v } } })

/-- An instruction that reads or writes a register whose result has not landed, of a long-latency operation (R69) or of a
fixed-latency one (R117, R157), holds its port and changes nothing, whatever its ACTIVE (R156). One that a compute
group issues and that reads a register with an uncorrectable error, a vector register in a lane of ACTIVE, consumes it and has
no other effect; PREF consumes none (R222, R379). -/
def Obligations.PendingRegistersHold : Prop :=
  (∀ (i : Instr) (sp : Spec) (c0 c : Ctx) (s : State), issueSpec i = some sp → sp.encOk c0 = true →
    c0.IssuesUnder c s sp.core sp.guard (sp.uses · s) false → sp.flag.ok c.cl = true → sp.hdrOk c = true →
    (∀ f, sp.flag.flag c.cl = some f → (c.now s).flagCount f < 64) → (∀ fs l1 m pol, i ≠ .pref fs l1 m pol) →
    c.ag ≠ .kennel →
    (∃ u ∈ sp.uses c s, u.wr = false ∧ ∃ k, k < u.n ∧
      ((∃ r l y, u.op = .v r ∧ l < c.g.width ∧ l < 64 ∧ u.lanes.getLsbD l = true ∧ c.active.getLsbD l = true ∧
          c.g.vReg l (r.toNat + k) = some y ∧ y.bad = true) ∨
        ∃ r y, u.op = .s r ∧ AMap.get? c.g.sregs (r.toNat + k) = some y ∧ y.bad = true)) →
    ConsumesAt i c s) ∧
  (∀ (i : Instr) (sp : Spec) (c0 c : Ctx) (s : State), issueSpec i = some sp → s.ctx? = some c0 →
    sp.core.allows c0.g.kennel = true → sp.encOk c0 = true → c = { c0 with active := sp.guard.narrow c0.g c0.active } →
    (c.active ≠ 0 → sp.flag.ok c.cl = true ∧ sp.hdrOk c = true) →
    (∃ u ∈ sp.uses c0.whole s, c0.g.pending u = true ∨ ∃ f ∈ c0.g.flying, s.clk < f.due ∧ ∃ v ∈ f.uses, u.meets v = true) →
    HoldsAt i c s)

/-- A read of a lane whose live bit is clear, or of an unbound name, gives 0xFFC0DEAD there and sets GSTAT.POISONRD, and traps
nothing; a live lane gives its value, and each half of a pair is judged on its own (R36). -/
def Obligations.PoisonReads : Prop :=
  (∀ (c : Ctx) (s : State), c.g.kennel = false →
    (∀ (n : BitVec 8) (l : Nat), c.rd s (.v n) l = ((c.g.vReg l n.toNat).map Reg.val).getD 0xFFC0DEAD) ∧
    (∀ (n : BitVec 9) (l : Nat), c.rd s (.s n) l = ((AMap.get? c.g.sregs n.toNat).map Reg.val).getD 0xFFC0DEAD) ∧
    (∀ (n : BitVec 8) (l : Nat), n.toNat < 255 → c.rd64 s (.v n) l = c.rd s (.v (n + 1)) l ++ c.rd s (.v n) l) ∧
    (∀ (n : BitVec 9) (l : Nat), n.toNat < 511 → c.rd64 s (.s n) l = c.rd s (.s (n + 1)) l ++ c.rd s (.s n) l)) ∧
  (∀ (c : Ctx) (s : State) (us : List Use), s.ctx? = some c → c.g.kennel = false →
    let reads := ∃ u ∈ us, u.wr = false ∧ ∃ k, k < u.n ∧
      ((∃ r l, u.op = .v r ∧ l < c.g.width ∧ l < 64 ∧ u.lanes.getLsbD l = true ∧ c.g.vReg l (r.toNat + k) = none) ∨
        ∃ r, u.op = .s r ∧ AMap.get? c.g.sregs (r.toNat + k) = none)
    ∃ h, (c.noteReads s us).grpOf c.ag = some h ∧ h.lanes = (c.now s).lanes ∧ h.sregs = (c.now s).sregs ∧
      h.halt = (c.now s).halt ∧
      (reads → h.gstat = (c.now s).gstat ||| 1) ∧ (¬reads → h.gstat = (c.now s).gstat)) ∧
  (∀ (i : Instr) (r : RegRule) (c0 c : Ctx) (s : State), i.wf = true → regRule i = some r →
    c0.IssuesUnder c s r.core r.guard (r.uses · s) → c.Settles (c0.did c s (r.uses · s) (r.eff c s)) →
    ∃ t h, exec i s = .next t ∧ t.grpOf c.ag = some h ∧ h.halt = (c.now s).halt)

/-! ## Registers -/

/-- S.CLZ writes the number of leading zero bits and S.POPC the number of 1 bits; a word of either whose SRC1, SRC2 or MOD is
not zero raises ILLENC (R133). -/
def Obligations.UniformCounts : Prop :=
  (∀ (d : BitVec 9) (a : Src) (c : Ctx) (s : State), (Instr.sClz d a).wf = true →
    c.Issues s .both (fun c => wrS c d 1 :: readsOf c [(a, 1)]) →
    let put (x : Nat) : State := c.did c s (fun c => wrS c d 1 :: readsOf c [(a, 1)]) (fun g =>
      (g.endUses c.active [(a, 1)]).setS d.toNat (BitVec.ofNat 32 x))
    (∀ n, n ≤ 32 → (c.rd s a.op 0).toNat / 2 ^ (32 - n) = 0 → (n = 32 ∨ (c.rd s a.op 0).toNat / 2 ^ (31 - n) ≠ 0) →
      RunsTo (.sClz d a) c s (put n)) ∧
    RunsTo (.sPopc d a) c s (put (((upTo 32).filter (fun k => (c.rd s a.op 0).getLsbD k)).length))) ∧
  (∀ w : DWord, (w.extractLsb' 56 8 = 0x16 ∨ w.extractLsb' 56 8 = 0x17) → w.extractLsb' 0 29 ≠ 0 → decode w = .error .illEnc)

/-- The uniform instructions complete wherever they issue with their operands clear, with the results of Table 6-6 and R126 to
R135. -/
def Obligations.UniformResults : Prop :=
  ∀ (i : Instr) (r : RegRule), i.wf = true → (uniRule i = some r ∨ uniRule2 i = some r) → r.completes i

/-- The vector integer instructions complete with the results of R160 to R170, element by element, in the lanes of ACTIVE. -/
def Obligations.VectorIntegerResults : Prop :=
  ∀ (i : Instr) (r : RegRule), i.wf = true → (vecRule i = some r ∨ vecRule2 i = some r) → r.completes i

/-- The cross-lane instructions complete with the results of R172 to R177. -/
def Obligations.CrossLaneResults : Prop :=
  ∀ (i : Instr) (r : RegRule), i.wf = true → laneRule i = some r → r.completes i

/-- The float instructions complete with the results and sticky flags of R181 to R190 and Table 8-4. -/
def Obligations.FloatResults : Prop :=
  ∀ (i : Instr) (r : RegRule), i.wf = true → fltRule i = some r → r.completes i

/-- The conversions and the MX instructions in lanes complete with the results of R171 and R191 to R196. -/
def Obligations.ConversionResults : Prop :=
  ∀ (i : Instr) (r : RegRule), i.wf = true → cvtRule i = some r → r.completes i

/-- The frame of the register instructions: where one completes, only its destinations, the sources whose last use it is and
the sticky registers its rule names have changed, in ACTIVE; memory stands. The group is compared with what it was, what the
other port has written in the same slice cycle kept (R118); the Kennel core's with what it was. -/
def Obligations.RegisterFrame : Prop :=
  ∀ (i : Instr) (r : RegRule) (c0 c : Ctx) (s : State), i.wf = true → encode i = some c0.cl.word → regRule i = some r →
    c0.IssuesUnder c s r.core r.guard (r.uses · s) → c.Settles (c0.did c s (r.uses · s) (r.eff c s)) →
    ∃ t h, exec i s = .next t ∧ t.grpOf c.ag = some h ∧ t.mem = s.mem ∧ t.k.sram = s.k.sram ∧
      (c.g.kennel = false → (c.now s).kennel = false → RegFrame i c (r.changed c s) (c.merged s) h) ∧
      (c.ag = .kennel → c.g.kennel = true → RegFrame i c (r.changed c s) s.k.grp h)

/-- S.RSR writes the status register it names, zero-extended or its low half, to its destination, and reading CLKLO latches the
clock's upper half. Each number names the register of Table 6-2 on a compute core, and of Table 17-1 on the Kennel core (R120,
R122, R124, R134, R385). -/
def Obligations.StatusReads : Prop :=
  (∀ (w64 : Bool) (d : BitVec 9) (num : BitVec 12) (c : Ctx) (s : State),
    c.Issues s .both (fun c => [wrS c d (if w64 then 2 else 1)]) → statKnown c.g.kennel num.toNat = true →
    let x := c.statRead s num.toNat
    let s' := c.begun c s (fun c => [wrS c d (if w64 then 2 else 1)])
    RunsTo (.sRsr w64 d num) c s
      (c.mod (if num.toNat = 12 then c.mod s' (fun g => { g with clkhi := s.clkLo.extractLsb' 32 32 }) else s')
        (fun g => if w64 then g.setS64 d.toNat x else g.setS d.toNat (x.extractLsb' 0 32)))) ∧
  (∀ (c : Ctx) (s : State), c.g.kennel = false →
    let x := c.statRead s
    x 0 = 64 ∧ x 1 = BitVec.ofNat 64 c.g.width ∧ x 3 = BitVec.ofNat 64 c.g.role ∧ x 4 = BitVec.ofNat 64 c.g.limbs ∧
    x 5 = c.g.lcarry.setWidth 64 ∧ x 6 = c.g.fpctl.setWidth 64 ∧ x 8 = c.g.svmask ∧ x 9 = c.g.rplmask ∧
    x 10 = c.g.ternbad ∧ x 12 = s.clkLo ∧ x 13 = c.g.clkhi.setWidth 64 ∧
    x 14 = (c.g.gstat ||| (BitVec.ofNat 32 c.g.olog <<< 16) ||| (if c.g.limbs = 0 then 0 else 0x100)).setWidth 64 ∧
    ((∀ f ∈ c.g.flying, s.clk ≤ f.due) → x 7 = c.g.fpflags.setWidth 64) ∧
    (∀ tm, c.team? s = some tm → x 2 = BitVec.ofNat 64 tm.groups.length ∧ x 11 = tm.phaseId.setWidth 64)) ∧
  (∀ (c : Ctx) (s : State), c.g.kennel = true →
    let x := c.statRead s
    x 0 = BitVec.ofNat 64 ((if s.k.inh then 1 else 0) + (if s.k.refused then 2 else 0)) ∧
    x 1 = BitVec.ofNat 64 (s.k.vec.toNat + 256 * s.k.code.toNat) ∧ x 2 = s.k.kepc ∧ x 3 = s.k.kbad ∧
    x 4 = s.k.kvbase.setWidth 64 ∧ x 5 = s.k.kien.setWidth 64 ∧ x 6 = s.k.kipend.setWidth 64 ∧ x 7 = s.k.ktimer ∧
    x 12 = s.clkLo ∧ x 13 = s.k.grp.clkhi.setWidth 64)

/-- S.WSR of a compute group's status register: LCARRY keeps two bits, FPCTL its mode unless the new one is reserved, FPFLAGS
four bits and what the hardware has set of it in this very cycle, TERNBAD and GSTAT are cleared where 1 is written, but for
bits that the hardware has set in this very cycle (R8); nothing else of the group changes but the last use (R93, R120, R134,
Tables 6-2 to 6-4). Of a Kennel register: KEPC and KTIMER take the value or its low half, KVBASE keeps 256-byte alignment, KIEN
the bits of the vectors that can be enabled, KIPEND and REFUSED are cleared where 1 is written, KIPEND but for bits set in this
very cycle (R8, R385, R386, Table 17-1); a write to a register that Table 17-1 makes read-only, CLKLO and CLKHI among them,
changes nothing (log 23, the model's reading). -/
def Obligations.StatusWrites : Prop :=
  (∀ (w64 : Bool) (num : BitVec 12) (a : Src) (c : Ctx) (s : State), c.g.kennel = false →
    c.Issues s .both (fun c => readsOf c [(a, if w64 then 2 else 1)]) → statWritable false num.toNat = true →
    (w64 = true → statWide false num.toNat = true) →
    let v : DWord := if w64 then c.rd64 s a.op 0 else (c.rd s a.op 0).setWidth 64
    let lo := v.extractLsb' 0 32
    RunsTo (.sWsr w64 num a) c s (c.mod (c.begun c s (fun c => readsOf c [(a, if w64 then 2 else 1)])) (fun g0 =>
      let g := g0.endUses c.active [(a, if w64 then 2 else 1)]
      { g with
        lcarry := if num = 5 then lo &&& 3 else g.lcarry,
        fpctl := if num = 6 then (lo &&& 8) ||| (if 4 < (lo &&& 7).toNat then g.fpctl &&& 7 else lo &&& 7) else g.fpctl,
        fpflags := if num = 7 then (lo &&& 15) ||| g.fresh.fp else g.fpflags,
        ternbad := if num = 10 then (g.ternbad &&& ~~~v) ||| g.fresh.tern else g.ternbad,
        gstat := if num = 14 then (g.gstat &&& ~~~(lo &&& 0x207)) ||| g.fresh.gstat else g.gstat }))) ∧
  (∀ (w64 : Bool) (num : BitVec 12) (a : Src) (c : Ctx) (s : State), c.g.kennel = true → c.ag = .kennel →
    c.Issues s .both (fun c => readsOf c [(a, if w64 then 2 else 1)]) → statKnown true num.toNat = true →
    (w64 = true → statWide true num.toNat = true) →
    let v : DWord := if w64 then c.rd64 s a.op 0 else (c.rd s a.op 0).setWidth 64
    let lo := v.extractLsb' 0 32
    let x := c.mod (c.begun c s (fun c => readsOf c [(a, if w64 then 2 else 1)])) (fun g =>
      g.endUses c.active [(a, if w64 then 2 else 1)])
    let kt : DWord := if w64 then v else x.k.ktimer.extractLsb' 32 32 ++ lo
    let justSet : Word := if x.k.pendAt = x.clk then x.k.pendNew else 0
    let y : State := { x with k := { x.k with
      ktimer := if num = 7 then kt else x.k.ktimer,
      refused := if num = 0 then x.k.refused && (!lo.getLsbD 1 || x.k.refAt = some x.clk) else x.k.refused,
      kepc := if num = 2 then (if w64 then v else x.k.kepc.extractLsb' 32 32 ++ lo) else x.k.kepc,
      kvbase := if num = 4 then lo &&& 0xFFFFFF00 else x.k.kvbase,
      kien := if num = 5 then lo &&& 0x7F0 else x.k.kien,
      kipend := if num = 6 then (x.k.kipend &&& ~~~lo) ||| justSet else x.k.kipend } }
    RunsTo (.sWsr w64 num a) c s (if num = 7 ∧ kt = x.clkLo then y.kpend 8 else y))

/-! ## Control -/

/-- BR, BRX, CALL and RET complete where the limb lanes stay together and every target is a clause header within the code
extent: the lanes of the clause that move stand at their targets, or at the word after the clause; every other lane stays where
it was. One that would leave the limb lanes apart raises DIVBOUND for every limb lane, before any check of its targets; one
with a bad target raises BADTARGET for the lanes whose target it is, and no program counter moves (R136 to R140, R283). -/
def Obligations.Branches : Prop :=
  ∀ (i : Instr) (b : BranchRule) (c0 c : Ctx) (s : State), branchRule i = some b →
    c0.IssuesUnder c s .both (.lanes b.guard) b.uses →
    (c.g.kennel = true → ∀ o, b.opnd = some o → ∀ n, o ≠ .v n) →
    (b.together c s → (∀ l, ¬b.bad c s l) → JumpsTo i c s (b.after c0 c s) ∧
      ∃ h, (b.after c0 c s).grpOf c.ag = some h ∧ ∀ l, (h.lane l).pc =
        if (c.cl.lanes &&& (c.now s).movers).getLsbD l then b.pc c s l else ((c.now s).lane l).pc) ∧
    (¬b.together c s → TrapsTo i c s .divBound (Mask.below c.g.limbs) 0) ∧
    (b.together c s → overBudget c.g (b.link c ((c.now (c0.begun c s b.uses)).endUses c.active b.ends)) = false →
      (∃ l, b.bad c s l) →
      ∃ m : Mask, TrapsTo i c s .badTarget m 0 ∧ ∀ l, l < 64 → (m.getLsbD l = true ↔ b.bad c s l))

/-- NOP and YIELD take a slot and do nothing. EXIT ends the threads of ACTIVE with their registers; the group dissolves, its
uniform registers unbound, when it leaves none running, or none but lanes that are switched off, whose threads end with it
(log 42, the model's reading); every other lane stands. REFORM leaves ACTIVE waiting to be filed under its keys; a key that is no clause header within the code extent
raises BADTARGET for its lanes. In a bound group EXIT and REFORM, with or without a target, raise BINDSTATE (R42, R141, R143,
R144, R284). -/
def Obligations.ThreadControl : Prop :=
  (∀ (c : Ctx) (s : State), c.Issues s .both (fun _ => []) →
    RunsTo .nop c s (c.begun c s (fun _ => [])) ∧ RunsTo .yield c s (c.begun c s (fun _ => []))) ∧
  (∀ (c : Ctx) (s : State), c.Issues s .both (fun _ => []) → c.g.limbs = 0 → (c.now s).kennel = false →
    let s' := c.begun c s (fun _ => [])
    let g := c.now s'
    let h := g.endThreads c.active s.clk
    let stays (l : Nat) : Prop := g.running.getLsbD l = true ∧ g.svmask.getLsbD l = false ∧ c.active.getLsbD l = false
    JumpsTo .exit c s (c.put s' h) ∧
      (∀ l, c.active.getLsbD l = true → (h.lane l).thread = .exited ∧ (h.lane l).regs = []) ∧
      (∀ l, c.active.getLsbD l = false → (g.running.getLsbD l = false ∨ ∃ k, stays k) → h.lane l = g.lane l) ∧
      ((∀ k, ¬stays k) → h.live = false ∧ h.sregs = [] ∧ h.quietAt = s.clk ∧
        ∀ l, g.running.getLsbD l = true → (h.lane l).thread = .exited ∧ (h.lane l).regs = []) ∧
      ((∃ k, stays k) → h.live = g.live ∧ h.sregs = g.sregs)) ∧
  (∀ (tgt : Option Src) (c : Ctx) (s : State),
    let xs : List (Src × Nat) := match tgt with | some a => [(a, 2)] | none => []
    let key (l : Nat) : DWord := match tgt with | some a => c.rd64 s a.op l | none => c.cl.succ
    let bad (l : Nat) : Prop :=
      l < c.g.width ∧ c.active.getLsbD l = true ∧ s.target (s.fetcher c.ag) (key l) = false
    c.Issues s .compute (fun c => readsOf c xs) →
    (c.g.limbs ≠ 0 → TrapsTo (.reform tgt) c s .bindState c.active 0) ∧
    (c.g.limbs = 0 → (∃ l, bad l) →
      ∃ m : Mask, TrapsTo (.reform tgt) c s .badTarget m 0 ∧ ∀ l, l < 64 → (m.getLsbD l = true ↔ bad l)) ∧
    (c.g.limbs = 0 → (∀ l, ¬bad l) →
      let s' := c.begun c s (fun c => readsOf c xs)
      let g := c.now s'
      let h := c.swerve (fun l => tgt.map (fun _ => key l)) (c.awaitFiling s.clk key (g.endUses c.active xs))
      JumpsTo (.reform tgt) c s (c.put s' h) ∧
        (∀ l, c.active.getLsbD l = true → (h.lane l).filing = some (key l) ∧ (h.lane l).thread = .running ∧
          (h.lane l).resume = some { c.cl with lanes := 0 } ∧ (h.lane l).pc = (g.lane l).pc) ∧
        (∀ l, c.active.getLsbD l = false → h.lane l = g.lane l))) ∧
  (∀ (c : Ctx) (s : State), c.Issues s .both (fun _ => []) → c.g.limbs ≠ 0 → TrapsTo .exit c s .bindState c.active 0)

/-! ## Long integers -/

/-- The long-integer instructions of a bound group complete with the exact results of Table 12-3: each limb lane receives its
64 bits, C is replaced and OV is sticky (R278, R279). LCMP writes one truth value for the whole integer, to a uniform register
or to the limb lanes' predicate bits (R280). In a group that is not bound, all of these raise BINDSTATE (R272). LCARRY writes
LCARRY, and then clears it if told to (R281). -/
def Obligations.LongIntegerResults : Prop :=
  (∀ (i : Instr) (r : LongRule) (c : Ctx) (s : State), longRule i = some r → c.Issues s .compute r.uses →
    (c.g.limbs = 0 → TrapsTo i c s .bindState c.active 0) ∧
    (c.g.limbs ≠ 0 → RunsTo i c s (c.did c s r.uses (r.eff c s)))) ∧
  (∀ (cc : Cond) (sgn : Bool) (d : Opnd) (x y : Src) (c : Ctx) (s : State),
    let i := Instr.lcmp cc sgn d x y
    let us (c : Ctx) : List Use :=
      let lm := Mask.below c.g.limbs
      [⟨d, 1, lm, true⟩, ⟨x.op, 2, lm, false⟩, ⟨y.op, 2, lm, false⟩]
    let rd (o : Opnd) : Int := if sgn then signedLong c.g.limbs (c.longOp s o) else c.longOp s o
    let b := Cond.holdsI cc (rd x.op) (rd y.op)
    i.wf = true → c.Issues s .compute us →
    (c.g.limbs = 0 → TrapsTo i c s .bindState c.active 0) ∧ (c.g.limbs ≠ 0 → RunsTo i c s (c.did c s us (fun g =>
      let lm := Mask.below g.limbs
      match d with
      | .s n => (g.endUses lm [(x, 2), (y, 2)]).setS n.toNat (if b then 1 else 0)
      | .p p => (g.endUses lm [(x, 2), (y, 2)]).setPred p.toNat lm (if b then BitVec.allOnes 64 else 0)
      | _ => g)))) ∧
  (∀ (clr : Bool) (d : BitVec 9) (c : Ctx) (s : State), c.Issues s .compute (fun c => [wrS c d 1]) →
    RunsTo (.lcarry clr d) c s (c.did c s (fun c => [wrS c d 1]) (fun g =>
      { g.setS d.toNat c.g.lcarry with lcarry := if clr then 0 else g.lcarry })))

/-- LBIND binds n limbs with LCARRY clear, and lanes n on are idle and leave the clause; it raises BINDSTATE when already
bound, with too few lanes, or when some lane is not in the issuing set (R274). LFREE ends the binding and leaves LCARRY; the
idle lanes stand at the word after the clause (R276). -/
def Obligations.Binding : Prop :=
  (∀ (n : BitVec 12) (c : Ctx) (s : State), c.Issues s .compute (fun _ => []) →
    let whole := ∀ l, l < c.g.width → l < 64 → (c.cl.lanes &&& c.g.running &&& ~~~c.g.svmask).getLsbD l = true
    (¬(c.g.limbs = 0 ∧ n.toNat ≤ c.g.width ∧ whole) → TrapsTo (.lbind n) c s .bindState c.active 0) ∧
    (c.g.limbs = 0 → n.toNat ≤ c.g.width → whole →
      let idle := Mask.below c.g.width &&& ~~~Mask.below n.toNat
      LeavesTo (.lbind n) c s
        (c.did c s (fun _ => []) (fun g => { g with limbs := n.toNat, lcarry := 0, idle := idle })) idle)) ∧
  (∀ (c : Ctx) (s : State), c.Issues s .compute (fun _ => []) →
    let s' := c.begun c s (fun _ => [])
    let g := c.now s'
    let h := { g.modLanes g.idle (fun x => { x with pc := c.cl.succ, resume := none }) with limbs := 0, idle := 0 }
    (c.g.limbs = 0 → RunsTo .lfree c s s') ∧
    (c.g.limbs ≠ 0 → RunsTo .lfree c s (c.put s' h) ∧ h.lcarry = g.lcarry ∧
      (∀ l, g.idle.getLsbD l = true → l < g.lanes.length → (h.lane l).pc = c.cl.succ ∧ (h.lane l).resume = none) ∧
      (∀ l, g.idle.getLsbD l = false → h.lane l = g.lane l) ∧
      (∀ l, (h.lane l).regs = (g.lane l).regs)))

/-! ## Global memory -/

/-- LD, ST, LDU, STU, ATOM, ATOMU, MXLD and MXACC of a compute group complete: their lanes are performed in ascending order,
their sources end, the operation is in flight with the results to land, and each 4 KiB page in which a lane faulted has its
fault record in the operation, to be written once the fault is found (R59, R67, R199, R213, R218, R229, R239, R260). One that
reads a poisoned line consumes the error. MXLD whose pair does not fit its budget raises REGBUDGET; MXLD and MXACC with a block
of lanes partly in ACTIVE raise MXMASK, for the lanes of every such block; with a lead lane's address that is no multiple of the
granule they raise MXALIGN, for the lanes of every such block (R37, R222, R260, R265). -/
def Obligations.GlobalAccessCompletes : Prop :=
  ∀ (i : Instr) (r : GRule) (c0 c : Ctx) (s : State) (t gi : Nat) (b : Bool), globRule i = some r → c.g.kennel = false →
    c0.IssuesLong c s r.core r.flag r.guard r.uses → c.ag = .port t gi b →
    let s' := c0.begun c s r.uses
    let exceeds : Prop := (∃ fs tf d m, i = .mxld fs tf d m) ∧
      overBudget c.g (((c.now s').endUses c.active r.ends).addOp { c.op r.flag .idle with dstV := r.dV }) = true
    (r.Free c s' t → RunsTo i c s (r.after c s' t)) ∧
    (¬exceeds → r.ok c s' → (r.acc c).waits s' t (c.now s') (r.vals c s') ((r.acc c).lanes c.active c.g.width) r.rel = false →
      (r.run c s' t).uce = true → ConsumesAt i c s) ∧
    (exceeds → TrapsTo i c s .regBudget c.active 0) ∧
    (∀ k al, ((∃ gd fs tf sf x m lu sc, i = .mxacc gd fs tf sf x m lu sc ∧ k = MxFmt.lanes sf ∧ al = MxFmt.granule tf) ∨
        ∃ fs tf d m, i = .mxld fs tf d m ∧ k = MxFmt.lanes tf ∧ al = MxFmt.granule tf) → ¬exceeds →
      let part (l : Nat) : Prop := l < c.g.width / k * k ∧ (∃ j, j / k = l / k ∧ c.active.getLsbD j = true) ∧
        ∃ j, j / k = l / k ∧ c.active.getLsbD j = false
      let mis (l : Nat) : Prop := ∃ j, j < c.g.width ∧ c.active.getLsbD j = true ∧ j % k = 0 ∧
        (r.vals c s').va j % al ≠ 0 ∧ j ≤ l ∧ l < j + k
      ((∃ l, part l) → ∃ m : Mask, TrapsTo i c s .mxMask m 0 ∧ ∀ l, l < 64 → (m.getLsbD l = true ↔ part l)) ∧
      ((∀ l, ¬part l) → (∃ l, mis l) →
        ∃ m : Mask, TrapsTo i c s .mxAlign m 0 ∧ ∀ l, l < 64 → (m.getLsbD l = true ↔ mis l)))

/-- An access is cut at line boundaries and at the edges of declared ranges: the pieces follow one another without a gap from
the first byte to the last, none crosses a line, and every byte of a piece has the class of its first (R198, R204). -/
def Obligations.PiecesPartition : Prop :=
  ∀ (tm : Team) (a n : Nat), 0 < n →
    let ps := tm.pieces a n
    (ps.head?.map MPiece.va = some a) ∧ ((ps.map MPiece.len).sum = n) ∧
    (∀ p ∈ ps, 0 < p.len ∧ a ≤ p.va ∧ p.va + p.len ≤ a + n ∧ p.va / 128 = (p.va + p.len - 1) / 128 ∧
      p.range = tm.rangeAt p.va ∧ ∀ k, k < p.len → (tm.rangeAt (p.va + k)).map Extent.cls = p.range.map Extent.cls) ∧
    List.Pairwise (fun p q => p.va + p.len ≤ q.va) ps

/-- A load from a declared SHR or ACC range reads the bytes of memory as they stand; one from a WR or RD range reads those of
the line its column holds for it, else of memory, with the team's own staged bytes laid over. The line is one of the class, and
but for RD of the team. Where memory is read and a line is poisoned, nothing is loaded (R204, R205, R222, Tables 9-3 and 10-2).
That an access whose bytes are all staged reads no line, and that a line the column holds is not checked for poison, is log 44,
the model's reading. -/
def Obligations.LoadsRead : Prop :=
  ∀ (s : State) (t : Nat) (tm : Team) (pol : Word) (x : Extent) (p : MPiece) (pa : Nat), p.range = some x →
    ((x.cls = .shr ∨ x.cls = .acc) →
      (s.poisoned pa p.len = false → (s.loadAt t tm pol p pa).1 = some (Memory.readN s.mem pa p.len)) ∧
      (s.poisoned pa p.len = true → (s.loadAt t tm pol p pa).1 = none)) ∧
    (x.cls = .wr ∨ x.cls = .rd →
      let staged : Prop := ∀ k, k < p.len → (AMap.get? tm.staged (pa + k)).isSome = true
      ((s.col (colOf tm.core)).l1Find (pa / 128) (some x.cls) t = none →
        ((s.poisoned pa p.len = false ∨ staged) → ∃ b, (s.loadAt t tm pol p pa).1 = some b ∧ b.length = p.len ∧
          ∀ k, k < p.len → b.getD k 0 = AMap.getD tm.staged (pa + k) (Memory.read s.mem (pa + k))) ∧
        (s.poisoned pa p.len = true → ¬staged → (s.loadAt t tm pol p pa).1 = none)) ∧
      (∀ y, (s.col (colOf tm.core)).l1Find (pa / 128) (some x.cls) t = some y →
        y.line = pa / 128 ∧ y.cwin = false ∧ y.cls = some x.cls ∧ (x.cls = .wr → y.team = t) ∧
        (pa % 128 + p.len ≤ y.data.length → ∃ b, (s.loadAt t tm pol p pa).1 = some b ∧ b.length = p.len ∧
          ∀ k, k < p.len → b.getD k 0 = AMap.getD tm.staged (pa + k) (y.data.getD (pa % 128 + k) 0))))

/-- A store to a SHR or ACC range is performed in memory; any other is staged with its team and leaves memory as it was until
the team commits (R205, R230). -/
def Obligations.StoresStage : Prop :=
  ∀ (s : State) (t : Nat) (tm : Team) (p : MPiece) (pa : Nat) (b : List Byte), s.team? t = some tm →
    (((p.range.map Extent.cls = some .shr ∨ p.range.map Extent.cls = some .acc) →
      (∀ k, k < b.length → Memory.read (s.storeAt t p pa b).mem (pa + k) = b.getD k 0) ∧
      (∀ a, (a < pa ∨ pa + b.length ≤ a) → Memory.read (s.storeAt t p pa b).mem a = Memory.read s.mem a)) ∧
    (p.range.map Extent.cls ≠ some .shr → p.range.map Extent.cls ≠ some .acc →
      (s.storeAt t p pa b).mem = s.mem ∧
      ∃ tm', (s.storeAt t p pa b).team? t = some tm' ∧
        (∀ k, k < b.length → AMap.get? tm'.staged (pa + k) = some (b.getD k 0)) ∧
        (∀ a, (a < pa ∨ pa + b.length ≤ a) → AMap.get? tm'.staged a = AMap.get? tm.staged a)))

/-- Where ST or STU of a compute group gives a next state, physical memory has changed only in the bytes its lanes store to in
declared SHR and ACC ranges; the address of each is its lane's base plus offset, through the range's translation. -/
def Obligations.StoreFrame : Prop :=
  ∀ (i : Instr) (r : GRule) (c0 c : Ctx) (s t : State) (n gi : Nat) (b : Bool) (tm : Team) (a : Nat),
    (∃ g f sz x m p, i = .st g f sz x m p ∨ i = .stu g f sz x m p) → globRule i = some r → c0.g.kennel = false →
    s.ctx? = some c0 → c = { c0 with active := r.guard.narrow c0.g c0.active } → c.ag = .port n gi b →
    s.team? n = some tm → exec i s = .next t →
    (∀ l ∈ (r.acc c).lanes c.active c.g.width, ∀ p ∈ tm.pieces ((r.vals c s).va l) (r.acc c).len, ∀ x pg,
      p.range = some x → (x.cls = .shr ∨ x.cls = .acc) → pageOf x.pages p.va = some pg →
      ¬(pg.at p.va ≤ a ∧ a < pg.at p.va + p.len)) →
    Memory.read t.mem a = Memory.read s.mem a

/-- Where ATOM or ATOMU gives a next state and its lanes' objects lie in declared ranges, physical memory has changed only in
the objects' bytes: the operand size at each lane's address rounded down to that size. Where they lie anywhere, the object of a
lane is at the address that its translation gives once the lanes before it are performed. TKT.TAKE, TKT.WAIT, TKT.PASS and
WAITA on objects in global memory change at most the word of the object that they act on, and MXACC_BLOCK its granule (R239 to
R241, R248, R249, R261). -/
def Obligations.AtomicFrame : Prop :=
  (∀ (i : Instr) (r : GRule) (c0 c : Ctx) (s t : State) (n gi : Nat) (b : Bool) (tm : Team) (a : Nat),
    (∃ g f op sc o ret x m, i = .atom g f op sc o ret x m ∨ i = .atomu g f op sc o ret x m) → globRule i = some r →
    s.ctx? = some c0 → c = { c0 with active := r.guard.narrow c0.g c0.active } → c.ag = .port n gi b →
    s.team? n = some tm → exec i s = .next t →
    (∀ l ∈ (r.acc c).lanes c.active c.g.width, ∃ x, tm.rangeAt ((r.acc c).addr (r.vals c s) l) = some x ∧ ∀ pg,
      pageOf x.pages ((r.acc c).addr (r.vals c s) l) = some pg →
      ¬(pg.at ((r.acc c).addr (r.vals c s) l) ≤ a ∧ a < pg.at ((r.acc c).addr (r.vals c s) l) + (r.acc c).len)) →
    Memory.read t.mem a = Memory.read s.mem a) ∧
  (∀ (i : Instr) (r : GRule) (c0 c : Ctx) (s t : State) (n gi : Nat) (b : Bool) (tm : Team) (a : Nat),
    (∃ g f op sc o ret x m, i = .atom g f op sc o ret x m ∨ i = .atomu g f op sc o ret x m) → globRule i = some r →
    s.ctx? = some c0 → c = { c0 with active := r.guard.narrow c0.g c0.active } → c.ag = .port n gi b →
    s.team? n = some tm → exec i s = .next t →
    let s' := c0.begun c s r.uses
    let ls := (r.acc c).lanes c.active c.g.width
    let before (k : Nat) : State := ((r.acc c).runLanes n (r.vals c s') (ls.take k) (c.noLanes s')).s
    (∀ k l pa, ls[k]? = some l →
      let va := (r.acc c).addr (r.vals c s') l
      ((before k).place? tm ⟨va, (r.acc c).len, tm.rangeAt va⟩ true).1 = .ok pa → ¬(pa ≤ a ∧ a < pa + (r.acc c).len)) →
    Memory.read t.mem a = Memory.read s.mem a) ∧
  (∀ (i : Instr) (r : GlobSyncRule) (c : Ctx) (s t : State) (n gi : Nat) (b : Bool) (tm : Team) (a : Nat),
    globSyncRule i = some r → s.ctx? = some c → c.ag = .port n gi b → s.team? n = some tm → exec i s = .next t →
    let s' := c.begun c s r.uses
    let va := r.acc.addr (r.vals c s') 0
    ((∃ f sc m x, i = .tktWait f true sc m x) ∨ (∃ f sc cc m x, i = .waita f true sc cc m x) ∨
      ∀ pa, (s'.place? tm ⟨va, 4, tm.rangeAt va⟩ true).1 = .ok pa →
        let o := pa + (match i with | .tktPass _ true _ _ => 4 | _ => 0)
        ¬(o ≤ a ∧ a < o + 4)) →
    Memory.read t.mem a = Memory.read s.mem a) ∧
  (∀ (s t : State) (u gi id : Nat) (g : Group) (o : Op) (x : MxBlk) (r : List MxBlk) (a : Nat), s.group? u gi = some g →
    g.op? id = some o → o.act = .mx (x :: r) → exec (.mxaccBlock u gi id) s = .next t →
    ¬(x.pa ≤ a ∧ a < x.pa + MxFmt.granule x.tf) → Memory.read t.mem a = Memory.read s.mem a)

/-- One lane's atomic in a declared range reads the object, writes the new value of Table 10-5 at once and gives the old one
back; every other byte of memory stands (R239 to R241). The new value: the sum modulo the operand size; the lower or higher of
the two as signed or unsigned numbers; bit by bit; the operand; the swap value where the old one equals the compare value, else
the old; 0 where the old is not below the operand, else the old plus 1; and the FP32 sum rounded to nearest even, the canonical
NaN for a NaN operand or opposite infinities. -/
def Obligations.AtomicsReadModifyWrite : Prop :=
  (∀ (old x swp : Nat),
    let v (o : AtomOp) : Nat := AtomOp.apply o old x swp
    let i (n : Nat) : Int := if n < 2 ^ 31 then n else (n : Int) - 2 ^ 32
    v .add32 = (old + x) % 2 ^ 32 ∧ v .add64 = (old + x) % 2 ^ 64 ∧
    (old < 2 ^ 32 → x < 2 ^ 32 →
      (i old ≤ i x → v .minS = old ∧ v .maxS = x) ∧ (i x ≤ i old → v .minS = x ∧ v .maxS = old)) ∧
    v .minU = min old x ∧ v .maxU = max old x ∧
    (∀ k, (v .and).testBit k = (old.testBit k && x.testBit k) ∧ (v .or).testBit k = (old.testBit k || x.testBit k) ∧
      (v .xor).testBit k = (old.testBit k != x.testBit k)) ∧
    v .exch32 = x ∧ v .exch64 = x ∧
    (old = x → v .cas32 = swp ∧ v .cas64 = swp) ∧ (old ≠ x → v .cas32 = old ∧ v .cas64 = old) ∧
    (x ≤ old → v .inc = 0) ∧ (old < x → v .inc = old + 1)) ∧
  (∀ (old x swp : Nat),
    let sum : Nat := AtomOp.apply .addF old x swp
    let a := fF32.val old
    let b := fF32.val x
    (∀ n1 m1 e1 n2 m2 e2, a = .fin n1 m1 e1 → b = .fin n2 m2 e2 →
      let e := min e1 e2
      let z : Int := (if n1 then -(m1 : Int) else m1) * 2 ^ (e1 - e).toNat + (if n2 then -(m2 : Int) else m2) * 2 ^ (e2 - e).toNat
      (m1 ≠ 0 → m2 ≠ 0 → z ≠ 0 → sum = (fF32.round .rne 0 (decide (z < 0)) z.natAbs e).1) ∧
      (m1 ≠ 0 → m2 ≠ 0 → z = 0 → sum = 0) ∧
      (m1 = 0 → m2 ≠ 0 → sum = (fF32.round .rne 0 n2 m2 e2).1) ∧ (m1 ≠ 0 → m2 = 0 → sum = (fF32.round .rne 0 n1 m1 e1).1) ∧
      (m1 = 0 → m2 = 0 → sum = if n1 && n2 then 2 ^ 31 else 0)) ∧
    (∀ n, a = .inf n → (b = .inf n ∨ ∃ n2 m2 e2, b = .fin n2 m2 e2) → sum = if n then 0xFF800000 else 0x7F800000) ∧
    (∀ n, b = .inf n → (∃ n1 m1 e1, a = .fin n1 m1 e1) → sum = if n then 0xFF800000 else 0x7F800000) ∧
    (((∃ z, a = .nan z) ∨ (∃ z, b = .nan z) ∨ ∃ n, a = .inf n ∧ b = .inf (!n)) → sum = 0x7FC00000)) ∧
  (∀ (s : State) (t va : Nat) (tm : Team) (x : Extent) (pg : PageT) (op : AtomOp) (y swp : Nat) (out : Nat → LaneOut)
    (cov : List (Nat × Nat)),
    s.team? t = some tm → tm.rangeAt va = some x → pageOf x.pages va = some pg →
    s.poisoned (pg.at va) (AtomOp.bytes op) = false →
    let n := AtomOp.bytes op
    let old := Memory.readLE s.mem (pg.at va) n
    let r := s.gAtomic t va 0 n true (fun o => some (AtomOp.apply op o y swp)) out cov
    r.faults = (out old).faults ∧ r.lands = (out old).lands ∧
      (AtomOp.apply op old y swp < 2 ^ (8 * n) → Memory.readLE r.s.mem (pg.at va) n = AtomOp.apply op old y swp) ∧
      ∀ a, (a < pg.at va ∨ pg.at va + n ≤ a) → Memory.read r.s.mem a = Memory.read s.mem a)

/-- Of the instructions of the opcode table that have a word, MMST apart, whose write to WARMRST discards every team: only ST,
STU, ATOM, ATOMU, TKT.TAKE and TKT.PASS can change physical memory when they issue; only STS, STR, ATOMS, the barrier and
ticket instructions and FIFO.PUSH can change a scratchpad; none changes an accumulator. Every one of them, MMST too, keeps the
scratchpads in canonical form. -/
def Obligations.WordsThatStore : Prop :=
  ∀ (i : Instr) (s t : State), (encode i).isSome = true → exec i s = .next t →
    ((∀ g f sz x m p, i ≠ .st g f sz x m p ∧ i ≠ .stu g f sz x m p) →
      (∀ g f op sc o ret x m, i ≠ .atom g f op sc o ret x m ∧ i ≠ .atomu g f op sc o ret x m) →
      (∀ f d m, i ≠ .tktTake f true d m) → (∀ f sc m, i ≠ .tktPass f true sc m) → (∀ f b x m, i ≠ .mmst f b x m) →
      t.mem = s.mem) ∧
    ((∀ g f sz x m, i ≠ .sts g f sz x m) → (∀ g f sz k x m, i ≠ .str g f sz k x m) →
      (∀ g f op sc o ret k x m, i ≠ .atoms g f op sc o ret k x m) → (∀ f m n, i ≠ .barInit f m n) →
      (∀ f m d, i ≠ .barArr f m d ∧ i ≠ .barAw f m d) → (∀ f d m, i ≠ .tktTake f false d m) →
      (∀ f sc m, i ≠ .tktPass f false sc m) → (∀ f w b x, i ≠ .fifoPush f w b x) → (∀ f b x m, i ≠ .mmst f b x m) →
      ∀ n, (t.team? n).map Team.scratch = (s.team? n).map Team.scratch) ∧
    ((∀ f b x m, i ≠ .mmst f b x m) → ∀ n, (t.team? n).map Team.acc = (s.team? n).map Team.acc) ∧
    (s.scratchWf → t.scratchWf)

/-- What an access leaves in its group at issue: only the sources whose last use it is are unbound, in ACTIVE; results land
later, so no register, predicate, tile or control register is written. The group is compared with what it was, what the other
port has written in the same slice cycle kept (R35, R67, R69, R118). -/
def Obligations.AccessFrame : Prop :=
  ∀ (i : Instr) (r : GRule) (c0 c : Ctx) (s : State) (t gi : Nat) (b : Bool), globRule i = some r → c.g.kennel = false →
    encode i = some c0.cl.word → c0.IssuesLong c s r.core r.flag r.guard r.uses → c.ag = .port t gi b →
    let s' := c0.begun c s r.uses
    r.Free c s' t → c.Settles (r.after c s' t) →
    let g := c.merged s
    ∃ u h, exec i s = .next u ∧ u.group? t gi = some h ∧
      (∀ l n, (n ∉ (r.ends.filter (fun x => x.1.lu)).flatMap (fun x => Use.vNames ⟨x.1.op, x.2, 0, true⟩) ∨
        c.active.getLsbD l = false) → h.vReg l n = g.vReg l n) ∧
      (∀ n, n ∉ (r.ends.filter (fun x => x.1.lu)).flatMap (fun x => Use.sNames ⟨x.1.op, x.2, 0, true⟩) →
        AMap.get? h.sregs n = AMap.get? g.sregs n) ∧
      h.preds = g.preds ∧ h.tiles = g.tiles ∧ h.limbs = g.limbs ∧ h.lcarry = g.lcarry ∧ h.fpctl = g.fpctl ∧
      h.drained.fpflags = g.drained.fpflags ∧ h.svmask = g.svmask ∧ h.gstat &&& ~~~1#32 = g.gstat &&& ~~~1#32

/-- LDU and STU of the Kennel core complete at once (log 27, the model's reading): a load reads the SRAM below 0x80000 or
module memory from 2⁴⁸ on, a store writes there and nowhere else. Any other address, one beyond the end of memory among them
(log 29), a misaligned one, and a load that reads an uncorrectable error take BUSERR with KBAD the address; an access to memory
first waits while the Kennel's budget for it is spent (log 101) (R213, R323, R384). -/
def Obligations.KennelMemory : Prop :=
  (∀ (fs : Bool) (sz : MSize) (d : BitVec 9) (m : MAddr) (pol : BitVec 9) (c : Ctx) (s : State),
    c.ag = .kennel → c.g.kennel = true → c.g.live = true →
    c.IssuesLong c s .both (.must fs) .all (fun c => wrS c d (MSize.regs sz) :: readsOf c (MAddr.srcs m 2)) →
    let s' := c.begun c s (fun c => wrS c d (MSize.regs sz) :: readsOf c (MAddr.srcs m 2))
    let va := ((c.rd64 s m.base.op 0).toNat + ((c.rd s m.offs.op 0).signExtend 64).toNat) % 2 ^ 64
    let n := MSize.bytes sz
    (s'.kHeld va n = true → HoldsAt (.ldu fs sz d m pol) c s) ∧
    (∀ b, s'.kHeld va n = false → s'.kLoad va n = .ok b →
      RunsTo (.ldu fs sz d m pol) c s (c.mod (s'.kCharge va n) (fun g =>
        ((MSize.load sz b).zipIdx).foldl (fun g w => g.setS (d.toNat + w.2) w.1) g))) ∧
    (∀ u, s'.kHeld va n = false → s'.kLoad va n = .error u →
      exec (.ldu fs sz d m pol) s = .next ((s.kBusErr (BitVec.ofNat 64 va) u c.cl.here).tick 1))) ∧
  (∀ (s : State) (a n : Nat), 0 < n → n ≤ 16 →
    let sram := a % n = 0 ∧ a + n ≤ 0x80000
    let win := a % n = 0 ∧ 2 ^ 48 ≤ a ∧ a + n ≤ 2 ^ 48 + 768000000000
    (sram → s.kHeld a n = false ∧
      (s.sramBadIn a n = false → s.kLoad a n = .ok (Memory.readN s.k.sram a n)) ∧
      (s.sramBadIn a n = true → s.kLoad a n = .error true) ∧
      ∀ b : List Byte, b.length = n → ∃ t, s.kStore a b = some t ∧ t.mem = s.mem ∧
        (∀ k, k < n → Memory.read t.k.sram (a + k) = b.getD k 0) ∧
        ∀ x, (x < a ∨ a + n ≤ x) → Memory.read t.k.sram x = Memory.read s.k.sram x) ∧
    (win →
      (s.poisoned (a - 2 ^ 48) n = false → s.kLoad a n = .ok (Memory.readN s.mem (a - 2 ^ 48) n)) ∧
      (s.poisoned (a - 2 ^ 48) n = true → s.kLoad a n = .error true) ∧
      ∀ b : List Byte, b.length = n → ∃ t, s.kStore a b = some t ∧ t.k = s.k ∧ t.poison = s.poison ∧
        (∀ k, k < n → Memory.read t.mem (a - 2 ^ 48 + k) = b.getD k 0) ∧
        ∀ x, (x < a - 2 ^ 48 ∨ a - 2 ^ 48 + n ≤ x) → Memory.read t.mem x = Memory.read s.mem x) ∧
    (¬sram → ¬win → s.kHeld a n = false ∧ s.kLoad a n = .error false ∧
      ∀ b : List Byte, b.length = n → s.kStore a b = none)) ∧
  (∀ (gd : Guard) (fs : Bool) (sz : MSize) (x : Src) (m : MAddr) (pol : BitVec 9) (c0 c : Ctx) (s : State),
    c.ag = .kennel → c.g.kennel = true →
    c0.IssuesLong c s .both (.may fs) (.whole gd) (fun c => readsOf c ((x, MSize.regs sz) :: MAddr.srcs m 2)) →
    let s' := c0.begun c s (fun c => readsOf c ((x, MSize.regs sz) :: MAddr.srcs m 2))
    let va := ((c.rd64 s m.base.op 0).toNat + ((c.rd s m.offs.op 0).signExtend 64).toNat) % 2 ^ 64
    let n := MSize.bytes sz
    let b := wordBytes n (c.span s x.op (MSize.regs sz) 0)
    (s'.kHeld va n = true → HoldsAt (.stu gd fs sz x m pol) c s) ∧
    (∀ y, s'.kHeld va n = false → s'.kStore va b = some y → RunsTo (.stu gd fs sz x m pol) c s (y.kCharge va n)) ∧
    (s'.kHeld va n = false → s'.kStore va b = none →
      exec (.stu gd fs sz x m pol) s = .next ((s.kBusErr (BitVec.ofNat 64 va) false c.cl.here).tick 1)))

/-! ## Scratchpads, the constant window, prefetch, fences -/

/-- LDS, STS, LDR, STR and ATOMS complete where they need not wait: the lanes whose bytes lie in the scratchpad are performed
in ascending order, and the others are switched off for good; with the last limb lane of a bound group its binding ends, and
its idle lanes leave the clause (R202, R203, R213, R239, R285). A lane that would read a granule with an uncorrectable error
consumes it (R222). -/
def Obligations.ScratchpadAccess : Prop :=
  ∀ (i : Instr) (r : SpadRule) (c0 c : Ctx) (s : State), spadRule i = some r →
    c0.IssuesLong c s .compute r.flag r.guard r.uses →
    let s' := c0.begun c s r.uses
    (r.Free c s' →
      (r.viol c s' = 0 → RunsTo i c s (r.after c s')) ∧
      (r.viol c s' ≠ 0 → LeavesTo i c s (r.after c s')
        (if (c.now s').limbs ≠ 0 ∧ (c.now (r.after c s')).limbs = 0 then (c.now s').idle else 0))) ∧
    (∀ tm, (c.now s').mustWait r.store r.rel = false → (r.remote = true → s'.moving (r.own c s') = false) → r.reads = true →
      c.ag.team.isSome = true → (r.own c s').bind s'.team? = some tm →
      (∃ l ∈ r.good c s', tm.spadBad (r.addr c s' l).toNat r.len = true) → ConsumesAt i c s)

/-- LDC reads the constant window of the grid for each lane, or once for a uniform destination: its bytes as pinned, and 0
outside it; the results land later; one that reads a poisoned line consumes the error (R222). PREF, FENCE and PHASE complete too: PREF fetches the line of each lane in turn and changes
no memory, no poison, nothing staged and no scratchpad, FENCE with nothing outstanding only charges its flag, PHASE parks its
lanes until the rendezvous (R215, R216, R230, R238). -/
def Obligations.OtherMemory : Prop :=
  (∀ (fs : Bool) (sz : MSize) (d : Opnd) (m : MAddr) (c : Ctx) (s : State) (t : Nat) (tm : Team) (g : Grid),
    let n := MSize.regs sz
    let us (c : Ctx) : List Use := ⟨d, n, c.active, true⟩ :: readsOf c (MAddr.srcs m 1)
    let v := Machine.Opnd.isV d
    let ls := if v then Mask.lanes c.active c.g.width else [0]
    let s' := c.begun c s us
    c.IssuesLong c s .compute (.must fs) .all us → (c.now s).mustWait false false = false → c.ag.team = some t →
    s'.team? t = some tm → s'.grid? tm.grid = some g →
    let out := State.cLanes t tm g (MSize.bytes sz) (c.offset s m)
      (fun l b => landWords (if v then some l else none) (Machine.Opnd.reg d) (MSize.load sz b)) ls [] s'
    (∀ lands s1, out = (some lands, s1) →
      RunsTo (.ldc fs sz d m) c s (c.flies s1 (.must fs) (MAddr.srcs m 1) lands
        (if v then namesOf (Machine.Opnd.reg d) n else []) (if v then [] else namesOf (Machine.Opnd.reg d) n))) ∧
    (∀ s1, out = (none, s1) → ConsumesAt (.ldc fs sz d m) c s)) ∧
  (∀ (s : State) (t : Nat) (tm : Team) (g : Grid) (o : Int) (n : Nat), n ≤ 16 →
    (o + n ≤ 0 ∨ (g.lr.cwlen : Int) ≤ o) → (s.cRead t tm g o n).1 = some (List.replicate n 0)) ∧
  (∀ (fs l1 : Bool) (m : MAddr) (pol : BitVec 9) (c : Ctx) (s : State) (t gi : Nat) (b : Bool) (tm : Team),
    c.IssuesLong c s .compute (.may fs) .all (fun c => readsOf c (MAddr.srcs m 2) ++ polUse c pol) false → c.ag = .port t gi b →
    s.team? t = some tm → (c.now s).mustWait false false = false → (c.now s).olog = 0 →
    let s' := c.begun c s (fun c => readsOf c (MAddr.srcs m 2) ++ polUse c pol)
    let ls := Mask.lanes c.active c.g.width
    let x := ls.foldl (fun u l => u.prefetch t l1 (c.policy pol) ((c.vals s m ls none).va l)) s'
    RunsTo (.pref fs l1 m pol) c s (c.flies x (.may fs) (MAddr.srcs m 2) [] [] []) ∧
      x.mem = s.mem ∧ x.poison = s.poison ∧ (x.team? t).map Team.scratch = some tm.scratch ∧
      (x.team? t).map Team.staged = some tm.staged) ∧
  (∀ (fs : Bool) (sc : Scope) (o : Order) (c : Ctx) (s : State), c.IssuesLong c s .both (.may fs) .all (fun _ => []) →
    let s' := c.begun c s (fun _ => [])
    let unperformed := (c.now s).ops.any Op.unperformed
    (c.g.kennel = true → RunsTo (.fence fs sc o) c s s') ∧
    (c.g.kennel = false → unperformed = false → (FlagUse.may fs).flag c.cl = none →
      RunsTo (.fence fs sc o) c s s') ∧
    (c.g.kennel = false → unperformed = false → (FlagUse.may fs).flag c.cl ≠ none →
      RunsTo (.fence fs sc o) c s (c.mod s' (fun g => g.addOp (c.op (.may fs) .idle)))) ∧
    (c.g.kennel = false → unperformed = true →
      RunsTo (.fence fs sc o) c s (c.mod s' (fun g => g.addOp (c.op (.may fs)
        (.fence (o = .acq || o = .ar) (o = .rel || o = .ar))))))) ∧
  (∀ (fs : Bool) (c : Ctx) (s : State), c.IssuesLong c s .compute (.may fs) .all (fun _ => []) →
    ParksTo (.phase fs) c s (c.slot (c.begun c s (fun _ => []))) .phase)

/-! ## Synchronisation -/

/-- The barrier instructions, and tickets and WAITA on scratchpad objects, complete where the object lies in the scratchpad,
order allows it and the condition they wait for holds, with the effects of R245 to R249. One that reads bytes of the object
which hold an uncorrectable error consumes it (R222); one whose object does not lie in the scratchpad has no effect on it, and
switches the lanes of ACTIVE off (R203, R243). -/
def Obligations.ObjectsComplete : Prop :=
  ∀ (i : Instr) (r : ObjRule) (c : Ctx) (s : State) (t : Nat) (tm : Team), objRule i = some r →
    c.IssuesLong c s .compute r.flag .all r.uses →
    let s' := c.begun c s r.uses
    (r.Free c s' t tm → r.ready c s' tm (r.off c s') = true → RunsTo i c s (r.after c s' t tm)) ∧
    ((c.now s').mustWait r.store r.rel = false → c.ag.team = some t → s'.team? t = some tm →
      ((c.offset s' r.m 0 < 0 ∨ s'.spadSize tm < r.off c s' + r.al) → ∃ h : Group,
        LeavesTo i c s (c.put s' h) (if (c.now s').limbs ≠ 0 ∧ h.limbs = 0 then (c.now s').idle else 0) ∧
        h = ((((c.now s').endUses c.active r.ends).addWork { c.op r.flag (.land []) with lanes := 0 }).switchOff c.active
          c.cl.succ)) ∧
      (0 ≤ c.offset s' r.m 0 → r.off c s' + r.al ≤ s'.spadSize tm → r.rd.2 ≠ 0 →
        tm.spadBad (r.off c s' + r.rd.1) r.rd.2 = true → ConsumesAt i c s))

/-- BAR.WAIT, TKT.WAIT and WAITA on a scratchpad object whose condition fails park their lanes on the bytes they test, with
those bytes as they stand, and change nothing else. BAR.AW parks on its object: lanes that hold a mark on it whose phase has
not passed, and lanes for which no place of the group's four marks is free, change nothing; others have arrived, in the phase
that a mark then keeps (R242, R246, R247). -/
def Obligations.ObjectsPark : Prop :=
  (∀ (i : Instr) (r : ObjRule) (c : Ctx) (s : State) (t : Nat) (tm : Team) (o n : Nat), objRule i = some r →
    ((∃ f m, i = .barWait f m ∧ o = 8 ∧ n = 12) ∨ (∃ f sc m x, i = .tktWait f false sc m x ∧ o = 4 ∧ n = 4) ∨
      (∃ f sc cc m x, i = .waita f false sc cc m x ∧ o = 0 ∧ n = 4)) →
    c.IssuesLong c s .compute r.flag .all r.uses →
    let s' := c.begun c s r.uses
    r.Free c s' t tm → r.ready c s' tm (r.off c s') = false →
    ParksTo i c s s' (.sync (.scratch (r.off c s' + o) n) (Memory.readN tm.scratch (r.off c s' + o) n))) ∧
  (∀ (fs drop : Bool) (m : MAddr) (r : ObjRule) (c : Ctx) (s : State) (t : Nat) (tm : Team),
    let i := Instr.barAw fs m drop
    objRule i = some r → c.IssuesLong c s .compute r.flag .all r.uses →
    let s' := c.begun c s r.uses
    let o := r.off c s'
    let now : Word := BitVec.ofNat 32 (Memory.readLE tm.scratch o 4)
    r.Free c s' t tm → r.ready c s' tm o = false →
    let roomy := (c.now s').marks.length < 4 ∨ ∃ k ∈ (c.now s').marks, k.off = o ∧ k.phase = now
    ((c.marksOn s' o ≠ [] ∨ ¬roomy) →
      ParksTo i c s s' (.sync (.scratch o 20) (Memory.readN tm.scratch o 20))) ∧
    (c.marksOn s' o = [] → roomy →
      let x := c.mod (c.arriveAt s' t tm o drop) (c.addMark o now)
      ∃ seen, some seen = (x.team? t).map (fun y => Memory.readN y.scratch o 20) ∧
        ParksTo i c s x (.sync (.scratch o 20) seen)))

/-- An arrival at a barrier: a group that has arrived in this phase changes nothing; the arrival that reaches the expected
count starts the next phase with COUNT and ARR clear; any other adds 1 to COUNT and sets its group's bit, and leaves EXPECT. One
with DROP does the same, and EXPECT becomes one less than was expected, but not less than 1 (R246). -/
def Obligations.BarrierArrival : Prop :=
  ∀ (b : Barrier) (g n : Nat),
    let e := if 1 ≤ b.expect ∧ b.expect ≤ 96 then b.expect else n
    (b.arr.testBit g = true → ∀ d, b.arrive g n d = b) ∧
    (b.arr.testBit g = false → e ≤ b.count + 1 →
      b.arrive g n false = { b with phase := (b.phase + 1) % 2 ^ 32, count := 0, arr := 0 }) ∧
    (b.arr.testBit g = false → b.count + 1 < e →
      (b.arrive g n false).phase = b.phase ∧ (b.arrive g n false).count = b.count + 1 ∧
      (b.arrive g n false).expect = b.expect ∧
      ∀ k, (b.arrive g n false).arr.testBit k = (b.arr.testBit k || decide (k = g))) ∧
    (b.arr.testBit g = false → b.arrive g n true = { b.arrive g n false with expect := max (e - 1) 1 })

/-- TKT.TAKE, TKT.WAIT, TKT.PASS and WAITA on objects in global memory complete where they need not wait, their access neither
faults nor meets poison, and their condition holds; where it fails they park on the bytes they test, with those bytes as they
stand; where the access faults they park until its replay; one that reads a poisoned line consumes the error (R59, R222, R242,
R243, R248, R249). -/
def Obligations.GlobalObjectsComplete : Prop :=
  ∀ (i : Instr) (r : GlobSyncRule) (c : Ctx) (s : State) (t gi : Nat) (b : Bool), globSyncRule i = some r →
    c.IssuesLong c s .compute r.flag .all r.uses → c.ag = .port t gi b →
    let s' := c.begun c s r.uses
    (r.acc.waits s' t (c.now s') (r.vals c s') [0] r.rel = false → (r.run c s' t).uce = true → ConsumesAt i c s) ∧ (
    r.Free c s' t →
    let o := r.run c s' t
    let va := r.acc.addr (r.vals c s') 0
    (o.faults = [] → o.blocked = false → RunsTo i c s (c.flies o.s r.flag r.ends o.lands [] r.dS)) ∧
    (∀ tm pa, o.faults = [] → o.blocked = true → s'.team? t = some tm →
      (s'.place? tm ⟨va, r.acc.len, tm.rangeAt va⟩ false).1 = .ok pa →
      ParksTo i c s s' (.sync (.glob pa r.acc.len) (Memory.readN s'.mem pa r.acc.len))) ∧
    (o.faults ≠ [] → ParksTo i c s (r.faulted c s' t) (.replay (c.now s').nextOp)))

/-- WAITF completes when every flag it names is clear and otherwise parks. FIFO.PUSH of a bank that is not full writes an entry
of 64 slots, 0 in those of lanes not in ACTIVE, behind the last; on a full bank it parks. FIFO.POP of a bank that is not empty
takes the head entry, whose values land later; on an empty bank it parks; one that reads an uncorrectable error of the entry
consumes it (R222, R250, R251). -/
def Obligations.FlagsAndFifos : Prop :=
  (∀ (fs : Bool) (mask : BitVec 12) (c : Ctx) (s : State), c.IssuesLong c s .compute (.may fs) .all (fun _ => []) →
    let s' := c.begun c s (fun _ => [])
    ((∀ f, f < 12 → mask.getLsbD f = true → (c.now s).flagBusy f = false) →
      RunsTo (.waitf fs mask) c s (c.flies s' (.may fs) [] [] [] [])) ∧
    ((∃ f, f < 12 ∧ mask.getLsbD f = true ∧ (c.now s).flagBusy f = true) → c.ag ≠ .kennel →
      ParksTo (.waitf fs mask) c s s' (.sync (.flags mask) ((upTo 12).map (fun f =>
        if mask.getLsbD f = true ∧ (c.now s).flagBusy f = true then 1 else 0))))) ∧
  (∀ (fs w64 : Bool) (b x : Src) (c : Ctx) (s : State) (t k : Nat) (tm : Team),
    let n := if w64 then 2 else 1
    let us (c : Ctx) := readsOf c [(x, n), (b, 1)]
    let s' := c.begun c s us
    let bi := (c.rd s b.op 0).toNat
    let f := tm.fifos.getD k (0, 0)
    let slot (l : Nat) : List Byte :=
      if c.active.getLsbD l then leBytes 8 (if w64 then (c.rd64 s x.op l).toNat else (c.rd s x.op l).toNat)
      else List.replicate 8 0
    c.IssuesLong c s .compute (.may fs) .all us → c.ag.team = some t → s'.team? t = some tm →
    s'.fifoOf tm bi = some k → (c.now s).mustWait true true = false →
    (f.2 < 64 → RunsTo (.fifoPush fs w64 b x) c s (c.flies
      ((s'.spadStore t (32768 * bi + 512 * ((f.1 + f.2) % 64)) ((upTo 64).flatMap slot)).modTeam t (fun y =>
        { y with fifos := modifyAt y.fifos k (fun _ => (f.1, f.2 + 1)) })) (.may fs) [(x, n), (b, 1)] [] [] [])) ∧
    (64 ≤ f.2 → ParksTo (.fifoPush fs w64 b x) c s s' (.sync (.fifo k) [BitVec.ofNat 8 f.1, BitVec.ofNat 8 f.2]))) ∧
  (∀ (fs w64 : Bool) (b : Src) (d : BitVec 8) (c : Ctx) (s : State) (t k : Nat) (tm : Team),
    let n := if w64 then 2 else 1
    let us (c : Ctx) := wrV c d n :: readsOf c [(b, 1)]
    let s' := c.begun c s us
    let bi := (c.rd s b.op 0).toNat
    let f := tm.fifos.getD k (0, 0)
    let o := 32768 * bi + 512 * (f.1 % 64)
    c.IssuesLong c s .compute (.must fs) .all us → c.ag.team = some t → s'.team? t = some tm →
    s'.fifoOf tm bi = some k → (c.now s).mustWait true false = false →
    (0 < f.2 → (∀ l ∈ Mask.lanes c.active c.g.width, tm.spadBad (o + 8 * l) (4 * n) = false) →
      RunsTo (.fifoPop fs w64 b d) c s (c.flies
        (s'.modTeam t (fun y =>
          let y1 := y.copyBlocks (s'.nscr y) o 512
          { y1 with fifos := modifyAt y1.fifos k (fun _ => ((f.1 + 1) % 64, f.2 - 1)) }))
        (.must fs) [(b, 1)]
        ((Mask.lanes c.active c.g.width).flatMap (fun l => landWords (some l) d.toNat
          (MSize.load (if w64 then .b64 else .b32) (Memory.readN tm.scratch (o + 8 * l) (4 * n)))))
        (namesOf d.toNat n) [])) ∧
    (0 < f.2 → (∃ l ∈ Mask.lanes c.active c.g.width, tm.spadBad (o + 8 * l) (4 * n) = true) →
      ConsumesAt (.fifoPop fs w64 b d) c s) ∧
    (f.2 = 0 → ParksTo (.fifoPop fs w64 b d) c s s' (.sync (.fifo k) [BitVec.ofNat 8 f.1, BitVec.ofNat 8 f.2])))

/-! ## The matrix engine, the Retriever -/

/-- MMA, the ACC instructions and MSTAT complete at issue where their tile exists, the queue has room and every byte they touch
lies in the scratchpad: the operation stands last in its core's queue with the registers read at issue. One that names a tile
beyond the team's accumulators raises REGBUDGET (R37, R297). TDEF writes a tile
register from four uniform registers (R288, R289, R294, R297, R303 to R305). -/
def Obligations.EngineQueues : Prop :=
  (∀ (i : Instr) (r : EngRule) (c : Ctx) (s : State) (t : Nat) (tm : Team), engRule i = some r →
    c.IssuesLong c s .compute r.flag .all r.uses →
    let s' := c.begun c s r.uses
    (r.Free c s' t tm → RunsTo i c s (r.after c s' t tm)) ∧
    (∀ a, r.acc = some a → c.ag.team = some t → s'.team? t = some tm → r.hdr c = true → s'.nacc tm ≤ a.toNat →
      TrapsTo i c s .regBudget c.active 0)) ∧
  (∀ (n : BitVec 4) (u : BitVec 9) (c : Ctx) (s : State),
    c.Issues s .compute (fun c => [⟨.s u, 4, c.active, false⟩]) →
    RunsTo (.tdef n u) c s (c.did c s (fun c => [⟨.s u, 4, c.active, false⟩]) (fun g =>
      { g with tiles := modifyAt g.tiles n.toNat (fun _ =>
          c.g.sVal (u.toNat + 3) ++ c.g.sVal (u.toNat + 2) ++ c.g.sVal (u.toNat + 1) ++ c.g.sVal u.toNat) })))

/-- A Retriever command completes at issue where its signal and its payload lie in the scratchpads and its column has room: it
joins its team's commands with the eight words of its block, and its flag is charged; a malformed block makes it a command that
fails with BADBLOCK, a second collective of one GROUP and SEQ one that fails with MISMATCH (R311, R312, R330, log 55). -/
def Obligations.CommandsQueue : Prop :=
  ∀ (i : Instr) (opc : Nat) (f : CmdF) (k : CmdKind) (c : Ctx) (s : State) (t : Nat) (tm : Team),
    cmdRule i = some (opc, f, k) → c.IssuesLong c s .compute (.may f.fs) .all (cmdUses · f) →
    let s' := c.begun c s (cmdUses · f)
    let x := c.newCmd s' tm opc f k
    CmdFits c s' t tm f x → RunsTo i c s (c.queued s' t f x)

/-! ## System -/

/-- TRAP halts the group with TRAPN and its number, and BRK with BRKPT unless the grid's record sets NOBRK; on the Kennel core
both leave their vector, 0 for TRAP and 1 for BRK, for the end of the clause, which the last instruction of the clause then
takes: KEPC is the word after the clause, INH is set, and the pc comes from the table at KVBASE. That the halt window's lanes are ACTIVE is log 39, the model's reading (R356, R387). -/
def Obligations.TrapAndBreak : Prop :=
  (∀ (n : Word) (c : Ctx) (s : State) (t gi : Nat) (b : Bool), c.Issues s .both (fun _ => []) → c.ag = .port t gi b →
    TrapsTo (.trap n) c s .trapN c.active n ∧
    ((∀ tm g, s.team? t = some tm → s.grid? tm.grid = some g → g.lr.nobrk = false) →
      TrapsTo (.brk n) c s .brkpt c.active n) ∧
    (∀ tm g, s.team? t = some tm → s.grid? tm.grid = some g → g.lr.nobrk = true →
      RunsTo (.brk n) c s (c.begun c s (fun _ => [])))) ∧
  (∀ (n : Word) (c : Ctx) (s : State), c.Issues s .both (fun _ => []) → c.ag = .kennel →
    let s' := c.begun c s (fun _ => [])
    RunsTo (.trap n) c s { s' with k := { s'.k with ends := s'.k.ends ++ [.trap] } } ∧
    RunsTo (.brk n) c s { s' with k := { s'.k with ends := s'.k.ends ++ [.brk] } } ∧
    ∀ k i, (k = 0 ∧ i = Instr.trap n) ∨ (k = 1 ∧ i = .brk n) →
      s.k.ends = [] → s.k.inh = false → s.k.locked = none → c.cl.pos + 1 = c.cl.words.length → 0 < c.g.lanes.length →
      let v := BitVec.ofNat 64 (Memory.readLE s.k.sram (s.k.kvbase.toNat / 256 * 256 + 8 * k) 8)
      s.target .kennel v = true →
      ∃ t, exec i s = .next t ∧ t.k.vec = BitVec.ofNat 8 k ∧ t.k.kepc = c.cl.succ ∧ t.k.inh = true ∧ t.kPc = v ∧
        t.k.ends = [] ∧ t.mem = s.mem ∧ t.k.sram = s.k.sram)

/-- PERF writes the counter it names as it stands, its own slot not counted (log 19, the model's reading), and then clears it
if told to; CLK, once every flag of the group is clear and every result has landed, writes the whole count with the shadow of
its upper half; ICINV discards the cached words its bytes touch, and no others (log 38, the model's choice). Each number names
the counter of Table 15-10, and a cleared one counts on from 0, the others as they were (R357 to R359). -/
def Obligations.CountersAndCaches : Prop :=
  (∀ (w64 clr : Bool) (d : BitVec 9) (num : BitVec 12) (c : Ctx) (s : State),
    c.Issues s .compute (fun c => [wrS c d (if w64 then 2 else 1)]) →
    let s' := c.begun c s (fun c => [wrS c d (if w64 then 2 else 1)])
    let x : DWord := BitVec.ofNat 64 (c.perf s' num.toNat)
    RunsTo (.perf w64 clr d num) c s (c.mod (if clr then c.perfClear s' num.toNat else s')
      (fun g => if w64 then g.setS64 d.toNat x else g.setS d.toNat (x.extractLsb' 0 32)))) ∧
  (∀ (d : BitVec 9) (c : Ctx) (s : State), c.Issues s .both (fun c => [wrS c d 2]) →
    ((∀ f, f < 12 → (c.now s).flagBusy f = false) → (∀ f ∈ (c.now s).flying, f.due < s.clk) →
      RunsTo (.clk d) c s (c.mod (c.begun c s (fun c => [wrS c d 2])) (fun g =>
        { g.setS64 d.toNat s.clkLo with clkhi := s.clkLo.extractLsb' 32 32 }))) ∧
    (((∃ f, f < 12 ∧ (c.now s).flagBusy f = true) ∨ ∃ f ∈ (c.now s).flying, s.clk ≤ f.due) → HoldsAt (.clk d) c s)) ∧
  (∀ (fs all : Bool) (a l : Src) (c : Ctx) (s : State),
    c.IssuesLong c s .both (.may fs) .all (fun c => readsOf c [(a, 2), (l, 1)]) →
    ∃ x, RunsTo (.icinv fs all a l) c s (c.mod x (fun g => g.endUses c.active [(a, 2), (l, 1)])) ∧
      x = { c.begun c s (fun c => readsOf c [(a, 2), (l, 1)]) with icache := x.icache } ∧
      ∀ w, w ∈ x.icache ↔ w ∈ s.icache ∧
        ((all = false ∧ w.core ≠ (s.fetcher c.ag).core) ∨ w.addr + 8 ≤ (c.rd64 s a.op 0).toNat ∨
          (c.rd64 s a.op 0).toNat + (c.rd s l.op 0).toNat ≤ w.addr)) ∧
  (∀ (c : Ctx) (s : State) (tm : Team), c.team? s = some tm →
    let p := c.perf s
    (∀ i, i < 7 → p i = tm.perf.getD i 0 % 2 ^ 64) ∧
    p 7 = (tm.perf.getD 7 0 + (if tm.resident then s.clk - tm.resAt else 0)) % 2 ^ 64 ∧
    p 0x10 = c.g.clauses ∧ p 0x11 = c.g.instrs ∧ p 0x12 = c.g.promotes ∧ p 0x13 = c.g.grantHold ∧
    p 0x20 = (s.core tm.core).mmas ∧ p 0x21 = (s.core tm.core).hops ∧ p 0x22 = (s.core tm.core).stretches) ∧
  (∀ (c : Ctx) (s : State),
    c.perfClear s 0x10 = c.mod s (fun g => { g with clauses := 0 }) ∧
    c.perfClear s 0x11 = c.mod s (fun g => { g with instrs := 0 }) ∧
    c.perfClear s 0x12 = c.mod s (fun g => { g with promotes := 0 }) ∧
    c.perfClear s 0x13 = c.mod s (fun g => { g with grantHold := 0 }) ∧
    ∀ tm i, c.team? s = some tm → i < 8 →
      (∃ p r, c.team? (c.perfClear s i) = some { tm with perf := p, resAt := r }) ∧ c.perf (c.perfClear s i) i = 0 ∧
      ∀ j, j < 8 → j ≠ i → c.perf (c.perfClear s i) j = c.perf s j)

/-- LAUNCH answers 4 for a queue number above 63, 3 for a misaligned address, 2 for a queue that is off, 1 for a full one, and
0 when it has appended the address; from a compute group the answer lands later and the entry carries the grid's ROOT and ASID
(R339, R345). -/
def Obligations.LaunchPushes : Prop :=
  (∀ (s : State) (q : Nat) (a : DWord),
    (63 < q → s.launchCode q a = 4) ∧ (q ≤ 63 → a.toNat % 64 ≠ 0 → s.launchCode q a = 3) ∧
    (q ≤ 63 → a.toNat % 64 = 0 → (s.queue q).enable = false → s.launchCode q a = 2) ∧
    (q ≤ 63 → a.toNat % 64 = 0 → (s.queue q).enable = true → 64 ≤ (s.queue q).fifo.length → s.launchCode q a = 1) ∧
    (q ≤ 63 → a.toNat % 64 = 0 → (s.queue q).enable = true → (s.queue q).fifo.length < 64 → s.launchCode q a = 0)) ∧
  (∀ (fs : Bool) (d : BitVec 9) (q a : Src) (c : Ctx) (s : State),
    let us (c : Ctx) := wrS c d 1 :: readsOf c [(q, 1), (a, 2)]
    let s' := c.begun c s us
    let qn := (c.rd s q.op 0).toNat
    let ad := c.rd64 s a.op 0
    let code := s'.launchCode qn ad
    c.IssuesLong c s .both (.must fs) .all us →
    (c.ag = .kennel → c.g.live = true →
      RunsTo (.launch fs d q a) c s (c.mod (if code = 0 then s'.enqueue qn ⟨ad, none⟩ else s')
        (fun g => g.setS d.toNat (BitVec.ofNat 32 code)))) ∧
    (∀ t gi b tm g, c.ag = .port t gi b → s'.team? t = some tm → s'.grid? tm.grid = some g →
      (c.now s).mustWait true true = false →
      RunsTo (.launch fs d q a) c s (c.flies
        ((if code = 0 then s'.enqueue qn ⟨ad, some (g.lr.root, g.lr.asid)⟩ else s').modTeam t (fun x =>
          { x with since := { x.since with launch := true } }))
        (.must fs) [(q, 1), (a, 2)] [⟨none, d.toNat, BitVec.ofNat 32 code, false⟩] [] [d.toNat])))

/-- WFI goes on once an enabled interrupt is pending and holds until then. IRET with INH = 1 leaves its return for the end of
the clause and with INH = 0 raises ILLOP (R383, R388). -/
def Obligations.WaitAndReturn : Prop :=
  (∀ (c : Ctx) (s : State), c.Issues s .kennel (fun _ => []) →
    let s' := c.begun c s (fun _ => [])
    (s.k.kipend &&& s.k.kien ≠ 0 → RunsTo .wfi c s s') ∧ (s.k.kipend &&& s.k.kien = 0 → HoldsAt .wfi c s) ∧
    (s.k.inh = true → RunsTo .iret c s { s' with k := { s'.k with ends := s'.k.ends ++ [.iret c.cl.word] } }) ∧
    (s.k.inh = false → TrapsTo .iret c s .illOp c.active 0)) ∧
  (∀ (c : Ctx) (s : State), c.Issues s .kennel (fun _ => []) → c.ag = .kennel → s.k.inh = true → s.k.ends = [] →
    s.k.locked = none → c.cl.pos + 1 = c.cl.words.length → 0 < c.g.lanes.length → s.target .kennel s.k.kepc = true →
    ∃ t, exec .iret s = .next t ∧ t.k.inh = false ∧ t.kPc = s.k.kepc ∧ t.k.kepc = s.k.kepc ∧ t.k.ends = [])

/-- MMLD writes the register or registers at its address to its destination, with the side effect of reading them; MMST writes
its value to them; an address that is misaligned or names no register takes BUSERR with KBAD the address. Each address names
the register of Table 17-3 (UPSRC to UPCMD as log 31 places them, the model's reading) with the contents the table gives. A
write outside a register's limits leaves it and sets REFUSED: CACHEMIN from 8 to 128, CBUD from 40 to 80 with a sum of at most
9,792, COOL, HOT and CRIT from 240 to 500 in that order, KCAP from 4 to 16 and GCAP from 1 to 8 each by itself; a write within
them takes, a budget at the next period (R25, R200, R389 to R391). That one during a coolant shutdown, which holds the budgets
at 5 W (R395), leaves the state as it is, is log 74, the model's reading. -/
def Obligations.MSpaceAccess : Prop :=
  (∀ (fs b64 : Bool) (d : BitVec 9) (m : MAddr) (c : Ctx) (s : State),
    let us (c : Ctx) := wrS c d (if b64 then 2 else 1) :: readsOf c [(m.base, 1), (m.offs, 1)]
    let s' := c.begun c s us
    let a := ((c.rd s m.base.op 0).toNat + (c.rd s m.offs.op 0).toNat) % 2 ^ 32
    c.IssuesLong c s .kennel (.must fs) .all us → c.g.live = true →
    (∀ x, b64 = false → mreg a = some x →
      RunsTo (.mmld fs b64 d m) c s (c.mod (s'.mread x).2 (fun g => g.setS d.toNat (s'.mread x).1))) ∧
    (∀ x y, b64 = true → a % 8 = 0 → mreg a = some x → mreg (a + 4) = some y →
      RunsTo (.mmld fs b64 d m) c s (c.mod ((s'.mread x).2.mread y).2 (fun g =>
        (g.setS d.toNat (s'.mread x).1).setS (d.toNat + 1) ((s'.mread x).2.mread y).1))) ∧
    (mregs b64 a = none →
      exec (.mmld fs b64 d m) s = .next ((s.kBusErr (BitVec.ofNat 64 a) false c.cl.here).tick 1))) ∧
  (∀ (fs b64 : Bool) (x : Src) (m : MAddr) (c : Ctx) (s : State),
    let us (c : Ctx) := readsOf c [(x, if b64 then 2 else 1), (m.base, 1), (m.offs, 1)]
    let s' := c.begun c s us
    let a := ((c.rd s m.base.op 0).toNat + (c.rd s m.offs.op 0).toNat) % 2 ^ 32
    c.IssuesLong c s .kennel (.may fs) .all us →
    (∀ y, b64 = false → mreg a = some y → y ≠ .warmrst →
      RunsTo (.mmst fs b64 x m) c s (s'.mwrite y (c.rd s x.op 0))) ∧
    (∀ y z, b64 = true → a % 8 = 0 → mreg a = some y → mreg (a + 4) = some z →
      RunsTo (.mmst fs b64 x m) c s
        ((s'.mwrite y ((c.rd64 s x.op 0).extractLsb' 0 32)).mwrite z ((c.rd64 s x.op 0).extractLsb' 32 32))) ∧
    (mregs b64 a = none →
      exec (.mmst fs b64 x m) s = .next ((s.kBusErr (BitVec.ofNat 64 a) false c.cl.here).tick 1))) ∧
  (∀ k : Nat,
    (k < 576 → mreg (0x10000 + 4 * k) = some (.temp k) ∧ mreg (0x28000 + 4 * k) = some (.sctlAll k)) ∧
    (k < 32 → mreg (0x11000 + 4 * k) = some (.btemp k)) ∧ (k < 16 → mreg (0x12000 + 4 * k) = some (.pmon k)) ∧
    (k < 3456 → mreg (0x20000 + 4 * k) = some (.sctl k)) ∧
    (k < 144 → mreg (0x30000 + 4 * k) = some (.cbud k) ∧ mreg (0x31000 + 4 * k) = some (.cacheMin k)) ∧
    (k < 9 → mreg (0x40100 + 4 * k) = some (.bud k)) ∧
    (k < 6 → mreg (0x40200 + 8 * k) = some (.enlo k) ∧ mreg (0x40204 + 8 * k) = some (.enhi k)) ∧
    (k < 64 → mreg (0x50000 + 16 * k) = some (.coll0 k) ∧ mreg (0x50004 + 16 * k) = some (.coll1 k)) ∧
    (k < 8 → mreg (0x60000 + 4 * k) = some (.logbuf k)) ∧
    (k < 256 → ∀ w, w < 4 → mreg (0x70000 + 16 * k + 4 * w) = some (.repair k w)) ∧
    (k < 7680 → mreg (0x71000 + 8 * k) = some (.retired k false) ∧ mreg (0x71004 + 8 * k) = some (.retired k true))) ∧
  (mreg 0x40000 = some .cool ∧ mreg 0x40004 = some .hot ∧ mreg 0x40008 = some .crit ∧ mreg 0x4000C = some .reside ∧
    mreg 0x51000 = some .ctimeout ∧ mreg 0x60020 = some .logcommit ∧ mreg 0x60024 = some .logseq ∧
    mreg 0x60028 = some .logrd ∧ mreg 0x80000 = some (.upsrc false) ∧ mreg 0x80004 = some (.upsrc true) ∧
    mreg 0x80008 = some (.updst false) ∧ mreg 0x8000C = some (.updst true) ∧ mreg 0x80010 = some .uplen ∧
    mreg 0x80018 = some .upcmd ∧ mreg 0x8001C = some .upstat ∧ mreg 0x90000 = some .warmrst) ∧
  (∀ (s : State) (n : Nat) (x : Word),
    let y := (s.core (n / 6)).slice (n % 6)
    let v (r : MReg) : Word := (s.mread r).1
    v (.sctl n) = BitVec.ofNat 32 (y.k * 2 ^ 24 + y.g * 2 ^ 16 + y.kcap * 2 ^ 8 + y.gcap) ∧
    v (.cbud n) = BitVec.ofNat 32 ((s.col n).pendBudget.getD (s.col n).budget + 2 ^ 8 * (s.col n).lam) ∧
    v (.cacheMin n) = BitVec.ofNat 32 (s.col n).cacheMin ∧ v .cool = BitVec.ofNat 32 s.k.cool ∧
    v .hot = BitVec.ofNat 32 s.k.hot ∧ v .crit = BitVec.ofNat 32 s.k.crit ∧ v .reside = BitVec.ofNat 32 s.k.reside ∧
    v .ctimeout = s.k.ctimeout ∧ v .logseq = s.nvm.logSeq ∧ v .logrd = s.k.logrd ∧ v .upstat = s.k.upstat ∧
    (v (.temp n)).toNat % 2 ^ 16 = (BitVec.ofInt 16 (s.core n).deg).toNat ∧
    (v (.temp n)).getLsbD 16 = (s.core n).clamp ∧ (v (.temp n)).getLsbD 17 = (s.core n).hot ∧
    (x.toNat < 8 ∨ 128 < x.toNat → s.mwrite (.cacheMin n) x = { s with k := { s.k with refused := true, refAt := some s.clk } }) ∧
    (8 ≤ x.toNat → x.toNat ≤ 128 → ((s.mwrite (.cacheMin n) x).col n).cacheMin = x.toNat) ∧
    let refuses (r : MReg) : Prop := s.mwrite r x = { s with k := { s.k with refused := true, refAt := some s.clk } }
    let set (m : Nat) : Nat := (s.col m).pendBudget.getD (s.col m).budget
    let sum : Nat := ((upTo 144).map (fun m => if m = n then x.toNat % 128 else set m)).sum
    (n < 144 → (x.toNat % 128 < 40 ∨ 80 < x.toNat % 128 ∨ 9792 < sum) → refuses (.cbud n)) ∧
    (n < 144 → 40 ≤ x.toNat % 128 → x.toNat % 128 ≤ 80 → sum ≤ 9792 →
      (s.cool.shutdown = true → s.mwrite (.cbud n) x = s) ∧
      (s.cool.shutdown = false → ((s.mwrite (.cbud n) x).col n).pendBudget = some (x.toNat % 128) ∧
        ((s.mwrite (.cbud n) x).col n).budget = (s.col n).budget ∧
        ∀ m, m ≠ n → (s.mwrite (.cbud n) x).col m = s.col m)) ∧
    (let ok (c h z : Nat) : Prop := 240 ≤ c ∧ c < h ∧ h < z ∧ z ≤ 500
     let w := x.toNat % 1024
     (¬ok w s.k.hot s.k.crit → refuses .cool) ∧ (¬ok s.k.cool w s.k.crit → refuses .hot) ∧
     (¬ok s.k.cool s.k.hot w → refuses .crit) ∧
     (ok w s.k.hot s.k.crit → s.mwrite .cool x = { s with k := { s.k with cool := w } }) ∧
     (ok s.k.cool w s.k.crit → s.mwrite .hot x = { s with k := { s.k with hot := w } }) ∧
     (ok s.k.cool s.k.hot w → s.mwrite .crit x = { s with k := { s.k with crit := w } })) ∧
    (let u := s.mwrite (.sctl n) x
     let z := (u.core (n / 6)).slice (n % 6)
     let kc := x.toNat / 2 ^ 8 % 32
     let gc := x.toNat % 16
     (4 ≤ kc ∧ kc ≤ 16 → z.kcap = kc) ∧ (¬(4 ≤ kc ∧ kc ≤ 16) → z.kcap = y.kcap) ∧
     (1 ≤ gc ∧ gc ≤ 8 → z.gcap = gc) ∧ (¬(1 ≤ gc ∧ gc ≤ 8) → z.gcap = y.gcap) ∧ z.k = y.k ∧
     u.k.refused = (s.k.refused || !(4 ≤ kc && kc ≤ 16 && 1 ≤ gc && gc ≤ 8))) ∧
    (n < 9 → n < s.k.bud.length → (s.mwrite (.bud n) x).k.bud[n]? = some x ∧
      ∀ m, m ≠ n → (s.mwrite (.bud n) x).k.bud[m]? = s.k.bud[m]?) ∧
    (s.mwrite .reside x).k.reside = x.toNat % 2 ^ 20 ∧ (s.mwrite .ctimeout x).k.ctimeout = x ∧
    (s.mwrite .logrd x).k.logrd = x ∧ s.mwrite (.temp n) x = s ∧ s.mwrite .logseq x = s ∧ s.mwrite .upstat x = s)

/-! ## Events -/

/-- The events of a group, where nothing they wait for is missing. TURN begins the turn of the group whose last issue is
oldest; LOAD_LAND writes the results of an operation and ends it, or has the fault found that keeps it, performs an engine
movement, or ends a fence. A fault that is found takes an entry of the operand log, with its fault records; a ninth stalls the
group. OPERAND_LOG_REPLAY performs the faulted lanes of the oldest logged operation again and, where none faults, ends it;
PARK_WAKE lets the lane set of a lane go on whose object has changed or that has waited 4,096 cycles; MXACC_BLOCK accumulates
the next block of an MXACC, of a team that has consumed no uncorrectable error; a replay or a block that reads a poisoned line consumes the
error (R59, R67, R69, R146, R147, R218, R219, R242,
R261). -/
def Obligations.GroupEvents : Prop :=
  (∀ (s : State) (core slice t : Nat) (tm : Team) (g : Group),
    (∀ x ∈ s.onSlice core slice, x.2.2.inTurn = true → x.2.1.uce = true) → ((s.core core).slice slice).hop = none →
    (t, tm, g) ∈ s.onSlice core slice → s.eligible t tm g = true →
    (∀ y ∈ s.onSlice core slice, s.eligible y.1 y.2.1 y.2.2 = true → y ≠ (t, tm, g) → olderThan g y.2.2 = true) →
    exec (.turn core slice) s = .next (s.beginTurn t tm g)) ∧
  (∀ (s : State) (t gi id : Nat) (tm : Team) (g : Group) (o : Op), s.team? t = some tm → tm.group? gi = some g →
    g.op? id = some o →
    (∀ ws, o.act = .land ws → o.landed = false → o.faulted = 0 →
      exec (.loadLand t gi id) s = .next (s.modGroup t gi (fun g => ((landAll ws o.gone g).dropOp id s.clk).spill))) ∧
    (∀ ws, o.act = .land ws → o.landed = false → o.faulted ≠ 0 →
      exec (.loadLand t gi id) s = .next ((s.modGroup t gi (fun g =>
        ((landAll ws o.gone g).setOp { o with act := .land [], landed := true }).spill)).findFault t gi id)) ∧
    (∀ bs, o.act = .mx bs → exec (.loadLand t gi id) s = .next (s.findFault t gi id)) ∧
    (o.act = .idle → exec (.loadLand t gi id) s = .next (s.modGroup t gi (fun g => (g.dropOp id s.clk).spill))) ∧
    (∀ acq rel, o.act = .fence acq rel → g.earlierOpen id = false →
      exec (.loadLand t gi id) s = .next (s.modGroup t gi (fun g => g.dropOp id s.clk))) ∧
    (∀ rows a s1, o.act = .engine rows a → s.performMove t gi tm o rows a = some (.ok s1) →
      exec (.loadLand t gi id) s = .next (s1.endEngine tm.core t gi id)) ∧
    (o.recs = [] → s.findFault t gi id = s) ∧
    (o.recs ≠ [] → g.olog < 8 → ∃ h p, (s.findFault t gi id).group? t gi = some h ∧ h.op? id = some p ∧
      p.entry = some g.freeEntry ∧ p.recs = [] ∧ p.faulted = o.faulted ∧ p.vals = o.vals ∧
      (s.findFault t gi id).sched.tokens.length = s.sched.tokens.length + o.recs.length) ∧
    (o.recs ≠ [] → 8 ≤ g.olog → (s.findFault t gi id).sched = s.sched ∧
      ∃ h, (s.findFault t gi id).group? t gi = some h ∧ h.stalled = true)) ∧
  (∀ (s : State) (t gi : Nat) (tm : Team) (g : Group) (o : Op) (i : Instr) (a : GAcc) (ws : List Land),
    s.team? t = some tm → tm.group? gi = some g → g.oldestEntry = some o → decode o.word = .ok i → replayAcc i = some a →
    o.entry.isSome = true → tm.resident = true → tm.st = .running → tm.uce = false → s.answered (.entry t gi o.id) = true →
    o.act = .land ws →
    let s0 := (s.clearTokens (.entry t gi o.id)).modGroup t gi (fun g => if o.landed then g else landAll ws o.gone g)
    let r := a.runLanes t o.vals (a.lanes o.faulted g.width) ⟨[], [], false, false, g.shade o.portB o.turn o.covered, [], s0⟩
    (r.uce = true → exec (.operandLogReplay t gi) s = .next (s.modTeam t (fun x => { x with uce := true }))) ∧ (
    r.uce = false → r.blocked = false → r.faults = [] → r.mx = [] →
    ∃ u, exec (.operandLogReplay t gi) s = .next u ∧ u.mem = r.s.mem ∧ u.sched = r.s.sched ∧
      ∀ h, u.group? t gi = some h → h.op? o.id = none)) ∧
  (∀ (s : State) (t gi l : Nat) (g : Group) (w : WaitObj) (seen : List Byte), s.group? t gi = some g →
    (g.lane l).park = some (.sync w seen) → ((g.lane l).parkedAt + 4096 ≤ s.clk ∨ s.objBytes t g w ≠ seen) →
    ∃ u h, exec (.parkWake t gi l) s = .next u ∧ u.group? t gi = some h ∧ u.mem = s.mem ∧
      ∀ k, h.lane k = if (g.lane k).park = (g.lane l).park ∧ (g.lane k).resume = (g.lane l).resume ∧
          (g.lane k).pc = (g.lane l).pc then { g.lane k with park := none } else g.lane k) ∧
  (∀ (s s1 : State) (t gi id : Nat) (g : Group) (o : Op) (b : MxBlk) (r : List MxBlk), s.group? t gi = some g →
    (∀ tm, s.team? t = some tm → tm.uce = false) → g.op? id = some o → o.act = .mx (b :: r) →
    (s.poisoned b.pa (MxFmt.granule b.tf) = true →
      exec (.mxaccBlock t gi id) s = .next (s.modTeam t (fun x => { x with uce := true }))) ∧
    (s.mxPerform t b = some s1 →
      exec (.mxaccBlock t gi id) s = .next (s1.modGroup t gi (fun g =>
        g.setOp { o with act := if r.isEmpty then .land [] else .mx r }))))

/-- The events of the matrix engine and the Retriever. The capture of an MMA in its turn, at most four ahead, reads
words of its operands, each as it then stands (log 98, the model's choice: the agenda says which when); MMA_CAPTURE reads the
rest, ends it and clears its flag; where no write came in between, what it captured is what stands; MMA_COMPLETE writes the rows and the
status, or only STATUS.BADTILE where a tile is malformed. A Retriever command whose turn it is moves its next segment and is
charged for it, answers a look-up, lists a segment that faults, or gives up one that lies outside its window, and has then had
its turn; its signal is written last, with ERROR in bit 31 where it failed, and one that faults waits for its answer; a listed
segment is tried again once the host has answered, and a second fault leaves it unresolvable, as it does the signal; a
collective whose participants have all arrived in time turns to writing its result, or fails with MISMATCH where they differ,
and one whose time is over (log 108, the model's choice of its start) fails with TIMEOUT, each word of its OUT old or one the
collective wrote (a free value, log 55) (R289, R291, R299, R301, R310, R313, R319 to R321, R323, R330, R331). -/
def Obligations.EngineAndCommandEvents : Prop :=
  (∀ (s : State) (t gi id acc koff : Nat) (tm : Team) (g : Group) (o : Op) (rows : List Nat) (ta tb : Tile) (fa fb : Fmt)
    (st : Option (Nat × Word)) (za u c : Bool),
    s.team? t = some tm → tm.group? gi = some g → g.op? id = some o →
    (o.act = .engine rows (.mma acc ta tb st za koff none u c) → mmaFmts ta tb = some (fa, fb) →
      s.captureTurn tm.core (t, gi, id) = true → s.captured tm.core < 4 →
      let left := (operandWords ta tb fa fb koff).filter (fun w => !AMap.has o.early w)
      (∀ ws, ∃ o1 : Op, s.capture t gi id (some ws) = s.modGroup t gi (fun g => g.setOp
          { o with early := o1.early, earlyBad := o1.earlyBad }) ∧
        (∀ w, AMap.get? o1.early w =
          if w ∈ left ∧ w ∈ ws then some (BitVec.ofNat 32 (Memory.readLE tm.scratch (4 * w) 4)) else AMap.get? o.early w) ∧
        (o1.earlyBad = true ↔ o.earlyBad = true ∨ ∃ w ∈ left, w ∈ ws ∧ tm.spadBad (4 * w) 4 = true)) ∧
      ∃ o1 : Op, exec (.mmaCapture t gi id) s = .next (s.modGroup t gi (fun g => g.setOp { o with
          capFlag := none, early := [], earlyBad := false,
          act := .engine rows (.mma acc ta tb st za koff (some (captureOf o1.asRead ta tb fa fb koff o1.earlyBad)) u c) })) ∧
        (∀ w, AMap.get? o1.early w =
          if w ∈ left then some (BitVec.ofNat 32 (Memory.readLE tm.scratch (4 * w) 4)) else AMap.get? o.early w) ∧
        (o1.earlyBad = true ↔ o.earlyBad = true ∨ ∃ w ∈ left, tm.spadBad (4 * w) 4 = true)) ∧
    (Memory.wf tm.scratch = true → ∀ o1 : Op,
      (∀ w, AMap.get? o1.early w = if w ∈ operandWords ta tb fa fb koff then
        some (BitVec.ofNat 32 (Memory.readLE tm.scratch (4 * w) 4)) else none) →
      captureOf o1.asRead ta tb fa fb koff o1.earlyBad = captureOf tm.scratch ta tb fa fb koff o1.earlyBad) ∧
    (∀ cap, o.act = .engine rows (.mma acc ta tb st za koff cap u c) →
      s.tileTurn tm.core (t, gi, id) (.mma acc ta tb st za koff cap u c) = true →
      (mmaFmts ta tb = none → exec (.mmaComplete t gi id) s = .next
        (((s.modTeam t (fun x => x.orStat stBadtile)).putStatus t acc st stBadtile).endEngine tm.core t gi id)) ∧
      (∀ k, mmaFmts ta tb = some (fa, fb) → cap = some k → u = false → k.bad = false →
        let r := tm.mmaRows acc za fa fb k rows
        let out := bitIf k.ternBad stTernbad ||| bitIf r.2 stSaturated ||| bitIf false stUce ||| bitIf c stCorrected
        exec (.mmaComplete t gi id) s = .next
          (((((s.setTeam t r.1).modTeam t (fun x => x.orStat out)).putStatus t acc st out).modCore tm.core (fun k =>
            { k with mmas := (k.mmas + 1) % 2 ^ 64 })).endEngine tm.core t gi id)))) ∧
  (∀ (s : State) (t id : Nat) (tm : Team) (c : Cmd), s.team? t = some tm → tm.cmd? id = some c → s.cmdRuns t tm c = true →
    (c.st = .query → s.cmdTurn t tm c = true → exec (.retrieverSegment t id) s = .next ((s.query t tm c).noteServed tm c)) ∧
    (∀ g r, c.st ≠ .query → s.cmdTurn t tm c = true → c.todo = g :: r → c.listed.length < 16 →
      let c1 : Cmd := { c.latch s with todo := r }
      (c1.windowBad g = true → c.st = .header →
        exec (.retrieverSegment t id) s = .next ((s.putCmd t { c1 with fail := .window }).noteServed tm c)) ∧
      (c1.windowBad g = true → c.st ≠ .header →
        exec (.retrieverSegment t id) s = .next ((s.failSegment t tm c1 0 .window g).noteServed tm c)) ∧
      (∀ s1, c1.windowBad g = false → s.segFault tm g = (none, s1) → ∃ s2 c2, s1.doSegment t tm c1 g = (s2, c2) ∧
        exec (.retrieverSegment t id) s = .next (((s2.chargeSeg tm c1 g).putCmd t (c2.after g)).noteServed tm c)) ∧
      (∀ f s1, c1.windowBad g = false → s.segFault tm g = (some f, s1) → exec (.retrieverSegment t id) s = .next
        (((s1.cmdFault t tm c1 f).putCmd t
          { c1 with listed := c.listed ++ [⟨g, f.va, s1.sched.nextTok, false⟩] }).noteServed tm c))) ∧
    (c.st = .signal → c.sigAddr = none → exec (.commandSignal t id) s = .next (s.endCmd t c)) ∧
    (∀ a, c.st = .signal → c.sigAddr = some a → c.sigSp = false → exec (.commandSignal t id) s = .next
      ((s.modTeam t (fun x => x.spadWrite (a.toNat / 4 * 4)
        (leBytes 4 (if c.fail ≠ .none ∨ c.nfail ≠ 0 then c.sigVal ||| 0x80000000 else c.sigVal).toNat))).endCmd t c)) ∧
    (∀ a s1, c.st = .signal → c.sigAddr = some a → c.sigSp = true → s.writeSignal t tm c a = (.ok (), s1) →
      exec (.commandSignal t id) s = .next (s1.endCmd t c)) ∧
    (∀ a f s1, c.st = .signal → c.sigAddr = some a → s.writeSignal t tm c a = (.error f, s1) →
      exec (.commandSignal t id) s = .next ((s1.cmdFault t tm c f).modTeam t (fun x =>
        x.putCmd { c with st := .sigFault s1.sched.nextTok false }))) ∧
    (∀ k a, c.st = .sigFault k true → c.sigAddr = some a →
      (∀ s1, s.writeSignal t tm c a = (.ok (), s1) → exec (.segmentReplay t id) s = .next (s1.endCmd t c)) ∧
      (∀ f s1, s.writeSignal t tm c a = (.error f, s1) →
        exec (.segmentReplay t id) s = .next (s1.endCmd t (c.noteSignal f.va (PageFault.fail f.kind))))) ∧
    (∀ x s1, (∀ k a, c.st ≠ .sigFault k a) → (c.todo = [] ∨ c.draining = true) → s.cmdTurn t tm c = true →
      c.nextReplay = some x →
      let c1 : Cmd := { c with listed := c.listed.erase x }
      (s.segFault tm x.seg = (none, s1) → ∃ s2 c2, s1.doSegment t tm c1 x.seg = (s2, c2) ∧
          exec (.segmentReplay t id) s = .next (((s2.chargeSeg tm c1 x.seg).putCmd t (c2.after x.seg)).noteServed tm c)) ∧
      (∀ f, s.segFault tm x.seg = (some f, s1) → exec (.segmentReplay t id) s = .next
        ((s1.failSegment t tm c1 f.va (PageFault.fail f.kind) x.seg).noteServed tm c))) ∧
    (∀ op ty (parts : List PeerPart) n rank i ol, c.kind = .coll op ty → c.st = .collWait →
      s.clk < c.began + 4000 * s.k.ctimeout.toNat → s.cmdServed t tm c = true →
      s.collGroup (c.w 5) = (n, rank) → CollOp.sizes op n (c.w 4) = (i, ol) →
      let peer (k : Nat) : Option PeerPart := parts.find? (fun p => p.rank = k)
      ((∀ k, k < n → k ≠ rank → ∃ p, peer k = some p ∧ p.op = op ∧ p.ty = ty ∧ p.len = c.w 4 ∧ p.data.length = i) →
        exec (.collComplete t id parts) s = .next ((s.charge 7 0 i).putCmd t { c with
          st := .collOut,
          buf := Memory.writeN [] 0 (collResult op ty rank (c.w 4) ((upTo n).map (fun k =>
            if k = rank then Memory.readN c.buf 0 i else ((peer k).map PeerPart.data).getD []))),
          bufBad := collBad op ty rank (c.w 4) ((upTo n).map (fun k =>
            if k = rank then c.bufBad else ((peer k).map PeerPart.bad).getD [])),
          todo := segments [⟨.buf 0, .glob (c.pair 2), ol, ol⟩] })) ∧
      (∀ k p, k < n → k ≠ rank → peer k = some p → (p.op ≠ op ∨ p.ty ≠ ty ∨ p.len ≠ c.w 4) →
        exec (.collComplete t id parts) s = .next (s.putCmd t { c with st := .signal, fail := .mismatch }))) ∧
    (c.st = .collWait → c.began + 4000 * s.k.ctimeout.toNat ≤ s.clk →
      exec (.collTimeout t id) s = .next
        ((s.spoilOut t tm c (c.outLen s)).putCmd t { c with st := .signal, fail := .timeout })))

/-- The events of regrouping, of phases and of a team's end. Lanes that wait at a REFORM are filed once their group has nothing
outstanding and their request's turn has come: each for which a bin exists or is free enters it with all it has and leaves its
lane empty, in ascending order of the lanes (log 113, the model's choice), the others ask again once the network is free (log
112, the model's choice). In its turn a full bin is released
into a new group, and an aged one into a new group, with the threads of the role's other bins by age as far as there is room,
or else into vacant lanes (ties and pairing: logs 114 and 115, the model's choice). At a rendezvous that the arbiter grants and
whose check passes, memory receives the bytes that the team has staged, PHASEID rises by 1, the lanes go on after their PHASE
with all they hold, and a new checkpoint is taken of them; a failed check only marks the team, and its restart then puts the
checkpoint's groups, bins, scratchpad blocks, FIFO controls and accumulator tiles back, but for the lanes switched off since. A
finished team commits in the same way, enters its violations in its grid's list and leaves. Each of these events completes
whenever its conditions hold (R42 to R45, R142, R145, R230 to R236, R353). -/
def Obligations.RegroupAndPhaseEvents : Prop :=
  (∀ (s : State) (t gi l : Nat) (tm : Team) (g : Group), s.team? t = some tm → tm.group? gi = some g →
    tm.st = .running → tm.mig = none → tm.uce = false → g.live = true → g.halt = none → g.ops = [] →
    (g.lane l).filing.isSome = true → s.filingTurn tm.core (g.filingAt l) = true →
    let ls := tm.filable gi (Mask.lanes (g.filers l) g.width)
    let done := s.clk + 8 + moveCost (ls.map (fun k => (g.lane k).regs))
    exec (.reformFiling t gi l) s = .next (((s.setTeam t ((ls.foldl (fun x k => x.fileLane gi k done) tm).modGroup gi
      (fun g => ((g.askAgain (g.filers l) done).dissolve done).spill))).payCkpt t).modCore tm.core
        (fun c => { c with netBusy := done }))) ∧
  (∀ (tm : Team) (g : Group) (gi l done : Nat) (key : DWord), tm.group? gi = some g → (g.lane l).filing = some key →
    ((∃ b ∈ tm.bins, b.role = g.role ∧ b.key = key) ∨ tm.bins.length < 64 →
      ∃ h, (tm.fileLane gi l done).group? gi = some h ∧ h.lane l = Lane.empty ∧
        ∃ b ∈ (tm.fileLane gi l done).bins, b.role = g.role ∧ b.key = key ∧ g.fileOf l done ∈ b.threads) ∧
    ((∀ b ∈ tm.bins, b.role = g.role → b.key ≠ key) → 64 ≤ tm.bins.length → tm.fileLane gi l done = tm)) ∧
  (∀ (s : State) (t b : Nat) (tm : Team) (x : Bin), s.releasable t b = some (tm, x) →
    (∀ gi h, tm.freeSlot x.role = some gi → tm.group? gi = some h → h.width ≤ x.threads.length →
      let fs := (keyed x).take h.width
      exec (.binReleaseFull t b) s = .next ((s.formGroup t gi (s.releaseEnd (fs.map Prod.snd)) fs).netRelease tm.core
        (fs.map Prod.snd))) ∧
    (∀ gi h, x.aged s.clk tm.asked = true → tm.freeSlot x.role = some gi → tm.group? gi = some h →
      let fs := tm.gathered x h.width
      exec (.binAgeExpire t b) s = .next ((s.formGroup t gi (s.releaseEnd (fs.map Prod.snd)) fs).netRelease tm.core
        (fs.map Prod.snd))) ∧
    (x.aged s.clk tm.asked = true → tm.freeSlot x.role = none →
      let ps := (tm.vacant x.role).zip (byTid x.threads)
      exec (.binAgeExpire t b) s = .next (((tm.groups.map Group.grp).foldl (fun s gi =>
        s.enterGroup t (s.releaseEnd (ps.map Prod.snd)) x.key ps gi) s).netRelease tm.core (ps.map Prod.snd)))) ∧
  (∀ (tm : Team) (b : Bin) (w : Nat), (tm.gathered b w).length ≤ w ∧
    (∀ p ∈ tm.gathered b w, (p.1 = b.key ∧ p.2 ∈ b.threads) ∨
      ∃ y ∈ tm.bins, y.role = b.role ∧ p.1 = y.key ∧ p.2 ∈ y.threads) ∧
    (b.threads.length ≤ w → ∀ f ∈ b.threads, (b.key, f) ∈ tm.gathered b w)) ∧
  (∀ (s : State) (t : Nat) (tm : Team), s.team? t = some tm → tm.st = .running → tm.mig = none → tm.uce = false →
    (tm.restarting = false → tm.atPhase = true → s.mayCommit t = true →
      (s.checkFails tm = true → exec (.phaseCommit t) s = .next (s.modTeam t (fun x => { x with restarting := true }))) ∧
      (s.checkFails tm = false → ∃ (u : State) (y : Team), exec (.phaseCommit t) s = .next u ∧ u.team? t = some y ∧
        y.phaseId = tm.phaseId + 1 ∧ y.restarts = 0 ∧ y.staged = [] ∧ y.rs = Sig.zero ∧ y.ws = Sig.zero ∧
        y.ckpt.isSome = s.checked tm ∧ u.sched.commitSeq = s.sched.commitSeq + 1 ∧ u.sched.holder ≠ some t ∧
        u.mem = (s.publish t tm).mem ∧ y.scratch = tm.scratch ∧ y.acc = tm.acc ∧ y.bins = tm.bins ∧
        (∀ k, y.ckpt = some k → k.groups = y.groups ∧ k.bins = tm.bins ∧ k.blocks = [] ∧ k.tiles = [] ∧ k.fifos = []) ∧
        ∀ gi g, tm.group? gi = some g → ∃ h, y.group? gi = some h ∧ h.sregs = g.sregs ∧ h.preds = g.preds ∧
          h.tiles = g.tiles ∧ h.svmask = g.svmask ∧
          ∀ l, h.lane l = if (g.lane l).park = some .phase then (g.lane l).pass else g.lane l)) ∧
    (∀ k, tm.ckpt = some k → tm.restarting = true → tm.quiet = true →
      let off (g : Group) : Mask :=
        let now := (tm.group? g.grp).getD g
        g.svmask ||| now.svmask ||| now.svGone
      ∃ (u : State) (y : Team), exec (.phaseRestart t) s = .next u ∧ u.team? t = some y ∧ y.restarting = false ∧ y.staged = [] ∧
        y.restarts = tm.restarts + 1 ∧ y.bins = k.bins ∧ y.groups.length = k.groups.length ∧ u.mem = s.mem ∧
        y.scratch = (tm.restoreMemory k).scratch ∧ y.acc = (tm.restoreMemory k).acc ∧ y.fifos = (tm.restoreMemory k).fifos ∧
        (∀ (n : Nat) (g : Group), k.groups[n]? = some g → ∃ h : Group, y.groups[n]? = some h ∧ h.grp = g.grp ∧ h.svmask = off g ∧ h.ops = [] ∧
          ((∃ l, g.running.getLsbD l = true ∧ (off g).getLsbD l = false) →
            h.lanes = g.lanes ∧ h.sregs = g.sregs ∧ h.preds = g.preds ∧ h.tiles = g.tiles ∧ h.limbs = g.limbs ∧
            h.lcarry = g.lcarry ∧ h.fpctl = g.fpctl ∧ h.ternbad = g.ternbad ∧ h.marks = g.marks ∧ h.live = g.live)) ∧
        (4 ≤ tm.restarts + 1 → s.sched.holder = none → u.sched.holder = some t)) ∧
    (tm.restarting = false → tm.finished = true → tm.quiet = true → s.mayCommit t = true →
      (s.checkFails tm = true → exec (.teamExit t) s = .next (s.modTeam t (fun x => { x with restarting := true }))) ∧
      (s.checkFails tm = false → exec (.teamExit t) s = .next (((s.publish t tm).violations tm).endTeam t tm)))) ∧
  (∀ (s : State) (t : Nat) (tm : Team), s.team? t = some tm → (tm.staged.map Prod.fst).Nodup →
    let u := s.publish t tm
    (∀ a, Memory.read u.mem a = (AMap.get? tm.staged a).getD (Memory.read s.mem a)) ∧
    (∀ l, l ∈ u.poison ↔ l ∈ s.poison ∧ (tm.staged.filter (fun c => c.1 / 128 = l)).length ≠ 128)) ∧
  (∀ (tm : Team) (k : Checkpoint), (k.blocks.map Prod.fst).Nodup → (∀ p ∈ k.blocks, p.2.length = 2048) →
    (k.tiles.map Prod.fst).Nodup → (∀ p ∈ k.tiles, p.2.length = 4096) → (k.fifos.map Prod.fst).Nodup →
    let y := tm.restoreMemory k
    (∀ a, Memory.read y.scratch a = match AMap.get? k.blocks (a / 2048) with
      | some b => b.getD (a % 2048) 0
      | none => Memory.read tm.scratch a) ∧
    (∀ i, AMap.getD y.acc i 0 = match AMap.get? k.tiles (i / 4096) with
      | some b => b.getD (i % 4096) 0
      | none => AMap.getD tm.acc i 0) ∧
    (∀ i, i < tm.fifos.length → y.fifos[i]? = match AMap.get? k.fifos i with
      | some f => some f
      | none => tm.fifos[i]?))

/-- The events of the queues and of dispatch. A push appends to its queue or sets OVF; SNAPSHOT takes the head grid, or pins
one that waits; START_CONDITION_POLL reads the start condition; both fault where the record runs past memory (the model's stop,
log 33). FRDOOR marks a record answered, or kills. DISPATCH creates the next team of the granted queue, ADMISSION places a
unit, BANK_DRAIN empties a bank, RANGE_TRANSLATION pins the declared ranges and has the layer chosen anew, or records their
faults, TEAM_START starts every thread at CODE (R31, R201, R209, R219, R335, R337, R339, R340, R343, R344). -/
def Obligations.QueueEvents : Prop :=
  (∀ (s : State) (q : Nat) (a : DWord), q < 64 →
    ((s.queue q).fifo.length < 64 →
      exec (.push q a) s = .next (s.modQueue q (fun x => { x with fifo := x.fifo ++ [⟨a, none⟩] }))) ∧
    (64 ≤ (s.queue q).fifo.length → exec (.push q a) s = .next (s.modQueue q (fun x => { x with ovf := true, ovfAt := some s.clk })))) ∧
  (∀ (s : State) (q : Nat) (e : QEntry) (r : List QEntry), q < 64 → s.sched.enable = true → (s.queue q).enable = true →
    (s.queue q).grid = none → (s.queue q).snap = none → (s.queue q).fifo = e :: r → e.space = none →
    e.addr.toNat % 64 = 0 → e.addr.toNat < 768000000000 →
    let b := Memory.readN s.mem e.addr.toNat 1024
    let lr := Launch.parse b none
    (768000000000 < e.addr.toNat + 1024 →
      exec (.snapshot q) s = .fault .absentMemory ∧ exec (.startConditionPoll q) s = .fault .absentMemory) ∧
    (e.addr.toNat + 1024 ≤ 768000000000 → s.allRetried (.head q) = true →
      (s.mayStart q lr = true → ∃ u, exec (.snapshot q) s = .next u ∧ u = s.snapshot q e b none ∧
        u.sched.gridCount = s.sched.gridCount + 1 ∧ (u.queue q).fifo = r) ∧
      (∀ g : PageT, lr.waitaddr ≠ 0 → addrOk lr.waitaddr 4 true = true → (s.queue q).head.waitPa = none →
        s.walk lr.root lr.waitaddr.toNat = .ok g →
        ∃ u, exec (.startConditionPoll q) s = .next u ∧ u.mem = s.mem ∧
          (u.queue q).head.waitPa = some (g.at lr.waitaddr.toNat) ∧
          (u.queue q).head.waitOk = ((s.queue q).head.waitOk ||
            decide (lr.waitval.toNat ≤ Memory.readLE s.mem (g.at lr.waitaddr.toNat) 4))))) ∧
  (∀ (s : State) (q : Nat) (n : Word) (g : Grid), (s.queue q).snap = some n → s.grid? n = some g →
    s.allRetried (.snap q) = true → exec (.snapshot q) s = .next (s.pinSnapshot q g)) ∧
  (∀ (s : State) (tok : Word) (k : Token), s.token? tok = some k →
    ((∀ t c, k.who ≠ .cmd t c) → exec (.frdoorRetry tok) s = .next { s with sched := { s.sched with
      tokens := s.sched.tokens.map (fun x => if x.tok = tok then { x with retried := true } else x) } }) ∧
    (∀ t c, k.who = .cmd t c → exec (.frdoorRetry tok) s = .next
      (({ s with sched := { s.sched with tokens := s.sched.tokens.filter (fun x => x.tok ≠ tok) } } : State).modTeam t (fun x =>
        { x with cmds := x.cmds.map (fun y => if y.id = c then y.answer tok else y) }))) ∧
    (∀ t, k.who.ofTeam t = true → exec (.frdoorKill tok) s = .next (s.killTeam t .pageFault))) ∧
  (∀ (s : State) (q : Nat) (g : Grid), s.slotFree = true → s.granted = some (q, g) →
    ∃ u y, exec .dispatch s = .next u ∧ u.team? s.sched.dispCount = some y ∧ y.grid = g.num ∧ y.team = g.nextTeam ∧
      y.st = .dispatched ∧ y.ranges = g.lr.teamRanges g.nextTeam ∧ u.sched.dispCount = s.sched.dispCount + 1 ∧
      u.sched.slotAt = some s.clk ∧ u.mem = s.mem) ∧
  (∀ (s : State) (t : Nat) (tm : Team) (g : Grid) (ps : List (Nat × Nat × List (Nat × Nat))), s.team? t = some tm →
    s.waiting (s.unit tm) = true → s.outranked (s.unit tm) tm = false → s.placeUnit (s.unit tm) = some ps →
    s.grid? tm.grid = some g →
    exec (.admission t) s = .next (ps.foldl (fun s p => s.seat g.lr p.1 p.2.1 p.2.2) s)) ∧
  (∀ (s : State) (m b t : Nat), AMap.get? (s.col m).banks b = some (.draining t) →
    ∃ u, exec (.bankDrain m b) s = .next u ∧ AMap.get? (u.col m).banks b = some (.ready t) ∧ u.mem = s.mem ∧
      u.teams = s.teams ∧ ∀ set, ((u.col m).l1.filter (fun x => x.line % 256 = set)).length ≤ (u.col m).ways) ∧
  (∀ (s : State) (t : Nat) (tm : Team) (g : Grid) (xs : List Extent) (fs : List (Nat × PageFault)), s.team? t = some tm →
    s.grid? tm.grid = some g → tm.st = .admitted → s.allRetried (.range t) = true →
    s.pinRanges g.lr.root tm.ranges = (xs, fs) →
    (fs = [] → exec (.rangeTranslation t) s = .next
      (((s.dropTokens (.range t)).modTeam t (fun x => { x with st := .translated, ranges := xs })).reseat g.lr t)) ∧
    (fs ≠ [] → exec (.rangeTranslation t) s = .next
      ((s.dropTokens (.range t)).pinFaults fs tm.grid tm.team 0 (.range t)))) ∧
  (∀ (s : State) (t : Nat) (tm : Team) (g : Grid), s.team? t = some tm → s.grid? tm.grid = some g → tm.st = .translated →
    s.drains t tm = false →
    (tm.fresh = true → ∃ u y, exec (.teamStart t) s = .next u ∧ u.team? t = some y ∧ y.st = .running ∧
      y.groups.length = tm.groups.length ∧ ∀ h ∈ y.groups, ∀ l, l < h.width →
        (h.lane l).thread = .running ∧ (h.lane l).pc = g.lr.code) ∧
    (tm.fresh = false → s.areaOk g tm.team = true → exec (.teamStart t) s = .next (s.begin t tm g)) ∧
    (tm.fresh = false → s.areaOk g tm.team = false → exec (.teamStart t) s = .next (s.killTeam t .badCtx)))

/-- Pre-emption, kills and the halt windows. A team of PRIO 3 that has waited 100 µs since it was dispatched takes the
resources of one in the columns of its first home (log 72, the model's reading). A request reaches every member of the unit; a
team that is ready is saved and leaves its column; RELEASE ends HOLD. A kill leaves no team of the grid, or not that team; the
unit of a team with an uncorrectable error starts over where it may, and otherwise its grid is killed. REGDATA changes the
halted group, RESUME ends its halt or raises the trap of a counter that fails, and a register write reaches the register at its
address (R5, R46 to R50, R58, R343, R346, R350, R351, R374 to R378, R389). -/
def Obligations.PreemptAndKillEvents : Prop :=
  (∀ (s : State) (t : Nat) (tm : Team) (g : Grid) (pr n : Nat) (v : Team), s.team? t = some tm → s.grid? tm.grid = some g →
    s.sched.priopre = true → g.lr.prio = 3 → s.waiting (s.unit tm) = true → tm.dispAt + 400000 ≤ s.clk →
    s.placeUnit (s.unit tm) = none →
    let vs := s.victims (packCols g.lr.shape ((s.homes g tm).headD 0))
    (∀ x ∈ vs, x.2.2.pre = none) → worst vs = some (pr, n, v) →
    exec (.prioPreempt t) s = .next (s.requestPre v ⟨false, none, s.clk⟩)) ∧
  (∀ (s : State) (grid : Word) (team : BitVec 24) (t : Nat) (tm : Team), s.find? grid team.toNat = some (t, tm) →
    (∀ hold, exec (.preempt grid team hold) s = .next (s.requestPre tm ⟨hold, none, s.clk⟩)) ∧
    exec (.release grid team) s = .next ((s.unit tm).foldl (fun s p => s.modTeam p.1 (fun x =>
      { x with hold := false, pre := x.pre.map (fun r => { r with hold := false }) })) s)) ∧
  (∀ (s : State) (t : Nat) (tm : Team) (g : Grid), s.team? t = some tm → s.grid? tm.grid = some g → s.canSave tm = true →
    (∀ p ∈ s.unit tm, s.canSave p.2 = true ∨ p.2.st = .saved) →
    ∃ u y, exec (.preemptSave t) s = .next u ∧ u = s.save t tm g ∧ u.team? t = some y ∧ y.st = .saved ∧
      y.resident = false ∧ y.pre = none ∧ y.hold = (tm.pre.map PreReq.hold).getD false) ∧
  (∀ (s : State) (n : Word) (g : Grid), s.grid? n = some g → g.completedAt = none →
    ∃ u, exec (.kill n) s = .next u ∧ (∀ p ∈ u.teams, p.2.grid ≠ n) ∧
      ∀ x, u.grid? n = some x → x.completedAt = some s.clk) ∧
  (∀ (s : State) (core slot t : Nat) (g : Group), s.halted core slot = some (t, g) →
    (∃ u, exec (.cmdKillTeam core slot) s = .next u ∧ u.team? t = none) ∧
    (∀ tm x, s.team? t = some tm → s.grid? tm.grid = some x → x.completedAt = none →
      ∃ u, exec (.cmdKillGrid core slot) s = .next u ∧ ∀ p ∈ u.teams, p.2.grid ≠ tm.grid) ∧
    (∀ x, exec (.regdataWrite core slot x) s =
      .next ((s.modGroup t g.grp (fun h => h.edit s.clk h.regsel (x.extractLsb' 0 32))).payCkpt t)) ∧
    (∀ l r, Mask.lanes (s.badEdits (s.fetcher (.port t g.grp false)) g) g.width = l :: r →
      exec (.cmdResume core slot) s = .next
        (s.haltAgain t g .badTarget (g.lane l).pc (s.badEdits (s.fetcher (.port t g.grp false)) g))) ∧
    (Mask.lanes (s.badEdits (s.fetcher (.port t g.grp false)) g) g.width = [] →
      (∀ l, g.limbSplit = some l →
        exec (.cmdResume core slot) s = .next (s.haltAgain t g .divBound (g.lane l).pc (Mask.below g.limbs))) ∧
      (g.limbSplit = none → exec (.cmdResume core slot) s = .next (s.modGroup t g.grp (fun g => { g with halt := none }))))) ∧
  (∀ (s : State) (t grp : Nat) (tm : Team) (g : Grid), s.team? t = some tm → s.grid? tm.grid = some g → tm.uce = true →
    (mayRelaunch (s.unit tm) g = true → ∃ u, exec (.packKill t grp) s = .next u ∧
      ∀ p ∈ s.unit tm, ∃ y, u.team? p.1 = some y ∧ y.st = .dispatched ∧ y.relaunched = true ∧ y.groups = []) ∧
    (mayRelaunch (s.unit tm) g = false → g.completedAt = none →
      ∃ u, exec (.packKill t grp) s = .next u ∧ ∀ p ∈ u.teams, p.2.grid ≠ tm.grid)) ∧
  (∀ (s : State) (a size : Nat) (x : DWord),
    (∀ r, size ≠ 8 → mreg a = some r → exec (.registerWrite true a size x) s = .next (s.mwrite r (x.extractLsb' 0 32))) ∧
    (∀ r, size = 8 → a % 8 = 0 → hreg a = some r → exec (.registerWrite false a size x) s = .next (s.hput r x x)) ∧
    (size ≠ 4 → size ≠ 8 → exec (.registerWrite false a size x) s = .next { s with sched := { s.sched with accerr := true, accAt := some s.clk } }))

/-- The events of power: a budget period, 1 µs after the last at the earliest, moves each column's throttle level by R360's
rule, puts new budgets in force and sets G and the target ratio of the slices by Table 16-1, their ceilings and the clamp; a
layer is throttled when its share of the energy exceeds a quarter of the budget; hops take a slice's ratio one step nearer its
target; a stretch abandons hops that run or are due, which retry 256 cycles after it; the Leash starts where the slice's demand
has exceeded one half and then sunk to nothing, and fades in 16 steps; the Shepherd's reading takes each diode's temperature,
HOT and the clamp; a migration ends with what R28 has it copy as it was on its new core (R25, R28, R52, R360 to R369). -/
def Obligations.PowerEvents : Prop :=
  (∀ (s : State) (cols : List ColPeriod) (accs : List Nat), s.periodAt + 4000 ≤ s.clk →
    ∃ u, exec (.budgetPeriod cols accs) s = .next u ∧ u.k.energy = addEnergies s.k.energy accs ∧ u.mem = s.mem ∧
      ∀ m, m < 144 → let c := s.col m
        let x : ColPeriod := (cols.find? (fun x => x.col = m)).getD ⟨m, []⟩
        (u.col m).budget = c.pendBudget.getD c.budget ∧ (u.col m).pendBudget = none ∧
        (u.col m).lam = (if 125 * c.budget < x.layersNJ.sum then min (c.lam + 1) 19
          else if 8 * x.layersNJ.sum ≤ 7 * (125 * c.budget) ∧ 3 ≤ c.low then c.lam - 1 else c.lam) ∧
        (∀ i, i < 4 → ((u.col m).hotLayers.getLsbD i = true ↔ 125 * c.budget < 4 * x.layersNJ.getD i 0)) ∧
        ((∃ y ∈ cols, y.col = m) → ∀ l i, l < 4 → i < 6 →
          let core := 144 * l + m
          let z := (s.core core).slice i
          let lam := if (u.col m).hotLayers.getLsbD l then (u.col m).lam else 0
          ((u.core core).slice i) = if (s.core core).clamp then { z with g := 1, target := 4 } else { z with
            g := min (if lam ≤ 7 then 8 - lam else 1) z.gcap,
            target := min (if lam ≤ 7 then 16 else 16 - (lam - 7)) z.kcap })) ∧
  (∀ (s : State) (core slice : Nat),
    let x := (s.core core).slice slice
    (s.mayHop core slice = true → x.retryAt = none → ∃ u, exec (.hopBegin core slice) s = .next u ∧
      ((u.core core).slice slice) = { x with hop := some ⟨if x.k < x.target then x.k + 1 else x.k - 1, s.clk⟩ }) ∧
    (s.hopDue core slice = true → (s.core core).stretch = some s.clk → ∃ u, exec (.hopBegin core slice) s = .next u ∧
      ((u.core core).slice slice) = { x with retryAt := some s.clk }) ∧
    (∀ h, x.hop = some h → h.began + 64 ≤ s.clk → ∃ u, exec (.hopEnd core slice) s = .next u ∧
      ((u.core core).slice slice) = { x with k := h.goal, hop := none } ∧ (u.core core).hops = ((s.core core).hops + 1) % 2 ^ 64) ∧
    (∀ t, x.retryAt = some t → t ≤ s.clk → (s.core core).stretch = none →
      (x.k = x.target → ∃ u, exec (.hopRetry core slice) s = .next u ∧
        ((u.core core).slice slice) = { x with retryAt := none }) ∧
      (s.mayHop core slice = true → ∃ u, exec (.hopRetry core slice) s = .next u ∧
        ((u.core core).slice slice) =
          { x with hop := some ⟨if x.k < x.target then x.k + 1 else x.k - 1, s.clk⟩, retryAt := none })) ∧
    (∀ d n r, d = x.issued.length → x.issued = n :: r → x.room < 2 * d → n + 16 ≤ s.clk → x.sank ≠ some n →
      ∃ u, exec (.leashTrigger core slice d) s = .next u ∧
        ((u.core core).slice slice) = { x with leash := some ⟨d, x.room, 0, s.clk⟩, sank := some n }) ∧
    (∀ l, x.leash = some l → l.at_ + 500 ≤ s.clk → ∃ u, exec (.leashStep core slice) s = .next u ∧
      ((u.core core).slice slice) =
        { x with leash := if 15 ≤ l.step then none else some { l with step := l.step + 1, at_ := l.at_ + 500 } })) ∧
  (∀ (s : State) (core : Nat),
    (∃ u, exec (.droopStretch core) s = .next u ∧ (u.core core).stretch = some s.clk ∧
      ∀ i, ((u.core core).slice i).hop = none ∧ ((u.core core).slice i).k = ((s.core core).slice i).k ∧
        ((((s.core core).slice i).hop.isSome = true ∨ ((s.core core).stretch = none ∧ s.hopDue core i = true)) →
          ((u.core core).slice i).retryAt = some s.clk)) ∧
    (∀ t, (s.core core).stretch = some t → t + 64 ≤ s.clk → ∃ u, exec (.stretchEnd core) s = .next u ∧
      (u.core core).stretch = none ∧
      ∀ i, ((u.core core).slice i).retryAt =
        ((s.core core).slice i).retryAt.map (fun r => if r ≤ s.clk then s.clk + 256 else r))) ∧
  (∀ (s : State) (es : List TeamEnergy),
    (∃ t, s.readAt = some t ∧ s.clk < t + 40000) → exec (.shepherdReading es) s = .next s) ∧
  (∀ (s : State) (es : List TeamEnergy), s.released = true → (∀ t, s.readAt = some t → t + 40000 ≤ s.clk) →
    ∃ u, exec (.shepherdReading es) s = .next u ∧ u.readAt = some s.clk ∧
    ∀ c ∈ s.cores.map Prod.fst, (u.core c).deg = (s.core c).diode ∧
      (u.core c).hot = decide ((s.k.hot : Int) < (s.core c).diode) ∧
      (u.core c).clamp = if (s.k.crit : Int) ≤ (s.core c).diode then true
        else if (s.core c).diode < s.k.hot then false else (s.core c).clamp) ∧
  (∀ (s : State) (t : Nat) (tm : Team) (m : Migration), s.team? t = some tm → tm.mig = some m → s.moved t tm = true →
    s.overtaken tm = false → s.left 4 (colOf tm.core) = true →
    ∃ u y, exec (.migrationEnd t) s = .next u ∧ u.team? t = some y ∧ y.core = m.dst ∧ y.mig = none ∧
      y.scratch = tm.scratch ∧ y.acc = tm.acc ∧ y.cmds = tm.cmds ∧ y.staged = tm.staged ∧ u.mem = s.mem ∧
      ∀ gi g, tm.group? gi = some g → gi < m.slots.length → ∃ h, y.group? gi = some h ∧ h.lanes = g.lanes ∧
        h.sregs = g.sregs ∧ h.preds = g.preds ∧ h.tiles = g.tiles ∧ h.ops = g.ops ∧ h.limbs = g.limbs ∧
        h.lcarry = g.lcarry ∧ h.fpctl = g.fpctl ∧ h.fpflags = g.fpflags ∧ h.flying = g.flying ∧ h.gstat = g.gstat ∧
        h.ternbad = g.ternbad ∧ h.svmask = g.svmask ∧ h.marks = g.marks ∧ h.retained = g.retained ∧ h.idle = g.idle)

/-- The scan rotation, integrity errors and the coolant. A visit drains, scans or skips its core; the pre-emptions
asked for it are withdrawn after a further 1 ms, wherever their teams now are; a scan whose patterns the
stack's scan budget has covered returns the core to service where it passes and removes it where it fails; an uncorrectable
error poisons its line and raises ECC; a flow-good change raises FLOW; one circuit without flow for more than 100 ms cuts every
budget to 5 W, once for each loss, one for 2 s shuts down (each circuit's 2 s by themselves and from its loss: log 116, the
model's choice), and recovery restores the budgets: those set before the cut where none
has been set since, else all as they then are (log 74, the model's reading) (R26, R220,
R323, R372, R373, R380, R395). -/
def Obligations.ScanAndHealthEvents : Prop :=
  (∀ (s : State) (core : Nat),
    (∀ n, (s.core core).scan = .draining n → s.onCore core = [] →
      (∀ p ∈ s.teams, p.2.mig.map Migration.dst ≠ some core) →
      ∃ u, exec (.scanVisit core) s = .next u ∧ (u.core core).scan = .patterns s.clk) ∧
    (∀ n, (s.core core).scan = .draining n → s.onCore core ≠ [] →
      exec (.scanVisit core) s = .next (s.emptyCore core)) ∧
    ((s.core core).scan = .idle ∨ (s.core core).scan = .skipped ∨ (s.core core).scan = .withdrawn → s.released = true →
      s.nextVisit (coreStack core) = some core → s.scanFree (coreStack core) = true →
      ∃ u, exec (.scanVisit core) s = .next u ∧
        (u.core core).scan = (if s.coreHalted core then .skipped else .draining s.clk) ∧
        AMap.get? u.scanAt (coreStack core) = some core) ∧
    (∀ n, (s.core core).scan = .draining n →
      (∀ t tm, s.team? t = some tm → n + 4000000 ≤ s.clk → tm.resident = true → tm.core = core →
        tm.pre = none → exec (.scanMoveTimeout core t) s = .next (s.requestPre tm ⟨false, some core, s.clk⟩)) ∧
      (n + 8000000 ≤ s.clk → s.onCore core ≠ [] → ∃ u, exec (.scanPreemptWithdraw core) s = .next u ∧
        (u.core core).scan = .withdrawn ∧
        ∀ t, (u.team? t).map (fun y => y.pre) = (s.team? t).map (fun y => y.pre.filter (fun r => r.scan ≠ some core)))) ∧
    (((∀ n, (s.core core).scan ≠ .draining n) ∨ s.onCore core = []) →
      ∃ u, exec (.scanPreemptWithdraw core) s = .next u ∧ u.core core = s.core core ∧
        ∀ t, (u.team? t).map (fun y => y.pre) = (s.team? t).map (fun y =>
          y.pre.filter (fun r => !(r.scan = some core && decide (r.at_ + 4000000 ≤ s.clk))))) ∧
    (∀ n, (s.core core).scan = .patterns n → n + 200000 ≤ s.clk → s.left 5 (coreStack core) = true →
      (∃ u, exec (.scanComplete core true) s = .next u ∧ (u.core core).scan = .idle ∧ (u.core core).lastScan = some n ∧
        (u.core core).inService = (s.core core).inService) ∧
      (∃ u, exec (.scanComplete core false) s = .next u ∧ (u.core core).scan = .idle ∧ (u.core core).inService = false ∧
        u.k.kipend.getLsbD 7 = true))) ∧
  (∀ (s : State) (x : EccSite) (k : EccKind) (r : Option Repair),
    ∃ u, exec (.eccEvent x k r) s = .next u ∧ u.mem = s.mem ∧ (k = .clean → u = s) ∧
      (k ≠ .clean → u.k.kipend.getLsbD 6 = true) ∧ (∀ pa, x = .line pa → k = .uncorrectable → pa / 128 ∈ u.poison) ∧
      (∀ pa, x = .line pa → s.left 6 (pa / 4096 % 4) = true →
        exec (.scrub pa k r) s = .next (u.charge 6 (pa / 4096 % 4) 1))) ∧
  (∀ (s : State) (lid good : Bool),
    ((if lid then s.cool.lid else s.cool.micro) ≠ good → ∃ u, exec (.flowChange lid good) s = .next u ∧
      u.cool.lid = (if lid then good else s.cool.lid) ∧ u.cool.micro = (if lid then s.cool.micro else good) ∧
      u.cool.lidBad = (if lid then (if good then none else some (s.cool.lidBad.getD s.clk)) else s.cool.lidBad) ∧
      u.cool.microBad = (if lid then s.cool.microBad else (if good then none else some (s.cool.microBad.getD s.clk))) ∧
      u.cool.lidCut = (if lid then s.cool.lidCut && !good else s.cool.lidCut) ∧
      u.cool.microCut = (if lid then s.cool.microCut else s.cool.microCut && !good) ∧
      u.k.kipend.getLsbD 5 = true ∧ u.nvm.logSeq = s.nvm.logSeq + 1)) ∧
  (∀ s : State, s.released = true →
    let set (m : Nat) : Nat := (s.col m).pendBudget.getD (s.col m).budget
    let kept : List Nat := (upTo 144).map (fun m =>
      if s.cool.cut = true ∧ ∀ j ∈ upTo 144, set j = 40 then s.cool.saved.getD m 40 else set m)
    let lost (x : Option Nat) : Prop := ∃ c, x = some c ∧ c + 400000000 < s.clk
    ((lost s.cool.lidBad ∧ s.cool.lidCut = false) ∨ (lost s.cool.microBad ∧ s.cool.microCut = false) →
      ∃ u, exec .flowLossBudgetCut s = .next u ∧ u.cool.cut = true ∧ u.cool.saved = kept ∧
        (lost s.cool.lidBad → u.cool.lidCut = true) ∧ (lost s.cool.microBad → u.cool.microCut = true) ∧
        u.nvm.logSeq = s.nvm.logSeq + 1 ∧ ∀ m, m < 144 → (u.col m).pendBudget = some 40) ∧
    ((¬lost s.cool.lidBad ∨ s.cool.lidCut = true) → (¬lost s.cool.microBad ∨ s.cool.microCut = true) →
      exec .flowLossBudgetCut s = .next s) ∧
    (∀ c, (s.cool.lidBad = some c ∨ s.cool.microBad = some c) → c + 8000000000 ≤ s.clk → s.cool.shutdown = false →
      ∃ u, exec .coolantShutdown s = .next u ∧ u.sched.enable = false ∧ u.cool.shutdown = true ∧
        u.cool.saved = kept)) ∧
  (∀ (s : State) (c : Nat), s.cool.goodSince = some c → s.cool.shutdown = true → c + 40000000000 ≤ s.clk →
    ∃ u, exec .coolantRecovery s = .next u ∧ u.cool.shutdown = false ∧
      ∀ m, m < 144 → (u.col m).pendBudget = some (s.cool.saved.getD m 68))

/-- The resets and bring-up. A cold reset clears memory (every byte reads 0: log 1, the model's choice), keeps non-volatile
memory and starts the accepted firmware with the higher VERSION, or stays in the ROM, memory not initialised (log 75, the
model's choice); the warm resets discard all work, keep memory, its poison and the energy accumulators, and go on counting
TOKENs (log 91, the model's choice); releasing the compute stacks begins the scan of every core, of all of them at once (log
117, the model's choice). The firmware that starts is accepted, fits the SRAM, and is of no lower VERSION than the other slot's
where that is accepted and fits too (R26, R393, R394, R396). -/
def Obligations.ResetEvents : Prop :=
  (∀ s : State, ∃ u, exec .coldReset s = .next u ∧ u.mem = [] ∧ u.poison = [] ∧ u.teams = [] ∧ u.grids = [] ∧
    u.released = false ∧ u.nvm.rollback = s.nvm.rollback ∧
    (bootSlot s.nvm = none → u.k.started = false ∧ u.hbmReady = false) ∧
    (∀ b i, bootSlot s.nvm = some (b, i) → u.k.started = true ∧ u.hbmReady = true ∧ u.nvm.activeB = b ∧
      u.k.sram = Memory.writeN [] 0 i.payload)) ∧
  (∀ s : State, ∃ u, exec .warmReset s = .next u ∧ exec .pcieHotReset s = .next u ∧ exec (.warmrst 0x5752) s = .next u ∧
    (∀ c, s.k.locked = some c → c + 4000000000 ≤ s.clk → exec .lockupReset s = .next u) ∧
    u.mem = s.mem ∧ u.poison = s.poison ∧ u.teams = [] ∧ u.grids = [] ∧ u.queues = [] ∧ u.released = false ∧
    u.hbmReady = s.hbmReady ∧ u.k.energy.map Energy.val = s.k.energy.map Energy.val ∧ u.k.inh = true ∧ u.k.locked = none ∧
    u.nvm.rollback = s.nvm.rollback ∧ u.nvm.log = s.nvm.log ∧ u.sched.nextTok = s.sched.nextTok) ∧
  (∀ (s : State) (x : Word), x ≠ 0x5752 → exec (.warmrst x) s = .next { s with k := { s.k with refused := true, refAt := some s.clk } }) ∧
  (∀ s : State, s.hbmReady = true → s.k.started = true → s.cool.lid = true → s.cool.micro = true → s.cool.rail = true →
    s.released = false → ∃ u, exec .computeRelease s = .next u ∧ u.released = true ∧ u.mem = s.mem ∧
      ∀ c, c < 576 → (u.core c).scan = .patterns s.clk) ∧
  (∀ (n : Nvm) (f : Option FwSlot) (i : Image), bootable n f = some i ↔
    ∃ x, f = some x ∧ Image.parse x.image = some i ∧ i.accepted n.rollback = true ∧ i.payload.length ≤ 0x80000) ∧
  (∀ n : Nvm, (bootSlot n = none ↔ bootable n n.slotA = none ∧ bootable n n.slotB = none) ∧
    ∀ b i, bootSlot n = some (b, i) → bootable n (if b then n.slotB else n.slotA) = some i ∧
      ∀ j, bootable n (if b then n.slotA else n.slotB) = some j → j.version ≤ i.version)

/-- The Kennel's events. An interrupt enters the lowest enabled pending vector with KEPC the pc; TIMER follows CLKLO; the log
takes LOGBUF where TYPE is 0x80 or more, and what the hardware appends in the same cycle has the lower SEQ; SCTLALL sets the ceilings of six slices where they are in range; ENLO latches its
upper half; the update engine starts where it is not BUSY, and ends with UPSTAT and UPDATE, an accepted image in the inactive
slot. That it stops where an address lies in no memory is log 33, the model's choice; that UPSTAT is 0 after an attestation,
and that UPLEN must be the image's exact length, is log 76, its reading (R371, R386, R387, R390 to R393). -/
def Obligations.KennelEvents : Prop :=
  (∀ (s : State) (v : Nat), s.k.started = true → s.k.locked = none → s.k.grp.portA = none →
    (s.k.grp.lane 0).thread = .running → s.k.inh = false → v < 32 → (s.k.kipend &&& s.k.kien).getLsbD v = true →
    (∀ w, w < v → (s.k.kipend &&& s.k.kien).getLsbD w = false) →
    let a := BitVec.ofNat 64 (Memory.readLE s.k.sram (s.k.kvbase.toNat / 256 * 256 + 8 * v) 8)
    s.target .kennel a = true →
    ∃ u, exec .interruptEntry s = .next u ∧ u.k.kepc = s.kPc ∧ u.k.vec = BitVec.ofNat 8 v ∧ u.k.inh = true ∧ u.kPc = a ∧
      u.k.kipend = s.k.kipend ∧ u.k.sram = s.k.sram ∧ u.mem = s.mem) ∧
  (∀ s : State, ∃ u, exec .ktimerMatch s = .next u ∧
    u.k.kipend = if s.clkLo = s.k.ktimer then s.k.kipend ||| 256 else s.k.kipend) ∧
  (∀ s : State, let w2 := s.k.logbuf.getD 2 0
    (0x80 ≤ (w2.extractLsb' 0 8).toNat → ∃ u r, exec .logcommit s = .next u ∧ u.nvm.log.head? = some r ∧
      u.nvm.logSeq = s.nvm.logSeq + 1 ∧ r.seq = s.nvm.logSeq + 1 ∧ r.time = s.clkLo ∧ r.type = w2.extractLsb' 0 8 ∧
      r.sev = w2.extractLsb' 8 8 ∧ r.src = w2.extractLsb' 16 16 ∧ r.data = s.k.logbuf.drop 4 ∧
      ∀ type sev src facts, ∃ x, (u.hwLog type sev src facts).nvm.log.take 2 = [{ r with seq := s.nvm.logSeq + 2 }, x] ∧
        (u.committed = 1 → x.seq = s.nvm.logSeq + 1)) ∧
    ((w2.extractLsb' 0 8).toNat < 0x80 →
      exec .logcommit s = .next { s with k := { s.k with refused := true, refAt := some s.clk } })) ∧
  (∀ (s : State) (core : Nat) (x : Word),
    let kc := (x.extractLsb' 8 5).toNat
    let gc := (x.extractLsb' 0 4).toNat
    4 ≤ kc → kc ≤ 16 → 1 ≤ gc → gc ≤ 8 → ∃ u, exec (.sctlall core x) s = .next u ∧ u.k = s.k ∧ u.mem = s.mem ∧
      ∀ i, i < 6 → ((u.core core).slice i).kcap = kc ∧ ((u.core core).slice i).gcap = gc) ∧
  (∀ (s : State) (i : Nat) (e : Energy), s.k.energy[i]? = some e → ∃ u, exec (.enloRead i) s = .next u ∧
    u.k.energy[i]? = some { e with shadow := BitVec.ofNat 32 (e.val / 2 ^ 32) }) ∧
  (∀ s : State,
    (s.k.upstat.getLsbD 0 = false →
      (∃ u, exec .upcmdVerify s = .next u ∧ u.k.upstat = 1 ∧ u.k.upcmd = 1 ∧
        u.k.upjob = some (.verify s.k.upsrc.toNat s.k.uplen.toNat)) ∧
      ∃ u, exec .upcmdAttest s = .next u ∧ u.k.upstat = 1 ∧ u.k.upcmd = 2 ∧
        u.k.upjob = some (.attest s.k.upsrc.toNat s.k.updst.toNat)) ∧
    (s.k.upstat.getLsbD 0 = true →
      exec .upcmdVerify s = .next { s with k := { s.k with refused := true, refAt := some s.clk } } ∧
      exec .upcmdAttest s = .next { s with k := { s.k with refused := true, refAt := some s.clk } })) ∧
  (∀ (s : State) (src n : Nat) (b : List Byte), s.k.upjob = some (.verify src n) → s.upRead src n = some b →
    ∃ u, exec .updateDone s = .next u ∧ u.k.upstat = upstatOf (Image.parse b) s.nvm.rollback ∧ u.k.upjob = none ∧
      u.k.kipend.getLsbD 10 = true ∧ u.nvm.activeB = s.nvm.activeB ∧
      (∀ i, Image.parse b = some i → i.accepted s.nvm.rollback = true → u.nvm.rollback = i.version ∧
        (if s.nvm.activeB then u.nvm.slotA else u.nvm.slotB) = some ⟨b⟩ ∧
        (if s.nvm.activeB then u.nvm.slotB else u.nvm.slotA) = (if s.nvm.activeB then s.nvm.slotB else s.nvm.slotA)) ∧
      ((Image.parse b).any (fun i => i.accepted s.nvm.rollback) = false →
        u.nvm.slotA = s.nvm.slotA ∧ u.nvm.slotB = s.nvm.slotB ∧ u.nvm.rollback = s.nvm.rollback)) ∧
  (∀ (s : State) (src dst : Nat) (nonce : List Byte), s.k.upjob = some (.attest src dst) → s.upRead src 32 = some nonce →
    let report := Config.attestReport s.nvm.active s.nvm.rollback nonce
    (dst + report.length ≤ 0x80000 → ∃ u, exec .updateDone s = .next u ∧ u.k.upstat = 0 ∧ u.mem = s.mem ∧
      u.k.sram = Memory.writeN s.k.sram dst report) ∧
    (s.upWrite dst report = none → exec .updateDone s = .fault .absentMemory)) ∧
  (∀ (s : State) (src dst n : Nat), (s.k.upjob = some (.verify src n) → s.upRead src n = none →
      exec .updateDone s = .fault .absentMemory) ∧
    (s.k.upjob = some (.attest src dst) → s.upRead src 32 = none → exec .updateDone s = .fault .absentMemory))
end

