-- ==== Sys2Proof/Laws/Formats.lean ====
section
/-! SUPPORT. Laws of rounding and of reductions, in arithmetic of their own: what each mode rounds to (04 R93, R96), that
sums and products are exact before they are rounded (R92), gradual underflow (R95), FTZ (R97), the order of a float reduction
(R102) and of a float scan (07 R176). -/
namespace Sys2Proof.Machine

/-! ## Rounding a magnitude to a multiple of 2^q -/

/-- Below the last bit kept nothing is lost. -/
theorem quant_exact (mode : Rnd) (rb : Nat) (neg : Bool) (m : Nat) (e q : Int) (h : q ≤ e) :
    quant mode rb neg m e false q = ⟨m * 2 ^ (e - q).toNat, true⟩ := by
  simp [quant, h]

/-- Toward zero: what lies below the last bit kept is dropped. -/
theorem quant_rtz (rb : Nat) (neg : Bool) (m : Nat) (e q : Int) (h : e < q) :
    (quant .rtz rb neg m e false q).q = m / 2 ^ (q - e).toNat := by
  simp only [quant, if_neg (show ¬q ≤ e by omega)]
  split <;> simp

/-- Toward +∞: a positive magnitude is rounded up, a negative one down; toward −∞ the other way round. -/
theorem quant_rup (rb : Nat) (neg : Bool) (m : Nat) (e q : Int) (h : e < q) :
    (quant .rup rb neg m e false q).q =
      m / 2 ^ (q - e).toNat + (if neg = false ∧ m % 2 ^ (q - e).toNat ≠ 0 then 1 else 0) := by
  simp only [quant, if_neg (show ¬q ≤ e by omega)]
  by_cases hr : m % 2 ^ (q - e).toNat = 0 <;> cases neg <;> simp [hr]

theorem quant_rdn (rb : Nat) (neg : Bool) (m : Nat) (e q : Int) (h : e < q) :
    (quant .rdn rb neg m e false q).q =
      m / 2 ^ (q - e).toNat + (if neg = true ∧ m % 2 ^ (q - e).toNat ≠ 0 then 1 else 0) := by
  simp only [quant, if_neg (show ¬q ≤ e by omega)]
  by_cases hr : m % 2 ^ (q - e).toNat = 0 <;> cases neg <;> simp [hr]

/-- To nearest: no multiple of 2^q is nearer, and of two equally near ones the even one is taken (R93). -/
theorem quant_rne (rb : Nat) (neg : Bool) (m : Nat) (e q : Int) (h : e < q) :
    let d := 2 ^ (q - e).toNat
    let r := (quant .rne rb neg m e false q).q
    2 * m ≤ 2 * (r * d) + d ∧ 2 * (r * d) ≤ 2 * m + d ∧
    ((2 * m = 2 * (r * d) + d ∨ 2 * (r * d) = 2 * m + d) → r % 2 = 0) := by
  intro d r
  have hd : 0 < d := Nat.two_pow_pos _
  have hm : d * (m / d) + m % d = m := Nat.div_add_mod m d
  have hl : m % d < d := Nat.mod_lt m hd
  have hr : r = m / d + (if d < 2 * (m % d) ∨ (2 * (m % d) = d ∧ m / d % 2 = 1) then 1 else 0) := by
    show (quant .rne rb neg m e false q).q = _
    simp only [quant, if_neg (show ¬q ≤ e by omega)]
    by_cases h0 : m % d = 0
    · have : ¬(d < 2 * (m % d) ∨ (2 * (m % d) = d ∧ m / d % 2 = 1)) := by omega
      rw [if_neg this]
      simp [d] at h0 ⊢
      simp [h0]
    · simp [d] at h0 ⊢
      simp only [h0, if_false]
      split <;> simp
  generalize m / d = k at *
  rw [Nat.mul_comm] at hm
  split at hr
  · have e1 : r * d = k * d + d := by rw [hr, Nat.add_mul, Nat.one_mul]
    rw [e1]
    refine ⟨by omega, by omega, fun _ => by omega⟩
  · have e1 : r * d = k * d := by rw [hr, Nat.add_zero]
    rw [e1]
    refine ⟨by omega, by omega, fun _ => by omega⟩

theorem quant_rna (rb : Nat) (neg : Bool) (m : Nat) (e q : Int) (h : e < q) :
    (quant .rna rb neg m e false q).q =
      m / 2 ^ (q - e).toNat + (if 2 ^ (q - e).toNat ≤ 2 * (m % 2 ^ (q - e).toNat) then 1 else 0) := by
  have hd : 0 < 2 ^ (q - e).toNat := Nat.two_pow_pos _
  simp only [quant, if_neg (show ¬q ≤ e by omega)]
  generalize 2 ^ (q - e).toNat = d at *
  by_cases hr : m % d = 0
  · simp [hr, show ¬d = 0 by omega]
  · simp only [hr, decide_false, Bool.false_and, Bool.false_eq_true, if_false]
    split <;> split <;> simp_all <;> omega

/-! ## A format's value: gradual underflow, FTZ -/

/-- At and below the last bit of the least normal number the code counts units of that bit: no magnitude is flushed (R95). -/
theorem round_subnormal (f : FFmt) (mode : Rnd) (rb : Nat) (neg : Bool) (m : Nat) (e : Int) (hm : m ≠ 0)
    (h : lastBit f.mb m e ≤ 1 - (f.bias : Int) - f.mb)
    (hc : (quant mode rb neg m e false (1 - (f.bias : Int) - f.mb)).q ≤ f.maxCode) :
    (f.round mode rb neg m e).1 = f.signed neg (quant mode rb neg m e false (1 - (f.bias : Int) - f.mb)).q := by
  have hq : max (lastBit f.mb m e) (1 - (f.bias : Int) - f.mb) = 1 - (f.bias : Int) - f.mb := by omega
  have h0 : (1 - (f.bias : Int) - f.mb - (1 - (f.bias : Int) - f.mb)).toNat = 0 := by omega
  simp only [FFmt.round, hm, hq, h0, decide_false, Bool.false_and, Bool.false_eq_true, if_false, Nat.zero_mul, Nat.zero_add]
  rw [if_neg (by omega)]

/-- With FTZ a subnormal source reads as the zero of its sign, and any other source as it is (R97). -/
theorem ftzIn_sub (code : Nat) (h : code < 2 ^ 32) :
    ftzIn true fF32 code =
      if code % 2 ^ 31 < 2 ^ 23 then (if code < 2 ^ 31 then 0 else 2 ^ 31) else code := by
  have hs : (true && decide (fF32.mb = 23) && fF32.isSub code) = true ↔
      code % 2 ^ 31 < 2 ^ 23 ∧ code % 2 ^ 31 ≠ 0 := by
    simp only [FFmt.isSub, FFmt.signBit, fF32, Bool.and_eq_true, Bool.true_and]
    exact ⟨fun x => ⟨of_decide_eq_true x.2.1, of_decide_eq_true x.2.2⟩,
      fun x => ⟨rfl, decide_eq_true x.1, decide_eq_true x.2⟩⟩
  have hb : fF32.signBit = 2 ^ 31 := rfl
  unfold ftzIn
  rw [hb]
  split
  · next x => rw [if_pos (hs.mp x).1]; split <;> omega
  · next x => have : ¬(code % 2 ^ 31 < 2 ^ 23 ∧ code % 2 ^ 31 ≠ 0) := fun y => x (hs.mpr y); split <;> (try split) <;> omega

theorem ftzIn_off (f : FFmt) (code : Nat) : ftzIn false f code = code := by simp [ftzIn]

/-! ## Sums and products are exact before they are rounded -/

/-- The value of a dyadic in units of 2^x, for an x at or below its exponent. -/
def Dy.units (a : Dy) (x : Int) : Int := a.n * 2 ^ (a.e - x).toNat

theorem Dy.units_shift (a : Dy) (x y : Int) (h1 : y ≤ x) (h2 : x ≤ a.e) :
    a.units y = a.units x * 2 ^ (x - y).toNat := by
  have : (a.e - y).toNat = (a.e - x).toNat + (x - y).toNat := by omega
  simp only [Dy.units, this, Int.pow_add, Int.mul_assoc]

theorem Dy.add_units (a b : Dy) (x : Int) (ha : x ≤ a.e) (hb : x ≤ b.e) :
    (Dy.add a b).units x = a.units x + b.units x := by
  unfold Dy.add
  split
  · next h => simp [Dy.units, h]
  · split
    · next h => simp [Dy.units, h]
    · have h1 := Dy.units_shift a (min a.e b.e) x (by omega) (by omega)
      have h2 := Dy.units_shift b (min a.e b.e) x (by omega) (by omega)
      rw [h1, h2, ← Int.add_mul]
      rfl

theorem Dy.mul_units (a b : Dy) (x y : Int) (ha : x ≤ a.e) (hb : y ≤ b.e) :
    (Dy.mul a b).units (x + y) = a.units x * b.units y := by
  have : (a.e + b.e - (x + y)).toNat = (a.e - x).toNat + (b.e - y).toNat := by omega
  simp only [Dy.units, Dy.mul, this, Int.pow_add]
  ac_rfl

/-! ## The order of reductions -/

/-- One step of the tree adds each even lane and the one after it (R102). -/
theorem pairUp_get (ftz : Bool) : ∀ (xs : List Word) (i : Nat), 2 * i + 1 < xs.length →
    (pairUp ftz xs).1.getD i 0 = (RedOp.comb .addF ftz (xs.getD (2 * i) 0) (xs.getD (2 * i + 1) 0)).1
  | [], i, h => by simp at h
  | [a], i, h => by simp at h
  | a :: b :: r, 0, _ => by simp [pairUp]
  | a :: b :: r, i + 1, h => by
    have := pairUp_get ftz r i (by simp at h; omega)
    simpa [pairUp, show 2 * (i + 1) = 2 * i + 2 by omega] using this

/-- The tree over two and four lanes; wider ones follow by `pairUp_get`. -/
theorem redTree_two (ftz : Bool) (a b : Word) :
    (redTree ftz 6 ([a, b], {})).1 = (RedOp.comb .addF ftz a b).1 := by simp [redTree, pairUp]

theorem redTree_four (ftz : Bool) (a b c d : Word) :
    (redTree ftz 6 ([a, b, c, d], {})).1 =
      (RedOp.comb .addF ftz (RedOp.comb .addF ftz a b).1 (RedOp.comb .addF ftz c d).1).1 := by simp [redTree, pairUp]

/-- One step of the float scan: y(i) becomes y(i − d) + y(i), all read before any is written (R176). -/
theorem scanStep_get (ftz : Bool) (d : Nat) (xs : List Word) (fl : FFlags) (i : Nat) (h : i < xs.length) :
    (scanStep ftz d (xs, fl)).1.getD i 0 =
      if i < d then xs.getD i 0 else (RedOp.comb .addF ftz (xs.getD (i - d) 0) (xs.getD i 0)).1 := by
  have hu : (upTo xs.length)[i]? = some i := by simp [upTo, h]
  simp only [scanStep, List.getD_eq_getElem?_getD, List.map_map, List.getElem?_map, hu, Option.map_some, Option.getD_some,
    Function.comp]
  split <;> rfl

end Sys2Proof.Machine
end

