-- ==== Sys2Proof/Laws/Maps.lean ====
section
/-! SUPPORT. Laws of the maps and memories: read after write, and that every operation keeps the canonical form. -/
namespace Sys2Proof.Machine

/-! ## Maps: read after write -/

theorem AMap.get?_set_self {α : Type} (m : AMap α) (n : Nat) (x : α) : AMap.get? (AMap.set m n x) n = some x := by
  induction m with
  | nil => simp [AMap.set, AMap.get?]
  | cons a r ih =>
    simp only [AMap.set]
    split
    · simp [AMap.get?]
    · split
      · simp [AMap.get?]
      · next h => simp [AMap.get?, Ne.symm h, ih]

theorem AMap.get?_set_ne {α : Type} (m : AMap α) {n k : Nat} (x : α) (h : k ≠ n) :
    AMap.get? (AMap.set m n x) k = AMap.get? m k := by
  induction m with
  | nil => simp [AMap.set, AMap.get?, Ne.symm h]
  | cons a r ih =>
    simp only [AMap.set]
    split
    · simp [AMap.get?, Ne.symm h]
    · split
      · next h1 => subst h1; simp [AMap.get?, Ne.symm h]
      · simp [AMap.get?, ih]

theorem AMap.get?_set {α : Type} (m : AMap α) (n k : Nat) (x : α) :
    AMap.get? (AMap.set m n x) k = if k = n then some x else AMap.get? m k := by
  split
  · next h => subst h; exact AMap.get?_set_self ..
  · next h => exact AMap.get?_set_ne m x h

theorem AMap.get?_update {α : Type} (m : AMap α) (n k : Nat) (f : α → α) :
    AMap.get? (AMap.update m n f) k = if k = n then (AMap.get? m n).map f else AMap.get? m k := by
  unfold AMap.update
  split
  · next x hx => rw [AMap.get?_set]; split <;> simp_all
  · next hx => split <;> simp_all

theorem AMap.get?_erase_ne {α : Type} (m : AMap α) {n k : Nat} (h : k ≠ n) :
    AMap.get? (AMap.erase m n) k = AMap.get? m k := by
  induction m with
  | nil => rfl
  | cons a r ih =>
    simp only [AMap.erase]
    split
    · next h1 => simp [AMap.get?, h1, Ne.symm h, ih]
    · simp [AMap.get?, ih]

theorem AMap.get?_erase_self {α : Type} (m : AMap α) (n : Nat) : AMap.get? (AMap.erase m n) n = none := by
  induction m with
  | nil => rfl
  | cons a r ih =>
    simp only [AMap.erase]
    split
    · exact ih
    · next h1 => simp [AMap.get?, h1, ih]

/-! ## Maps: rising keys -/

/-- Every key lies above `n`. -/
theorem keysRise_cons {α : Type} (a : Nat × α) (r : List (Nat × α)) :
    keysRise (a :: r) = true ↔ (∀ b ∈ r, a.1 < b.1) ∧ keysRise r = true := by
  induction r generalizing a with
  | nil => simp [keysRise]
  | cons b r ih =>
    have hb : keysRise (a :: b :: r) = (decide (a.1 < b.1) && keysRise (b :: r)) := rfl
    rw [hb, Bool.and_eq_true, decide_eq_true_eq]
    constructor
    · rintro ⟨h1, h2⟩
      refine ⟨?_, h2⟩
      intro c hc
      rcases List.mem_cons.mp hc with rfl | hc
      · exact h1
      · exact Nat.lt_trans h1 (((ih b).mp h2).1 c hc)
    · rintro ⟨h1, h2⟩
      exact ⟨h1 b (List.mem_cons_self ..), h2⟩

theorem AMap.mem_set {α : Type} (m : AMap α) (n : Nat) (x : α) :
    ∀ p ∈ AMap.set m n x, p = (n, x) ∨ p ∈ m := by
  induction m with
  | nil => intro p hp; simpa [AMap.set] using hp
  | cons a r ih =>
    intro p hp
    simp only [AMap.set] at hp
    split at hp
    · simpa using hp
    · split at hp
      · rcases List.mem_cons.mp hp with h | h <;> simp_all
      · rcases List.mem_cons.mp hp with h | h
        · simp [h]
        · rcases ih p h with h | h <;> simp [h]

theorem AMap.mem_erase {α : Type} (m : AMap α) (n : Nat) : ∀ p ∈ AMap.erase m n, p ∈ m := by
  induction m with
  | nil => intro p hp; simp [AMap.erase] at hp
  | cons a r ih =>
    intro p hp
    simp only [AMap.erase] at hp
    split at hp
    · simp [ih p hp]
    · rcases List.mem_cons.mp hp with h | h
      · simp [h]
      · simp [ih p h]

theorem keysRise_set {α : Type} (m : AMap α) (n : Nat) (x : α) (h : keysRise m = true) :
    keysRise (AMap.set m n x) = true := by
  induction m with
  | nil => rfl
  | cons a r ih =>
    obtain ⟨h1, h2⟩ := (keysRise_cons a r).mp h
    simp only [AMap.set]
    split
    · next hlt =>
      refine (keysRise_cons _ _).mpr ⟨?_, h⟩
      intro b hb
      rcases List.mem_cons.mp hb with rfl | hb
      · exact hlt
      · exact Nat.lt_trans hlt (h1 b hb)
    · split
      · next heq => subst heq; exact (keysRise_cons _ _).mpr ⟨h1, h2⟩
      · refine (keysRise_cons _ _).mpr ⟨?_, ih h2⟩
        intro b hb
        rcases AMap.mem_set r n x b hb with rfl | hb
        · show a.1 < n; omega
        · exact h1 b hb

theorem keysRise_erase {α : Type} (m : AMap α) (n : Nat) (h : keysRise m = true) :
    keysRise (AMap.erase m n) = true := by
  induction m with
  | nil => rfl
  | cons a r ih =>
    obtain ⟨h1, h2⟩ := (keysRise_cons a r).mp h
    simp only [AMap.erase]
    split
    · exact ih h2
    · exact (keysRise_cons _ _).mpr ⟨fun b hb => h1 b (AMap.mem_erase r n b hb), ih h2⟩

/-! ## Memories -/

theorem Memory.wf_write (m : Memory) (a : Nat) (b : Byte) (h : Memory.wf m = true) :
    Memory.wf (Memory.write m a b) = true := by
  simp only [Memory.wf, Bool.and_eq_true, List.all_eq_true, bne_iff_ne, ne_eq] at h ⊢
  unfold Memory.write
  split
  · exact ⟨keysRise_erase m a h.1, fun c hc => h.2 c (AMap.mem_erase m a c hc)⟩
  · refine ⟨keysRise_set m a b h.1, fun c hc => ?_⟩
    rcases AMap.mem_set m a b c hc with rfl | hc
    · assumption
    · exact h.2 c hc

theorem Memory.wf_writeN (bs : List Byte) : ∀ (m : Memory) (a : Nat), Memory.wf m = true →
    Memory.wf (Memory.writeN m a bs) = true := by
  induction bs with
  | nil => intro m a h; exact h
  | cons b r ih => intro m a h; exact ih _ _ (Memory.wf_write m a b h)

/-- Read after a write of one byte, at its address and elsewhere. -/
theorem Memory.read_write (m : Memory) (a k : Nat) (b : Byte) :
    Memory.read (Memory.write m a b) k = if k = a then b else Memory.read m k := by
  unfold Memory.read Memory.write AMap.getD
  split <;> split
  · next hb hk => subst hk; simp [AMap.get?_erase_self m k, hb]
  · next hb hk => simp [AMap.get?_erase_ne m hk]
  · next hb hk => subst hk; simp [AMap.get?_set_self]
  · next hb hk => simp [AMap.get?_set_ne m b hk]

/-- A write of several bytes leaves every other byte alone. -/
theorem Memory.read_writeN_ne (bs : List Byte) : ∀ (m : Memory) (a k : Nat),
    (k < a ∨ a + bs.length ≤ k) → Memory.read (Memory.writeN m a bs) k = Memory.read m k := by
  induction bs with
  | nil => intro m a k _; rfl
  | cons b r ih =>
    intro m a k hk
    simp only [List.length_cons] at hk
    rw [Memory.writeN, ih _ _ _ (by omega), Memory.read_write m a k b, if_neg (by omega)]

/-- A write of several bytes is read back. -/
theorem Memory.read_writeN (bs : List Byte) : ∀ (m : Memory) (a i : Nat), i < bs.length →
    Memory.read (Memory.writeN m a bs) (a + i) = bs.getD i 0 := by
  induction bs with
  | nil => intro m a i hi; simp at hi
  | cons b r ih =>
    intro m a i hi
    cases i with
    | zero =>
      rw [Memory.writeN, Memory.read_writeN_ne r _ _ _ (by omega), Memory.read_write m a _ b]
      simp
    | succ i =>
      have := ih (Memory.write m a b) (a + 1) i (by simpa using hi)
      rw [Memory.writeN, show a + (i + 1) = a + 1 + i by omega, this]
      simp

/-! ## Rings -/

theorem Ring.wf_flush (esz : Nat) (xs : List (List Byte)) : ∀ (r : Ring) (m : Memory), Memory.wf m = true →
    Memory.wf (Ring.flush esz xs r m).2 = true := by
  induction xs with
  | nil => intro r m h; exact h
  | cons x rest ih =>
    intro r m h
    simp only [Ring.flush]
    split
    · exact h
    · exact ih _ _ (Memory.wf_writeN _ _ _ h)

theorem Ring.wf_put (esz : Nat) (r : Ring) (m : Memory) (x : List Byte) (h : Memory.wf m = true) :
    Memory.wf (Ring.put esz r m x).2 = true := Ring.wf_flush esz _ r m h

end Sys2Proof.Machine
end

