-- ==== Sys2Proof/Laws/State.lean ====
section
/-! SUPPORT. Read after update for State and Group: one lemma per field per update, true by unfolding, and the read-backs
of a team, a group and a port. -/
namespace Sys2Proof.Machine

/-! ## tick -/

@[simp] theorem State.tick_clk (s : State) (n : Nat) : (s.tick n).clk = s.clk + n := rfl
@[simp] theorem State.tick_mem (s : State) (n : Nat) : (s.tick n).mem = s.mem := rfl
@[simp] theorem State.tick_poison (s : State) (n : Nat) : (s.tick n).poison = s.poison := rfl
@[simp] theorem State.tick_bus (s : State) (n : Nat) : (s.tick n).bus = s.bus := rfl
@[simp] theorem State.tick_stlb (s : State) (n : Nat) : (s.tick n).stlb = s.stlb := rfl
@[simp] theorem State.tick_icache (s : State) (n : Nat) : (s.tick n).icache = s.icache := rfl
@[simp] theorem State.tick_cols (s : State) (n : Nat) : (s.tick n).cols = s.cols := rfl
@[simp] theorem State.tick_cores (s : State) (n : Nat) : (s.tick n).cores = s.cores := rfl
@[simp] theorem State.tick_teams (s : State) (n : Nat) : (s.tick n).teams = s.teams := rfl
@[simp] theorem State.tick_grids (s : State) (n : Nat) : (s.tick n).grids = s.grids := rfl
@[simp] theorem State.tick_queues (s : State) (n : Nat) : (s.tick n).queues = s.queues := rfl
@[simp] theorem State.tick_windows (s : State) (n : Nat) : (s.tick n).windows = s.windows := rfl
@[simp] theorem State.tick_sched (s : State) (n : Nat) : (s.tick n).sched = s.sched := rfl
@[simp] theorem State.tick_cmdSeq (s : State) (n : Nat) : (s.tick n).cmdSeq = s.cmdSeq := rfl
@[simp] theorem State.tick_k (s : State) (n : Nat) : (s.tick n).k = s.k := rfl
@[simp] theorem State.tick_nvm (s : State) (n : Nat) : (s.tick n).nvm = s.nvm := rfl
@[simp] theorem State.tick_cool (s : State) (n : Nat) : (s.tick n).cool = s.cool := rfl
@[simp] theorem State.tick_scanAt (s : State) (n : Nat) : (s.tick n).scanAt = s.scanAt := rfl
@[simp] theorem State.tick_hbmReady (s : State) (n : Nat) : (s.tick n).hbmReady = s.hbmReady := rfl
@[simp] theorem State.tick_released (s : State) (n : Nat) : (s.tick n).released = s.released := rfl
@[simp] theorem State.tick_schedRw (s : State) (n : Nat) : (s.tick n).schedRw = s.schedRw := rfl
@[simp] theorem State.tick_focus (s : State) (n : Nat) : (s.tick n).focus = s.focus := rfl
@[simp] theorem State.tick_cycle (s : State) (n : Nat) : (s.tick n).cycle = s.cycle := rfl
@[simp] theorem State.tick_conflict (s : State) (n : Nat) : (s.tick n).conflict = s.conflict := rfl
@[simp] theorem State.tick_agenda (s : State) (n : Nat) : (s.tick n).agenda = s.agenda := rfl
@[simp] theorem State.tick_periodAt (s : State) (n : Nat) : (s.tick n).periodAt = s.periodAt := rfl
@[simp] theorem State.tick_readAt (s : State) (n : Nat) : (s.tick n).readAt = s.readAt := rfl
@[simp] theorem State.tick_freeCtr (s : State) (n : Nat) : (s.tick n).freeCtr = s.freeCtr := rfl

/-! ## setTeam -/

@[simp] theorem State.setTeam_clk (s : State) (t : Nat) (x : Team) : (s.setTeam t x).clk = s.clk := rfl
@[simp] theorem State.setTeam_mem (s : State) (t : Nat) (x : Team) : (s.setTeam t x).mem = s.mem := rfl
@[simp] theorem State.setTeam_poison (s : State) (t : Nat) (x : Team) : (s.setTeam t x).poison = s.poison := rfl
@[simp] theorem State.setTeam_bus (s : State) (t : Nat) (x : Team) : (s.setTeam t x).bus = s.bus := rfl
@[simp] theorem State.setTeam_stlb (s : State) (t : Nat) (x : Team) : (s.setTeam t x).stlb = s.stlb := rfl
@[simp] theorem State.setTeam_icache (s : State) (t : Nat) (x : Team) : (s.setTeam t x).icache = s.icache := rfl
@[simp] theorem State.setTeam_cols (s : State) (t : Nat) (x : Team) : (s.setTeam t x).cols = s.cols := rfl
@[simp] theorem State.setTeam_cores (s : State) (t : Nat) (x : Team) : (s.setTeam t x).cores = s.cores := rfl
@[simp] theorem State.setTeam_teams (s : State) (t : Nat) (x : Team) : (s.setTeam t x).teams = AMap.set s.teams t x := rfl
@[simp] theorem State.setTeam_grids (s : State) (t : Nat) (x : Team) : (s.setTeam t x).grids = s.grids := rfl
@[simp] theorem State.setTeam_queues (s : State) (t : Nat) (x : Team) : (s.setTeam t x).queues = s.queues := rfl
@[simp] theorem State.setTeam_windows (s : State) (t : Nat) (x : Team) : (s.setTeam t x).windows = s.windows := rfl
@[simp] theorem State.setTeam_sched (s : State) (t : Nat) (x : Team) : (s.setTeam t x).sched = s.sched := rfl
@[simp] theorem State.setTeam_cmdSeq (s : State) (t : Nat) (x : Team) : (s.setTeam t x).cmdSeq = s.cmdSeq := rfl
@[simp] theorem State.setTeam_k (s : State) (t : Nat) (x : Team) : (s.setTeam t x).k = s.k := rfl
@[simp] theorem State.setTeam_nvm (s : State) (t : Nat) (x : Team) : (s.setTeam t x).nvm = s.nvm := rfl
@[simp] theorem State.setTeam_cool (s : State) (t : Nat) (x : Team) : (s.setTeam t x).cool = s.cool := rfl
@[simp] theorem State.setTeam_scanAt (s : State) (t : Nat) (x : Team) : (s.setTeam t x).scanAt = s.scanAt := rfl
@[simp] theorem State.setTeam_hbmReady (s : State) (t : Nat) (x : Team) : (s.setTeam t x).hbmReady = s.hbmReady := rfl
@[simp] theorem State.setTeam_released (s : State) (t : Nat) (x : Team) : (s.setTeam t x).released = s.released := rfl
@[simp] theorem State.setTeam_schedRw (s : State) (t : Nat) (x : Team) : (s.setTeam t x).schedRw = s.schedRw := rfl
@[simp] theorem State.setTeam_focus (s : State) (t : Nat) (x : Team) : (s.setTeam t x).focus = s.focus := rfl
@[simp] theorem State.setTeam_cycle (s : State) (t : Nat) (x : Team) : (s.setTeam t x).cycle = s.cycle := rfl
@[simp] theorem State.setTeam_conflict (s : State) (t : Nat) (x : Team) : (s.setTeam t x).conflict = s.conflict := rfl
@[simp] theorem State.setTeam_agenda (s : State) (t : Nat) (x : Team) : (s.setTeam t x).agenda = s.agenda := rfl
@[simp] theorem State.setTeam_periodAt (s : State) (t : Nat) (x : Team) : (s.setTeam t x).periodAt = s.periodAt := rfl
@[simp] theorem State.setTeam_readAt (s : State) (t : Nat) (x : Team) : (s.setTeam t x).readAt = s.readAt := rfl
@[simp] theorem State.setTeam_freeCtr (s : State) (t : Nat) (x : Team) : (s.setTeam t x).freeCtr = s.freeCtr := rfl

/-! ## modTeam -/

@[simp] theorem State.modTeam_clk (s : State) (t : Nat) (f : Team → Team) : (s.modTeam t f).clk = s.clk := rfl
@[simp] theorem State.modTeam_mem (s : State) (t : Nat) (f : Team → Team) : (s.modTeam t f).mem = s.mem := rfl
@[simp] theorem State.modTeam_poison (s : State) (t : Nat) (f : Team → Team) : (s.modTeam t f).poison = s.poison := rfl
@[simp] theorem State.modTeam_bus (s : State) (t : Nat) (f : Team → Team) : (s.modTeam t f).bus = s.bus := rfl
@[simp] theorem State.modTeam_stlb (s : State) (t : Nat) (f : Team → Team) : (s.modTeam t f).stlb = s.stlb := rfl
@[simp] theorem State.modTeam_icache (s : State) (t : Nat) (f : Team → Team) : (s.modTeam t f).icache = s.icache := rfl
@[simp] theorem State.modTeam_cols (s : State) (t : Nat) (f : Team → Team) : (s.modTeam t f).cols = s.cols := rfl
@[simp] theorem State.modTeam_cores (s : State) (t : Nat) (f : Team → Team) : (s.modTeam t f).cores = s.cores := rfl
@[simp] theorem State.modTeam_teams (s : State) (t : Nat) (f : Team → Team) : (s.modTeam t f).teams = AMap.update s.teams t f := rfl
@[simp] theorem State.modTeam_grids (s : State) (t : Nat) (f : Team → Team) : (s.modTeam t f).grids = s.grids := rfl
@[simp] theorem State.modTeam_queues (s : State) (t : Nat) (f : Team → Team) : (s.modTeam t f).queues = s.queues := rfl
@[simp] theorem State.modTeam_windows (s : State) (t : Nat) (f : Team → Team) : (s.modTeam t f).windows = s.windows := rfl
@[simp] theorem State.modTeam_sched (s : State) (t : Nat) (f : Team → Team) : (s.modTeam t f).sched = s.sched := rfl
@[simp] theorem State.modTeam_cmdSeq (s : State) (t : Nat) (f : Team → Team) : (s.modTeam t f).cmdSeq = s.cmdSeq := rfl
@[simp] theorem State.modTeam_k (s : State) (t : Nat) (f : Team → Team) : (s.modTeam t f).k = s.k := rfl
@[simp] theorem State.modTeam_nvm (s : State) (t : Nat) (f : Team → Team) : (s.modTeam t f).nvm = s.nvm := rfl
@[simp] theorem State.modTeam_cool (s : State) (t : Nat) (f : Team → Team) : (s.modTeam t f).cool = s.cool := rfl
@[simp] theorem State.modTeam_scanAt (s : State) (t : Nat) (f : Team → Team) : (s.modTeam t f).scanAt = s.scanAt := rfl
@[simp] theorem State.modTeam_hbmReady (s : State) (t : Nat) (f : Team → Team) : (s.modTeam t f).hbmReady = s.hbmReady := rfl
@[simp] theorem State.modTeam_released (s : State) (t : Nat) (f : Team → Team) : (s.modTeam t f).released = s.released := rfl
@[simp] theorem State.modTeam_schedRw (s : State) (t : Nat) (f : Team → Team) : (s.modTeam t f).schedRw = s.schedRw := rfl
@[simp] theorem State.modTeam_focus (s : State) (t : Nat) (f : Team → Team) : (s.modTeam t f).focus = s.focus := rfl
@[simp] theorem State.modTeam_cycle (s : State) (t : Nat) (f : Team → Team) : (s.modTeam t f).cycle = s.cycle := rfl
@[simp] theorem State.modTeam_conflict (s : State) (t : Nat) (f : Team → Team) : (s.modTeam t f).conflict = s.conflict := rfl
@[simp] theorem State.modTeam_agenda (s : State) (t : Nat) (f : Team → Team) : (s.modTeam t f).agenda = s.agenda := rfl
@[simp] theorem State.modTeam_periodAt (s : State) (t : Nat) (f : Team → Team) : (s.modTeam t f).periodAt = s.periodAt := rfl
@[simp] theorem State.modTeam_readAt (s : State) (t : Nat) (f : Team → Team) : (s.modTeam t f).readAt = s.readAt := rfl
@[simp] theorem State.modTeam_freeCtr (s : State) (t : Nat) (f : Team → Team) : (s.modTeam t f).freeCtr = s.freeCtr := rfl

/-! ## modGroup -/

@[simp] theorem State.modGroup_clk (s : State) (t n : Nat) (f : Group → Group) : (s.modGroup t n f).clk = s.clk := rfl
@[simp] theorem State.modGroup_mem (s : State) (t n : Nat) (f : Group → Group) : (s.modGroup t n f).mem = s.mem := rfl
@[simp] theorem State.modGroup_poison (s : State) (t n : Nat) (f : Group → Group) : (s.modGroup t n f).poison = s.poison := rfl
@[simp] theorem State.modGroup_bus (s : State) (t n : Nat) (f : Group → Group) : (s.modGroup t n f).bus = s.bus := rfl
@[simp] theorem State.modGroup_stlb (s : State) (t n : Nat) (f : Group → Group) : (s.modGroup t n f).stlb = s.stlb := rfl
@[simp] theorem State.modGroup_icache (s : State) (t n : Nat) (f : Group → Group) : (s.modGroup t n f).icache = s.icache := rfl
@[simp] theorem State.modGroup_cols (s : State) (t n : Nat) (f : Group → Group) : (s.modGroup t n f).cols = s.cols := rfl
@[simp] theorem State.modGroup_cores (s : State) (t n : Nat) (f : Group → Group) : (s.modGroup t n f).cores = s.cores := rfl
@[simp] theorem State.modGroup_teams (s : State) (t n : Nat) (f : Group → Group) : (s.modGroup t n f).teams = AMap.update s.teams t (fun x => x.modGroup n f) := rfl
@[simp] theorem State.modGroup_grids (s : State) (t n : Nat) (f : Group → Group) : (s.modGroup t n f).grids = s.grids := rfl
@[simp] theorem State.modGroup_queues (s : State) (t n : Nat) (f : Group → Group) : (s.modGroup t n f).queues = s.queues := rfl
@[simp] theorem State.modGroup_windows (s : State) (t n : Nat) (f : Group → Group) : (s.modGroup t n f).windows = s.windows := rfl
@[simp] theorem State.modGroup_sched (s : State) (t n : Nat) (f : Group → Group) : (s.modGroup t n f).sched = s.sched := rfl
@[simp] theorem State.modGroup_cmdSeq (s : State) (t n : Nat) (f : Group → Group) : (s.modGroup t n f).cmdSeq = s.cmdSeq := rfl
@[simp] theorem State.modGroup_k (s : State) (t n : Nat) (f : Group → Group) : (s.modGroup t n f).k = s.k := rfl
@[simp] theorem State.modGroup_nvm (s : State) (t n : Nat) (f : Group → Group) : (s.modGroup t n f).nvm = s.nvm := rfl
@[simp] theorem State.modGroup_cool (s : State) (t n : Nat) (f : Group → Group) : (s.modGroup t n f).cool = s.cool := rfl
@[simp] theorem State.modGroup_scanAt (s : State) (t n : Nat) (f : Group → Group) : (s.modGroup t n f).scanAt = s.scanAt := rfl
@[simp] theorem State.modGroup_hbmReady (s : State) (t n : Nat) (f : Group → Group) : (s.modGroup t n f).hbmReady = s.hbmReady := rfl
@[simp] theorem State.modGroup_released (s : State) (t n : Nat) (f : Group → Group) : (s.modGroup t n f).released = s.released := rfl
@[simp] theorem State.modGroup_schedRw (s : State) (t n : Nat) (f : Group → Group) : (s.modGroup t n f).schedRw = s.schedRw := rfl
@[simp] theorem State.modGroup_focus (s : State) (t n : Nat) (f : Group → Group) : (s.modGroup t n f).focus = s.focus := rfl
@[simp] theorem State.modGroup_cycle (s : State) (t n : Nat) (f : Group → Group) : (s.modGroup t n f).cycle = s.cycle := rfl
@[simp] theorem State.modGroup_conflict (s : State) (t n : Nat) (f : Group → Group) : (s.modGroup t n f).conflict = s.conflict := rfl
@[simp] theorem State.modGroup_agenda (s : State) (t n : Nat) (f : Group → Group) : (s.modGroup t n f).agenda = s.agenda := rfl
@[simp] theorem State.modGroup_periodAt (s : State) (t n : Nat) (f : Group → Group) : (s.modGroup t n f).periodAt = s.periodAt := rfl
@[simp] theorem State.modGroup_readAt (s : State) (t n : Nat) (f : Group → Group) : (s.modGroup t n f).readAt = s.readAt := rfl
@[simp] theorem State.modGroup_freeCtr (s : State) (t n : Nat) (f : Group → Group) : (s.modGroup t n f).freeCtr = s.freeCtr := rfl

/-! ## modCore -/

@[simp] theorem State.modCore_clk (s : State) (c : Nat) (f : Core → Core) : (s.modCore c f).clk = s.clk := rfl
@[simp] theorem State.modCore_mem (s : State) (c : Nat) (f : Core → Core) : (s.modCore c f).mem = s.mem := rfl
@[simp] theorem State.modCore_poison (s : State) (c : Nat) (f : Core → Core) : (s.modCore c f).poison = s.poison := rfl
@[simp] theorem State.modCore_bus (s : State) (c : Nat) (f : Core → Core) : (s.modCore c f).bus = s.bus := rfl
@[simp] theorem State.modCore_stlb (s : State) (c : Nat) (f : Core → Core) : (s.modCore c f).stlb = s.stlb := rfl
@[simp] theorem State.modCore_icache (s : State) (c : Nat) (f : Core → Core) : (s.modCore c f).icache = s.icache := rfl
@[simp] theorem State.modCore_cols (s : State) (c : Nat) (f : Core → Core) : (s.modCore c f).cols = s.cols := rfl
@[simp] theorem State.modCore_cores (s : State) (c : Nat) (f : Core → Core) : (s.modCore c f).cores = AMap.set s.cores c (f (s.core c)) := rfl
@[simp] theorem State.modCore_teams (s : State) (c : Nat) (f : Core → Core) : (s.modCore c f).teams = s.teams := rfl
@[simp] theorem State.modCore_grids (s : State) (c : Nat) (f : Core → Core) : (s.modCore c f).grids = s.grids := rfl
@[simp] theorem State.modCore_queues (s : State) (c : Nat) (f : Core → Core) : (s.modCore c f).queues = s.queues := rfl
@[simp] theorem State.modCore_windows (s : State) (c : Nat) (f : Core → Core) : (s.modCore c f).windows = s.windows := rfl
@[simp] theorem State.modCore_sched (s : State) (c : Nat) (f : Core → Core) : (s.modCore c f).sched = s.sched := rfl
@[simp] theorem State.modCore_cmdSeq (s : State) (c : Nat) (f : Core → Core) : (s.modCore c f).cmdSeq = s.cmdSeq := rfl
@[simp] theorem State.modCore_k (s : State) (c : Nat) (f : Core → Core) : (s.modCore c f).k = s.k := rfl
@[simp] theorem State.modCore_nvm (s : State) (c : Nat) (f : Core → Core) : (s.modCore c f).nvm = s.nvm := rfl
@[simp] theorem State.modCore_cool (s : State) (c : Nat) (f : Core → Core) : (s.modCore c f).cool = s.cool := rfl
@[simp] theorem State.modCore_scanAt (s : State) (c : Nat) (f : Core → Core) : (s.modCore c f).scanAt = s.scanAt := rfl
@[simp] theorem State.modCore_hbmReady (s : State) (c : Nat) (f : Core → Core) : (s.modCore c f).hbmReady = s.hbmReady := rfl
@[simp] theorem State.modCore_released (s : State) (c : Nat) (f : Core → Core) : (s.modCore c f).released = s.released := rfl
@[simp] theorem State.modCore_schedRw (s : State) (c : Nat) (f : Core → Core) : (s.modCore c f).schedRw = s.schedRw := rfl
@[simp] theorem State.modCore_focus (s : State) (c : Nat) (f : Core → Core) : (s.modCore c f).focus = s.focus := rfl
@[simp] theorem State.modCore_cycle (s : State) (c : Nat) (f : Core → Core) : (s.modCore c f).cycle = s.cycle := rfl
@[simp] theorem State.modCore_conflict (s : State) (c : Nat) (f : Core → Core) : (s.modCore c f).conflict = s.conflict := rfl
@[simp] theorem State.modCore_agenda (s : State) (c : Nat) (f : Core → Core) : (s.modCore c f).agenda = s.agenda := rfl
@[simp] theorem State.modCore_periodAt (s : State) (c : Nat) (f : Core → Core) : (s.modCore c f).periodAt = s.periodAt := rfl
@[simp] theorem State.modCore_readAt (s : State) (c : Nat) (f : Core → Core) : (s.modCore c f).readAt = s.readAt := rfl
@[simp] theorem State.modCore_freeCtr (s : State) (c : Nat) (f : Core → Core) : (s.modCore c f).freeCtr = s.freeCtr := rfl

/-! ## modCol -/

@[simp] theorem State.modCol_clk (s : State) (m : Nat) (f : Column → Column) : (s.modCol m f).clk = s.clk := rfl
@[simp] theorem State.modCol_mem (s : State) (m : Nat) (f : Column → Column) : (s.modCol m f).mem = s.mem := rfl
@[simp] theorem State.modCol_poison (s : State) (m : Nat) (f : Column → Column) : (s.modCol m f).poison = s.poison := rfl
@[simp] theorem State.modCol_bus (s : State) (m : Nat) (f : Column → Column) : (s.modCol m f).bus = s.bus := rfl
@[simp] theorem State.modCol_stlb (s : State) (m : Nat) (f : Column → Column) : (s.modCol m f).stlb = s.stlb := rfl
@[simp] theorem State.modCol_icache (s : State) (m : Nat) (f : Column → Column) : (s.modCol m f).icache = s.icache := rfl
@[simp] theorem State.modCol_cols (s : State) (m : Nat) (f : Column → Column) : (s.modCol m f).cols = AMap.set s.cols m (f (s.col m)) := rfl
@[simp] theorem State.modCol_cores (s : State) (m : Nat) (f : Column → Column) : (s.modCol m f).cores = s.cores := rfl
@[simp] theorem State.modCol_teams (s : State) (m : Nat) (f : Column → Column) : (s.modCol m f).teams = s.teams := rfl
@[simp] theorem State.modCol_grids (s : State) (m : Nat) (f : Column → Column) : (s.modCol m f).grids = s.grids := rfl
@[simp] theorem State.modCol_queues (s : State) (m : Nat) (f : Column → Column) : (s.modCol m f).queues = s.queues := rfl
@[simp] theorem State.modCol_windows (s : State) (m : Nat) (f : Column → Column) : (s.modCol m f).windows = s.windows := rfl
@[simp] theorem State.modCol_sched (s : State) (m : Nat) (f : Column → Column) : (s.modCol m f).sched = s.sched := rfl
@[simp] theorem State.modCol_cmdSeq (s : State) (m : Nat) (f : Column → Column) : (s.modCol m f).cmdSeq = s.cmdSeq := rfl
@[simp] theorem State.modCol_k (s : State) (m : Nat) (f : Column → Column) : (s.modCol m f).k = s.k := rfl
@[simp] theorem State.modCol_nvm (s : State) (m : Nat) (f : Column → Column) : (s.modCol m f).nvm = s.nvm := rfl
@[simp] theorem State.modCol_cool (s : State) (m : Nat) (f : Column → Column) : (s.modCol m f).cool = s.cool := rfl
@[simp] theorem State.modCol_scanAt (s : State) (m : Nat) (f : Column → Column) : (s.modCol m f).scanAt = s.scanAt := rfl
@[simp] theorem State.modCol_hbmReady (s : State) (m : Nat) (f : Column → Column) : (s.modCol m f).hbmReady = s.hbmReady := rfl
@[simp] theorem State.modCol_released (s : State) (m : Nat) (f : Column → Column) : (s.modCol m f).released = s.released := rfl
@[simp] theorem State.modCol_schedRw (s : State) (m : Nat) (f : Column → Column) : (s.modCol m f).schedRw = s.schedRw := rfl
@[simp] theorem State.modCol_focus (s : State) (m : Nat) (f : Column → Column) : (s.modCol m f).focus = s.focus := rfl
@[simp] theorem State.modCol_cycle (s : State) (m : Nat) (f : Column → Column) : (s.modCol m f).cycle = s.cycle := rfl
@[simp] theorem State.modCol_conflict (s : State) (m : Nat) (f : Column → Column) : (s.modCol m f).conflict = s.conflict := rfl
@[simp] theorem State.modCol_agenda (s : State) (m : Nat) (f : Column → Column) : (s.modCol m f).agenda = s.agenda := rfl
@[simp] theorem State.modCol_periodAt (s : State) (m : Nat) (f : Column → Column) : (s.modCol m f).periodAt = s.periodAt := rfl
@[simp] theorem State.modCol_readAt (s : State) (m : Nat) (f : Column → Column) : (s.modCol m f).readAt = s.readAt := rfl
@[simp] theorem State.modCol_freeCtr (s : State) (m : Nat) (f : Column → Column) : (s.modCol m f).freeCtr = s.freeCtr := rfl

/-! ## modQueue -/

@[simp] theorem State.modQueue_clk (s : State) (q : Nat) (f : Queue → Queue) : (s.modQueue q f).clk = s.clk := rfl
@[simp] theorem State.modQueue_mem (s : State) (q : Nat) (f : Queue → Queue) : (s.modQueue q f).mem = s.mem := rfl
@[simp] theorem State.modQueue_poison (s : State) (q : Nat) (f : Queue → Queue) : (s.modQueue q f).poison = s.poison := rfl
@[simp] theorem State.modQueue_bus (s : State) (q : Nat) (f : Queue → Queue) : (s.modQueue q f).bus = s.bus := rfl
@[simp] theorem State.modQueue_stlb (s : State) (q : Nat) (f : Queue → Queue) : (s.modQueue q f).stlb = s.stlb := rfl
@[simp] theorem State.modQueue_icache (s : State) (q : Nat) (f : Queue → Queue) : (s.modQueue q f).icache = s.icache := rfl
@[simp] theorem State.modQueue_cols (s : State) (q : Nat) (f : Queue → Queue) : (s.modQueue q f).cols = s.cols := rfl
@[simp] theorem State.modQueue_cores (s : State) (q : Nat) (f : Queue → Queue) : (s.modQueue q f).cores = s.cores := rfl
@[simp] theorem State.modQueue_teams (s : State) (q : Nat) (f : Queue → Queue) : (s.modQueue q f).teams = s.teams := rfl
@[simp] theorem State.modQueue_grids (s : State) (q : Nat) (f : Queue → Queue) : (s.modQueue q f).grids = s.grids := rfl
@[simp] theorem State.modQueue_queues (s : State) (q : Nat) (f : Queue → Queue) : (s.modQueue q f).queues = AMap.set s.queues q (f (s.queue q)) := rfl
@[simp] theorem State.modQueue_windows (s : State) (q : Nat) (f : Queue → Queue) : (s.modQueue q f).windows = s.windows := rfl
@[simp] theorem State.modQueue_sched (s : State) (q : Nat) (f : Queue → Queue) : (s.modQueue q f).sched = s.sched := rfl
@[simp] theorem State.modQueue_cmdSeq (s : State) (q : Nat) (f : Queue → Queue) : (s.modQueue q f).cmdSeq = s.cmdSeq := rfl
@[simp] theorem State.modQueue_k (s : State) (q : Nat) (f : Queue → Queue) : (s.modQueue q f).k = s.k := rfl
@[simp] theorem State.modQueue_nvm (s : State) (q : Nat) (f : Queue → Queue) : (s.modQueue q f).nvm = s.nvm := rfl
@[simp] theorem State.modQueue_cool (s : State) (q : Nat) (f : Queue → Queue) : (s.modQueue q f).cool = s.cool := rfl
@[simp] theorem State.modQueue_scanAt (s : State) (q : Nat) (f : Queue → Queue) : (s.modQueue q f).scanAt = s.scanAt := rfl
@[simp] theorem State.modQueue_hbmReady (s : State) (q : Nat) (f : Queue → Queue) : (s.modQueue q f).hbmReady = s.hbmReady := rfl
@[simp] theorem State.modQueue_released (s : State) (q : Nat) (f : Queue → Queue) : (s.modQueue q f).released = s.released := rfl
@[simp] theorem State.modQueue_schedRw (s : State) (q : Nat) (f : Queue → Queue) : (s.modQueue q f).schedRw = s.schedRw := rfl
@[simp] theorem State.modQueue_focus (s : State) (q : Nat) (f : Queue → Queue) : (s.modQueue q f).focus = s.focus := rfl
@[simp] theorem State.modQueue_cycle (s : State) (q : Nat) (f : Queue → Queue) : (s.modQueue q f).cycle = s.cycle := rfl
@[simp] theorem State.modQueue_conflict (s : State) (q : Nat) (f : Queue → Queue) : (s.modQueue q f).conflict = s.conflict := rfl
@[simp] theorem State.modQueue_agenda (s : State) (q : Nat) (f : Queue → Queue) : (s.modQueue q f).agenda = s.agenda := rfl
@[simp] theorem State.modQueue_periodAt (s : State) (q : Nat) (f : Queue → Queue) : (s.modQueue q f).periodAt = s.periodAt := rfl
@[simp] theorem State.modQueue_readAt (s : State) (q : Nat) (f : Queue → Queue) : (s.modQueue q f).readAt = s.readAt := rfl
@[simp] theorem State.modQueue_freeCtr (s : State) (q : Nat) (f : Queue → Queue) : (s.modQueue q f).freeCtr = s.freeCtr := rfl

/-! ## modGrid -/

@[simp] theorem State.modGrid_clk (s : State) (n : Word) (f : Grid → Grid) : (s.modGrid n f).clk = s.clk := rfl
@[simp] theorem State.modGrid_mem (s : State) (n : Word) (f : Grid → Grid) : (s.modGrid n f).mem = s.mem := rfl
@[simp] theorem State.modGrid_poison (s : State) (n : Word) (f : Grid → Grid) : (s.modGrid n f).poison = s.poison := rfl
@[simp] theorem State.modGrid_bus (s : State) (n : Word) (f : Grid → Grid) : (s.modGrid n f).bus = s.bus := rfl
@[simp] theorem State.modGrid_stlb (s : State) (n : Word) (f : Grid → Grid) : (s.modGrid n f).stlb = s.stlb := rfl
@[simp] theorem State.modGrid_icache (s : State) (n : Word) (f : Grid → Grid) : (s.modGrid n f).icache = s.icache := rfl
@[simp] theorem State.modGrid_cols (s : State) (n : Word) (f : Grid → Grid) : (s.modGrid n f).cols = s.cols := rfl
@[simp] theorem State.modGrid_cores (s : State) (n : Word) (f : Grid → Grid) : (s.modGrid n f).cores = s.cores := rfl
@[simp] theorem State.modGrid_teams (s : State) (n : Word) (f : Grid → Grid) : (s.modGrid n f).teams = s.teams := rfl
@[simp] theorem State.modGrid_grids (s : State) (n : Word) (f : Grid → Grid) : (s.modGrid n f).grids = s.grids.map (fun g => if g.num = n then f g else g) := rfl
@[simp] theorem State.modGrid_queues (s : State) (n : Word) (f : Grid → Grid) : (s.modGrid n f).queues = s.queues := rfl
@[simp] theorem State.modGrid_windows (s : State) (n : Word) (f : Grid → Grid) : (s.modGrid n f).windows = s.windows := rfl
@[simp] theorem State.modGrid_sched (s : State) (n : Word) (f : Grid → Grid) : (s.modGrid n f).sched = s.sched := rfl
@[simp] theorem State.modGrid_cmdSeq (s : State) (n : Word) (f : Grid → Grid) : (s.modGrid n f).cmdSeq = s.cmdSeq := rfl
@[simp] theorem State.modGrid_k (s : State) (n : Word) (f : Grid → Grid) : (s.modGrid n f).k = s.k := rfl
@[simp] theorem State.modGrid_nvm (s : State) (n : Word) (f : Grid → Grid) : (s.modGrid n f).nvm = s.nvm := rfl
@[simp] theorem State.modGrid_cool (s : State) (n : Word) (f : Grid → Grid) : (s.modGrid n f).cool = s.cool := rfl
@[simp] theorem State.modGrid_scanAt (s : State) (n : Word) (f : Grid → Grid) : (s.modGrid n f).scanAt = s.scanAt := rfl
@[simp] theorem State.modGrid_hbmReady (s : State) (n : Word) (f : Grid → Grid) : (s.modGrid n f).hbmReady = s.hbmReady := rfl
@[simp] theorem State.modGrid_released (s : State) (n : Word) (f : Grid → Grid) : (s.modGrid n f).released = s.released := rfl
@[simp] theorem State.modGrid_schedRw (s : State) (n : Word) (f : Grid → Grid) : (s.modGrid n f).schedRw = s.schedRw := rfl
@[simp] theorem State.modGrid_focus (s : State) (n : Word) (f : Grid → Grid) : (s.modGrid n f).focus = s.focus := rfl
@[simp] theorem State.modGrid_cycle (s : State) (n : Word) (f : Grid → Grid) : (s.modGrid n f).cycle = s.cycle := rfl
@[simp] theorem State.modGrid_conflict (s : State) (n : Word) (f : Grid → Grid) : (s.modGrid n f).conflict = s.conflict := rfl
@[simp] theorem State.modGrid_agenda (s : State) (n : Word) (f : Grid → Grid) : (s.modGrid n f).agenda = s.agenda := rfl
@[simp] theorem State.modGrid_periodAt (s : State) (n : Word) (f : Grid → Grid) : (s.modGrid n f).periodAt = s.periodAt := rfl
@[simp] theorem State.modGrid_readAt (s : State) (n : Word) (f : Grid → Grid) : (s.modGrid n f).readAt = s.readAt := rfl
@[simp] theorem State.modGrid_freeCtr (s : State) (n : Word) (f : Grid → Grid) : (s.modGrid n f).freeCtr = s.freeCtr := rfl

/-! ## kpend -/

@[simp] theorem State.kpend_clk (s : State) (v : Nat) : (s.kpend v).clk = s.clk := rfl
@[simp] theorem State.kpend_mem (s : State) (v : Nat) : (s.kpend v).mem = s.mem := rfl
@[simp] theorem State.kpend_poison (s : State) (v : Nat) : (s.kpend v).poison = s.poison := rfl
@[simp] theorem State.kpend_bus (s : State) (v : Nat) : (s.kpend v).bus = s.bus := rfl
@[simp] theorem State.kpend_stlb (s : State) (v : Nat) : (s.kpend v).stlb = s.stlb := rfl
@[simp] theorem State.kpend_icache (s : State) (v : Nat) : (s.kpend v).icache = s.icache := rfl
@[simp] theorem State.kpend_cols (s : State) (v : Nat) : (s.kpend v).cols = s.cols := rfl
@[simp] theorem State.kpend_cores (s : State) (v : Nat) : (s.kpend v).cores = s.cores := rfl
@[simp] theorem State.kpend_teams (s : State) (v : Nat) : (s.kpend v).teams = s.teams := rfl
@[simp] theorem State.kpend_grids (s : State) (v : Nat) : (s.kpend v).grids = s.grids := rfl
@[simp] theorem State.kpend_queues (s : State) (v : Nat) : (s.kpend v).queues = s.queues := rfl
@[simp] theorem State.kpend_windows (s : State) (v : Nat) : (s.kpend v).windows = s.windows := rfl
@[simp] theorem State.kpend_sched (s : State) (v : Nat) : (s.kpend v).sched = s.sched := rfl
@[simp] theorem State.kpend_cmdSeq (s : State) (v : Nat) : (s.kpend v).cmdSeq = s.cmdSeq := rfl
@[simp] theorem State.kpend_k (s : State) (v : Nat) : (s.kpend v).k = { s.k with kipend := s.k.kipend ||| BitVec.ofNat 32 (2 ^ v), pendAt := s.clk, pendNew := if s.k.pendAt = s.clk then s.k.pendNew ||| BitVec.ofNat 32 (2 ^ v) else BitVec.ofNat 32 (2 ^ v) } := rfl
@[simp] theorem State.kpend_nvm (s : State) (v : Nat) : (s.kpend v).nvm = s.nvm := rfl
@[simp] theorem State.kpend_cool (s : State) (v : Nat) : (s.kpend v).cool = s.cool := rfl
@[simp] theorem State.kpend_scanAt (s : State) (v : Nat) : (s.kpend v).scanAt = s.scanAt := rfl
@[simp] theorem State.kpend_hbmReady (s : State) (v : Nat) : (s.kpend v).hbmReady = s.hbmReady := rfl
@[simp] theorem State.kpend_released (s : State) (v : Nat) : (s.kpend v).released = s.released := rfl
@[simp] theorem State.kpend_schedRw (s : State) (v : Nat) : (s.kpend v).schedRw = s.schedRw := rfl
@[simp] theorem State.kpend_focus (s : State) (v : Nat) : (s.kpend v).focus = s.focus := rfl
@[simp] theorem State.kpend_cycle (s : State) (v : Nat) : (s.kpend v).cycle = s.cycle := rfl
@[simp] theorem State.kpend_conflict (s : State) (v : Nat) : (s.kpend v).conflict = s.conflict := rfl
@[simp] theorem State.kpend_agenda (s : State) (v : Nat) : (s.kpend v).agenda = s.agenda := rfl
@[simp] theorem State.kpend_periodAt (s : State) (v : Nat) : (s.kpend v).periodAt = s.periodAt := rfl
@[simp] theorem State.kpend_readAt (s : State) (v : Nat) : (s.kpend v).readAt = s.readAt := rfl
@[simp] theorem State.kpend_freeCtr (s : State) (v : Nat) : (s.kpend v).freeCtr = s.freeCtr := rfl

/-! ## setKPc -/

@[simp] theorem State.setKPc_clk (s : State) (a : DWord) : (s.setKPc a).clk = s.clk := rfl
@[simp] theorem State.setKPc_mem (s : State) (a : DWord) : (s.setKPc a).mem = s.mem := rfl
@[simp] theorem State.setKPc_poison (s : State) (a : DWord) : (s.setKPc a).poison = s.poison := rfl
@[simp] theorem State.setKPc_bus (s : State) (a : DWord) : (s.setKPc a).bus = s.bus := rfl
@[simp] theorem State.setKPc_stlb (s : State) (a : DWord) : (s.setKPc a).stlb = s.stlb := rfl
@[simp] theorem State.setKPc_icache (s : State) (a : DWord) : (s.setKPc a).icache = s.icache := rfl
@[simp] theorem State.setKPc_cols (s : State) (a : DWord) : (s.setKPc a).cols = s.cols := rfl
@[simp] theorem State.setKPc_cores (s : State) (a : DWord) : (s.setKPc a).cores = s.cores := rfl
@[simp] theorem State.setKPc_teams (s : State) (a : DWord) : (s.setKPc a).teams = s.teams := rfl
@[simp] theorem State.setKPc_grids (s : State) (a : DWord) : (s.setKPc a).grids = s.grids := rfl
@[simp] theorem State.setKPc_queues (s : State) (a : DWord) : (s.setKPc a).queues = s.queues := rfl
@[simp] theorem State.setKPc_windows (s : State) (a : DWord) : (s.setKPc a).windows = s.windows := rfl
@[simp] theorem State.setKPc_sched (s : State) (a : DWord) : (s.setKPc a).sched = s.sched := rfl
@[simp] theorem State.setKPc_cmdSeq (s : State) (a : DWord) : (s.setKPc a).cmdSeq = s.cmdSeq := rfl
@[simp] theorem State.setKPc_k (s : State) (a : DWord) : (s.setKPc a).k = { s.k with grp := s.k.grp.modLane 0 (fun x => { x with pc := a }) } := rfl
@[simp] theorem State.setKPc_nvm (s : State) (a : DWord) : (s.setKPc a).nvm = s.nvm := rfl
@[simp] theorem State.setKPc_cool (s : State) (a : DWord) : (s.setKPc a).cool = s.cool := rfl
@[simp] theorem State.setKPc_scanAt (s : State) (a : DWord) : (s.setKPc a).scanAt = s.scanAt := rfl
@[simp] theorem State.setKPc_hbmReady (s : State) (a : DWord) : (s.setKPc a).hbmReady = s.hbmReady := rfl
@[simp] theorem State.setKPc_released (s : State) (a : DWord) : (s.setKPc a).released = s.released := rfl
@[simp] theorem State.setKPc_schedRw (s : State) (a : DWord) : (s.setKPc a).schedRw = s.schedRw := rfl
@[simp] theorem State.setKPc_focus (s : State) (a : DWord) : (s.setKPc a).focus = s.focus := rfl
@[simp] theorem State.setKPc_cycle (s : State) (a : DWord) : (s.setKPc a).cycle = s.cycle := rfl
@[simp] theorem State.setKPc_conflict (s : State) (a : DWord) : (s.setKPc a).conflict = s.conflict := rfl
@[simp] theorem State.setKPc_agenda (s : State) (a : DWord) : (s.setKPc a).agenda = s.agenda := rfl
@[simp] theorem State.setKPc_periodAt (s : State) (a : DWord) : (s.setKPc a).periodAt = s.periodAt := rfl
@[simp] theorem State.setKPc_readAt (s : State) (a : DWord) : (s.setKPc a).readAt = s.readAt := rfl
@[simp] theorem State.setKPc_freeCtr (s : State) (a : DWord) : (s.setKPc a).freeCtr = s.freeCtr := rfl

/-! ## Group.orGstat -/

@[simp] theorem Group.orGstat_kennel (g : Group) (x : Word) : (g.orGstat x).kennel = g.kennel := rfl
@[simp] theorem Group.orGstat_live (g : Group) (x : Word) : (g.orGstat x).live = g.live := rfl
@[simp] theorem Group.orGstat_grp (g : Group) (x : Word) : (g.orGstat x).grp = g.grp := rfl
@[simp] theorem Group.orGstat_role (g : Group) (x : Word) : (g.orGstat x).role = g.role := rfl
@[simp] theorem Group.orGstat_width (g : Group) (x : Word) : (g.orGstat x).width = g.width := rfl
@[simp] theorem Group.orGstat_vbud (g : Group) (x : Word) : (g.orGstat x).vbud = g.vbud := rfl
@[simp] theorem Group.orGstat_sbud (g : Group) (x : Word) : (g.orGstat x).sbud = g.sbud := rfl
@[simp] theorem Group.orGstat_slice (g : Group) (x : Word) : (g.orGstat x).slice = g.slice := rfl
@[simp] theorem Group.orGstat_slot (g : Group) (x : Word) : (g.orGstat x).slot = g.slot := rfl
@[simp] theorem Group.orGstat_lanes (g : Group) (x : Word) : (g.orGstat x).lanes = g.lanes := rfl
@[simp] theorem Group.orGstat_sregs (g : Group) (x : Word) : (g.orGstat x).sregs = g.sregs := rfl
@[simp] theorem Group.orGstat_preds (g : Group) (x : Word) : (g.orGstat x).preds = g.preds := rfl
@[simp] theorem Group.orGstat_tiles (g : Group) (x : Word) : (g.orGstat x).tiles = g.tiles := rfl
@[simp] theorem Group.orGstat_limbs (g : Group) (x : Word) : (g.orGstat x).limbs = g.limbs := rfl
@[simp] theorem Group.orGstat_lcarry (g : Group) (x : Word) : (g.orGstat x).lcarry = g.lcarry := rfl
@[simp] theorem Group.orGstat_fpctl (g : Group) (x : Word) : (g.orGstat x).fpctl = g.fpctl := rfl
@[simp] theorem Group.orGstat_fpflags (g : Group) (x : Word) : (g.orGstat x).fpflags = g.fpflags := rfl
@[simp] theorem Group.orGstat_ternbad (g : Group) (x : Word) : (g.orGstat x).ternbad = g.ternbad := rfl
@[simp] theorem Group.orGstat_svmask (g : Group) (x : Word) : (g.orGstat x).svmask = g.svmask := rfl
@[simp] theorem Group.orGstat_idle (g : Group) (x : Word) : (g.orGstat x).idle = g.idle := rfl
@[simp] theorem Group.orGstat_gstat (g : Group) (x : Word) : (g.orGstat x).gstat = g.gstat ||| x := rfl
@[simp] theorem Group.orGstat_clkhi (g : Group) (x : Word) : (g.orGstat x).clkhi = g.clkhi := rfl
@[simp] theorem Group.orGstat_marks (g : Group) (x : Word) : (g.orGstat x).marks = g.marks := rfl
@[simp] theorem Group.orGstat_portA (g : Group) (x : Word) : (g.orGstat x).portA = g.portA := rfl
@[simp] theorem Group.orGstat_portB (g : Group) (x : Word) : (g.orGstat x).portB = g.portB := rfl
@[simp] theorem Group.orGstat_lastIssue (g : Group) (x : Word) : (g.orGstat x).lastIssue = g.lastIssue := rfl
@[simp] theorem Group.orGstat_ops (g : Group) (x : Word) : (g.orGstat x).ops = g.ops := rfl
@[simp] theorem Group.orGstat_nextOp (g : Group) (x : Word) : (g.orGstat x).nextOp = g.nextOp := rfl
@[simp] theorem Group.orGstat_quietAt (g : Group) (x : Word) : (g.orGstat x).quietAt = g.quietAt := rfl
@[simp] theorem Group.orGstat_halt (g : Group) (x : Word) : (g.orGstat x).halt = g.halt := rfl
@[simp] theorem Group.orGstat_retained (g : Group) (x : Word) : (g.orGstat x).retained = g.retained := rfl
@[simp] theorem Group.orGstat_clauses (g : Group) (x : Word) : (g.orGstat x).clauses = g.clauses := rfl
@[simp] theorem Group.orGstat_instrs (g : Group) (x : Word) : (g.orGstat x).instrs = g.instrs := rfl
@[simp] theorem Group.orGstat_promotes (g : Group) (x : Word) : (g.orGstat x).promotes = g.promotes := rfl
@[simp] theorem Group.orGstat_grantHold (g : Group) (x : Word) : (g.orGstat x).grantHold = g.grantHold := rfl
@[simp] theorem Group.orGstat_flying (g : Group) (x : Word) : (g.orGstat x).flying = g.flying := rfl
@[simp] theorem Group.orGstat_fresh (g : Group) (x : Word) : (g.orGstat x).fresh = { g.fresh with gstat := g.fresh.gstat ||| x } := rfl
@[simp] theorem Group.orGstat_colA (g : Group) (x : Word) : (g.orGstat x).colA = g.colA := rfl
@[simp] theorem Group.orGstat_colB (g : Group) (x : Word) : (g.orGstat x).colB = g.colB := rfl
@[simp] theorem Group.orGstat_swerved (g : Group) (x : Word) : (g.orGstat x).swerved = g.swerved := rfl
@[simp] theorem Group.orGstat_rest (g : Group) (x : Word) : (g.orGstat x).rest = g.rest := rfl
@[simp] theorem Group.orGstat_turnEnd (g : Group) (x : Word) : (g.orGstat x).turnEnd = g.turnEnd := rfl
@[simp] theorem Group.orGstat_later (g : Group) (x : Word) : (g.orGstat x).later = g.later := rfl
@[simp] theorem Group.orGstat_svGone (g : Group) (x : Word) : (g.orGstat x).svGone = g.svGone := rfl

/-! ## Group.countSlot -/

@[simp] theorem Group.countSlot_kennel (g : Group) : (g.countSlot).kennel = g.kennel := rfl
@[simp] theorem Group.countSlot_live (g : Group) : (g.countSlot).live = g.live := rfl
@[simp] theorem Group.countSlot_grp (g : Group) : (g.countSlot).grp = g.grp := rfl
@[simp] theorem Group.countSlot_role (g : Group) : (g.countSlot).role = g.role := rfl
@[simp] theorem Group.countSlot_width (g : Group) : (g.countSlot).width = g.width := rfl
@[simp] theorem Group.countSlot_vbud (g : Group) : (g.countSlot).vbud = g.vbud := rfl
@[simp] theorem Group.countSlot_sbud (g : Group) : (g.countSlot).sbud = g.sbud := rfl
@[simp] theorem Group.countSlot_slice (g : Group) : (g.countSlot).slice = g.slice := rfl
@[simp] theorem Group.countSlot_slot (g : Group) : (g.countSlot).slot = g.slot := rfl
@[simp] theorem Group.countSlot_lanes (g : Group) : (g.countSlot).lanes = g.lanes := rfl
@[simp] theorem Group.countSlot_sregs (g : Group) : (g.countSlot).sregs = g.sregs := rfl
@[simp] theorem Group.countSlot_preds (g : Group) : (g.countSlot).preds = g.preds := rfl
@[simp] theorem Group.countSlot_tiles (g : Group) : (g.countSlot).tiles = g.tiles := rfl
@[simp] theorem Group.countSlot_limbs (g : Group) : (g.countSlot).limbs = g.limbs := rfl
@[simp] theorem Group.countSlot_lcarry (g : Group) : (g.countSlot).lcarry = g.lcarry := rfl
@[simp] theorem Group.countSlot_fpctl (g : Group) : (g.countSlot).fpctl = g.fpctl := rfl
@[simp] theorem Group.countSlot_fpflags (g : Group) : (g.countSlot).fpflags = g.fpflags := rfl
@[simp] theorem Group.countSlot_ternbad (g : Group) : (g.countSlot).ternbad = g.ternbad := rfl
@[simp] theorem Group.countSlot_svmask (g : Group) : (g.countSlot).svmask = g.svmask := rfl
@[simp] theorem Group.countSlot_idle (g : Group) : (g.countSlot).idle = g.idle := rfl
@[simp] theorem Group.countSlot_gstat (g : Group) : (g.countSlot).gstat = g.gstat := rfl
@[simp] theorem Group.countSlot_clkhi (g : Group) : (g.countSlot).clkhi = g.clkhi := rfl
@[simp] theorem Group.countSlot_marks (g : Group) : (g.countSlot).marks = g.marks := rfl
@[simp] theorem Group.countSlot_portA (g : Group) : (g.countSlot).portA = g.portA := rfl
@[simp] theorem Group.countSlot_portB (g : Group) : (g.countSlot).portB = g.portB := rfl
@[simp] theorem Group.countSlot_lastIssue (g : Group) : (g.countSlot).lastIssue = g.lastIssue := rfl
@[simp] theorem Group.countSlot_ops (g : Group) : (g.countSlot).ops = g.ops := rfl
@[simp] theorem Group.countSlot_nextOp (g : Group) : (g.countSlot).nextOp = g.nextOp := rfl
@[simp] theorem Group.countSlot_quietAt (g : Group) : (g.countSlot).quietAt = g.quietAt := rfl
@[simp] theorem Group.countSlot_halt (g : Group) : (g.countSlot).halt = g.halt := rfl
@[simp] theorem Group.countSlot_retained (g : Group) : (g.countSlot).retained = g.retained := rfl
@[simp] theorem Group.countSlot_clauses (g : Group) : (g.countSlot).clauses = g.clauses := rfl
@[simp] theorem Group.countSlot_instrs (g : Group) : (g.countSlot).instrs = (g.instrs + 1) % 2 ^ 64 := rfl
@[simp] theorem Group.countSlot_promotes (g : Group) : (g.countSlot).promotes = g.promotes := rfl
@[simp] theorem Group.countSlot_grantHold (g : Group) : (g.countSlot).grantHold = g.grantHold := rfl
@[simp] theorem Group.countSlot_flying (g : Group) : (g.countSlot).flying = g.flying := rfl
@[simp] theorem Group.countSlot_fresh (g : Group) : (g.countSlot).fresh = g.fresh := rfl
@[simp] theorem Group.countSlot_colA (g : Group) : (g.countSlot).colA = g.colA := rfl
@[simp] theorem Group.countSlot_colB (g : Group) : (g.countSlot).colB = g.colB := rfl
@[simp] theorem Group.countSlot_swerved (g : Group) : (g.countSlot).swerved = g.swerved := rfl
@[simp] theorem Group.countSlot_rest (g : Group) : (g.countSlot).rest = g.rest := rfl
@[simp] theorem Group.countSlot_turnEnd (g : Group) : (g.countSlot).turnEnd = g.turnEnd := rfl
@[simp] theorem Group.countSlot_later (g : Group) : (g.countSlot).later = g.later := rfl
@[simp] theorem Group.countSlot_svGone (g : Group) : (g.countSlot).svGone = g.svGone := rfl

/-! ## Group.sticky -/

@[simp] theorem Group.sticky_kennel (g : Group) (f : FFlags) : (g.sticky f).kennel = g.kennel := rfl
@[simp] theorem Group.sticky_live (g : Group) (f : FFlags) : (g.sticky f).live = g.live := rfl
@[simp] theorem Group.sticky_grp (g : Group) (f : FFlags) : (g.sticky f).grp = g.grp := rfl
@[simp] theorem Group.sticky_role (g : Group) (f : FFlags) : (g.sticky f).role = g.role := rfl
@[simp] theorem Group.sticky_width (g : Group) (f : FFlags) : (g.sticky f).width = g.width := rfl
@[simp] theorem Group.sticky_vbud (g : Group) (f : FFlags) : (g.sticky f).vbud = g.vbud := rfl
@[simp] theorem Group.sticky_sbud (g : Group) (f : FFlags) : (g.sticky f).sbud = g.sbud := rfl
@[simp] theorem Group.sticky_slice (g : Group) (f : FFlags) : (g.sticky f).slice = g.slice := rfl
@[simp] theorem Group.sticky_slot (g : Group) (f : FFlags) : (g.sticky f).slot = g.slot := rfl
@[simp] theorem Group.sticky_lanes (g : Group) (f : FFlags) : (g.sticky f).lanes = g.lanes := rfl
@[simp] theorem Group.sticky_sregs (g : Group) (f : FFlags) : (g.sticky f).sregs = g.sregs := rfl
@[simp] theorem Group.sticky_preds (g : Group) (f : FFlags) : (g.sticky f).preds = g.preds := rfl
@[simp] theorem Group.sticky_tiles (g : Group) (f : FFlags) : (g.sticky f).tiles = g.tiles := rfl
@[simp] theorem Group.sticky_limbs (g : Group) (f : FFlags) : (g.sticky f).limbs = g.limbs := rfl
@[simp] theorem Group.sticky_lcarry (g : Group) (f : FFlags) : (g.sticky f).lcarry = g.lcarry := rfl
@[simp] theorem Group.sticky_fpctl (g : Group) (f : FFlags) : (g.sticky f).fpctl = g.fpctl := rfl
@[simp] theorem Group.sticky_fpflags (g : Group) (f : FFlags) : (g.sticky f).fpflags = g.fpflags := rfl
@[simp] theorem Group.sticky_ternbad (g : Group) (f : FFlags) : (g.sticky f).ternbad = g.ternbad := rfl
@[simp] theorem Group.sticky_svmask (g : Group) (f : FFlags) : (g.sticky f).svmask = g.svmask := rfl
@[simp] theorem Group.sticky_idle (g : Group) (f : FFlags) : (g.sticky f).idle = g.idle := rfl
@[simp] theorem Group.sticky_gstat (g : Group) (f : FFlags) : (g.sticky f).gstat = g.gstat := rfl
@[simp] theorem Group.sticky_clkhi (g : Group) (f : FFlags) : (g.sticky f).clkhi = g.clkhi := rfl
@[simp] theorem Group.sticky_marks (g : Group) (f : FFlags) : (g.sticky f).marks = g.marks := rfl
@[simp] theorem Group.sticky_portA (g : Group) (f : FFlags) : (g.sticky f).portA = g.portA := rfl
@[simp] theorem Group.sticky_portB (g : Group) (f : FFlags) : (g.sticky f).portB = g.portB := rfl
@[simp] theorem Group.sticky_lastIssue (g : Group) (f : FFlags) : (g.sticky f).lastIssue = g.lastIssue := rfl
@[simp] theorem Group.sticky_ops (g : Group) (f : FFlags) : (g.sticky f).ops = g.ops := rfl
@[simp] theorem Group.sticky_nextOp (g : Group) (f : FFlags) : (g.sticky f).nextOp = g.nextOp := rfl
@[simp] theorem Group.sticky_quietAt (g : Group) (f : FFlags) : (g.sticky f).quietAt = g.quietAt := rfl
@[simp] theorem Group.sticky_halt (g : Group) (f : FFlags) : (g.sticky f).halt = g.halt := rfl
@[simp] theorem Group.sticky_retained (g : Group) (f : FFlags) : (g.sticky f).retained = g.retained := rfl
@[simp] theorem Group.sticky_clauses (g : Group) (f : FFlags) : (g.sticky f).clauses = g.clauses := rfl
@[simp] theorem Group.sticky_instrs (g : Group) (f : FFlags) : (g.sticky f).instrs = g.instrs := rfl
@[simp] theorem Group.sticky_promotes (g : Group) (f : FFlags) : (g.sticky f).promotes = g.promotes := rfl
@[simp] theorem Group.sticky_grantHold (g : Group) (f : FFlags) : (g.sticky f).grantHold = g.grantHold := rfl
@[simp] theorem Group.sticky_flying (g : Group) (f : FFlags) : (g.sticky f).flying = modifyAt g.flying (g.flying.length - 1) (fun x => { x with flags := x.flags ||| f.word }) := rfl
@[simp] theorem Group.sticky_fresh (g : Group) (f : FFlags) : (g.sticky f).fresh = g.fresh := rfl
@[simp] theorem Group.sticky_colA (g : Group) (f : FFlags) : (g.sticky f).colA = g.colA := rfl
@[simp] theorem Group.sticky_colB (g : Group) (f : FFlags) : (g.sticky f).colB = g.colB := rfl
@[simp] theorem Group.sticky_swerved (g : Group) (f : FFlags) : (g.sticky f).swerved = g.swerved := rfl
@[simp] theorem Group.sticky_rest (g : Group) (f : FFlags) : (g.sticky f).rest = g.rest := rfl
@[simp] theorem Group.sticky_turnEnd (g : Group) (f : FFlags) : (g.sticky f).turnEnd = g.turnEnd := rfl
@[simp] theorem Group.sticky_later (g : Group) (f : FFlags) : (g.sticky f).later = g.later := rfl
@[simp] theorem Group.sticky_svGone (g : Group) (f : FFlags) : (g.sticky f).svGone = g.svGone := rfl

/-! ## Group.modLane -/

@[simp] theorem Group.modLane_kennel (g : Group) (l : Nat) (f : Lane → Lane) : (g.modLane l f).kennel = g.kennel := rfl
@[simp] theorem Group.modLane_live (g : Group) (l : Nat) (f : Lane → Lane) : (g.modLane l f).live = g.live := rfl
@[simp] theorem Group.modLane_grp (g : Group) (l : Nat) (f : Lane → Lane) : (g.modLane l f).grp = g.grp := rfl
@[simp] theorem Group.modLane_role (g : Group) (l : Nat) (f : Lane → Lane) : (g.modLane l f).role = g.role := rfl
@[simp] theorem Group.modLane_width (g : Group) (l : Nat) (f : Lane → Lane) : (g.modLane l f).width = g.width := rfl
@[simp] theorem Group.modLane_vbud (g : Group) (l : Nat) (f : Lane → Lane) : (g.modLane l f).vbud = g.vbud := rfl
@[simp] theorem Group.modLane_sbud (g : Group) (l : Nat) (f : Lane → Lane) : (g.modLane l f).sbud = g.sbud := rfl
@[simp] theorem Group.modLane_slice (g : Group) (l : Nat) (f : Lane → Lane) : (g.modLane l f).slice = g.slice := rfl
@[simp] theorem Group.modLane_slot (g : Group) (l : Nat) (f : Lane → Lane) : (g.modLane l f).slot = g.slot := rfl
@[simp] theorem Group.modLane_lanes (g : Group) (l : Nat) (f : Lane → Lane) : (g.modLane l f).lanes = modifyAt g.lanes l f := rfl
@[simp] theorem Group.modLane_sregs (g : Group) (l : Nat) (f : Lane → Lane) : (g.modLane l f).sregs = g.sregs := rfl
@[simp] theorem Group.modLane_preds (g : Group) (l : Nat) (f : Lane → Lane) : (g.modLane l f).preds = g.preds := rfl
@[simp] theorem Group.modLane_tiles (g : Group) (l : Nat) (f : Lane → Lane) : (g.modLane l f).tiles = g.tiles := rfl
@[simp] theorem Group.modLane_limbs (g : Group) (l : Nat) (f : Lane → Lane) : (g.modLane l f).limbs = g.limbs := rfl
@[simp] theorem Group.modLane_lcarry (g : Group) (l : Nat) (f : Lane → Lane) : (g.modLane l f).lcarry = g.lcarry := rfl
@[simp] theorem Group.modLane_fpctl (g : Group) (l : Nat) (f : Lane → Lane) : (g.modLane l f).fpctl = g.fpctl := rfl
@[simp] theorem Group.modLane_fpflags (g : Group) (l : Nat) (f : Lane → Lane) : (g.modLane l f).fpflags = g.fpflags := rfl
@[simp] theorem Group.modLane_ternbad (g : Group) (l : Nat) (f : Lane → Lane) : (g.modLane l f).ternbad = g.ternbad := rfl
@[simp] theorem Group.modLane_svmask (g : Group) (l : Nat) (f : Lane → Lane) : (g.modLane l f).svmask = g.svmask := rfl
@[simp] theorem Group.modLane_idle (g : Group) (l : Nat) (f : Lane → Lane) : (g.modLane l f).idle = g.idle := rfl
@[simp] theorem Group.modLane_gstat (g : Group) (l : Nat) (f : Lane → Lane) : (g.modLane l f).gstat = g.gstat := rfl
@[simp] theorem Group.modLane_clkhi (g : Group) (l : Nat) (f : Lane → Lane) : (g.modLane l f).clkhi = g.clkhi := rfl
@[simp] theorem Group.modLane_marks (g : Group) (l : Nat) (f : Lane → Lane) : (g.modLane l f).marks = g.marks := rfl
@[simp] theorem Group.modLane_portA (g : Group) (l : Nat) (f : Lane → Lane) : (g.modLane l f).portA = g.portA := rfl
@[simp] theorem Group.modLane_portB (g : Group) (l : Nat) (f : Lane → Lane) : (g.modLane l f).portB = g.portB := rfl
@[simp] theorem Group.modLane_lastIssue (g : Group) (l : Nat) (f : Lane → Lane) : (g.modLane l f).lastIssue = g.lastIssue := rfl
@[simp] theorem Group.modLane_ops (g : Group) (l : Nat) (f : Lane → Lane) : (g.modLane l f).ops = g.ops := rfl
@[simp] theorem Group.modLane_nextOp (g : Group) (l : Nat) (f : Lane → Lane) : (g.modLane l f).nextOp = g.nextOp := rfl
@[simp] theorem Group.modLane_quietAt (g : Group) (l : Nat) (f : Lane → Lane) : (g.modLane l f).quietAt = g.quietAt := rfl
@[simp] theorem Group.modLane_halt (g : Group) (l : Nat) (f : Lane → Lane) : (g.modLane l f).halt = g.halt := rfl
@[simp] theorem Group.modLane_retained (g : Group) (l : Nat) (f : Lane → Lane) : (g.modLane l f).retained = g.retained := rfl
@[simp] theorem Group.modLane_clauses (g : Group) (l : Nat) (f : Lane → Lane) : (g.modLane l f).clauses = g.clauses := rfl
@[simp] theorem Group.modLane_instrs (g : Group) (l : Nat) (f : Lane → Lane) : (g.modLane l f).instrs = g.instrs := rfl
@[simp] theorem Group.modLane_promotes (g : Group) (l : Nat) (f : Lane → Lane) : (g.modLane l f).promotes = g.promotes := rfl
@[simp] theorem Group.modLane_grantHold (g : Group) (l : Nat) (f : Lane → Lane) : (g.modLane l f).grantHold = g.grantHold := rfl
@[simp] theorem Group.modLane_flying (g : Group) (l : Nat) (f : Lane → Lane) : (g.modLane l f).flying = g.flying := rfl
@[simp] theorem Group.modLane_fresh (g : Group) (l : Nat) (f : Lane → Lane) : (g.modLane l f).fresh = g.fresh := rfl
@[simp] theorem Group.modLane_colA (g : Group) (l : Nat) (f : Lane → Lane) : (g.modLane l f).colA = g.colA := rfl
@[simp] theorem Group.modLane_colB (g : Group) (l : Nat) (f : Lane → Lane) : (g.modLane l f).colB = g.colB := rfl
@[simp] theorem Group.modLane_swerved (g : Group) (l : Nat) (f : Lane → Lane) : (g.modLane l f).swerved = g.swerved := rfl
@[simp] theorem Group.modLane_rest (g : Group) (l : Nat) (f : Lane → Lane) : (g.modLane l f).rest = g.rest := rfl
@[simp] theorem Group.modLane_turnEnd (g : Group) (l : Nat) (f : Lane → Lane) : (g.modLane l f).turnEnd = g.turnEnd := rfl
@[simp] theorem Group.modLane_later (g : Group) (l : Nat) (f : Lane → Lane) : (g.modLane l f).later = g.later := rfl
@[simp] theorem Group.modLane_svGone (g : Group) (l : Nat) (f : Lane → Lane) : (g.modLane l f).svGone = g.svGone := rfl

/-! ## Group.modLanes -/

@[simp] theorem Group.modLanes_kennel (g : Group) (m : Mask) (f : Lane → Lane) : (g.modLanes m f).kennel = g.kennel := rfl
@[simp] theorem Group.modLanes_live (g : Group) (m : Mask) (f : Lane → Lane) : (g.modLanes m f).live = g.live := rfl
@[simp] theorem Group.modLanes_grp (g : Group) (m : Mask) (f : Lane → Lane) : (g.modLanes m f).grp = g.grp := rfl
@[simp] theorem Group.modLanes_role (g : Group) (m : Mask) (f : Lane → Lane) : (g.modLanes m f).role = g.role := rfl
@[simp] theorem Group.modLanes_width (g : Group) (m : Mask) (f : Lane → Lane) : (g.modLanes m f).width = g.width := rfl
@[simp] theorem Group.modLanes_vbud (g : Group) (m : Mask) (f : Lane → Lane) : (g.modLanes m f).vbud = g.vbud := rfl
@[simp] theorem Group.modLanes_sbud (g : Group) (m : Mask) (f : Lane → Lane) : (g.modLanes m f).sbud = g.sbud := rfl
@[simp] theorem Group.modLanes_slice (g : Group) (m : Mask) (f : Lane → Lane) : (g.modLanes m f).slice = g.slice := rfl
@[simp] theorem Group.modLanes_slot (g : Group) (m : Mask) (f : Lane → Lane) : (g.modLanes m f).slot = g.slot := rfl
@[simp] theorem Group.modLanes_lanes (g : Group) (m : Mask) (f : Lane → Lane) : (g.modLanes m f).lanes = mapLanes (fun n x => if m.getLsbD n then f x else x) 0 g.lanes := rfl
@[simp] theorem Group.modLanes_sregs (g : Group) (m : Mask) (f : Lane → Lane) : (g.modLanes m f).sregs = g.sregs := rfl
@[simp] theorem Group.modLanes_preds (g : Group) (m : Mask) (f : Lane → Lane) : (g.modLanes m f).preds = g.preds := rfl
@[simp] theorem Group.modLanes_tiles (g : Group) (m : Mask) (f : Lane → Lane) : (g.modLanes m f).tiles = g.tiles := rfl
@[simp] theorem Group.modLanes_limbs (g : Group) (m : Mask) (f : Lane → Lane) : (g.modLanes m f).limbs = g.limbs := rfl
@[simp] theorem Group.modLanes_lcarry (g : Group) (m : Mask) (f : Lane → Lane) : (g.modLanes m f).lcarry = g.lcarry := rfl
@[simp] theorem Group.modLanes_fpctl (g : Group) (m : Mask) (f : Lane → Lane) : (g.modLanes m f).fpctl = g.fpctl := rfl
@[simp] theorem Group.modLanes_fpflags (g : Group) (m : Mask) (f : Lane → Lane) : (g.modLanes m f).fpflags = g.fpflags := rfl
@[simp] theorem Group.modLanes_ternbad (g : Group) (m : Mask) (f : Lane → Lane) : (g.modLanes m f).ternbad = g.ternbad := rfl
@[simp] theorem Group.modLanes_svmask (g : Group) (m : Mask) (f : Lane → Lane) : (g.modLanes m f).svmask = g.svmask := rfl
@[simp] theorem Group.modLanes_idle (g : Group) (m : Mask) (f : Lane → Lane) : (g.modLanes m f).idle = g.idle := rfl
@[simp] theorem Group.modLanes_gstat (g : Group) (m : Mask) (f : Lane → Lane) : (g.modLanes m f).gstat = g.gstat := rfl
@[simp] theorem Group.modLanes_clkhi (g : Group) (m : Mask) (f : Lane → Lane) : (g.modLanes m f).clkhi = g.clkhi := rfl
@[simp] theorem Group.modLanes_marks (g : Group) (m : Mask) (f : Lane → Lane) : (g.modLanes m f).marks = g.marks := rfl
@[simp] theorem Group.modLanes_portA (g : Group) (m : Mask) (f : Lane → Lane) : (g.modLanes m f).portA = g.portA := rfl
@[simp] theorem Group.modLanes_portB (g : Group) (m : Mask) (f : Lane → Lane) : (g.modLanes m f).portB = g.portB := rfl
@[simp] theorem Group.modLanes_lastIssue (g : Group) (m : Mask) (f : Lane → Lane) : (g.modLanes m f).lastIssue = g.lastIssue := rfl
@[simp] theorem Group.modLanes_ops (g : Group) (m : Mask) (f : Lane → Lane) : (g.modLanes m f).ops = g.ops := rfl
@[simp] theorem Group.modLanes_nextOp (g : Group) (m : Mask) (f : Lane → Lane) : (g.modLanes m f).nextOp = g.nextOp := rfl
@[simp] theorem Group.modLanes_quietAt (g : Group) (m : Mask) (f : Lane → Lane) : (g.modLanes m f).quietAt = g.quietAt := rfl
@[simp] theorem Group.modLanes_halt (g : Group) (m : Mask) (f : Lane → Lane) : (g.modLanes m f).halt = g.halt := rfl
@[simp] theorem Group.modLanes_retained (g : Group) (m : Mask) (f : Lane → Lane) : (g.modLanes m f).retained = g.retained := rfl
@[simp] theorem Group.modLanes_clauses (g : Group) (m : Mask) (f : Lane → Lane) : (g.modLanes m f).clauses = g.clauses := rfl
@[simp] theorem Group.modLanes_instrs (g : Group) (m : Mask) (f : Lane → Lane) : (g.modLanes m f).instrs = g.instrs := rfl
@[simp] theorem Group.modLanes_promotes (g : Group) (m : Mask) (f : Lane → Lane) : (g.modLanes m f).promotes = g.promotes := rfl
@[simp] theorem Group.modLanes_grantHold (g : Group) (m : Mask) (f : Lane → Lane) : (g.modLanes m f).grantHold = g.grantHold := rfl
@[simp] theorem Group.modLanes_flying (g : Group) (m : Mask) (f : Lane → Lane) : (g.modLanes m f).flying = g.flying := rfl
@[simp] theorem Group.modLanes_fresh (g : Group) (m : Mask) (f : Lane → Lane) : (g.modLanes m f).fresh = g.fresh := rfl
@[simp] theorem Group.modLanes_colA (g : Group) (m : Mask) (f : Lane → Lane) : (g.modLanes m f).colA = g.colA := rfl
@[simp] theorem Group.modLanes_colB (g : Group) (m : Mask) (f : Lane → Lane) : (g.modLanes m f).colB = g.colB := rfl
@[simp] theorem Group.modLanes_swerved (g : Group) (m : Mask) (f : Lane → Lane) : (g.modLanes m f).swerved = g.swerved := rfl
@[simp] theorem Group.modLanes_rest (g : Group) (m : Mask) (f : Lane → Lane) : (g.modLanes m f).rest = g.rest := rfl
@[simp] theorem Group.modLanes_turnEnd (g : Group) (m : Mask) (f : Lane → Lane) : (g.modLanes m f).turnEnd = g.turnEnd := rfl
@[simp] theorem Group.modLanes_later (g : Group) (m : Mask) (f : Lane → Lane) : (g.modLanes m f).later = g.later := rfl
@[simp] theorem Group.modLanes_svGone (g : Group) (m : Mask) (f : Lane → Lane) : (g.modLanes m f).svGone = g.svGone := rfl

/-! ## Teams, groups and agents -/

theorem State.team?_modTeam (s : State) (t u : Nat) (f : Team → Team) :
    (s.modTeam t f).team? u = if u = t then (s.team? t).map f else s.team? u := AMap.get?_update ..

theorem State.team?_setTeam (s : State) (t u : Nat) (x : Team) :
    (s.setTeam t x).team? u = if u = t then some x else s.team? u := AMap.get?_set ..

theorem State.team?_modGroup (s : State) (t n u : Nat) (f : Group → Group) :
    (s.modGroup t n f).team? u = if u = t then (s.team? t).map (fun x => x.modGroup n f) else s.team? u :=
  AMap.get?_update ..

@[simp] theorem Team.group?_modGroup (x : Team) (n : Nat) (f : Group → Group) :
    (x.modGroup n f).group? n = (x.group? n).map f := by
  simp [Team.group?, Team.modGroup, modifyAt]

theorem State.group?_modGroup (s : State) (t n : Nat) (f : Group → Group) :
    (s.modGroup t n f).group? t n = (s.group? t n).map f := by
  simp only [State.group?, State.team?_modGroup, if_true]
  cases s.team? t <;> simp

/-- What is put for an agent is there, if its group is. -/
theorem State.grpOf_putGrp (s : State) (a : Agent) (g h : Group) (hg : s.grpOf a = some h) :
    (s.putGrp a g).grpOf a = some g := by
  cases a with
  | kennel => rfl
  | port t n b => simp_all [State.grpOf, State.putGrp, State.group?_modGroup]

@[simp] theorem State.putGrp_clk (s : State) (a : Agent) (g : Group) : (s.putGrp a g).clk = s.clk := by cases a <;> rfl
@[simp] theorem State.putGrp_mem (s : State) (a : Agent) (g : Group) : (s.putGrp a g).mem = s.mem := by cases a <;> rfl
@[simp] theorem State.putGrp_bus (s : State) (a : Agent) (g : Group) : (s.putGrp a g).bus = s.bus := by cases a <;> rfl
@[simp] theorem State.putGrp_poison (s : State) (a : Agent) (g : Group) : (s.putGrp a g).poison = s.poison := by
  cases a <;> rfl
@[simp] theorem State.putGrp_grids (s : State) (a : Agent) (g : Group) : (s.putGrp a g).grids = s.grids := by
  cases a <;> rfl
@[simp] theorem State.putGrp_cols (s : State) (a : Agent) (g : Group) : (s.putGrp a g).cols = s.cols := by cases a <;> rfl
@[simp] theorem State.putGrp_cores (s : State) (a : Agent) (g : Group) : (s.putGrp a g).cores = s.cores := by
  cases a <;> rfl
@[simp] theorem State.putGrp_sched (s : State) (a : Agent) (g : Group) : (s.putGrp a g).sched = s.sched := by
  cases a <;> rfl
@[simp] theorem State.putGrp_focus (s : State) (a : Agent) (g : Group) : (s.putGrp a g).focus = s.focus := by
  cases a <;> rfl
@[simp] theorem State.putGrp_cycle (s : State) (a : Agent) (g : Group) : (s.putGrp a g).cycle = s.cycle := by
  cases a <;> rfl
@[simp] theorem State.putGrp_conflict (s : State) (a : Agent) (g : Group) : (s.putGrp a g).conflict = s.conflict := by
  cases a <;> rfl
@[simp] theorem State.putGrp_agenda (s : State) (a : Agent) (g : Group) : (s.putGrp a g).agenda = s.agenda := by
  cases a <;> rfl
@[simp] theorem State.putGrp_icache (s : State) (a : Agent) (g : Group) : (s.putGrp a g).icache = s.icache := by
  cases a <;> rfl
@[simp] theorem State.putGrp_nvm (s : State) (a : Agent) (g : Group) : (s.putGrp a g).nvm = s.nvm := by cases a <;> rfl
@[simp] theorem State.putGrp_sram (s : State) (a : Agent) (g : Group) : (s.putGrp a g).k.sram = s.k.sram := by
  cases a <;> rfl

/-- The fields of a team that a change of one of its groups leaves alone. -/
theorem State.team?_putGrp (s : State) (t n : Nat) (b : Bool) (g : Group) (u : Nat) :
    (s.putGrp (.port t n b) g).team? u =
      if u = t then (s.team? t).map (fun x => x.modGroup n (fun _ => g)) else s.team? u :=
  State.team?_modGroup ..

@[simp] theorem Ctx.put_eq (c : Ctx) (s : State) (g : Group) : c.put s g = s.putGrp c.ag g := rfl

end Sys2Proof.Machine
end

