-- ==== Sys2Proof/Laws/Issue.lean ====
section
/-! SUPPORT. What issuing an instruction can do, said once: the effect of an instruction that issues with its operands
clear, and that reading its sources changes no operand's value. -/
namespace Sys2Proof.Machine

/-- An instruction that passes the checks of issue answers what its body answers. -/
theorem issue_body {sp : Spec} {body : Ctx → State → Res} {s : State} {c0 c : Ctx}
    (h : c0.IssuesUnder c s sp.core sp.guard (sp.uses · s) sp.consumes) (he : sp.encOk c0 = true)
    (hf : sp.flag.ok c.cl = true) (hd : sp.hdrOk c = true) (hr : sp.full c s = false) :
    issue sp body s = c.finish s (body c (c0.begun c s (sp.uses · s))) := by
  obtain ⟨slot, legal, hc, act, free, coll, clr⟩ := h
  have clr' : (sp.consumes && (sp.uses c s).any c.readsBad) = false := by cases h : sp.consumes <;> simp_all
  have hcl : c.cl = c0.cl := by rw [hc]
  have ha : c.active = sp.guard.narrow c0.g c0.active := by rw [hc]
  rw [ha] at act; rw [hcl] at hf
  simp only [issue, slot, legal, he, ← hc, hf, hd, free, coll, hr, clr', Ctx.begun]
  simpa using fun h => absurd h act

/-- A finished effect that the budgets hold. -/
theorem finish_done {c : Ctx} {s s' s2 : State} (h : c.settle s' = .ok s2) :
    c.finish s (.done s') = .next (c.next (c.advance s2)) := by simp [Ctx.finish, h]

theorem finish_jump {c : Ctx} {s s' s2 : State} (h : c.settle s' = .ok s2) :
    c.finish s (.jump s') = .next (c.next (c.endClause (c.slot s2))) := by simp [Ctx.finish, h]

/-! ## The slot and its group -/

/-- The group of the slot in focus: as the state holds it, or, to the second port of a cycle, as the first one found it
(R118). -/
theorem slot_group {s : State} {c : Ctx} (h : s.ctx? = some c) :
    ∃ g, s.grpOf c.ag = some g ∧ c.now s = g ∧ c.g = ((s.pair? c.ag).map Half.before).getD g := by
  unfold State.ctx? at h
  split at h
  · cases h
  · next g hg =>
    split at h
    · cases h
    · split at h
      · cases h; exact ⟨g, hg, by simp [Ctx.now, hg], rfl⟩
      · cases h

/-- A port that no cycle pairs reads the group the state holds. -/
theorem slot_now {s : State} {c : Ctx} (h : s.ctx? = some c) (hp : s.pair? c.ag = none) : c.now s = c.g := by
  obtain ⟨g, -, h1, h2⟩ := slot_group h
  rw [h1, h2, hp]; rfl

/-- A group changed by a context is read back. -/
theorem mod_grpOf {c : Ctx} {s : State} {g : Group} (f : Group → Group) (h : s.grpOf c.ag = some g) :
    (c.mod s f).grpOf c.ag = some (f g) := by
  simp [Ctx.mod, Ctx.now, h, State.grpOf_putGrp s c.ag _ g h]

theorem mod_now {c : Ctx} {s : State} {g : Group} (f : Group → Group) (h : s.grpOf c.ag = some g) :
    c.now (c.mod s f) = f g := by simp [Ctx.now, mod_grpOf f h]

/-! ## What issuing leaves behind -/

/-- What a special operand can read of the state. -/
def Ctx.view (c : Ctx) (s : State) : DWord × List Grid × Option (Nat × Word × Nat × Word × Nat) :=
  (s.clkLo, s.grids, (c.team? s).map (fun t => (t.team, t.grid, t.pack, t.phaseId, t.groups.length)))

theorem special_view (c : Ctx) (s u : State) (k l : Nat) (h : c.view u = c.view s) : c.special u k l = c.special s k l := by
  simp only [Ctx.view, Prod.mk.injEq] at h
  obtain ⟨h1, h2, h3⟩ := h
  unfold Ctx.special State.grid?
  cases hu : c.team? u <;> cases hs : c.team? s <;> simp_all

theorem view_mod (c : Ctx) (s : State) (f : Group → Group) : c.view (c.mod s f) = c.view s := by
  have h1 : (c.mod s f).clkLo = s.clkLo := by simp [State.clkLo, Ctx.mod]
  have h2 : (c.mod s f).grids = s.grids := by simp [Ctx.mod]
  simp only [Ctx.view, h1, h2, Prod.mk.injEq, true_and]
  unfold Ctx.team? Ctx.mod
  cases hag : c.ag with
  | kennel => rfl
  | port t n b =>
    simp only [Agent.team, Option.bind_some, Ctx.put_eq, hag, State.team?_putGrp, if_true, Option.map_map]
    cases s.team? t <;> simp [Team.modGroup, modifyAt]

theorem view_modSlice (c : Ctx) (s : State) (f : Slice → Slice) : c.view (c.modSlice s f) = c.view s := by
  unfold Ctx.modSlice
  split <;> rfl

theorem view_openHalf (c : Ctx) (s : State) (us : List Use) (n : Nat) :
    c.view { c.openHalf s us n with conflict := none } = c.view s := by
  unfold Ctx.openHalf
  split <;> rfl

@[simp] theorem view_presents (c : Ctx) (s : State) (us : List Use) : c.view (c.presents s us) = c.view s := by
  unfold Ctx.presents
  dsimp only
  split
  · exact view_mod ..
  · split
    · rw [view_modSlice, view_mod, view_openHalf]
    · rw [view_mod, view_openHalf]

@[simp] theorem view_noteReads (c : Ctx) (s : State) (us : List Use) : c.view (c.noteReads s us) = c.view s := by
  unfold Ctx.noteReads
  dsimp only
  split <;> split <;> simp only [view_mod]

@[simp] theorem view_begun (c0 c : Ctx) (s : State) (us : Ctx → List Use) : c.view (c0.begun c s us) = c.view s := by
  simp [Ctx.begun]

@[simp] theorem rd_begun (c0 c : Ctx) (s : State) (us : Ctx → List Use) (o : Opnd) (l : Nat) :
    c.rd (c0.begun c s us) o l = c.rd s o l := by
  cases o <;> simp [Ctx.rd, special_view c s _ _ _ (view_begun c0 c s us)]

@[simp] theorem rd64_begun (c0 c : Ctx) (s : State) (us : Ctx → List Use) (o : Opnd) (l : Nat) :
    c.rd64 (c0.begun c s us) o l = c.rd64 s o l := by
  cases o <;> simp [Ctx.rd64, special_view c s _ _ _ (view_begun c0 c s us)]

@[simp] theorem rdU_begun (c0 c : Ctx) (s : State) (us : Ctx → List Use) (o : Opnd) :
    c.rdU (c0.begun c s us) o = c.rd s o 0 := rd_begun ..

@[simp] theorem rdU64_begun (c0 c : Ctx) (s : State) (us : Ctx → List Use) (o : Opnd) :
    c.rdU64 (c0.begun c s us) o = c.rd64 s o 0 := rd64_begun ..

@[simp] theorem rdSpan_begun (c0 c : Ctx) (s : State) (us : Ctx → List Use) (f : Option FFmt) (o : Opnd) (j l : Nat) :
    c.rdSpan (c0.begun c s us) f o j l = c.rdSpan s f o j l := by
  cases o <;> simp [Ctx.rdSpan]

@[simp] theorem spanElem_begun (c0 c : Ctx) (s : State) (us : Ctx → List Use) (f : Option FFmt) (o : Opnd) (w k l : Nat) :
    c.spanElem (c0.begun c s us) f o w k l = c.spanElem s f o w k l := by simp [Ctx.spanElem]

@[simp] theorem rdF_begun (c0 c : Ctx) (s : State) (us : Ctx → List Use) (f : FFmt) (o : Opnd) (k l : Nat) :
    c.rdF (c0.begun c s us) f o k l = c.rdF s f o k l := by simp [Ctx.rdF]

@[simp] theorem rdBit_begun (c0 c : Ctx) (s : State) (us : Ctx → List Use) (o : Opnd) (l : Nat) :
    c.rdBit (c0.begun c s us) o l = c.rdBit s o l := by cases o <;> simp [Ctx.rdBit]

@[simp] theorem randBits_begun (c0 c : Ctx) (s : State) (us : Ctx → List Use) (rb : Option Src) (k l : Nat) :
    c.randBits (c0.begun c s us) rb k l = c.randBits s rb k l := by cases rb <;> simp [Ctx.randBits]

@[simp] theorem mxCode_begun (c0 c : Ctx) (s : State) (us : Ctx → List Use) (mf : MxFmt) (r : Rnd) (a sc : Src)
    (rb : Option Src) (l : Nat) : c.mxCode (c0.begun c s us) mf r a sc rb l = c.mxCode s mf r a sc rb l := by
  cases rb <;> simp [Ctx.mxCode]

@[simp] theorem padded_begun (c0 c : Ctx) (s : State) (us : Ctx → List Use) (a : Src) :
    c.padded (c0.begun c s us) a = c.padded s a := by simp [Ctx.padded]

@[simp] theorem reduce_begun (c0 c : Ctx) (s : State) (us : Ctx → List Use) (o : RedOp) (a : Src) :
    c.reduce (c0.begun c s us) o a = c.reduce s o a := by cases o <;> simp [Ctx.reduce]

@[simp] theorem scan_begun (c0 c : Ctx) (s : State) (us : Ctx → List Use) (e : Bool) (o : RedOp) (a : Src) :
    c.scan (c0.begun c s us) e o a = c.scan s e o a := by cases o <;> simp [Ctx.scan]

@[simp] theorem voteResult_begun (c0 c : Ctx) (s : State) (us : Ctx → List Use) (o : VoteOp) (a : Src) :
    c.voteResult (c0.begun c s us) o a = c.voteResult s o a := by
  have h : c.vote (c0.begun c s us) a = c.vote s a := by funext l; simp [Ctx.vote]
  simp only [Ctx.voteResult, h]

/-! ## How a finished instruction answers -/

/-- The five answers of a meaning, as the statements put them. -/
theorem runsTo_of_done {i : Instr} {c : Ctx} {s x : State} (h : exec i s = c.finish s (.done x)) : RunsTo i c s x := by
  refine ⟨fun ⟨s2, h2⟩ => ⟨_, ⟨s2, h2, rfl⟩, h.trans (finish_done h2)⟩, fun e he => ?_, fun he => ?_⟩ <;>
    simp [TrapsTo, HoldsAt, h, Ctx.finish, he, Ctx.unsettled]

theorem jumpsTo_of_jump {i : Instr} {c : Ctx} {s x : State} (h : exec i s = c.finish s (.jump x)) : JumpsTo i c s x := by
  refine ⟨fun ⟨s2, h2⟩ => ⟨_, ⟨s2, h2, rfl⟩, h.trans (finish_jump h2)⟩, fun e he => ?_, fun he => ?_⟩ <;>
    simp [TrapsTo, HoldsAt, h, Ctx.finish, he, Ctx.unsettled]

theorem leavesTo_of_leave {i : Instr} {c : Ctx} {s x : State} {m : Mask} (h : exec i s = c.finish s (.leave m x)) :
    LeavesTo i c s x m := by
  refine ⟨fun ⟨s2, h2⟩ => ⟨s2, h2, by simp [h, Ctx.finish, h2]⟩, fun e he => ?_, fun he => ?_⟩ <;>
    simp [TrapsTo, HoldsAt, h, Ctx.finish, he, Ctx.unsettled]

theorem parksTo_of_park {i : Instr} {c : Ctx} {s x : State} {p : Park} (h : exec i s = c.finish s (.park x p)) :
    ParksTo i c s x p := by
  refine ⟨fun ⟨s2, h2⟩ => ⟨s2, h2, by simp [h, Ctx.finish, h2]⟩, fun e he => ?_, fun he => ?_⟩ <;>
    simp [TrapsTo, HoldsAt, h, Ctx.finish, he, Ctx.unsettled]

theorem consumesAt_of_uce {i : Instr} {c : Ctx} {s : State} (h : exec i s = c.finish s .uce) : ConsumesAt i c s := h

/-- An instruction whose meaning retires an effect on its group runs by the rule with that effect. -/
theorem runsTo_of_retires {i : Instr} {sp : Spec} {body : Ctx → State → Res} {c0 c : Ctx} {s : State} {eff : Group → Group}
    (hi : exec i s = issue sp body s)
    (h : c0.IssuesUnder c s sp.core sp.guard (sp.uses · s) sp.consumes) (hf : sp.flag = .no) (he : sp.encOk c0 = true)
    (hd : sp.hdrOk c = true)
    (hb : body c (c0.begun c s (sp.uses · s)) = .done (c0.did c s (sp.uses · s) eff)) :
    RunsTo i c s (c0.did c s (sp.uses · s) eff) := by
  apply runsTo_of_done
  rw [hi, issue_body h he (by rw [hf]; rfl) hd (by simp [Spec.full, hf, FlagUse.flag]), hb]

/-! ## The stores of port B that come after port A's of the turn (R199) -/

/-- Noting them changes nothing else of the group. -/
theorem Group.notesLater_eq (g : Group) (b : Bool) (n : Nat) (bs : List StoreByte) :
    g.notesLater b n bs = { g with later := (if b then bs.map (fun x => (n, x)) else []) ++ g.later } := by
  cases b <;> simp [Group.notesLater]

/-- What a byte is under: port B's store of the turn, where port A stores. -/
theorem Group.under_notesLater (g : Group) (n k : Nat) (bs : List StoreByte) (x : StoreByte) :
    (g.notesLater true n bs).under false k x = ((decide (n = k) && bs.contains x) || g.under false k x) := by
  simp only [Group.notesLater, Group.under, if_true, Bool.not_false, Bool.true_and]
  rw [Bool.eq_iff_iff]
  simp only [List.contains_iff_mem, List.mem_append, List.mem_map, Prod.mk.injEq, Bool.or_eq_true, Bool.and_eq_true,
    decide_eq_true_eq]
  constructor
  · rintro (⟨y, h1, h2, rfl⟩ | h)
    · exact .inl ⟨h2, h1⟩
    · exact .inr h
  · rintro (⟨h1, h2⟩ | h)
    · exact .inl ⟨x, h2, h1, rfl⟩
    · exact .inr h

/-- Port B's stores come after no store of the turn. -/
@[simp] theorem Group.under_portB (g : Group) (n : Nat) (x : StoreByte) : g.under true n x = false := rfl

end Sys2Proof.Machine
end

