-- ==== Sys2Proof/Laws/PerInstr.lean ====
section
/-! SUPPORT. The word of each well-formed instruction carries an opcode that the map assigns (Table 5-2); an event has no word. -/
namespace Sys2Proof.Laws

def WordOpcode.Statement (i : Instr) : Prop :=
  i.wf = true → ∀ w, encode i = some w → opAssigned (w.extractLsb' 56 8).toNat = true

namespace WordOpcode

theorem of_word {p w : DWord} {op : BitVec 8} (h : p = w) (e : p.extractLsb' 56 8 = op) (a : opAssigned op.toNat = true) :
    opAssigned (w.extractLsb' 56 8).toNat = true := by subst h; rwa [e]

theorem above {n m : Nat} (k : Nat) (x : BitVec n) (y : BitVec m) : (x ++ y).extractLsb' (m + k) 8 = x.extractLsb' k 8 := by
  ext i hi
  simp [BitVec.getLsbD_append, Nat.add_assoc]

theorem packV_op (op : BitVec 8) (g : Guard) (d : BitVec 10) (a b c : BitVec 12) (m : BitVec 5) :
    (packV op g d a b c m).extractLsb' 56 8 = op :=
  (above 51 _ _).trans ((above 39 _ _).trans ((above 27 _ _).trans ((above 15 _ _).trans ((above 5 _ _).trans ((above 4 _ _).trans ((above 0 _ _).trans (BitVec.extractLsb'_eq_self)))))))

theorem packVF_op (op : BitVec 8) (f : Bool) (d : BitVec 10) (a b c : BitVec 12) (m : BitVec 5) :
    (packVF op f d a b c m).extractLsb' 56 8 = op :=
  (above 51 _ _).trans ((above 39 _ _).trans ((above 27 _ _).trans ((above 15 _ _).trans ((above 5 _ _).trans ((above 4 _ _).trans ((above 0 _ _).trans (BitVec.extractLsb'_eq_self)))))))

theorem packVL_op (op : BitVec 8) (f : Bool) (d : BitVec 10) (m : BitVec 9) (x : Word) :
    (packVL op f d m x).extractLsb' 56 8 = op :=
  (above 24 _ _).trans ((above 15 _ _).trans ((above 5 _ _).trans ((above 4 _ _).trans ((above 0 _ _).trans (BitVec.extractLsb'_eq_self)))))

theorem packM_op (op : BitVec 8) (g : Guard) (f : Bool) (d b o : BitVec 12) (p : BitVec 9) (m : BitVec 6) :
    (packM op g f d b o p m).extractLsb' 56 8 = op :=
  (above 50 _ _).trans ((above 41 _ _).trans ((above 29 _ _).trans ((above 17 _ _).trans ((above 5 _ _).trans ((above 4 _ _).trans ((above 0 _ _).trans (BitVec.extractLsb'_eq_self)))))))

theorem packX_op (op : BitVec 8) (f : Bool) (a b c : BitVec 4) (s : BitVec 9) (m : BitVec 30) :
    (packX op f a b c s m).extractLsb' 56 8 = op :=
  (above 26 _ _).trans ((above 17 _ _).trans ((above 13 _ _).trans ((above 9 _ _).trans ((above 5 _ _).trans ((above 4 _ _).trans ((above 0 _ _).trans (BitVec.extractLsb'_eq_self)))))))

theorem packA_op (op : BitVec 8) (f : Bool) (d s v : BitVec 9) (m : BitVec 24) :
    (packA op f d s v m).extractLsb' 56 8 = op :=
  (above 32 _ _).trans ((above 23 _ _).trans ((above 14 _ _).trans ((above 5 _ _).trans ((above 4 _ _).trans ((above 0 _ _).trans (BitVec.extractLsb'_eq_self))))))

theorem packB_op (op : BitVec 8) (g : Guard) (c : BitVec 12) (o : Word) (m : BitVec 7) :
    (packB op g c o m).extractLsb' 56 8 = op :=
  (above 49 _ _).trans ((above 17 _ _).trans ((above 5 _ _).trans ((above 4 _ _).trans ((above 0 _ _).trans (BitVec.extractLsb'_eq_self)))))

theorem sMov (x0 x1 x2) : Statement (.sMov x0 x1 x2) :=
  fun _ _ h => of_word (Option.some.inj h) (packV_op ..) (by decide)
theorem sLi (x0 x1 x2) : Statement (.sLi x0 x1 x2) :=
  fun _ _ h => of_word (Option.some.inj h) (packVL_op ..) (by decide)
theorem sAdd (x0 x1 x2 x3 x4) : Statement (.sAdd x0 x1 x2 x3 x4) :=
  fun _ _ h => of_word (Option.some.inj h) (packV_op ..) (by decide)
theorem sSub (x0 x1 x2 x3 x4) : Statement (.sSub x0 x1 x2 x3 x4) :=
  fun _ _ h => of_word (Option.some.inj h) (packV_op ..) (by decide)
theorem sMul (x0 x1 x2 x3) : Statement (.sMul x0 x1 x2 x3) :=
  fun _ _ h => of_word (Option.some.inj h) (packV_op ..) (by decide)
theorem sMulhi (x0 x1 x2 x3) : Statement (.sMulhi x0 x1 x2 x3) :=
  fun _ _ h => of_word (Option.some.inj h) (packV_op ..) (by decide)
theorem sAnd (x0 x1 x2 x3) : Statement (.sAnd x0 x1 x2 x3) :=
  fun _ _ h => of_word (Option.some.inj h) (packV_op ..) (by decide)
theorem sOr (x0 x1 x2 x3) : Statement (.sOr x0 x1 x2 x3) :=
  fun _ _ h => of_word (Option.some.inj h) (packV_op ..) (by decide)
theorem sXor (x0 x1 x2 x3) : Statement (.sXor x0 x1 x2 x3) :=
  fun _ _ h => of_word (Option.some.inj h) (packV_op ..) (by decide)
theorem sNot (x0 x1 x2) : Statement (.sNot x0 x1 x2) :=
  fun _ _ h => of_word (Option.some.inj h) (packV_op ..) (by decide)
theorem sShl (x0 x1 x2 x3) : Statement (.sShl x0 x1 x2 x3) :=
  fun _ _ h => of_word (Option.some.inj h) (packV_op ..) (by decide)
theorem sShr (x0 x1 x2 x3) : Statement (.sShr x0 x1 x2 x3) :=
  fun _ _ h => of_word (Option.some.inj h) (packV_op ..) (by decide)
theorem sSra (x0 x1 x2 x3) : Statement (.sSra x0 x1 x2 x3) :=
  fun _ _ h => of_word (Option.some.inj h) (packV_op ..) (by decide)
theorem sMin (x0 x1 x2 x3) : Statement (.sMin x0 x1 x2 x3) :=
  fun _ _ h => of_word (Option.some.inj h) (packV_op ..) (by decide)
theorem sMax (x0 x1 x2 x3) : Statement (.sMax x0 x1 x2 x3) :=
  fun _ _ h => of_word (Option.some.inj h) (packV_op ..) (by decide)
theorem sAdd64 (x0 x1 x2) : Statement (.sAdd64 x0 x1 x2) :=
  fun _ _ h => of_word (Option.some.inj h) (packV_op ..) (by decide)
theorem sSub64 (x0 x1 x2) : Statement (.sSub64 x0 x1 x2) :=
  fun _ _ h => of_word (Option.some.inj h) (packV_op ..) (by decide)
theorem sShl64 (x0 x1 x2) : Statement (.sShl64 x0 x1 x2) :=
  fun _ _ h => of_word (Option.some.inj h) (packV_op ..) (by decide)
theorem sCmp (x0 x1 x2 x3 x4) : Statement (.sCmp x0 x1 x2 x3 x4) :=
  fun _ _ h => of_word (Option.some.inj h) (packV_op ..) (by decide)
theorem sSel (x0 x1 x2 x3 x4 x5) : Statement (.sSel x0 x1 x2 x3 x4 x5) :=
  fun _ _ h => of_word (Option.some.inj h) (packV_op ..) (by decide)
theorem sBfe (x0 x1 x2 x3 x4) : Statement (.sBfe x0 x1 x2 x3 x4) :=
  fun _ _ h => of_word (Option.some.inj h) (packV_op ..) (by decide)
theorem sBfi (x0 x1 x2 x3 x4 x5) : Statement (.sBfi x0 x1 x2 x3 x4 x5) :=
  fun _ _ h => of_word (Option.some.inj h) (packV_op ..) (by decide)
theorem sClz (x0 x1) : Statement (.sClz x0 x1) := fun _ _ h => of_word (Option.some.inj h) (packV_op ..) (by decide)
theorem sPopc (x0 x1) : Statement (.sPopc x0 x1) := fun _ _ h => of_word (Option.some.inj h) (packV_op ..) (by decide)
theorem sRsr (x0 x1 x2) : Statement (.sRsr x0 x1 x2) :=
  fun _ _ h => of_word (Option.some.inj h) (packV_op ..) (by decide)
theorem sWsr (x0 x1 x2) : Statement (.sWsr x0 x1 x2) :=
  fun _ _ h => of_word (Option.some.inj h) (packV_op ..) (by decide)
theorem sVget (x0 x1 x2 x3) : Statement (.sVget x0 x1 x2 x3) :=
  fun _ _ h => of_word (Option.some.inj h) (packV_op ..) (by decide)
theorem br (g x o) : Statement (.br g x o) := fun _ _ h => match x, h with
  | none, h | some _, h => of_word (Option.some.inj h) (packB_op ..) (by decide)

theorem brx (x0 x1) : Statement (.brx x0 x1) := fun _ _ h => of_word (Option.some.inj h) (packV_op ..) (by decide)
theorem call (x0 x1 x2) : Statement (.call x0 x1 x2) :=
  fun _ _ h => of_word (Option.some.inj h) (packB_op ..) (by decide)
theorem ret (x0 x1) : Statement (.ret x0 x1) := fun _ _ h => of_word (Option.some.inj h) (packV_op ..) (by decide)
theorem reform (x) : Statement (.reform x) := fun _ _ h => match x, h with
  | none, h | some _, h => of_word (Option.some.inj h) (packV_op ..) (by decide)

theorem exit : Statement (.exit) := fun _ _ h => of_word (Option.some.inj h) (packV_op ..) (by decide)
theorem nop : Statement (.nop) := fun _ _ h => of_word (Option.some.inj h) (packV_op ..) (by decide)
theorem yield : Statement (.yield) := fun _ _ h => of_word (Option.some.inj h) (packV_op ..) (by decide)
theorem vMov (x0 x1 x2) : Statement (.vMov x0 x1 x2) :=
  fun _ _ h => of_word (Option.some.inj h) (packV_op ..) (by decide)
theorem vLi (x0 x1 x2) : Statement (.vLi x0 x1 x2) :=
  fun _ _ h => of_word (Option.some.inj h) (packVL_op ..) (by decide)
theorem vAdd (x0 x1 x2 x3 x4) : Statement (.vAdd x0 x1 x2 x3 x4) :=
  fun _ _ h => of_word (Option.some.inj h) (packV_op ..) (by decide)
theorem vSub (x0 x1 x2 x3 x4) : Statement (.vSub x0 x1 x2 x3 x4) :=
  fun _ _ h => of_word (Option.some.inj h) (packV_op ..) (by decide)
theorem vMul (x0 x1 x2 x3) : Statement (.vMul x0 x1 x2 x3) :=
  fun _ _ h => of_word (Option.some.inj h) (packV_op ..) (by decide)
theorem vMulhi (x0 x1 x2 x3) : Statement (.vMulhi x0 x1 x2 x3) :=
  fun _ _ h => of_word (Option.some.inj h) (packV_op ..) (by decide)
theorem vMad (x0 x1 x2 x3 x4 x5) : Statement (.vMad x0 x1 x2 x3 x4 x5) :=
  fun _ _ h => of_word (Option.some.inj h) (packV_op ..) (by decide)
theorem vMadw (x0 x1 x2 x3 x4) : Statement (.vMadw x0 x1 x2 x3 x4) :=
  fun _ _ h => of_word (Option.some.inj h) (packV_op ..) (by decide)
theorem vAnd (x0 x1 x2 x3) : Statement (.vAnd x0 x1 x2 x3) :=
  fun _ _ h => of_word (Option.some.inj h) (packV_op ..) (by decide)
theorem vOr (x0 x1 x2 x3) : Statement (.vOr x0 x1 x2 x3) :=
  fun _ _ h => of_word (Option.some.inj h) (packV_op ..) (by decide)
theorem vXor (x0 x1 x2 x3) : Statement (.vXor x0 x1 x2 x3) :=
  fun _ _ h => of_word (Option.some.inj h) (packV_op ..) (by decide)
theorem vNot (x0 x1 x2) : Statement (.vNot x0 x1 x2) :=
  fun _ _ h => of_word (Option.some.inj h) (packV_op ..) (by decide)
theorem vShl (x0 x1 x2 x3) : Statement (.vShl x0 x1 x2 x3) :=
  fun _ _ h => of_word (Option.some.inj h) (packV_op ..) (by decide)
theorem vShr (x0 x1 x2 x3) : Statement (.vShr x0 x1 x2 x3) :=
  fun _ _ h => of_word (Option.some.inj h) (packV_op ..) (by decide)
theorem vSra (x0 x1 x2 x3) : Statement (.vSra x0 x1 x2 x3) :=
  fun _ _ h => of_word (Option.some.inj h) (packV_op ..) (by decide)
theorem vMin (x0 x1 x2 x3) : Statement (.vMin x0 x1 x2 x3) :=
  fun _ _ h => of_word (Option.some.inj h) (packV_op ..) (by decide)
theorem vMax (x0 x1 x2 x3) : Statement (.vMax x0 x1 x2 x3) :=
  fun _ _ h => of_word (Option.some.inj h) (packV_op ..) (by decide)
theorem vAbs (x0 x1 x2 x3) : Statement (.vAbs x0 x1 x2 x3) :=
  fun _ _ h => of_word (Option.some.inj h) (packV_op ..) (by decide)
theorem vCmp (x0 x1 x2 x3 x4) : Statement (.vCmp x0 x1 x2 x3 x4) :=
  fun _ _ h => of_word (Option.some.inj h) (packV_op ..) (by decide)
theorem vSel (x0 x1 x2 x3 x4 x5) : Statement (.vSel x0 x1 x2 x3 x4 x5) :=
  fun _ _ h => of_word (Option.some.inj h) (packV_op ..) (by decide)
theorem vBfe (x0 x1 x2 x3 x4) : Statement (.vBfe x0 x1 x2 x3 x4) :=
  fun _ _ h => of_word (Option.some.inj h) (packV_op ..) (by decide)
theorem vBfi (x0 x1 x2 x3 x4 x5) : Statement (.vBfi x0 x1 x2 x3 x4 x5) :=
  fun _ _ h => of_word (Option.some.inj h) (packV_op ..) (by decide)
theorem vPopc (x0 x1 x2) : Statement (.vPopc x0 x1 x2) :=
  fun _ _ h => of_word (Option.some.inj h) (packV_op ..) (by decide)
theorem vClz (x0 x1 x2) : Statement (.vClz x0 x1 x2) :=
  fun _ _ h => of_word (Option.some.inj h) (packV_op ..) (by decide)
theorem vDot4 (x0 x1 x2 x3 x4 x5 x6) : Statement (.vDot4 x0 x1 x2 x3 x4 x5 x6) :=
  fun _ _ h => of_word (Option.some.inj h) (packV_op ..) (by decide)
theorem vReq (x0 x1 x2 x3 x4) : Statement (.vReq x0 x1 x2 x3 x4) :=
  fun _ _ h => of_word (Option.some.inj h) (packV_op ..) (by decide)
theorem vUnpk3 (x0 x1 x2 x3) : Statement (.vUnpk3 x0 x1 x2 x3) :=
  fun _ _ h => of_word (Option.some.inj h) (packV_op ..) (by decide)
theorem vCvt (x0 x1 x2 x3) : Statement (.vCvt x0 x1 x2 x3) :=
  fun _ _ h => of_word (Option.some.inj h) (packV_op ..) (by decide)
theorem vShfl (x0 x1 x2 x3 x4 x5) : Statement (.vShfl x0 x1 x2 x3 x4 x5) :=
  fun _ _ h => of_word (Option.some.inj h) (packV_op ..) (by decide)
theorem vRed (x0 x1 x2) : Statement (.vRed x0 x1 x2) :=
  fun _ _ h => of_word (Option.some.inj h) (packV_op ..) (by decide)
theorem vScan (x0 x1 x2 x3) : Statement (.vScan x0 x1 x2 x3) :=
  fun _ _ h => of_word (Option.some.inj h) (packV_op ..) (by decide)
theorem vBcast (x0 x1 x2 x3 x4) : Statement (.vBcast x0 x1 x2 x3 x4) :=
  fun _ _ h => of_word (Option.some.inj h) (packV_op ..) (by decide)
theorem vVote (x0 x1 x2) : Statement (.vVote x0 x1 x2) :=
  fun _ _ h => of_word (Option.some.inj h) (packV_op ..) (by decide)
theorem vFadd (x0 x1 x2 x3 x4) : Statement (.vFadd x0 x1 x2 x3 x4) :=
  fun _ _ h => of_word (Option.some.inj h) (packV_op ..) (by decide)
theorem vFsub (x0 x1 x2 x3 x4) : Statement (.vFsub x0 x1 x2 x3 x4) :=
  fun _ _ h => of_word (Option.some.inj h) (packV_op ..) (by decide)
theorem vFmul (x0 x1 x2 x3 x4) : Statement (.vFmul x0 x1 x2 x3 x4) :=
  fun _ _ h => of_word (Option.some.inj h) (packV_op ..) (by decide)
theorem vFmin (x0 x1 x2 x3) : Statement (.vFmin x0 x1 x2 x3) :=
  fun _ _ h => of_word (Option.some.inj h) (packV_op ..) (by decide)
theorem vFfma (x0 x1 x2 x3 x4 x5) : Statement (.vFfma x0 x1 x2 x3 x4 x5) :=
  fun _ _ h => of_word (Option.some.inj h) (packV_op ..) (by decide)
theorem vFmax (x0 x1 x2 x3) : Statement (.vFmax x0 x1 x2 x3) :=
  fun _ _ h => of_word (Option.some.inj h) (packV_op ..) (by decide)
theorem vFcmp (x0 x1 x2 x3 x4) : Statement (.vFcmp x0 x1 x2 x3 x4) :=
  fun _ _ h => of_word (Option.some.inj h) (packV_op ..) (by decide)
theorem vFclass (x0 x1 x2) : Statement (.vFclass x0 x1 x2) :=
  fun _ _ h => of_word (Option.some.inj h) (packV_op ..) (by decide)
theorem vFrnd (x0 x1 x2 x3) : Statement (.vFrnd x0 x1 x2 x3) :=
  fun _ _ h => of_word (Option.some.inj h) (packV_op ..) (by decide)
theorem vFcvt (x0 x1 x2 x3 x4 x5) : Statement (.vFcvt x0 x1 x2 x3 x4 x5) :=
  fun _ _ h => of_word (Option.some.inj h) (packV_op ..) (by decide)
theorem vFicvt (x0 x1 x2 x3 x4) : Statement (.vFicvt x0 x1 x2 x3 x4) :=
  fun _ _ h => of_word (Option.some.inj h) (packV_op ..) (by decide)
theorem vFrcp (x0 x1) : Statement (.vFrcp x0 x1) := fun _ _ h => of_word (Option.some.inj h) (packV_op ..) (by decide)
theorem vFrsq (x0 x1) : Statement (.vFrsq x0 x1) := fun _ _ h => of_word (Option.some.inj h) (packV_op ..) (by decide)
theorem vFsqrt (x0 x1 x2) : Statement (.vFsqrt x0 x1 x2) :=
  fun _ _ h => of_word (Option.some.inj h) (packV_op ..) (by decide)
theorem vFexp2 (x0 x1) : Statement (.vFexp2 x0 x1) :=
  fun _ _ h => of_word (Option.some.inj h) (packV_op ..) (by decide)
theorem vFlog2 (x0 x1) : Statement (.vFlog2 x0 x1) :=
  fun _ _ h => of_word (Option.some.inj h) (packV_op ..) (by decide)
theorem vFsin (x0 x1) : Statement (.vFsin x0 x1) := fun _ _ h => of_word (Option.some.inj h) (packV_op ..) (by decide)
theorem vFcos (x0 x1) : Statement (.vFcos x0 x1) := fun _ _ h => of_word (Option.some.inj h) (packV_op ..) (by decide)
theorem vHfma2 (x0 x1 x2 x3 x4 x5) : Statement (.vHfma2 x0 x1 x2 x3 x4 x5) :=
  fun _ _ h => of_word (Option.some.inj h) (packV_op ..) (by decide)
theorem vHadd2 (x0 x1 x2 x3 x4) : Statement (.vHadd2 x0 x1 x2 x3 x4) :=
  fun _ _ h => of_word (Option.some.inj h) (packV_op ..) (by decide)
theorem vHmul2 (x0 x1 x2 x3 x4) : Statement (.vHmul2 x0 x1 x2 x3 x4) :=
  fun _ _ h => of_word (Option.some.inj h) (packV_op ..) (by decide)
theorem vMxscl (x0 x1 x2) : Statement (.vMxscl x0 x1 x2) :=
  fun _ _ h => of_word (Option.some.inj h) (packV_op ..) (by decide)
theorem vMxpack (x0 x1 x2 x3 x4 x5) : Statement (.vMxpack x0 x1 x2 x3 x4 x5) :=
  fun _ _ h => of_word (Option.some.inj h) (packV_op ..) (by decide)
theorem ld (x0 x1 x2 x3 x4) : Statement (.ld x0 x1 x2 x3 x4) :=
  fun _ _ h => of_word (Option.some.inj h) (packM_op ..) (by decide)
theorem st (x0 x1 x2 x3 x4 x5) : Statement (.st x0 x1 x2 x3 x4 x5) :=
  fun _ _ h => of_word (Option.some.inj h) (packM_op ..) (by decide)
theorem lds (x0 x1 x2 x3) : Statement (.lds x0 x1 x2 x3) :=
  fun _ _ h => of_word (Option.some.inj h) (packM_op ..) (by decide)
theorem sts (x0 x1 x2 x3 x4) : Statement (.sts x0 x1 x2 x3 x4) :=
  fun _ _ h => of_word (Option.some.inj h) (packM_op ..) (by decide)
theorem ldr (x0 x1 x2 x3 x4) : Statement (.ldr x0 x1 x2 x3 x4) :=
  fun _ _ h => of_word (Option.some.inj h) (packM_op ..) (by decide)
theorem str (x0 x1 x2 x3 x4 x5) : Statement (.str x0 x1 x2 x3 x4 x5) :=
  fun _ _ h => of_word (Option.some.inj h) (packM_op ..) (by decide)
theorem ldu (x0 x1 x2 x3 x4) : Statement (.ldu x0 x1 x2 x3 x4) :=
  fun _ _ h => of_word (Option.some.inj h) (packM_op ..) (by decide)
theorem stu (x0 x1 x2 x3 x4 x5) : Statement (.stu x0 x1 x2 x3 x4 x5) :=
  fun _ _ h => of_word (Option.some.inj h) (packM_op ..) (by decide)
theorem ldc (x0 x1 x2 x3) : Statement (.ldc x0 x1 x2 x3) :=
  fun _ _ h => of_word (Option.some.inj h) (packM_op ..) (by decide)
theorem pref (x0 x1 x2 x3) : Statement (.pref x0 x1 x2 x3) :=
  fun _ _ h => of_word (Option.some.inj h) (packM_op ..) (by decide)
theorem fence (x0 x1 x2) : Statement (.fence x0 x1 x2) :=
  fun _ _ h => of_word (Option.some.inj h) (packM_op ..) (by decide)
theorem phase (x0) : Statement (.phase x0) := fun _ _ h => of_word (Option.some.inj h) (packM_op ..) (by decide)
theorem mxld (x0 x1 x2 x3) : Statement (.mxld x0 x1 x2 x3) :=
  fun _ _ h => of_word (Option.some.inj h) (packM_op ..) (by decide)
theorem mxacc (x0 x1 x2 x3 x4 x5 x6 x7) : Statement (.mxacc x0 x1 x2 x3 x4 x5 x6 x7) :=
  fun _ _ h => of_word (Option.some.inj h) (packM_op ..) (by decide)
theorem atom (x0 x1 x2 x3 x4 x5 x6 x7) : Statement (.atom x0 x1 x2 x3 x4 x5 x6 x7) :=
  fun v _ h => of_word (Option.some.inj h) (packM_op ..) (by cases x3 <;> first | decide | exact absurd v (by simp [Instr.wf])  )
theorem atoms (x0 x1 x2 x3 x4 x5 x6 x7 x8) : Statement (.atoms x0 x1 x2 x3 x4 x5 x6 x7 x8) :=
  fun v _ h => of_word (Option.some.inj h) (packM_op ..) (by cases x3 <;> first | decide | exact absurd v (by simp [Instr.wf])  )
theorem atomu (x0 x1 x2 x3 x4 x5 x6 x7) : Statement (.atomu x0 x1 x2 x3 x4 x5 x6 x7) :=
  fun v _ h => of_word (Option.some.inj h) (packM_op ..) (by cases x3 <;> first | decide | exact absurd v (by simp [Instr.wf])  )
theorem tdef (x0 x1) : Statement (.tdef x0 x1) := fun _ _ h => of_word (Option.some.inj h) (packX_op ..) (by decide)
theorem mma (x0 x1 x2 x3 x4 x5 x6 x7) : Statement (.mma x0 x1 x2 x3 x4 x5 x6 x7) :=
  fun _ _ h => of_word (Option.some.inj h) (packX_op ..) (by decide)
theorem accZero (x0 x1) : Statement (.accZero x0 x1) :=
  fun _ _ h => of_word (Option.some.inj h) (packX_op ..) (by decide)
theorem accLd (x0 x1 x2) : Statement (.accLd x0 x1 x2) :=
  fun _ _ h => of_word (Option.some.inj h) (packX_op ..) (by decide)
theorem accSt (x0 x1 x2) : Statement (.accSt x0 x1 x2) :=
  fun _ _ h => of_word (Option.some.inj h) (packX_op ..) (by decide)
theorem accRd (x0 x1 x2 x3) : Statement (.accRd x0 x1 x2 x3) :=
  fun _ _ h => of_word (Option.some.inj h) (packX_op ..) (by decide)
theorem accWr (x0 x1 x2 x3 x4) : Statement (.accWr x0 x1 x2 x3 x4) :=
  fun _ _ h => of_word (Option.some.inj h) (packX_op ..) (by decide)
theorem accOut (x0 x1 x2 x3) : Statement (.accOut x0 x1 x2 x3) :=
  fun _ _ h => of_word (Option.some.inj h) (packX_op ..) (by decide)
theorem mstat (x0 x1 x2) : Statement (.mstat x0 x1 x2) :=
  fun _ _ h => of_word (Option.some.inj h) (packX_op ..) (by decide)
theorem cp (x0) : Statement (.cp x0) := fun _ _ h => of_word (Option.some.inj h) (packA_op ..) (by decide)
theorem cpt (x0 x1 x2) : Statement (.cpt x0 x1 x2) :=
  fun _ _ h => of_word (Option.some.inj h) (packA_op ..) (by decide)
theorem cpg (x0 x1) : Statement (.cpg x0 x1) := fun _ _ h => of_word (Option.some.inj h) (packA_op ..) (by decide)
theorem cpsc (x0 x1) : Statement (.cpsc x0 x1) := fun _ _ h => of_word (Option.some.inj h) (packA_op ..) (by decide)
theorem cpr (x0) : Statement (.cpr x0) := fun _ _ h => of_word (Option.some.inj h) (packA_op ..) (by decide)
theorem cpx (x0 x1) : Statement (.cpx x0 x1) := fun _ _ h => of_word (Option.some.inj h) (packA_op ..) (by decide)
theorem coll (x0 x1 x2) : Statement (.coll x0 x1 x2) :=
  fun _ _ h => of_word (Option.some.inj h) (packA_op ..) (by decide)
theorem cpq (x0) : Statement (.cpq x0) := fun _ _ h => of_word (Option.some.inj h) (packA_op ..) (by decide)
theorem barInit (x0 x1 x2) : Statement (.barInit x0 x1 x2) :=
  fun _ _ h => of_word (Option.some.inj h) (packM_op ..) (by decide)
theorem barArr (x0 x1 x2) : Statement (.barArr x0 x1 x2) :=
  fun _ _ h => of_word (Option.some.inj h) (packM_op ..) (by decide)
theorem barWait (x0 x1) : Statement (.barWait x0 x1) :=
  fun _ _ h => of_word (Option.some.inj h) (packM_op ..) (by decide)
theorem barAw (x0 x1 x2) : Statement (.barAw x0 x1 x2) :=
  fun _ _ h => of_word (Option.some.inj h) (packM_op ..) (by decide)
theorem tktTake (x0 x1 x2 x3) : Statement (.tktTake x0 x1 x2 x3) :=
  fun _ _ h => of_word (Option.some.inj h) (packM_op ..) (by decide)
theorem tktWait (x0 x1 x2 x3 x4) : Statement (.tktWait x0 x1 x2 x3 x4) :=
  fun _ _ h => of_word (Option.some.inj h) (packM_op ..) (by decide)
theorem tktPass (x0 x1 x2 x3) : Statement (.tktPass x0 x1 x2 x3) :=
  fun _ _ h => of_word (Option.some.inj h) (packM_op ..) (by decide)
theorem waita (x0 x1 x2 x3 x4 x5) : Statement (.waita x0 x1 x2 x3 x4 x5) :=
  fun _ _ h => of_word (Option.some.inj h) (packM_op ..) (by decide)
theorem waitf (x0 x1) : Statement (.waitf x0 x1) :=
  fun _ _ h => of_word (Option.some.inj h) (packVL_op ..) (by decide)
theorem fifoPush (x0 x1 x2 x3) : Statement (.fifoPush x0 x1 x2 x3) :=
  fun _ _ h => of_word (Option.some.inj h) (packM_op ..) (by decide)
theorem fifoPop (x0 x1 x2 x3) : Statement (.fifoPop x0 x1 x2 x3) :=
  fun _ _ h => of_word (Option.some.inj h) (packM_op ..) (by decide)
theorem lbind (x0) : Statement (.lbind x0) := fun _ _ h => of_word (Option.some.inj h) (packV_op ..) (by decide)
theorem lfree : Statement (.lfree) := fun _ _ h => of_word (Option.some.inj h) (packV_op ..) (by decide)
theorem ladd (x0 x1 x2 x3) : Statement (.ladd x0 x1 x2 x3) :=
  fun _ _ h => of_word (Option.some.inj h) (packV_op ..) (by decide)
theorem lsub (x0 x1 x2 x3) : Statement (.lsub x0 x1 x2 x3) :=
  fun _ _ h => of_word (Option.some.inj h) (packV_op ..) (by decide)
theorem lneg (x0 x1) : Statement (.lneg x0 x1) := fun _ _ h => of_word (Option.some.inj h) (packV_op ..) (by decide)
theorem lshl (x0 x1 x2) : Statement (.lshl x0 x1 x2) :=
  fun _ _ h => of_word (Option.some.inj h) (packV_op ..) (by decide)
theorem lshr (x0 x1 x2 x3) : Statement (.lshr x0 x1 x2 x3) :=
  fun _ _ h => of_word (Option.some.inj h) (packV_op ..) (by decide)
theorem lmulw (x0 x1 x2 x3) : Statement (.lmulw x0 x1 x2 x3) :=
  fun _ _ h => of_word (Option.some.inj h) (packV_op ..) (by decide)
theorem lcmp (x0 x1 x2 x3 x4) : Statement (.lcmp x0 x1 x2 x3 x4) :=
  fun _ _ h => of_word (Option.some.inj h) (packV_op ..) (by decide)
theorem lcarry (x0 x1) : Statement (.lcarry x0 x1) :=
  fun _ _ h => of_word (Option.some.inj h) (packV_op ..) (by decide)
theorem trap (x0) : Statement (.trap x0) := fun _ _ h => of_word (Option.some.inj h) (packVL_op ..) (by decide)
theorem brk (x0) : Statement (.brk x0) := fun _ _ h => of_word (Option.some.inj h) (packVL_op ..) (by decide)
theorem launch (x0 x1 x2 x3) : Statement (.launch x0 x1 x2 x3) :=
  fun _ _ h => of_word (Option.some.inj h) (packVF_op ..) (by decide)
theorem perf (x0 x1 x2 x3) : Statement (.perf x0 x1 x2 x3) :=
  fun _ _ h => of_word (Option.some.inj h) (packV_op ..) (by decide)
theorem icinv (x0 x1 x2 x3) : Statement (.icinv x0 x1 x2 x3) :=
  fun _ _ h => of_word (Option.some.inj h) (packVF_op ..) (by decide)
theorem clk (x0) : Statement (.clk x0) := fun _ _ h => of_word (Option.some.inj h) (packV_op ..) (by decide)
theorem wfi : Statement (.wfi) := fun _ _ h => of_word (Option.some.inj h) (packV_op ..) (by decide)
theorem iret : Statement (.iret) := fun _ _ h => of_word (Option.some.inj h) (packV_op ..) (by decide)
theorem mmld (x0 x1 x2 x3) : Statement (.mmld x0 x1 x2 x3) :=
  fun _ _ h => of_word (Option.some.inj h) (packM_op ..) (by decide)
theorem mmst (x0 x1 x2 x3) : Statement (.mmst x0 x1 x2 x3) :=
  fun _ _ h => of_word (Option.some.inj h) (packM_op ..) (by decide)
theorem turn (x0 x1) : Statement (.turn x0 x1) := fun _ _ h => nomatch h
theorem loadLand (x0 x1 x2) : Statement (.loadLand x0 x1 x2) := fun _ _ h => nomatch h
theorem frdoorRetry (x0) : Statement (.frdoorRetry x0) := fun _ _ h => nomatch h
theorem frdoorKill (x0) : Statement (.frdoorKill x0) := fun _ _ h => nomatch h
theorem operandLogReplay (x0 x1) : Statement (.operandLogReplay x0 x1) := fun _ _ h => nomatch h
theorem parkWake (x0 x1 x2) : Statement (.parkWake x0 x1 x2) := fun _ _ h => nomatch h
theorem reformFiling (x0 x1 x2) : Statement (.reformFiling x0 x1 x2) := fun _ _ h => nomatch h
theorem binReleaseFull (x0 x1) : Statement (.binReleaseFull x0 x1) := fun _ _ h => nomatch h
theorem binAgeExpire (x0 x1) : Statement (.binAgeExpire x0 x1) := fun _ _ h => nomatch h
theorem mmaCapture (x0 x1 x2) : Statement (.mmaCapture x0 x1 x2) := fun _ _ h => nomatch h
theorem mmaComplete (x0 x1 x2) : Statement (.mmaComplete x0 x1 x2) := fun _ _ h => nomatch h
theorem mxaccBlock (x0 x1 x2) : Statement (.mxaccBlock x0 x1 x2) := fun _ _ h => nomatch h
theorem commandSignal (x0 x1) : Statement (.commandSignal x0 x1) := fun _ _ h => nomatch h
theorem segmentReplay (x0 x1) : Statement (.segmentReplay x0 x1) := fun _ _ h => nomatch h
theorem collComplete (x0 x1 x2) : Statement (.collComplete x0 x1 x2) := fun _ _ h => nomatch h
theorem collTimeout (x0 x1) : Statement (.collTimeout x0 x1) := fun _ _ h => nomatch h
theorem phaseCommit (x0) : Statement (.phaseCommit x0) := fun _ _ h => nomatch h
theorem phaseRestart (x0) : Statement (.phaseRestart x0) := fun _ _ h => nomatch h
theorem teamExit (x0) : Statement (.teamExit x0) := fun _ _ h => nomatch h
theorem push (x0 x1) : Statement (.push x0 x1) := fun _ _ h => nomatch h
theorem snapshot (x0) : Statement (.snapshot x0) := fun _ _ h => nomatch h
theorem startConditionPoll (x0) : Statement (.startConditionPoll x0) := fun _ _ h => nomatch h
theorem dispatch : Statement (.dispatch) := fun _ _ h => nomatch h
theorem admission (x0) : Statement (.admission x0) := fun _ _ h => nomatch h
theorem bankDrain (x0 x1) : Statement (.bankDrain x0 x1) := fun _ _ h => nomatch h
theorem rangeTranslation (x0) : Statement (.rangeTranslation x0) := fun _ _ h => nomatch h
theorem teamStart (x0) : Statement (.teamStart x0) := fun _ _ h => nomatch h
theorem prioPreempt (x0) : Statement (.prioPreempt x0) := fun _ _ h => nomatch h
theorem preempt (x0 x1 x2) : Statement (.preempt x0 x1 x2) := fun _ _ h => nomatch h
theorem preemptSave (x0) : Statement (.preemptSave x0) := fun _ _ h => nomatch h
theorem release (x0 x1) : Statement (.release x0 x1) := fun _ _ h => nomatch h
theorem kill (x0) : Statement (.kill x0) := fun _ _ h => nomatch h
theorem regdataWrite (x0 x1 x2) : Statement (.regdataWrite x0 x1 x2) := fun _ _ h => nomatch h
theorem cmdResume (x0 x1) : Statement (.cmdResume x0 x1) := fun _ _ h => nomatch h
theorem cmdKillTeam (x0 x1) : Statement (.cmdKillTeam x0 x1) := fun _ _ h => nomatch h
theorem cmdKillGrid (x0 x1) : Statement (.cmdKillGrid x0 x1) := fun _ _ h => nomatch h
theorem registerWrite (x0 x1 x2 x3) : Statement (.registerWrite x0 x1 x2 x3) := fun _ _ h => nomatch h
theorem shepherdReading (x0) : Statement (.shepherdReading x0) := fun _ _ h => nomatch h
theorem migrationEnd (x0) : Statement (.migrationEnd x0) := fun _ _ h => nomatch h
theorem budgetPeriod (x0 x1) : Statement (.budgetPeriod x0 x1) := fun _ _ h => nomatch h
theorem hopBegin (x0 x1) : Statement (.hopBegin x0 x1) := fun _ _ h => nomatch h
theorem hopEnd (x0 x1) : Statement (.hopEnd x0 x1) := fun _ _ h => nomatch h
theorem droopStretch (x0) : Statement (.droopStretch x0) := fun _ _ h => nomatch h
theorem stretchEnd (x0) : Statement (.stretchEnd x0) := fun _ _ h => nomatch h
theorem hopRetry (x0 x1) : Statement (.hopRetry x0 x1) := fun _ _ h => nomatch h
theorem leashTrigger (x0 x1 x2) : Statement (.leashTrigger x0 x1 x2) := fun _ _ h => nomatch h
theorem leashStep (x0 x1) : Statement (.leashStep x0 x1) := fun _ _ h => nomatch h
theorem scanVisit (x0) : Statement (.scanVisit x0) := fun _ _ h => nomatch h
theorem scanPreemptWithdraw (x0) : Statement (.scanPreemptWithdraw x0) := fun _ _ h => nomatch h
theorem scanComplete (x0 x1) : Statement (.scanComplete x0 x1) := fun _ _ h => nomatch h
theorem packKill (x0 x1) : Statement (.packKill x0 x1) := fun _ _ h => nomatch h
theorem eccEvent (x0 x1 x2) : Statement (.eccEvent x0 x1 x2) := fun _ _ h => nomatch h
theorem scrub (x0 x1 x2) : Statement (.scrub x0 x1 x2) := fun _ _ h => nomatch h
theorem flowChange (x0 x1) : Statement (.flowChange x0 x1) := fun _ _ h => nomatch h
theorem flowLossBudgetCut : Statement (.flowLossBudgetCut) := fun _ _ h => nomatch h
theorem coolantShutdown : Statement (.coolantShutdown) := fun _ _ h => nomatch h
theorem coolantRecovery : Statement (.coolantRecovery) := fun _ _ h => nomatch h
theorem coldReset : Statement (.coldReset) := fun _ _ h => nomatch h
theorem computeRelease : Statement (.computeRelease) := fun _ _ h => nomatch h
theorem warmReset : Statement (.warmReset) := fun _ _ h => nomatch h
theorem pcieHotReset : Statement (.pcieHotReset) := fun _ _ h => nomatch h
theorem warmrst (x0) : Statement (.warmrst x0) := fun _ _ h => nomatch h
theorem lockupReset : Statement (.lockupReset) := fun _ _ h => nomatch h
theorem interruptEntry : Statement (.interruptEntry) := fun _ _ h => nomatch h
theorem ktimerMatch : Statement (.ktimerMatch) := fun _ _ h => nomatch h
theorem logcommit : Statement (.logcommit) := fun _ _ h => nomatch h
theorem sctlall (x0 x1) : Statement (.sctlall x0 x1) := fun _ _ h => nomatch h
theorem enloRead (x0) : Statement (.enloRead x0) := fun _ _ h => nomatch h
theorem upcmdVerify : Statement (.upcmdVerify) := fun _ _ h => nomatch h
theorem upcmdAttest : Statement (.upcmdAttest) := fun _ _ h => nomatch h
theorem updateDone : Statement (.updateDone) := fun _ _ h => nomatch h
theorem retrieverSegment (x0 x1) : Statement (.retrieverSegment x0 x1) := fun _ _ h => nomatch h
theorem scanMoveTimeout (x0 x1) : Statement (.scanMoveTimeout x0 x1) := fun _ _ h => nomatch h

end WordOpcode
end Sys2Proof.Laws
end

