-- ==== Sys2Proof/Laws/Regs.lean ====
section
/-! SUPPORT. Laws of the register operations: what a read gives after a write, a last use or a predicate write, and what
each leaves alone. -/
namespace Sys2Proof.Machine

/-! ## Lanes -/

theorem mapLanes_getD (f : Nat → Lane → Lane) (xs : List Lane) : ∀ n k : Nat,
    (mapLanes f n xs).getD k Lane.empty = if k < xs.length then f (n + k) (xs.getD k Lane.empty) else Lane.empty := by
  induction xs with
  | nil => intro n k; simp [mapLanes]
  | cons a r ih =>
    intro n k
    cases k with
    | zero => simp [mapLanes]
    | succ k =>
      have h := ih (n + 1) k
      rw [show n + 1 + k = n + (k + 1) by omega] at h
      simpa [mapLanes] using h

@[simp] theorem mapLanes_length (f : Nat → Lane → Lane) (xs : List Lane) : ∀ n : Nat, (mapLanes f n xs).length = xs.length := by
  induction xs with
  | nil => intro n; rfl
  | cons a r ih => intro n; simp [mapLanes, ih]

/-- A lane the group does not have stays empty. -/
theorem Group.lane_modLane (g : Group) (l k : Nat) (f : Lane → Lane) :
    (g.modLane l f).lane k = if k = l ∧ k < g.lanes.length then f (g.lane k) else g.lane k := by
  simp only [Group.lane, Group.modLane, modifyAt, List.getD_eq_getElem?_getD, List.getElem?_modify]
  by_cases hk : k < g.lanes.length
  · by_cases h : l = k
    · simp [hk, h]
    · simp [hk, h, Ne.symm h]
  · simp [hk]

theorem Group.lane_modLanes (g : Group) (m : Mask) (f : Lane → Lane) (k : Nat) :
    (g.modLanes m f).lane k = if m.getLsbD k = true ∧ k < g.lanes.length then f (g.lane k) else g.lane k := by
  simp only [Group.lane, Group.modLanes, mapLanes_getD, Nat.zero_add]
  by_cases hk : k < g.lanes.length
  · by_cases h : m.getLsbD k = true <;> simp [hk, h]
  · simp [hk]

/-! ## Noting that a name changes -/

@[simp] theorem Group.touchV_lanes (g : Group) (n : Nat) : (g.touchV n).lanes = g.lanes := by
  unfold Group.touchV; split <;> rfl

@[simp] theorem Group.touchV_lane (g : Group) (n k : Nat) : (g.touchV n).lane k = g.lane k := by simp [Group.lane]

@[simp] theorem Group.touchV_sregs (g : Group) (n : Nat) : (g.touchV n).sregs = g.sregs := by
  unfold Group.touchV; split <;> rfl

@[simp] theorem Group.touchV_preds (g : Group) (n : Nat) : (g.touchV n).preds = g.preds := by
  unfold Group.touchV; split <;> rfl

@[simp] theorem Group.touchS_lanes (g : Group) (n : Nat) : (g.touchS n).lanes = g.lanes := by
  unfold Group.touchS; split <;> rfl

@[simp] theorem Group.touchS_sregs (g : Group) (n : Nat) : (g.touchS n).sregs = g.sregs := by
  unfold Group.touchS; split <;> rfl

@[simp] theorem Group.touchS_preds (g : Group) (n : Nat) : (g.touchS n).preds = g.preds := by
  unfold Group.touchS; split <;> rfl

/-! ## Vector registers -/

theorem Group.vReg_setV (g : Group) (l n k m : Nat) (x : Word) (b : Bool) :
    (g.setV l n x b).vReg k m = if k = l ∧ m = n ∧ k < g.lanes.length then some ⟨x, b⟩ else g.vReg k m := by
  simp only [Group.vReg, Group.setV, Group.lane_modLane, Group.touchV_lanes, Group.touchV_lane]
  split
  · next h =>
    obtain ⟨rfl, hl⟩ := h
    by_cases hm : m = n <;> simp [AMap.get?_set, hm, hl]
  · next h =>
    rw [if_neg]
    omega

/-- A write of the lanes of a mask makes those lanes live (R35). -/
theorem Group.vReg_setLanes (g : Group) (w : Mask) (n : Nat) (f : Nat → Word) (k m : Nat) :
    (g.setLanes w n f).vReg k m =
      if w.getLsbD k = true ∧ m = n ∧ k < g.lanes.length then some ⟨f k, false⟩ else g.vReg k m := by
  simp only [Group.vReg, Group.setLanes, Group.lane, Group.touchV_lanes, mapLanes_getD, Nat.zero_add]
  by_cases hk : k < g.lanes.length
  · by_cases h : w.getLsbD k = true
    · simp only [hk, h, if_true, AMap.get?_set, true_and, and_true]
    · simp [hk, h]
  · simp [hk]

/-- Whether or not a last use frees the name, the lanes are those whose live bits it clears. -/
theorem Group.freeV_lanes (g : Group) (w : Mask) (n : Nat) :
    (g.freeV w n).lanes = (g.modLanes w (fun y => { y with regs := AMap.erase y.regs n })).lanes := by
  unfold Group.freeV
  dsimp only
  split
  · rfl
  · exact Group.touchV_lanes ..

/-- A last use clears the live bits of the lanes (R35). -/
theorem Group.vReg_freeV (g : Group) (w : Mask) (n k m : Nat) :
    (g.freeV w n).vReg k m = if w.getLsbD k = true ∧ m = n ∧ k < g.lanes.length then none else g.vReg k m := by
  have hl (j : Nat) : (g.freeV w n).lane j = (g.modLanes w (fun y => { y with regs := AMap.erase y.regs n })).lane j := by
    simp only [Group.lane, Group.freeV_lanes]
  simp only [Group.vReg, hl, Group.lane_modLanes]
  split
  · next h =>
    by_cases hm : m = n
    · subst hm; rw [if_pos ⟨h.1, rfl, h.2⟩]; exact AMap.get?_erase_self ..
    · rw [if_neg (fun h' => hm h'.2.1)]; exact AMap.get?_erase_ne _ hm
  · next h => rw [if_neg (fun h' => h ⟨h'.1, h'.2.2⟩)]

@[simp] theorem Group.setV_sregs (g : Group) (l n : Nat) (x : Word) (b : Bool) : (g.setV l n x b).sregs = g.sregs :=
  Group.touchV_sregs g n

@[simp] theorem Group.setLanes_sregs (g : Group) (w : Mask) (n : Nat) (f : Nat → Word) : (g.setLanes w n f).sregs = g.sregs :=
  Group.touchV_sregs g n

@[simp] theorem Group.freeV_sregs (g : Group) (w : Mask) (n : Nat) : (g.freeV w n).sregs = g.sregs := by
  unfold Group.freeV
  dsimp only
  split
  · rfl
  · exact Group.touchV_sregs ..

/-! ## Uniform registers -/

theorem Group.sregs_setS (g : Group) (n k : Nat) (x : Word) (b : Bool) :
    AMap.get? (g.setS n x b).sregs k = if k = n then some ⟨x, b⟩ else AMap.get? g.sregs k := by
  simp [Group.setS, AMap.get?_set]

theorem Group.sregs_setS64 (g : Group) (n k : Nat) (x : DWord) :
    AMap.get? (g.setS64 n x).sregs k =
      if k = n + 1 then some ⟨x.extractLsb' 32 32, false⟩ else if k = n then some ⟨x.extractLsb' 0 32, false⟩
      else AMap.get? g.sregs k := by
  simp [Group.setS64, Group.sregs_setS]

/-- The Kennel core's registers are always bound (R382). -/
theorem Group.sregs_freeS (g : Group) (n k : Nat) :
    AMap.get? (g.freeS n).sregs k = if g.kennel = false ∧ k = n then none else AMap.get? g.sregs k := by
  unfold Group.freeS
  cases h : g.kennel with
  | true => simp
  | false =>
    by_cases hk : k = n
    · subst hk; simp [AMap.get?_erase_self]
    · simp [hk, AMap.get?_erase_ne _ hk]

@[simp] theorem Group.setS_vReg (g : Group) (n : Nat) (x : Word) (b : Bool) (k m : Nat) :
    (g.setS n x b).vReg k m = g.vReg k m := by simp [Group.vReg, Group.lane, Group.setS]

@[simp] theorem Group.freeS_vReg (g : Group) (n k m : Nat) : (g.freeS n).vReg k m = g.vReg k m := by
  unfold Group.freeS
  split <;> simp [Group.vReg, Group.lane]

/-! ## Predicates -/

/-- p7 reads 1 in every lane and a write to it is discarded (Table 3-8). -/
theorem Group.predMask_setPred (g : Group) (i k : Nat) (m x : Mask) :
    (g.setPred i m x).predMask k =
      if k = i ∧ k ≠ 7 ∧ k < g.preds.length then (g.predMask k &&& ~~~m) ||| (x &&& m) else g.predMask k := by
  unfold Group.setPred Group.predMask
  by_cases hi : i = 7
  · subst hi
    by_cases hk : k = 7 <;> simp [hk]
  · rw [if_neg hi]
    by_cases hk : k = 7
    · simp [hk]
    · simp only [hk, if_false, modifyAt, List.getD_eq_getElem?_getD, List.getElem?_modify]
      by_cases hl : k < g.preds.length
      · by_cases h : i = k
        · subst h; simp [hl, hk]
        · simp [h, Ne.symm h]
      · simp [hl]

@[simp] theorem Group.setPred_lanes (g : Group) (i : Nat) (m x : Mask) : (g.setPred i m x).lanes = g.lanes := by
  unfold Group.setPred; split <;> rfl

@[simp] theorem Group.setPred_sregs (g : Group) (i : Nat) (m x : Mask) : (g.setPred i m x).sregs = g.sregs := by
  unfold Group.setPred; split <;> rfl

end Sys2Proof.Machine
end

