-- ==== Sys2Proof/Laws/Scratch.lean ====
section
/-! SUPPORT. The scratchpads: what each operation over them leaves, and that every one keeps their canonical form. -/
namespace Sys2Proof.Machine

@[simp] theorem Team.spadWrite_scratch (tm : Team) (o : Nat) (b : List Byte) (bad : Bool) :
    (tm.spadWrite o b bad).scratch = Memory.writeN tm.scratch o b := rfl

@[simp] theorem Team.spadHeal_scratch (tm : Team) (ws : List (Nat × Nat)) : (tm.spadHeal ws).scratch = tm.scratch := rfl

@[simp] theorem Team.copyBlocks_scratch (tm : Team) (nscr o n : Nat) : (tm.copyBlocks nscr o n).scratch = tm.scratch := by
  unfold Team.copyBlocks
  repeat' split
  all_goals rfl

theorem Memory.wf_writeBlocks (bs : List (Nat × List Byte)) : ∀ m : Memory, Memory.wf m = true →
    Memory.wf (bs.foldl (fun m p => Memory.writeN m (2048 * p.1) p.2) m) = true := by
  induction bs with
  | nil => intro m h; exact h
  | cons b r ih => intro m h; exact ih _ (Memory.wf_writeN _ _ _ h)

theorem Team.restoreMemory_wf (tm : Team) (k : Checkpoint) (h : Memory.wf tm.scratch = true) :
    Memory.wf (tm.restoreMemory k).scratch = true := Memory.wf_writeBlocks k.blocks _ h

theorem State.scratchWf_reset : State.reset.scratchWf := by intro n tm h; simp [State.reset, State.team?, AMap.get?] at h

theorem State.scratchWf_modTeam (s : State) (t : Nat) (f : Team → Team) (hs : s.scratchWf)
    (hf : ∀ x : Team, Memory.wf x.scratch = true → Memory.wf (f x).scratch = true) : (s.modTeam t f).scratchWf := by
  intro n tm h
  have hg : AMap.get? (s.modTeam t f).teams n = some tm := h
  simp only [State.modTeam, AMap.get?_update] at hg
  split at hg
  · next e =>
    subst e
    obtain ⟨x, hx, rfl⟩ := Option.map_eq_some_iff.mp hg
    exact hf x (hs _ x hx)
  · exact hs n tm hg

theorem State.scratchWf_spadStore (s : State) (t o : Nat) (b : List Byte) (hs : s.scratchWf) :
    (s.spadStore t o b).scratchWf :=
  State.scratchWf_modTeam s t _ hs (fun x h => by simpa using Memory.wf_writeN _ _ _ h)

theorem State.scratchWf_spadPut (s : State) (t u o : Nat) (b : List Byte) (hs : s.scratchWf) :
    (s.spadPut t u o b).scratchWf := by
  unfold State.spadPut
  split
  · exact State.scratchWf_spadStore s u o b hs
  · exact State.scratchWf_modTeam s u _ hs (fun x h => Memory.wf_writeN _ _ _ h)

/-! ## A capture's words -/

/-- What a capture has of each word once it has read `ws`: those as the scratchpad stands, the others as before. -/
theorem Op.reads_early (tm : Team) (ws : List Nat) : ∀ (o : Op) (w : Nat), AMap.get? (o.reads tm ws).early w =
    if w ∈ ws then some (BitVec.ofNat 32 (Memory.readLE tm.scratch (4 * w) 4)) else AMap.get? o.early w := by
  induction ws with
  | nil => intro o w; rfl
  | cons a r ih =>
    intro o w
    have h := ih { o with early := AMap.set o.early a (BitVec.ofNat 32 (Memory.readLE tm.scratch (4 * a) 4)) } w
    simp only [Op.reads, List.foldl_cons] at h ⊢
    rw [h, AMap.get?_set]
    by_cases hr : w ∈ r <;> by_cases ha : w = a <;> simp [hr, ha]

/-- A capture touches an error where one of the words it reads does. -/
theorem Op.reads_bad (tm : Team) (ws : List Nat) (o : Op) :
    (o.reads tm ws).earlyBad = true ↔ o.earlyBad = true ∨ ∃ w ∈ ws, tm.spadBad (4 * w) 4 = true := by
  simp [Op.reads]

end Sys2Proof.Machine
end

