-- ==== Sys2Proof/Laws/Step.lean ====
section
/-! SUPPORT. What a step can do, said once: every way an instruction can end at issue, and every way a step can go. A prover
cites these and unfolds neither `issue` nor `step`. -/
namespace Sys2Proof.Machine

/-! ## The end of an instruction -/

/-- An instruction that reaches its end always gives a next state. -/
theorem finish_next (c : Ctx) (s : State) (r : Res) : ∃ t, c.finish s r = .next t := by
  cases r <;> simp only [Ctx.finish] <;> first | exact ⟨_, rfl⟩ | (split <;> exact ⟨_, rfl⟩)

/-- An effect that fits completes; one that does not raises the cause that settling names, or waits, and nothing of it
stands. -/
theorem finish_done_cases (c : Ctx) (s s' : State) :
    (∃ s2, c.settle s' = .ok s2 ∧ c.finish s (.done s') = .next (c.next (c.advance s2))) ∨
    (∃ e, c.settle s' = .error e ∧ c.finish s (.done s') = .next (c.unsettled s e)) := by
  cases h : c.settle s' with
  | ok s2 => exact .inl ⟨s2, rfl, by simp [Ctx.finish, h]⟩
  | error e => exact .inr ⟨e, rfl, by simp [Ctx.finish, h]⟩

/-- What settling can come to where it does not succeed: REGBUDGET, CKPTFULL, or a wait for the budget of copies (R37, R234,
R323). -/
theorem settle_error {c : Ctx} {s : State} {e : Option Cause} (h : c.settle s = .error e) :
    e = some .regBudget ∨ e = some .ckptFull ∨ e = none := by
  simp only [Ctx.settle] at h
  split at h
  · cases h; exact .inl rfl
  · split at h
    · cases h
    · split at h
      · split at h
        · cases h
        · split at h
          · cases h; exact .inr (.inl rfl)
          · split at h
            · cases h
            · cases h; exact .inr (.inr rfl)
      · cases h

/-! ## Issue -/

/-- Every way an instruction can go at issue, in the order of the checks. -/
theorem issue_cases (sp : Spec) (body : Ctx → State → Res) (s : State) :
    (s.ctx? = none ∧ issue sp body s = .next s) ∨
    ∃ c0, s.ctx? = some c0 ∧
      let c : Ctx := { c0 with active := sp.guard.narrow c0.g c0.active }
      let us := sp.uses c0.whole s
      (issue sp body s = c0.finish s (.trap .illOp c0.active 0) ∧ sp.core.allows c0.g.kennel = false) ∨
      (issue sp body s = c0.finish s (.trap .illEnc c0.active 0) ∧ sp.encOk c0 = false) ∨
      (issue sp body s = c.finish s (.trap .illEnc c.active 0) ∧ c.active ≠ 0 ∧ (sp.flag.ok c.cl && sp.hdrOk c) = false) ∨
      (issue sp body s = c.finish s .hold ∧
        (c0.held s (sp.guard.uses c0.laneSet ++ us) = true ∨ c.active ≠ 0 ∧ sp.full c s = true)) ∨
      (issue sp body s = .next (c.next (c.collect s us)) ∧ c.short s us = true) ∨
      (issue sp body s = .next (c.next (c.advance (c.presents s us))) ∧ c.active = 0) ∨
      (issue sp body s = c.finish s .uce ∧ sp.consumes = true ∧ (sp.uses c s).any c.readsBad = true) ∨
      (issue sp body s = c.finish s (body c (c0.begun c s (sp.uses · s))) ∧
        c0.IssuesUnder c s sp.core sp.guard (sp.uses · s) sp.consumes) := by
  unfold issue
  cases hc : s.ctx? with
  | none => exact .inl ⟨rfl, rfl⟩
  | some c0 =>
    refine .inr ⟨c0, rfl, ?_⟩
    dsimp only
    split
    · next h => exact .inl ⟨rfl, by simpa using h⟩
    · next h1 =>
      split
      · next h => exact .inr (.inl ⟨rfl, by simpa using h⟩)
      · split
        · next h => simp only [Bool.and_eq_true, decide_eq_true_eq, Bool.not_eq_true'] at h
                    exact .inr (.inr (.inl ⟨rfl, h.1, h.2⟩))
        · split
          · next h => exact .inr (.inr (.inr (.inl ⟨rfl, .inl h⟩)))
          · next h4 =>
            split
            · next h => exact .inr (.inr (.inr (.inr (.inl ⟨rfl, h⟩))))
            · next h5 =>
              split
              · next h => exact .inr (.inr (.inr (.inr (.inr (.inl ⟨rfl, h⟩)))))
              · next h6 =>
                split
                · next h => exact .inr (.inr (.inr (.inl ⟨rfl, .inr ⟨h6, h⟩⟩)))
                · split
                  · next h => simp only [Bool.and_eq_true] at h
                              exact .inr (.inr (.inr (.inr (.inr (.inr (.inl ⟨rfl, h⟩))))))
                  · next h8 =>
                    exact .inr (.inr (.inr (.inr (.inr (.inr (.inr ⟨rfl, hc, by simpa using h1, rfl, h6, by simpa using h4,
                      by simpa using h5, by simpa using h8⟩))))))

/-- An instruction at issue never faults and is never refused. -/
theorem issue_next (sp : Spec) (body : Ctx → State → Res) (s : State) : ∃ t, issue sp body s = .next t := by
  obtain ⟨-, h⟩ | ⟨c0, -, h⟩ := issue_cases sp body s
  · exact ⟨_, h⟩
  · obtain ⟨h, -⟩ | ⟨h, -⟩ | ⟨h, -⟩ | ⟨h, -⟩ | ⟨h, -⟩ | ⟨h, -⟩ | ⟨h, -⟩ | ⟨h, -⟩ := h <;> rw [h] <;>
      first | exact finish_next .. | exact ⟨_, rfl⟩

/-! ## The step -/

/-- Every way the slot of the agent in focus can go. -/
theorem runSlot_cases (s : State) :
    (∃ i, s.nextSlot = .instr i ∧ runSlot s = exec i s) ∨ (∃ i, s.nextSlot = .move i ∧ runSlot s = exec i s) ∨
    (∃ t, s.nextSlot = .bad t ∧ runSlot s = .next t) ∨ (∃ t, s.nextSlot = .go t ∧ runSlot s = .next t) := by
  unfold runSlot
  cases hn : s.nextSlot with
  | instr i => exact .inl ⟨i, rfl, rfl⟩
  | move i => exact .inr (.inl ⟨i, rfl, rfl⟩)
  | bad t => exact .inr (.inr (.inl ⟨t, rfl, rfl⟩))
  | go t => exact .inr (.inr (.inr ⟨t, rfl, rfl⟩))

/-- Every way a step can go: the second slot of a slice cycle, the first move of the agenda, or what the agent in focus does
next. -/
theorem stepCore_cases (s : State) :
    ((s.midCycle = true ∨ s.agenda = []) ∧ stepCore s = runSlot s) ∨
    (s.midCycle = false ∧
      ((∃ n r, s.agenda = .elapse n :: r ∧ stepCore s = .next (({ s with agenda := r } : State).tick n)) ∨
       (∃ i r, s.agenda = .event i :: r ∧ (isEvent i && i.wf) = true ∧ stepCore s = exec i { s with agenda := r }) ∨
       (∃ i r, s.agenda = .event i :: r ∧ (isEvent i && i.wf) = false ∧ stepCore s = .next { s with agenda := r }) ∨
       (∃ a r, s.agenda = .focus a :: r ∧ stepCore s = .next (({ s with agenda := r } : State).refocus a)) ∨
       (∃ t gi id ws r, s.agenda = .capture t gi id ws :: r ∧
         stepCore s = .next (({ s with agenda := r } : State).capture t gi id (some ws))) ∨
       (∃ n r, s.agenda = .conflict n :: r ∧ stepCore s = .next { s with agenda := r, conflict := some n }) ∨
       (∃ e r, s.agenda = .env e :: r ∧ stepCore s = .next (({ s with agenda := r } : State).input e)))) := by
  unfold stepCore
  cases hm : s.midCycle with
  | true => exact .inl ⟨.inl rfl, rfl⟩
  | false =>
    match h : s.agenda with
    | [] => exact .inl ⟨.inr rfl, rfl⟩
    | .elapse n :: r => exact .inr ⟨rfl, .inl ⟨n, r, rfl, rfl⟩⟩
    | .event i :: r =>
      cases hi : isEvent i && i.wf with
      | true => exact .inr ⟨rfl, .inr (.inl ⟨i, r, rfl, hi, by simp [hi]⟩)⟩
      | false => exact .inr ⟨rfl, .inr (.inr (.inl ⟨i, r, rfl, hi, by simp [hi]⟩))⟩
    | .focus a :: r => exact .inr ⟨rfl, .inr (.inr (.inr (.inl ⟨a, r, rfl, rfl⟩)))⟩
    | .capture t gi id ws :: r => exact .inr ⟨rfl, .inr (.inr (.inr (.inr (.inl ⟨t, gi, id, ws, r, rfl, rfl⟩))))⟩
    | .conflict n :: r => exact .inr ⟨rfl, .inr (.inr (.inr (.inr (.inr (.inl ⟨n, r, rfl, rfl⟩)))))⟩
    | .env e :: r => exact .inr ⟨rfl, .inr (.inr (.inr (.inr (.inr (.inr ⟨e, r, rfl, rfl⟩)))))⟩

/-- A step is `stepCore`, with the Kennel's timer looked at after a next state. -/
theorem step_next_iff (s t : State) : step s = .next t ↔ ∃ u, stepCore s = .next u ∧ t = u.timer s.clk := by
  unfold step
  cases h : stepCore s with
  | next u => simp [eq_comm]
  | fault f => simp
  | refused r => simp

theorem step_fault_iff (s : State) (f : Fault) : step s = .fault f ↔ stepCore s = .fault f := by
  unfold step
  cases h : stepCore s <;> simp

/-- The timer only sets a pending bit, and notes when. -/
theorem timer_frame (s : State) (n : Nat) :
    ∃ x y z, s.timer n = { s with k := { s.k with kipend := x, pendAt := y, pendNew := z } } := by
  unfold State.timer
  split
  · exact ⟨s.k.kipend, s.k.pendAt, s.k.pendNew, rfl⟩
  · split
    · exact ⟨_, _, _, rfl⟩
    · split
      · exact ⟨_, s.k.pendAt, s.k.pendNew, rfl⟩
      · exact ⟨s.k.kipend, s.k.pendAt, s.k.pendNew, rfl⟩

end Sys2Proof.Machine
end

