-- ==== Sys2Proof/Machine/AedudText.lean ====
section
/-! DEFINITION. The text of an Aedud listing (00 R14, 03 R79 to R81): lines, names and numbers, expressions, operands,
modifiers and guards. Nothing here says what an instruction does: a statement is read into a mnemonic, its suffixes and
its operands, which the forms of Sys2Proof/Machine/AedudForms.lean turn into an instruction. A statement that breaks a
rule reads as none. -/
namespace Sys2Proof.Machine.Aedud

/-- A word of text: a name or keyword, a word that begins with a digit, or a mark. -/
inductive Tok where
  | word (s : String)
  | num (s : String)
  | mark (c : Char)
  deriving DecidableEq, Repr

/-- A token, and whether blanks stand before it. -/
structure T where
  tok : Tok
  sp : Bool
  deriving DecidableEq, Repr

def isDigit (c : Char) : Bool := '0' ≤ c && c ≤ '9'

def isLetter (c : Char) : Bool := ('a' ≤ c && c ≤ 'z') || ('A' ≤ c && c ≤ 'Z')

/-- Characters of names and numbers; `%` begins a special operand. -/
def inWord (c : Char) : Bool := isLetter c || isDigit c || c = '_' || c = '.' || c = '%'

def isBlank (c : Char) : Bool := c = ' ' || c = '\t' || c = '\r'

/-- A word from its characters, the last first. -/
def wordTok (cs : List Char) : Tok :=
  match cs.reverse with
  | [] => .word ""
  | c :: r => if isDigit c then .num (String.ofList (c :: r)) else .word (String.ofList (c :: r))

/-- What the reader of characters holds: tokens read, the last first; the word being read; blanks before what follows. -/
structure Lex where
  out : List T := []
  cur : List Char := []
  sp : Bool := true

def Lex.flush (x : Lex) : Lex :=
  if x.cur.isEmpty then x else { out := ⟨wordTok x.cur, x.sp⟩ :: x.out, cur := [], sp := false }

def Lex.char (x : Lex) (c : Char) : Lex :=
  if inWord c then { x with cur := c :: x.cur }
  else if isBlank c then { x.flush with sp := true }
  else let y := x.flush; { out := ⟨.mark c, y.sp⟩ :: y.out, cur := [], sp := false }

/-- The tokens of a line, its comment left out (R14). -/
def tokens (cs : List Char) : List T := ((cs.takeWhile (· ≠ ';')).foldl Lex.char {}).flush.out.reverse

/-- The lines of a listing. -/
def linesOf (cs : List Char) : List (List Char) :=
  let (ls, last) := cs.foldl (fun (p : List (List Char) × List Char) c =>
    if c = '\n' then (p.2.reverse :: p.1, []) else (p.1, c :: p.2)) ([], [])
  (last.reverse :: ls).reverse

/-- Upper case: mnemonics and directives are case-insensitive (R14). -/
def upper (s : String) : String :=
  String.ofList (s.toList.map (fun c => if 'a' ≤ c ∧ c ≤ 'z' then Char.ofNat (c.toNat - 32) else c))

/-- The parts of a word between its dots. -/
def dotted (s : String) : List String :=
  let (ps, last) := s.toList.foldl (fun (p : List (List Char) × List Char) c =>
    if c = '.' then (p.2.reverse :: p.1, []) else (p.1, c :: p.2)) ([], [])
  (last.reverse :: ps).reverse.map String.ofList

/-! ## Numbers and names -/

/-- The value of a digit of base 2, 10 or 16. -/
def digit (b : Nat) (c : Char) : Option Nat :=
  let d := if isDigit c then some (c.toNat - 48)
    else if 'a' ≤ c ∧ c ≤ 'f' then some (c.toNat - 87) else if 'A' ≤ c ∧ c ≤ 'F' then some (c.toNat - 55) else none
  d.bind (fun x => if x < b then some x else none)

/-- The value of digits in base `b`; none where there is no digit. -/
def digits (b : Nat) (cs : List Char) : Option Nat :=
  if cs.isEmpty then none
  else cs.foldl (fun acc c => acc.bind (fun n => (digit b c).map (fun d => b * n + d))) (some 0)

/-- A number: decimal, 0x or 0b, underscores ignored (R2, R14). -/
def natOf (s : String) : Option Nat :=
  match s.toList.filter (· ≠ '_') with
  | '0' :: 'x' :: r => digits 16 r
  | '0' :: 'b' :: r => digits 2 r
  | cs => digits 10 cs

/-- A decimal with a point: its digits, and how many stand after the point. -/
def decimalOf (s : String) : Option (Nat × Nat) :=
  match dotted (String.ofList (s.toList.filter (· ≠ '_'))) with
  | [a, b] =>
    if a.isEmpty && b.isEmpty then none
    else (digits 10 ('0' :: a.toList ++ b.toList)).map (fun n => (n, b.length))
  | _ => none

/-- A number of the plain decimal form registers use: no leading zero. -/
def plainNat (cs : List Char) : Option Nat :=
  match cs with
  | '0' :: _ :: _ => none
  | _ => digits 10 cs

/-- Registers of each kind (R80). -/
def regCount (c : Char) : Nat :=
  if c = 'v' then 256 else if c = 's' then 384 else if c = 'p' then 8 else if c = 't' then 16 else if c = 'a' then 16
  else if c = 'f' then 12 else 0

/-- The register a name spells (R80). -/
def regOf (s : String) : Option (Char × Nat) :=
  match s.toList with
  | c :: r => (plainNat r).bind (fun n => if n < regCount c then some (c, n) else none)
  | [] => none

/-- Special operands in the order of their codes (Table 3-5). -/
def specials : List String :=
  ["%lane", "%tid", "%grp", "%team", "%grid", "%role", "%pack", "%slotw", "%grpw", "%phase", "%clk", "%clkh", "%ngrp",
    "%nteam", "%rgrp", "%rbase"]

def specialOf (s : String) : Option (BitVec 4) :=
  let i := specials.idxOf s
  if i < 16 then some (BitVec.ofNat 4 i) else none

/-- The FP keywords that are words, with their codes (R80, Table 3-6). -/
def fpWord (s : String) : Option (BitVec 4) :=
  if s = "ln2" then some 0xA else if s = "log2e" then some 0xB else if s = "inf" then some 0xF else none

/-- A label or symbol name (R81). -/
def nameOk (s : String) : Bool :=
  (match s.toList with
   | c :: r => (isLetter c || c = '_') && r.all (fun d => isLetter d || isDigit d || d = '_' || d = '.')
   | [] => false) &&
  (regOf s).isNone && (specialOf s).isNone && (fpWord s).isNone

/-- The FP code of the value `n` / 10ᵏ, negated or not (Table 3-6); −0 has none (R80). -/
def fpDecimal (neg : Bool) (n k : Nat) : Option (BitVec 4) :=
  let q := 4 * n
  let u := 10 ^ k
  if q = 0 then (if neg then none else some 0)
  else if q = 2 * u then some (if neg then 2 else 1)
  else if q = 4 * u then some (if neg then 4 else 3)
  else if q = 8 * u then some (if neg then 6 else 5)
  else if q = 16 * u then some (if neg then 8 else 7)
  else if q = u then some (if neg then 0xE else 0xD)
  else none

/-! ## Expressions (R81) -/

/-- Values of symbols and labels. -/
abbrev Env := String → Option Int

/-- Bits 31:0 and 63:32 of a value. -/
def lo32 (x : Int) : Int := x % 2 ^ 32
def hi32 (x : Int) : Int := x / 2 ^ 32 % 2 ^ 32

/-- In a list separated by blanks, a mark with blanks before it and none after begins the next item. -/
def joins (list : Bool) (t : T) (rest : List T) : Bool :=
  !(list && t.sp && (match rest with | u :: _ => !u.sp | [] => true))

mutual
/-- A sum of products (`lvl` 0), a product (1) or a primary (2). -/
def expr (env : Env) (list : Bool) : Nat → Nat → List T → Option (Int × List T)
  | 0, _, _ => none
  | n + 1, lvl, ts =>
    if lvl = 2 then
      match ts with
      | ⟨.num s, _⟩ :: r => (natOf s).map (fun x => ((x : Int), r))
      | ⟨.mark '-', _⟩ :: r => (expr env list n 2 r).map (fun p => (-p.1, p.2))
      | ⟨.mark '(', _⟩ :: r =>
        (expr env false n 0 r).bind (fun p => match p.2 with
          | ⟨.mark ')', _⟩ :: r2 => some (p.1, r2)
          | _ => none)
      | ⟨.word "lo", _⟩ :: ⟨.mark '(', _⟩ :: r =>
        (expr env false n 0 r).bind (fun p => match p.2 with
          | ⟨.mark ')', _⟩ :: r2 => some (lo32 p.1, r2)
          | _ => none)
      | ⟨.word "hi", _⟩ :: ⟨.mark '(', _⟩ :: r =>
        (expr env false n 0 r).bind (fun p => match p.2 with
          | ⟨.mark ')', _⟩ :: r2 => some (hi32 p.1, r2)
          | _ => none)
      | ⟨.word s, _⟩ :: r => (env s).map (fun x => (x, r))
      | _ => none
    else (expr env list n (lvl + 1) ts).bind (fun p => tail env list n lvl p.1 p.2)
/-- The operators that follow a first term. -/
def tail (env : Env) (list : Bool) : Nat → Nat → Int → List T → Option (Int × List T)
  | 0, _, _, _ => none
  | n + 1, lvl, a, ts =>
    match ts with
    | ⟨.mark c, sp⟩ :: r =>
      if !joins list ⟨.mark c, sp⟩ r then some (a, ts)
      else if lvl = 0 && c = '+' then (expr env list n 1 r).bind (fun p => tail env list n 0 (a + p.1) p.2)
      else if lvl = 0 && c = '-' then (expr env list n 1 r).bind (fun p => tail env list n 0 (a - p.1) p.2)
      else if lvl = 1 && c = '*' then (expr env list n 2 r).bind (fun p => tail env list n 1 (a * p.1) p.2)
      else some (a, ts)
    | _ => some (a, ts)
end

/-- An expression at the head of the tokens. -/
def exprOf (env : Env) (list : Bool) (ts : List T) : Option (Int × List T) := expr env list (4 * ts.length + 8) 0 ts

/-! ## Operands (R80) -/

/-- What an operand names. `name` is a bare name with its value where it is a symbol. -/
inductive Atom where
  | reg (k : Char) (n : Nat) (pair : Bool)
  | special (k : BitVec 4)
  | int (x : Int)
  | fp (k : BitVec 4)
  | bits (x : Int)
  | name (s : String) (x : Option Int)
  deriving DecidableEq, Repr

structure Opd where
  atom : Atom
  lu : Bool := false
  kp : Bool := false
  deriving DecidableEq, Repr

/-- A memory operand (its base, absent for `[x]`, and its offset) or any other operand. -/
inductive Arg where
  | val (o : Opd)
  | mem (base : Option Opd) (offs : Opd)
  deriving DecidableEq, Repr

/-- `!` and `^` after a register; both are an error. -/
def marked (a : Atom) (ts : List T) : Option (Opd × List T) :=
  match ts with
  | ⟨.mark '!', _⟩ :: ⟨.mark '^', _⟩ :: _ => none
  | ⟨.mark '^', _⟩ :: ⟨.mark '!', _⟩ :: _ => none
  | ⟨.mark '!', _⟩ :: r => some (⟨a, true, false⟩, r)
  | ⟨.mark '^', _⟩ :: r => some (⟨a, false, true⟩, r)
  | _ => some (⟨a, false, false⟩, ts)

/-- The next token opens a parenthesis. -/
def isOpen : List T → Bool
  | ⟨.mark '(', _⟩ :: _ => true
  | _ => false

/-- The next token continues an expression. -/
def isOperator : List T → Bool
  | ⟨.mark '+', _⟩ :: _ => true
  | ⟨.mark '-', _⟩ :: _ => true
  | ⟨.mark '*', _⟩ :: _ => true
  | _ => false

/-- An integer literal or expression. -/
def intOpd (env : Env) (ts : List T) : Option (Opd × List T) :=
  (exprOf env false ts).map (fun p => (⟨.int p.1, false, false⟩, p.2))

/-- One operand that is no memory operand. -/
def opd (env : Env) (ts : List T) : Option (Opd × List T) :=
  match ts with
  | ⟨.num "1", _⟩ :: ⟨.mark '/', _⟩ :: ⟨.word "pi", _⟩ :: r => some (⟨.fp 0x9, false, false⟩, r)
  | ⟨.num "1", _⟩ :: ⟨.mark '/', _⟩ :: ⟨.mark '(', _⟩ :: ⟨.num "2", _⟩ :: ⟨.mark '*', _⟩ :: ⟨.word "pi", _⟩ ::
      ⟨.mark ')', _⟩ :: r => some (⟨.fp 0xC, false, false⟩, r)
  | ⟨.word "bits", _⟩ :: ⟨.mark '(', _⟩ :: r =>
    (exprOf env false r).bind (fun p => match p.2 with
      | ⟨.mark ')', _⟩ :: r2 => some (⟨.bits p.1, false, false⟩, r2)
      | _ => none)
  | ⟨.mark '-', _⟩ :: ⟨.num s, _⟩ :: r =>
    match decimalOf s with
    | some (n, k) => (fpDecimal true n k).map (fun c => (⟨.fp c, false, false⟩, r))
    | none => intOpd env ts
  | ⟨.num s, _⟩ :: r =>
    match decimalOf s with
    | some (n, k) => (fpDecimal false n k).map (fun c => (⟨.fp c, false, false⟩, r))
    | none => intOpd env ts
  | ⟨.word s, _⟩ :: r =>
    match regOf s, specialOf s, fpWord s with
    | some (k, n), _, _ =>
      match r with
      | ⟨.mark ':', _⟩ :: ⟨.word s2, _⟩ :: r2 =>
        if regOf s2 = some (k, n + 1) ∧ n % 2 = 0 ∧ (k = 'v' ∨ k = 's') then marked (.reg k n true) r2 else none
      | _ => marked (.reg k n false) r
    | none, some k, _ => some (⟨.special k, false, false⟩, r)
    | none, none, some k => some (⟨.fp k, false, false⟩, r)
    | none, none, none =>
      if ((s = "lo" ∨ s = "hi") ∧ isOpen r) ∨ isOperator r then intOpd env ts else some (⟨.name s (env s), false, false⟩, r)
  | _ => intOpd env ts

/-- The offset of `[sB - k]`: a constant from 1 to 16. -/
def minusOffs (env : Env) (ts : List T) : Option (Opd × List T) :=
  (exprOf env false ts).bind (fun p =>
    if 1 ≤ p.1 ∧ p.1 ≤ 16 then some (⟨.int (-p.1), false, false⟩, p.2) else none)

/-- The base of a memory operand: a uniform register. -/
def isBase (o : Opd) : Bool :=
  match o.atom with
  | .reg 's' _ _ => true
  | _ => false

/-- A memory operand after its `[` (R80). The offset may be any source that Table 9-7 allows, a special operand or an FP constant
too, where R80 lists registers and integer constants (DESIGN CHOICE, log 118). -/
def memArg (env : Env) (ts : List T) : Option (Arg × List T) :=
  let shut (a : Arg) (r : List T) : Option (Arg × List T) :=
    match r with
    | ⟨.mark ']', _⟩ :: r2 => some (a, r2)
    | _ => none
  (opd env ts).bind (fun p =>
    if isBase p.1 then
      match p.2 with
      | ⟨.mark '+', _⟩ :: r => (opd env r).bind (fun q => shut (.mem (some p.1) q.1) q.2)
      | ⟨.mark '-', _⟩ :: r => (minusOffs env r).bind (fun q => shut (.mem (some p.1) q.1) q.2)
      | r => shut (.mem (some p.1) ⟨.int 0, false, false⟩) r
    else shut (.mem none p.1) p.2)

def arg (env : Env) (ts : List T) : Option (Arg × List T) :=
  match ts with
  | ⟨.mark '[', _⟩ :: r => memArg env r
  | _ => (opd env ts).map (fun p => (.val p.1, p.2))

/-- Operands separated by commas. -/
def args (env : Env) : Nat → List T → Option (List Arg × List T)
  | 0, _ => none
  | n + 1, ts =>
    (arg env ts).bind (fun p => match p.2 with
      | ⟨.mark ',', _⟩ :: r => (args env n r).map (fun q => (p.1 :: q.1, q.2))
      | r => some ([p.1], r))

/-! ## Statements (R79) -/

/-- A modifier: a bare keyword, or a keyword and its value. -/
structure Mod where
  key : String
  val : Option Opd
  deriving DecidableEq, Repr

/-- An instruction statement: the parts of its mnemonic, operands, modifiers and guard. -/
structure Stmt where
  parts : List String
  args : List Arg
  mods : List Mod
  guard : Option Guard
  deriving DecidableEq, Repr

/-- `if pN` or `ifnot pN`, N from 0 to 6. -/
def guardOf (ts : List T) : Option (Option Guard) :=
  match ts with
  | [] => some none
  | [⟨.word "if", _⟩, ⟨.word s, _⟩] =>
    match regOf s with
    | some ('p', n) => if n < 7 then some (some ⟨false, BitVec.ofNat 3 n⟩) else none
    | _ => none
  | [⟨.word "ifnot", _⟩, ⟨.word s, _⟩] =>
    match regOf s with
    | some ('p', n) => if n < 7 then some (some ⟨true, BitVec.ofNat 3 n⟩) else none
    | _ => none
  | _ => none

/-- Modifiers, then the guard. -/
def modsOf (env : Env) : Nat → List T → Option (List Mod × Option Guard)
  | 0, _ => none
  | n + 1, ts =>
    match ts with
    | [] => some ([], none)
    | ⟨.word "if", _⟩ :: _ => (guardOf ts).map (fun g => ([], g))
    | ⟨.word "ifnot", _⟩ :: _ => (guardOf ts).map (fun g => ([], g))
    | ⟨.word k, _⟩ :: ⟨.mark '=', _⟩ :: r =>
      (opd env r).bind (fun p => (modsOf env n p.2).map (fun q => (⟨k, some p.1⟩ :: q.1, q.2)))
    | ⟨.word k, _⟩ :: r => (modsOf env n r).map (fun q => (⟨k, none⟩ :: q.1, q.2))
    | _ => none

/-- What stands after the mnemonic of an instruction without operands: nothing, or a guard. Any other `if` or `ifnot` there is a
label's name (R81). -/
def startsMods (ts : List T) : Bool := (guardOf ts).isSome

/-- The statement of an instruction: its mnemonic and what follows. -/
def stmt (env : Env) (mnemonic : String) (ts : List T) : Option Stmt :=
  let n := ts.length + 1
  let ps := dotted (upper mnemonic)
  if startsMods ts then (modsOf env n ts).map (fun q => ⟨ps, [], q.1, q.2⟩)
  else (args env n ts).bind (fun p => (modsOf env n p.2).map (fun q => ⟨ps, p.1, q.1, q.2⟩))

/-- A source line: its label, and its first word and the rest. -/
structure Line where
  label : Option String
  head : Option String
  rest : List T
  deriving DecidableEq, Repr

/-- A line (R79, R14); none where it holds something else. -/
def line (cs : List Char) : Option Line :=
  let after (l : Option String) (ts : List T) : Option Line :=
    match ts with
    | [] => some ⟨l, none, []⟩
    | ⟨.word s, _⟩ :: r => some ⟨l, some s, r⟩
    | _ => none
  match tokens cs with
  | ⟨.word s, _⟩ :: ⟨.mark ':', _⟩ :: r => if nameOk s then after (some s) r else none
  | ts => after none ts

end Sys2Proof.Machine.Aedud
end

