-- ==== Sys2Proof/Machine/AedudForms.lean ====
section
/-! DEFINITION. The assembly form of each instruction (05 R115 and the chapter of each class): how a statement's suffixes,
operands and modifiers name the fields of `Instr`. A form that a chapter does not give, an operand out of its limits or a
suffix left out reads as none, which is an assembly error. -/
namespace Sys2Proof.Machine.Aedud

/-- An assembled instruction: the label it branches to, whose offset is filled in later, and the capture flag of an MMA. -/
structure AInstr where
  i : Instr
  label : Option String := none
  capf : Option Nat := none
  deriving DecidableEq, Repr

/-! ## Names of codes -/

/-- The value beside a name. -/
def named {α : Type} (xs : List (String × α)) (s : String) : Option α := (xs.find? (fun p => p.1 = s)).map (·.2)

def styOf : String → Option STy := named [("I32", .i32), ("N32", .n32)]

def ityOf : String → Option ITy :=
  named [("I32", .i32), ("N32", .n32), ("I16", .i16), ("N16", .n16), ("I8", .i8), ("N8", .n8), ("I4", .i4), ("N4", .n4)]

def ftyOf : String → Option FTy := named [("F32", .f32), ("F16", .f16), ("BF16", .bf16)]

/-- Table 4-1. -/
def fmtOf : String → Option Fmt :=
  named [("I8", .i8), ("N8", .n8), ("I16", .i16), ("N16", .n16), ("I32", .i32), ("N32", .n32), ("I4", .i4), ("N4", .n4),
    ("F32", .f32), ("F16", .f16), ("BF16", .bf16), ("E4M3", .e4m3), ("E5M2", .e5m2), ("E2M3", .e2m3), ("E3M2", .e3m2),
    ("E2M1", .e2m1), ("TER", .ter), ("MXE4M3", .mxe4m3), ("MXE5M2", .mxe5m2), ("MXE2M1", .mxe2m1)]

def mxOf : String → Option MxFmt := named [("MXE4M3", .e4m3), ("MXE5M2", .e5m2), ("MXE2M1", .e2m1)]

def condOf : String → Option Cond :=
  named [("EQ", .eq), ("NE", .ne), ("LT", .lt), ("LE", .le), ("GT", .gt), ("GE", .ge), ("ORD", .ord), ("UNO", .uno)]

/-- Table 5-6, with the synonyms. -/
def sizeOf : String → Option MSize :=
  named [("N8", .n8), ("I8", .i8), ("N16", .n16), ("I16", .i16), ("B32", .b32), ("I32", .b32), ("N32", .b32),
    ("F32", .b32), ("B64", .b64), ("I64", .b64), ("N64", .b64), ("B128", .b128)]

/-- A store's size: .I8 encodes as .N8 and .I16 as .N16 (R212). -/
def stSizeOf (s : String) : Option MSize :=
  (sizeOf s).map (fun z => match z with | .i8 => .n8 | .i16 => .n16 | x => x)

def scopeOf : String → Option Scope := named [("G", .g), ("T", .t), ("K", .k), ("D", .d), ("F", .f)]

def orderOf : String → Option Order := named [("RLX", .rlx), ("ACQ", .acq), ("REL", .rel), ("AR", .ar)]

/-- Table 5-7. -/
def atomOf (op ty : String) : Option AtomOp :=
  named [(("ADD", "I32"), AtomOp.add32), (("ADD", "N32"), .add32), (("ADD", "I64"), .add64), (("ADD", "N64"), .add64),
    (("ADD", "F32"), .addF), (("MIN", "I32"), .minS), (("MIN", "N32"), .minU), (("MAX", "I32"), .maxS),
    (("MAX", "N32"), .maxU), (("AND", "N32"), .and), (("OR", "N32"), .or), (("XOR", "N32"), .xor),
    (("EXCH", "B32"), .exch32), (("EXCH", "B64"), .exch64), (("CAS", "B32"), .cas32), (("CAS", "B64"), .cas64),
    (("INC", "N32"), .inc)] (op, ty)
where
  named {α : Type} (xs : List ((String × String) × α)) (k : String × String) : Option α :=
    (xs.find? (fun p => p.1 = k)).map (·.2)

/-- Table 7-6. -/
def redOf : List String → Option RedOp
  | ["ADD", "I32"] => some .addI
  | ["ADD", "N32"] => some .addI
  | ["ADD", "F32"] => some .addF
  | ["MIN", "I32"] => some .minI
  | ["MIN", "N32"] => some .minN
  | ["MAX", "I32"] => some .maxI
  | ["MAX", "N32"] => some .maxN
  | ["AND"] => some .and
  | ["OR"] => some .or
  | ["XOR"] => some .xor
  | ["MIN", "F32"] => some .minF
  | ["MAX", "F32"] => some .maxF
  | _ => none

def voteOf : String → Option VoteOp :=
  named [("ALL", .all), ("ANY", .any), ("UNI", .uni), ("BALLOT", .ballot), ("COUNT", .count)]

def shOf : String → Option ShMode := named [("IDX", .idx), ("UP", .up), ("DOWN", .down), ("XOR", .xor)]

def waitOf : String → Option WaitCc := named [("EQ", .eq), ("NE", .ne), ("GE", .ge), ("ANY", .any)]

/-- .B32 or .B64 (Table 6-5). -/
def w64Of : String → Option Bool := named [("B32", false), ("B64", true)]

/-- Values of `rnd=` (R182). -/
def rndOf : String → Option Rnd :=
  named [("rne", .rne), ("rtz", .rtz), ("rup", .rup), ("rdn", .rdn), ("rna", .rna), ("sr", .sr)]

/-- Status registers by target core (Tables 6-2 and 17-1). -/
def statOf (kennel : Bool) : String → Option Nat :=
  named (if kennel then
    [("KSTAT", 0), ("KCAUSE", 1), ("KEPC", 2), ("KBAD", 3), ("KVBASE", 4), ("KIEN", 5), ("KIPEND", 6), ("KTIMER", 7),
      ("CLKLO", 12), ("CLKHI", 13)]
  else
    [("SLOTW", 0), ("GRPW", 1), ("NGRP", 2), ("ROLE", 3), ("LIMBS", 4), ("LCARRY", 5), ("FPCTL", 6), ("FPFLAGS", 7),
      ("SVMASK", 8), ("RPLMASK", 9), ("TERNBAD", 10), ("PHASEID", 11), ("CLKLO", 12), ("CLKHI", 13), ("GSTAT", 14)])

/-- Performance counters (Table 15-10). -/
def perfOf : String → Option Nat :=
  named [("MIGCOUNT", 0), ("MIGCYCLES", 1), ("PREEMPTS", 2), ("RESTARTS", 3), ("COMMITS", 4), ("PFAULTS", 5),
    ("RANGEWAIT", 6), ("RESIDENT", 7), ("CLAUSES", 0x10), ("INSTRS", 0x11), ("PROMOTES", 0x12), ("GRANTHOLD", 0x13),
    ("MMAS", 0x20), ("HOPS", 0x21), ("STRETCHES", 0x22)]

/-! ## Operands as fields -/

/-- An inline integer (Table 3-4). -/
def intCode (x : Int) : Option Opnd :=
  if 0 ≤ x ∧ x ≤ 63 then some (.nat (BitVec.ofInt 6 x))
  else if -16 ≤ x ∧ x < 0 then some (.neg (BitVec.ofInt 4 x)) else none

/-- An integer literal in an operand read as floating point (R80). -/
def fpInt (x : Int) : Option Opnd :=
  if x < 0 then (fpDecimal true x.natAbs 0).map Opnd.fp else (fpDecimal false x.natAbs 0).map Opnd.fp

/-- A register of the operand codes; a pair is written where `w` is 2. -/
def regOpnd (k : Char) (n : Nat) (pair : Bool) (w : Nat) : Option Opnd :=
  if pair && w ≠ 2 then none
  else if k = 'v' then some (.v (BitVec.ofNat 8 n))
  else if k = 's' then some (.s (BitVec.ofNat 9 n))
  else if k = 'p' then some (.p (BitVec.ofNat 3 n)) else none

/-- A source of `w` registers, read as floating point or not. -/
def Opd.src (fl : Bool) (w : Nat) (o : Opd) : Option Src :=
  (match o.atom with
   | .reg k n pair => regOpnd k n pair w
   | .special k => some (.special k)
   | .int x => if fl then fpInt x else intCode x
   | .fp k => some (.fp k)
   | .bits x => intCode x
   | .name _ x => x.bind (fun y => if fl then fpInt y else intCode y)).map (fun p => ⟨p, o.lu, o.kp⟩)

/-- A source operand of `w` registers, read as floating point where `fl` is set. -/
def srcF (w : Nat) (fl : Bool) : Arg → Option Src
  | .val o => o.src fl w
  | .mem _ _ => none

def src (w : Nat) : Arg → Option Src := srcF w false

/-- A destination of `w` registers: no `!`, no `^`. -/
def dst (w : Nat) : Arg → Option Opnd
  | .val ⟨.reg k n pair, false, false⟩ => regOpnd k n pair w
  | _ => none

def dstS (w : Nat) (a : Arg) : Option (BitVec 9) :=
  match dst w a with
  | some (.s n) => some n
  | _ => none

def dstV (w : Nat) (a : Arg) : Option (BitVec 8) :=
  match dst w a with
  | some (.v n) => some n
  | _ => none

/-- A register of kind `k` that is no operand code. -/
def plainReg (k : Char) : Arg → Option Nat
  | .val ⟨.reg c n false, false, false⟩ => if c = k then some n else none
  | _ => none

/-- The value of an integer operand or modifier. -/
def Opd.int? (o : Opd) : Option Int :=
  if o.lu || o.kp then none
  else match o.atom with
  | .int x => some x
  | .name _ x => x
  | _ => none

def intIn (lo hi : Int) : Arg → Option Int
  | .val o => o.int?.bind (fun x => if lo ≤ x ∧ x ≤ hi then some x else none)
  | .mem _ _ => none

/-- The immediate of S.LI and V.LI (R127): a 32-bit pattern, or a 64-bit value that is a sign-extended 32-bit one. -/
def immOf (sx : Bool) (a : Arg) : Option Word :=
  (intIn (-2 ^ 63) (2 ^ 64 - 1) a).bind (fun x =>
    let y := BitVec.ofInt 32 x
    if sx then if (y.signExtend 64) = BitVec.ofInt 64 x then some y else none
    else if -2 ^ 31 ≤ x ∧ x < 2 ^ 32 then some y else none)

/-- A name as an operand. -/
def nameArg : Arg → Option String
  | .val ⟨.name s _, false, false⟩ => some s
  | _ => none

/-- A status register or counter: a number, or a name of the table. -/
def numbered (table : String → Option Nat) (a : Arg) : Option (BitVec 12) :=
  match (nameArg a).bind table with
  | some n => some (BitVec.ofNat 12 n)
  | none => (intIn 0 4095 a).map (BitVec.ofInt 12)

/-- A memory operand (R80); `wide` for a base that is a 64-bit pair. -/
def addr (wide : Bool) : Arg → Option MAddr
  | .mem (some b) o => (b.src false (if wide then 2 else 1)).bind (fun x => (o.src false 1).map (fun y => ⟨x, y⟩))
  | .mem none o => (o.src false 1).map (fun y => ⟨zeroSrc, y⟩)
  | .val _ => none

/-- The one operand in the brackets of FIFO.PUSH and FIFO.POP (R251). -/
def bankArg : Arg → Option Src
  | .mem (some b) ⟨.int 0, false, false⟩ => b.src false 1
  | .mem none o => o.src false 1
  | _ => none

/-! ## Modifiers -/

/-- Every modifier is one of these, and none stands twice. -/
def Stmt.only (s : Stmt) (ks : List String) : Option Unit :=
  if (s.mods.map Mod.key).all ks.contains && (s.mods.map Mod.key).Nodup then some () else none

/-- A bare keyword stands. -/
def Stmt.flag (s : Stmt) (k : String) : Option Bool :=
  match s.mods.find? (fun m => m.key = k) with
  | none => some false
  | some m => if m.val.isNone then some true else none

/-- The value of a keyword, with what it is where the keyword is absent. -/
def Stmt.val {α : Type} (s : Stmt) (k : String) (f : Opd → Option α) (none' : Option α) : Option α :=
  match s.mods.find? (fun m => m.key = k) with
  | none => none'
  | some m => m.val.bind f

def Stmt.num (s : Stmt) (k : String) (lo hi : Int) (dflt : Option Int) : Option Int :=
  s.val k (fun o => o.int?.bind (fun x => if lo ≤ x ∧ x ≤ hi then some x else none)) dflt

/-- The rounding modifier; `m` is what an omitted one selects. -/
def Stmt.rndOr (s : Stmt) (m : Rnd) : Option Rnd :=
  s.val "rnd" (fun o => match o with | ⟨.name n _, false, false⟩ => rndOf n | _ => none) (some m)

/-- On a float instruction an omitted rounding modifier selects the dynamic mode (R115). -/
def Stmt.rnd (s : Stmt) : Option Rnd := s.rndOr .dyn

/-- The policy register; 0x1FF without one (R207). -/
def Stmt.pol (s : Stmt) : Option (BitVec 9) :=
  s.val "pol" (fun o => dstS 1 (.val o)) (some 0x1FF)

def Stmt.guardNone (s : Stmt) : Option Unit := if s.guard.isNone then some () else none

def Stmt.g (s : Stmt) : Guard := s.guard.getD Guard.always

/-- An instruction that branches to no label. -/
def plain (i : Instr) : AInstr := { i }

/-! ## Uniform and control instructions (Tables 6-5 and 6-7) -/

/-- A uniform operation of two sources. -/
def s2op (s : Stmt) (f : BitVec 9 → Src → Src → Instr) : Option AInstr :=
  match s.args with
  | [d, a, b] => (dstS 1 d).bind fun d => (src 1 a).bind fun a => (src 1 b).map fun b => plain (f d a b)
  | _ => none

def s2op64 (s : Stmt) (f : BitVec 9 → Src → Src → Instr) : Option AInstr :=
  match s.args with
  | [d, a, b] => (dstS 2 d).bind fun d => (src 2 a).bind fun a => (src 2 b).map fun b => plain (f d a b)
  | _ => none

/-- Words of a register operand: 2 with .B64. -/
def wide (w : Bool) : Nat := if w then 2 else 1

/-- The uniform operations of two sources with a type (Table 6-6); SAT on the first two. -/
def uniOp (op : String) (t : STy) (sat : Bool) : Option (BitVec 9 → Src → Src → Instr) :=
  if sat then named [("ADD", Instr.sAdd t true), ("SUB", Instr.sSub t true)] op
  else named [("ADD", Instr.sAdd t false), ("SUB", Instr.sSub t false), ("MUL", Instr.sMul t), ("MULHI", Instr.sMulhi t),
    ("AND", Instr.sAnd t), ("OR", Instr.sOr t), ("XOR", Instr.sXor t), ("SHL", Instr.sShl t), ("SHR", Instr.sShr t),
    ("SRA", Instr.sSra t), ("MIN", Instr.sMin t), ("MAX", Instr.sMax t)] op

def formS (kennel : Bool) (s : Stmt) (op : String) (sfx : List String) : Option AInstr :=
  match op, sfx, s.args with
  | "MOV", [z], [d, a] => do
    s.only []; s.guardNone
    let w ← w64Of z
    pure (plain (.sMov w (← dstS (wide w) d) (← src (wide w) a)))
  | "LI", [z], [d, x] => do
    s.only []; s.guardNone
    let w ← w64Of z
    pure (plain (.sLi w (← dstS (wide w) d) (← immOf w x)))
  | "NOT", [t], [d, a] => do
    s.only []; s.guardNone
    pure (plain (.sNot (← styOf t) (← dstS 1 d) (← src 1 a)))
  | "ADD64", [], _ => do s.only []; s.guardNone; s2op64 s .sAdd64
  | "SUB64", [], _ => do s.only []; s.guardNone; s2op64 s .sSub64
  | "SHL64", [], _ => do s.only []; s.guardNone; s2op64 s .sShl64
  | "CMP", [c, t], [d, a, b] => do
    s.only []; s.guardNone
    pure (plain (.sCmp (← condOf c) (← styOf t) (← dst 1 d) (← src 1 a) (← src 1 b)))
  | "SEL", [z], [d, a, b, c] => do
    s.only []
    let w ← w64Of z
    pure (plain (.sSel s.g w (← dstS (wide w) d) (← src (wide w) a) (← src (wide w) b) (← src 1 c)))
  | "BFE", [t], [d, a, p, l] => do
    s.only []; s.guardNone
    pure (plain (.sBfe (← styOf t) (← dstS 1 d) (← src 1 a) (BitVec.ofInt 5 (← intIn 0 31 p))
      (BitVec.ofInt 6 (← intIn 1 32 l))))
  | "BFI", [t], [d, a, b, p, l] => do
    s.only []; s.guardNone
    pure (plain (.sBfi (← styOf t) (← dstS 1 d) (← src 1 a) (← src 1 b) (BitVec.ofInt 5 (← intIn 0 31 p))
      (BitVec.ofInt 6 (← intIn 1 32 l))))
  | "CLZ", [], [d, a] => do s.only []; s.guardNone; pure (plain (.sClz (← dstS 1 d) (← src 1 a)))
  | "POPC", [], [d, a] => do s.only []; s.guardNone; pure (plain (.sPopc (← dstS 1 d) (← src 1 a)))
  | "RSR", [z], [d, n] => do
    s.only []; s.guardNone
    let w ← w64Of z
    pure (plain (.sRsr w (← dstS (wide w) d) (← numbered (statOf kennel) n)))
  | "WSR", [z], [n, a] => do
    s.only []; s.guardNone
    let w ← w64Of z
    pure (plain (.sWsr w (← numbered (statOf kennel) n) (← src (wide w) a)))
  | "VGET", [z], [d, a, i] => do
    s.only []; s.guardNone
    let w ← w64Of z
    pure (plain (.sVget w (← dstS (wide w) d) (← src (wide w) a) (← src 1 i)))
  | _, [t], _ => do
    s.only ["sat"]; s.guardNone
    s2op s (← uniOp op (← styOf t) (← s.flag "sat"))
  | _, _, _ => none

def formControl (s : Stmt) (op : String) (sfx : List String) : Option AInstr :=
  match op, sfx, s.args with
  | "BR", [], [l] => do s.only []; pure { i := .br s.g none 0, label := some (← nameArg l) }
  | "BR", ["NZ"], [c, l] => do
    s.only []; pure { i := .br s.g (some (false, ← src 1 c)) 0, label := some (← nameArg l) }
  | "BR", ["Z"], [c, l] => do
    s.only []; pure { i := .br s.g (some (true, ← src 1 c)) 0, label := some (← nameArg l) }
  | "BRX", [], [x] => do s.only []; pure (plain (.brx s.g (← src 2 x)))
  | "CALL", [], [k, l] => do s.only []; pure { i := .call s.g (← dst 2 k) 0, label := some (← nameArg l) }
  | "RET", [], [x] => do s.only []; pure (plain (.ret s.g (← src 2 x)))
  | "REFORM", [], [] => do s.only []; s.guardNone; pure (plain (.reform none))
  | "REFORM", ["TGT"], [x] => do s.only []; s.guardNone; pure (plain (.reform (some (← src 2 x))))
  | "EXIT", [], [] => do s.only []; s.guardNone; pure (plain .exit)
  | "NOP", [], [] => do s.only []; s.guardNone; pure (plain .nop)
  | "YIELD", [], [] => do s.only []; s.guardNone; pure (plain .yield)
  | _, _, _ => none

/-! ## Vector instructions (chapters 7 and 8) -/

/-- The element operations of two sources (Table 7-3); SAT on the first two. -/
def vecOp (op : String) (t : ITy) (sat : Bool) : Option (BitVec 8 → Src → Src → Instr) :=
  if sat then named [("ADD", Instr.vAdd t true), ("SUB", Instr.vSub t true)] op
  else named [("ADD", Instr.vAdd t false), ("SUB", Instr.vSub t false), ("MUL", Instr.vMul t), ("MULHI", Instr.vMulhi t),
    ("AND", Instr.vAnd t), ("OR", Instr.vOr t), ("XOR", Instr.vXor t), ("SHL", Instr.vShl t), ("SHR", Instr.vShr t),
    ("SRA", Instr.vSra t), ("MIN", Instr.vMin t), ("MAX", Instr.vMax t)] op

/-- `seg=W`: a power of two from 2 to 64; 0 selects GRPW (R172, R173). -/
def Stmt.seg (s : Stmt) : Option (BitVec 3) :=
  s.val "seg" (fun o => o.int?.bind (fun x =>
    let i := [2, 4, 8, 16, 32, 64].idxOf x
    if i < 6 then some (BitVec.ofNat 3 (i + 1)) else none)) (some 0)

def formV (s : Stmt) (op : String) (sfx : List String) : Option AInstr :=
  match op, sfx, s.args with
  | "MOV", [z], [d, a] => do
    s.only []; s.guardNone
    let w ← w64Of z
    pure (plain (.vMov w (← dstV (wide w) d) (← src (wide w) a)))
  | "LI", [z], [d, x] => do
    s.only []; s.guardNone
    let w ← w64Of z
    pure (plain (.vLi w (← dstV (wide w) d) (← immOf w x)))
  | "MAD", [t], [d, a, b, c] => do
    s.only ["sat"]; s.guardNone
    pure (plain (.vMad (← ityOf t) (← s.flag "sat") (← dstV 1 d) (← src 1 a) (← src 1 b) (← src 1 c)))
  | "MADW", [t], [d, a, b, c] => do
    s.only []; s.guardNone
    pure (plain (.vMadw (← styOf t) (← dstV 2 d) (← src 1 a) (← src 1 b) (← src 2 c)))
  | "NOT", [t], [d, a] => do
    s.only []; s.guardNone
    pure (plain (.vNot (← ityOf t) (← dstV 1 d) (← src 1 a)))
  | "ABS", [t], [d, a] => do
    s.only ["sat"]; s.guardNone
    pure (plain (.vAbs (← ityOf t) (← s.flag "sat") (← dstV 1 d) (← src 1 a)))
  | "CMP", [c, t], [d, a, b] => do
    s.only []; s.guardNone
    pure (plain (.vCmp (← condOf c) (← ityOf t) (← dst 1 d) (← src 1 a) (← src 1 b)))
  | "SEL", [z], [d, a, b, c] => do
    s.only []
    let w ← w64Of z
    pure (plain (.vSel s.g w (← dstV (wide w) d) (← src (wide w) a) (← src (wide w) b) (← src 1 c)))
  | "BFE", [t], [d, a, p, l] => do
    s.only []; s.guardNone
    pure (plain (.vBfe (← styOf t) (← dstV 1 d) (← src 1 a) (BitVec.ofInt 5 (← intIn 0 31 p))
      (BitVec.ofInt 6 (← intIn 1 32 l))))
  | "BFI", [t], [d, a, b, p, l] => do
    s.only []; s.guardNone
    pure (plain (.vBfi (← styOf t) (← dstV 1 d) (← src 1 a) (← src 1 b) (BitVec.ofInt 5 (← intIn 0 31 p))
      (BitVec.ofInt 6 (← intIn 1 32 l))))
  | "POPC", [t], [d, a] => do
    s.only []; s.guardNone
    pure (plain (.vPopc (← ityOf t) (← dstV 1 d) (← src 1 a)))
  | "CLZ", [t], [d, a] => do
    s.only []; s.guardNone
    pure (plain (.vClz (← ityOf t) (← dstV 1 d) (← src 1 a)))
  | "DOT4", [x, y], [d, a, b, c] => do
    s.only ["sat"]; s.guardNone
    let sg : String → Option Bool := named [("I8", true), ("N8", false)]
    pure (plain (.vDot4 (← sg x) (← sg y) (← s.flag "sat") (← dstV 1 d) (← src 1 a) (← src 1 b) (← src 1 c)))
  | "REQ", [o], [d, a, m, q] => do
    s.only []; s.guardNone
    let out : String → Option Bool := named [("I8", false), ("I4", true)]
    pure (plain (.vReq (← out o) (← dstV 1 d) (← src 1 a) (← src 1 m) (← src 1 q)))
  | "UNPK3", [], [d, a, p] => do
    s.only ["byte"]; s.guardNone
    pure (plain (.vUnpk3 (BitVec.ofInt 2 (← s.num "byte" 0 3 none)) (BitVec.ofNat 3 (← plainReg 'p' p)) (← dstV 2 d)
      (← src 1 a)))
  | "CVT", [x, y], [d, a] => do
    s.only []; s.guardNone
    let df ← fmtOf x
    let sf ← fmtOf y
    pure (plain (.vCvt df sf (← dstV (cvtSpan (cvtElems df sf) df) d) (← src (cvtSpan (cvtElems df sf) sf) a)))
  | "SHFL", [m], [d, a, k] => do
    s.only ["off", "seg"]; s.guardNone
    pure (plain (.vShfl (← shOf m) (← s.seg) (← dstV 1 d) (← src 1 a) (← src 1 k)
      (BitVec.ofInt 12 (← s.num "off" (-2048) 2047 (some 0)))))
  | "RED", _, [d, a] => do
    s.only []; s.guardNone
    pure (plain (.vRed (← redOf sfx) (← dst 1 d) (← src 1 a)))
  | "SCAN", _, [d, a] => do
    s.only []; s.guardNone
    let (ex, o) ← (match sfx with
      | "EXCL" :: r => some (true, r)
      | r => some (false, r) : Option (Bool × List String))
    pure (plain (.vScan ex (← redOf o) (← dstV 1 d) (← src 1 a)))
  | "BCAST", [z], [d, a, i] => do
    s.only ["seg"]; s.guardNone
    let w ← w64Of z
    pure (plain (.vBcast w (← s.seg) (← dstV (wide w) d) (← src (wide w) a) (← src 1 i)))
  | "VOTE", [o], [d, a] => do
    s.only []; s.guardNone
    let op ← voteOf o
    pure (plain (.vVote op (← dst (wide (op = .ballot)) d) (← src 1 a)))
  | _, [t], [d, a, b] => do
    s.only ["sat"]; s.guardNone
    pure (plain ((← vecOp op (← ityOf t) (← s.flag "sat")) (← dstV 1 d) (← src 1 a) (← src 1 b)))
  | _, _, _ => none

/-- Float operations of two sources that round. -/
def fltOp2 (op : String) : Option (FTy → Rnd → BitVec 8 → Src → Src → Instr) :=
  named [("FADD", Instr.vFadd), ("FSUB", Instr.vFsub), ("FMUL", Instr.vFmul), ("HADD2", Instr.vHadd2),
    ("HMUL2", Instr.vHmul2)] op

/-- Special functions without a rounding modifier. -/
def sfuOp (op : String) : Option (BitVec 8 → Src → Instr) :=
  named [("FRCP", Instr.vFrcp), ("FRSQ", Instr.vFrsq), ("FEXP2", Instr.vFexp2), ("FLOG2", Instr.vFlog2),
    ("FSIN", Instr.vFsin), ("FCOS", Instr.vFcos)] op

/-- A format that is read as floating point. -/
def isFloat (f : Fmt) : Bool := !f.isInt

def formF (s : Stmt) (op : String) (sfx : List String) : Option AInstr :=
  match op, sfx, s.args with
  | "FMIN", [f], [d, a, b] => do
    s.only []; s.guardNone
    pure (plain (.vFmin (← ftyOf f) (← dstV 1 d) (← srcF 1 true a) (← srcF 1 true b)))
  | "FMAX", [f], [d, a, b] => do
    s.only []; s.guardNone
    pure (plain (.vFmax (← ftyOf f) (← dstV 1 d) (← srcF 1 true a) (← srcF 1 true b)))
  | "FFMA", [f], [d, a, b, c] => do
    s.only ["rnd"]; s.guardNone
    pure (plain (.vFfma (← ftyOf f) (← s.rnd) (← dstV 1 d) (← srcF 1 true a) (← srcF 1 true b) (← srcF 1 true c)))
  | "HFMA2", [f], [d, a, b, c] => do
    s.only ["rnd"]; s.guardNone
    pure (plain (.vHfma2 (← ftyOf f) (← s.rnd) (← dstV 1 d) (← srcF 1 true a) (← srcF 1 true b) (← srcF 1 true c)))
  | "FCMP", [c, f], [d, a, b] => do
    s.only []; s.guardNone
    pure (plain (.vFcmp (← condOf c) (← ftyOf f) (← dst 1 d) (← srcF 1 true a) (← srcF 1 true b)))
  | "FCLASS", [f], [d, a] => do
    s.only []; s.guardNone
    pure (plain (.vFclass (← ftyOf f) (← dstV 1 d) (← srcF 1 true a)))
  | "FRND", [f], [d, a] => do
    s.only ["rnd"]; s.guardNone
    pure (plain (.vFrnd (← ftyOf f) (← s.rnd) (← dstV 1 d) (← srcF 1 true a)))
  | "FSQRT", ["F32"], [d, a] => do
    s.only ["rnd"]; s.guardNone
    pure (plain (.vFsqrt (← s.rnd) (← dstV 1 d) (← srcF 1 true a)))
  | "FCVT", [x, y], d :: a :: r => do
    s.only ["rnd"]; s.guardNone
    let df ← fmtOf x
    let sf ← fmtOf y
    let e := cvtElems df sf
    let rb ← (match r with
      | [] => some none
      | [b] => (src (e / 2) b).map some
      | _ => none : Option (Option Src))
    pure (plain (.vFcvt df sf (← s.rnd) (← dstV (cvtSpan e df) d) (← srcF (cvtSpan e sf) (isFloat sf) a) rb))
  | "FICVT", [x, y], [d, a] => do
    s.only ["rnd"]; s.guardNone
    let df ← fmtOf x
    let sf ← fmtOf y
    let e := cvtElems df sf
    pure (plain (.vFicvt df sf (← s.rnd) (← dstV (cvtSpan e df) d) (← srcF (cvtSpan e sf) (isFloat sf) a)))
  | "MXSCL", [m], [d, a] => do
    s.only []; s.guardNone
    pure (plain (.vMxscl (← mxOf m) (← dstV 1 d) (← srcF 1 true a)))
  | "MXPACK", [m], [d, a, sc] => do
    s.only ["rnd"]; s.guardNone
    pure (plain (.vMxpack (← mxOf m) (← s.rnd) (← dstV 1 d) (← srcF 1 true a) (← src 1 sc) none))
  | "MXPACK", [m], [d, a, sc, r] => do
    s.only ["rnd"]; s.guardNone
    pure (plain (.vMxpack (← mxOf m) (← s.rnd) (← dstV 1 d) (← srcF 1 true a) (← src 1 sc) (some (← src 1 r))))
  | _, [f], [d, a] => do
    s.only []; s.guardNone
    if f ≠ "F32" then none
    else pure (plain ((← sfuOp op) (← dstV 1 d) (← srcF 1 true a)))
  | _, [f], [d, a, b] => do
    s.only ["rnd"]; s.guardNone
    pure (plain ((← fltOp2 op) (← ftyOf f) (← s.rnd) (← dstV 1 d) (← srcF 1 true a) (← srcF 1 true b)))
  | _, _, _ => none

/-! ## Memory and atomics (Table 9-7, chapters 10 and 11) -/

/-- Scope and order at the end of an atomic's suffixes; an order left out is .RLX (R115). -/
def scopeOrder : List String → Option (Scope × Order)
  | [c] => (scopeOf c).map (fun x => (x, .rlx))
  | [c, o] => (scopeOf c).bind (fun x => (orderOf o).map (fun y => (x, y)))
  | _ => none

/-- The DATA operand of an atomic. -/
def atomArg (op : AtomOp) : Arg → Option Src := srcF op.regs (op = .addF)

def formM (s : Stmt) (op : String) (sfx : List String) : Option AInstr :=
  match op, sfx, s.args with
  | "LD", [z], [d, m] => do
    s.only ["pol"]; s.guardNone
    let z ← sizeOf z
    pure (plain (.ld false z (← dstV z.regs d) (← addr true m) (← s.pol)))
  | "ST", [z], [m, x] => do
    s.only ["pol"]
    let z ← stSizeOf z
    pure (plain (.st s.g false z (← src z.regs x) (← addr true m) (← s.pol)))
  | "LDS", [z], [d, m] => do
    s.only []; s.guardNone
    let z ← sizeOf z
    pure (plain (.lds false z (← dstV z.regs d) (← addr false m)))
  | "STS", [z], [m, x] => do
    s.only []
    let z ← stSizeOf z
    pure (plain (.sts s.g false z (← src z.regs x) (← addr false m)))
  | "LDR", [z], [d, m] => do
    s.only ["pk"]; s.guardNone
    let z ← sizeOf z
    pure (plain (.ldr false z (BitVec.ofInt 2 (← s.num "pk" 0 3 none)) (← dstV z.regs d) (← addr false m)))
  | "STR", [z], [m, x] => do
    s.only ["pk"]
    let z ← stSizeOf z
    pure (plain (.str s.g false z (BitVec.ofInt 2 (← s.num "pk" 0 3 none)) (← src z.regs x) (← addr false m)))
  | "LDU", [z], [d, m] => do
    s.only ["pol"]; s.guardNone
    let z ← sizeOf z
    pure (plain (.ldu false z (← dstS z.regs d) (← addr true m) (← s.pol)))
  | "STU", [z], [m, x] => do
    s.only ["pol"]
    let z ← stSizeOf z
    pure (plain (.stu s.g false z (← src z.regs x) (← addr true m) (← s.pol)))
  | "LDC", [z], [d, m] => do
    s.only []; s.guardNone
    let z ← sizeOf z
    pure (plain (.ldc false z (← dst z.regs d) (← addr false m)))
  | "PREF", [l], [m] => do
    s.only ["pol"]; s.guardNone
    let lv : String → Option Bool := named [("L2", false), ("L1", true)]
    pure (plain (.pref false (← lv l) (← addr true m) (← s.pol)))
  | "FENCE", [c, o], [] => do
    s.only []; s.guardNone
    pure (plain (.fence false (← scopeOf c) (← orderOf o)))
  | "PHASE", [], [] => do s.only []; s.guardNone; pure (plain (.phase false))
  | "MXLD", [t], [d, m] => do
    s.only []; s.guardNone
    pure (plain (.mxld false (← mxOf t) (← dstV 2 d) (← addr true m)))
  | "MXACC", [t, u], [m, e, .val ⟨.reg 'v' n false, slu, false⟩] => do
    s.only []
    pure (plain (.mxacc s.g false (← mxOf t) (← mxOf u) (← src 1 e) (← addr true m) slu (BitVec.ofNat 8 n)))
  | "ATOM", o :: t :: r, [x, m] => do
    s.only ["ret"]
    let op ← atomOf o t
    let (sc, od) ← scopeOrder r
    pure (plain (.atom s.g false op sc od (← s.flag "ret") (← atomArg op x) (← addr true m)))
  | "ATOMS", o :: t :: r, [x, m] => do
    s.only ["ret", "pk"]
    let op ← atomOf o t
    let (sc, od) ← scopeOrder r
    let pk ← s.val "pk" (fun v => v.int?.bind (fun k =>
      if 0 ≤ k ∧ k ≤ 3 then some (some (BitVec.ofInt 2 k)) else none)) (some none)
    pure (plain (.atoms s.g false op sc od (← s.flag "ret") pk (← atomArg op x) (← addr false m)))
  | "ATOMU", o :: t :: r, [x, m] => do
    s.only ["ret"]
    let op ← atomOf o t
    let (sc, od) ← scopeOrder r
    pure (plain (.atomu s.g false op sc od (← s.flag "ret") (← atomArg op x) (← addr true m)))
  | _, _, _ => none

/-! ## Matrix instructions (chapter 13) -/

def tileArg (k : Char) (a : Arg) : Option (BitVec 4) := (plainReg k a).map (BitVec.ofNat 4)

def formX (s : Stmt) (op : String) (sfx : List String) : Option AInstr :=
  match op, sfx, s.args with
  | "TDEF", [], [t, u] => do
    s.only []; s.guardNone
    pure (plain (.tdef (← tileArg 't' t) (← dstS 4 u)))
  | "MMA", [], [a, x, y] => do
    s.only ["k", "za", "capf", "stat"]; s.guardNone
    let cf ← s.val "capf" (fun o => (plainReg 'f' (.val o)).map some) (some none)
    let st ← s.val "stat" (fun o => (dstS 2 (.val o)).map some) (some none)
    pure { i := .mma false (← tileArg 'a' a) (← tileArg 't' x) (← tileArg 't' y) st (← s.flag "za") cf.isSome
             (BitVec.ofInt 4 (← s.num "k" 0 15 (some 0))), capf := cf }
  | "ACC", ["ZERO"], [a] => do s.only []; s.guardNone; pure (plain (.accZero false (← tileArg 'a' a)))
  | "ACC", ["LD"], [a, t] => do
    s.only []; s.guardNone
    pure (plain (.accLd false (← tileArg 'a' a) (← tileArg 't' t)))
  | "ACC", ["ST"], [a, t] => do
    s.only []; s.guardNone
    pure (plain (.accSt false (← tileArg 'a' a) (← tileArg 't' t)))
  | "ACC", ["RD"], [d, a] => do
    s.only ["cb"]; s.guardNone
    pure (plain (.accRd false (← tileArg 'a' a) (← dstV 1 d) (BitVec.ofInt 3 (← s.num "cb" 0 7 none))))
  | "ACC", ["WR"], [a, .val ⟨.reg 'v' n false, lu, false⟩] => do
    s.only ["cb"]; s.guardNone
    pure (plain (.accWr false (← tileArg 'a' a) (BitVec.ofNat 8 n) (BitVec.ofInt 3 (← s.num "cb" 0 7 none)) lu))
  | "ACC", ["OUT"], [a, t] => do
    s.only ["rnd"]; s.guardNone
    pure (plain (.accOut false (← tileArg 'a' a) (← tileArg 't' t) (← s.rndOr .rne)))
  | "MSTAT", [], [d] => do s.only ["clr"]; s.guardNone; pure (plain (.mstat false (← dstS 1 d) (← s.flag "clr")))
  | _, _, _ => none

/-! ## Commands (R311, Table 14-2) -/

/-- A keyword value of COLL, with or without its dot, in either case. -/
def collName (o : Opd) : Option String :=
  match o with
  | ⟨.name s _, false, false⟩ =>
    match (upper s).toList with
    | '.' :: r => some (String.ofList r)
    | r => some (String.ofList r)
  | _ => none

/-- The common fields of a command: with a signal the scope stands, without one it does not. -/
def cmdOf (s : Stmt) (sfx : List String) : Option CmdF := do
  s.guardNone
  let gl ← s.flag "glob"
  let pr := BitVec.ofInt 2 (← s.num "prio" 0 3 (some 0))
  match sfx, s.args with
  | [c], [d, .mem (some ⟨.reg 's' g _, false, false⟩) ⟨.int 0, false, false⟩, v] =>
    pure ⟨false, ← dstS 8 d, some (BitVec.ofNat 9 g, ← dstS 1 v), gl, pr, ← scopeOf c⟩
  | [], [d] => pure ⟨false, ← dstS 8 d, none, gl, pr, .g⟩
  | _, _ => none

def formA (s : Stmt) (op : String) (sfx : List String) : Option AInstr := do
  let c ← cmdOf s sfx
  match op with
  | "CP" => s.only ["glob", "prio"]; pure (plain (.cp c))
  | "CPT" =>
    s.only ["glob", "prio", "st", "mx8", "mx4"]
    let m8 ← s.flag "mx8"
    let m4 ← s.flag "mx4"
    if m8 && m4 then none
    else pure (plain (.cpt c (← s.flag "st") (if m8 then .fp8 else if m4 then .fp4 else .none)))
  | "CPG" => s.only ["glob", "prio", "idxg"]; pure (plain (.cpg c (← s.flag "idxg")))
  | "CPSC" => s.only ["glob", "prio", "idxg"]; pure (plain (.cpsc c (← s.flag "idxg")))
  | "CPR" => s.only ["glob", "prio"]; pure (plain (.cpr c))
  | "CPX" => s.only ["glob", "prio", "win"]; pure (plain (.cpx c (← s.flag "win")))
  | "COLL" =>
    s.only ["glob", "prio", "op", "type"]
    let ops : String → Option CollOp := named [("ALLRED", .allred), ("ALLGATH", .allgath), ("REDSCAT", .redscat)]
    let tys : String → Option CollTy := named [("F32", .f32), ("BF16", .bf16), ("I32", .i32)]
    pure (plain (.coll c (← s.val "op" (fun o => (collName o).bind ops) none)
      (← s.val "type" (fun o => (collName o).bind tys) none)))
  | "CPQ" => s.only ["glob", "prio"]; pure (plain (.cpq c))
  | _ => none

/-! ## Synchronisation (Table 10-6) -/

/-- `WAITF f, …`. -/
def flagMask : List Arg → Option (BitVec 12)
  | [] => some 0
  | a :: r => (plainReg 'f' a).bind (fun n => (flagMask r).map (fun m => m ||| BitVec.twoPow 12 n))

def formSync (s : Stmt) (op : String) (sfx : List String) : Option AInstr := do
  s.guardNone
  let gl ← s.flag "glob"
  match op, sfx, s.args with
  | "BAR", ["INIT"], [m, n] => s.only []; pure (plain (.barInit false (← addr false m) (← src 1 n)))
  | "BAR", ["ARR"], [m] => s.only []; pure (plain (.barArr false (← addr false m) false))
  | "BAR", ["ARR", "DROP"], [m] => s.only []; pure (plain (.barArr false (← addr false m) true))
  | "BAR", ["WAIT"], [m] => s.only []; pure (plain (.barWait false (← addr false m)))
  | "BAR", ["AW"], [m] => s.only []; pure (plain (.barAw false (← addr false m) false))
  | "BAR", ["AW", "DROP"], [m] => s.only []; pure (plain (.barAw false (← addr false m) true))
  | "TKT", ["TAKE"], [d, m] => s.only ["glob"]; pure (plain (.tktTake false gl (← dstS 1 d) (← addr gl m)))
  | "TKT", ["WAIT", c], [m, t] =>
    s.only ["glob"]; pure (plain (.tktWait false gl (← scopeOf c) (← addr gl m) (← src 1 t)))
  | "TKT", ["PASS", c], [m] => s.only ["glob"]; pure (plain (.tktPass false gl (← scopeOf c) (← addr gl m)))
  | "WAITA", [c, sc], [m, v] =>
    s.only ["glob"]; pure (plain (.waita false gl (← scopeOf sc) (← waitOf c) (← addr gl m) (← src 1 v)))
  | "WAITF", [], as => s.only []; pure (plain (.waitf false (← flagMask as)))
  | "FIFO", ["PUSH", z], [b, x] =>
    s.only []
    let w ← w64Of z
    pure (plain (.fifoPush false w (← bankArg b) (← src (wide w) x)))
  | "FIFO", ["POP", z], [d, b] =>
    s.only []
    let w ← w64Of z
    pure (plain (.fifoPop false w (← bankArg b) (← dstV (wide w) d)))
  | _, _, _ => none

/-! ## Long integers and the system class (Table 12-2, chapters 15 and 17) -/

def formL (s : Stmt) (op : String) (sfx : List String) : Option AInstr := do
  s.guardNone
  match op, sfx, s.args with
  | "LBIND", [], [n] => s.only []; pure (plain (.lbind (BitVec.ofInt 12 (← intIn 2 64 n))))
  | "LFREE", [], [] => s.only []; pure (plain .lfree)
  | "LADD", [], [d, x, y] => s.only ["cin"]; pure (plain (.ladd (← s.flag "cin") (← dstV 2 d) (← src 2 x) (← src 2 y)))
  | "LSUB", [], [d, x, y] => s.only ["cin"]; pure (plain (.lsub (← s.flag "cin") (← dstV 2 d) (← src 2 x) (← src 2 y)))
  | "LNEG", [], [d, x] => s.only []; pure (plain (.lneg (← dstV 2 d) (← src 2 x)))
  | "LSHL", [], [d, x, a] => s.only []; pure (plain (.lshl (← dstV 2 d) (← src 2 x) (← src 1 a)))
  | "LSHR", [], [d, x, a] =>
    s.only ["arith"]; pure (plain (.lshr (← s.flag "arith") (← dstV 2 d) (← src 2 x) (← src 1 a)))
  | "LMULW", [], [d, x, a, j] =>
    s.only []; pure (plain (.lmulw (← dstV 2 d) (← src 2 x) (← src 2 a) (BitVec.ofInt 6 (← intIn 0 63 j))))
  | "LCMP", [c], [d, x, y] =>
    s.only ["sgn"]; pure (plain (.lcmp (← condOf c) (← s.flag "sgn") (← dst 1 d) (← src 2 x) (← src 2 y)))
  | "LCARRY", [], [d] => s.only ["clr"]; pure (plain (.lcarry (← s.flag "clr") (← dstS 1 d)))
  | _, _, _ => none

def formY (s : Stmt) (op : String) (sfx : List String) : Option AInstr := do
  s.guardNone
  match op, sfx, s.args with
  | "TRAP", [], [n] => s.only []; pure (plain (.trap (BitVec.ofInt 32 (← intIn 0 (2 ^ 32 - 1) n))))
  | "BRK", [], [n] => s.only []; pure (plain (.brk (BitVec.ofInt 32 (← intIn 0 (2 ^ 32 - 1) n))))
  | "LAUNCH", [], [d, q, a] => s.only []; pure (plain (.launch false (← dstS 1 d) (← src 1 q) (← src 2 a)))
  | "PERF", [z], [d, n] =>
    s.only ["clr"]
    let w ← w64Of z
    pure (plain (.perf w (← s.flag "clr") (← dstS (wide w) d) (← numbered perfOf n)))
  | "ICINV", [], [a, l] => s.only []; pure (plain (.icinv false false (← src 2 a) (← src 1 l)))
  | "ICINV", ["D"], [a, l] => s.only []; pure (plain (.icinv false true (← src 2 a) (← src 1 l)))
  | "CLK", [], [d] => s.only []; pure (plain (.clk (← dstS 2 d)))
  | "WFI", [], [] => s.only []; pure (plain .wfi)
  | "IRET", [], [] => s.only []; pure (plain .iret)
  | "MMLD", [z], [d, m] =>
    s.only []
    let w ← w64Of z
    pure (plain (.mmld false w (← dstS (wide w) d) (← addr false m)))
  | "MMST", [z], [m, x] =>
    s.only []
    let w ← w64Of z
    pure (plain (.mmst false w (← src (wide w) x) (← addr false m)))
  | _, _, _ => none

/-! ## The form of a statement -/

/-- The opcode of an instruction. -/
def opcodeOf (i : Instr) : Nat := ((encode i).map (fun w => (w.extractLsb' 56 8).toNat)).getD 0

/-- The instruction a statement names: the first form that reads it, if its word is legal (R79) and its opcode is legal
on the core the kernel is written for (Table 3-10). -/
def form (kennel : Bool) (s : Stmt) : Option AInstr := do
  let x ← (match s.parts with
    | "S" :: op :: sfx => formS kennel s op sfx
    | "V" :: op :: sfx => (formV s op sfx).or (formF s op sfx)
    | op :: sfx =>
      (formControl s op sfx).or ((formM s op sfx).or ((formX s op sfx).or ((formA s op sfx).or ((formSync s op sfx).or
        ((formL s op sfx).or (formY s op sfx))))))
    | [] => none)
  if x.i.wf && (opCore (opcodeOf x.i)).allows kennel then some x else none

end Sys2Proof.Machine.Aedud
end

