-- ==== Sys2Proof/Machine/AedudFlow.lean ====
section
/-! DEFINITION. What the assembler works out about a kernel (03 R83 to R85, 06 R150, 12 R277): the registers each
instruction reads and writes, how instructions form clauses, the flow between clauses, liveness, waits, and the kernels
it refuses. -/
namespace Sys2Proof.Machine.Aedud

/-! ## Registers of an instruction -/

/-- The registers an instruction names: source fields with the place of their last-use bit and their width in registers,
other reads, and destinations. `part` marks destinations that may keep lanes unwritten. -/
structure Uses where
  fields : List (Nat × Src × Nat) := []
  reads : List (Opnd × Nat) := []
  writes : List (Opnd × Nat) := []
  part : Bool := false
  deriving DecidableEq, Repr

/-- Sources of formats V3 and VI, in field order (Table 3-7). -/
def v3 (xs : List (Src × Nat)) : List (Nat × Src × Nat) := (xs.zip [40, 28, 16]).map (fun p => (p.2, p.1.1, p.1.2))

/-- The guard of an instruction is a read of its predicate. -/
def guardRead (g : Guard) : List (Opnd × Nat) := if g = Guard.always then [] else [(.p g.p, 1)]

/-- BASE, of `b` registers, and OFFS of format M. -/
def mFields (b : Nat) (m : MAddr) : List (Nat × Src × Nat) := [(38, m.base, b), (26, m.offs, 1)]

/-- The policy register. -/
def polRead (p : BitVec 9) : List (Opnd × Nat) := if p = 0x1FF#9 then [] else [(.s p, 1)]

def uU (d : BitVec 9) (n : Nat) (xs : List (Src × Nat)) : Uses := { fields := v3 xs, writes := [(.s d, n)] }
def uV (d : BitVec 8) (n : Nat) (xs : List (Src × Nat)) : Uses := { fields := v3 xs, writes := [(.v d, n)] }
def uO (d : Opnd) (n : Nat) (xs : List (Src × Nat)) : Uses := { fields := v3 xs, writes := [(d, n)] }
def uLd (d : Opnd) (n b : Nat) (m : MAddr) (pol : BitVec 9) : Uses :=
  { fields := mFields b m, reads := polRead pol, writes := [(d, n)] }
def uSt (g : Guard) (x : Src) (n b : Nat) (m : MAddr) (pol : BitVec 9) : Uses :=
  { fields := (50, x, n) :: mFields b m, reads := guardRead g ++ polRead pol }
def uAtom (g : Guard) (op : AtomOp) (ret : Bool) (b : Nat) (x : Src) (m : MAddr) : Uses :=
  { fields := (50, x, op.regs) :: mFields b m, reads := guardRead g,
    writes := if ret then [(x.op, if op.wide then 2 else 1)] else [], part := g ≠ Guard.always }
def uCmd (c : CmdF) : Uses :=
  { reads := (.s c.desc, 8) :: (c.sig.elim [] (fun p => [(.s p.1, 2), (.s p.2, 1)])) }
def uObj (gl : Bool) (m : MAddr) (xs : List Src) : Uses :=
  { fields := xs.map (fun x => (50, x, 1)) ++ mFields (if gl then 2 else 1) m }

/-- The registers of each instruction (the tables of its chapter); an event names none. -/
def usesOf : Instr → Uses
  | .sMov w d a => uU d (wide w) [(a, wide w)]
  | .sLi w d _ => uU d (wide w) []
  | .sAdd _ _ d a b | .sSub _ _ d a b | .sMul _ d a b | .sMulhi _ d a b | .sAnd _ d a b | .sOr _ d a b
  | .sXor _ d a b | .sShl _ d a b | .sShr _ d a b | .sSra _ d a b | .sMin _ d a b | .sMax _ d a b =>
    uU d 1 [(a, 1), (b, 1)]
  | .sNot _ d a | .sClz d a | .sPopc d a => uU d 1 [(a, 1)]
  | .sAdd64 d a b | .sSub64 d a b | .sShl64 d a b => uU d 2 [(a, 2), (b, 2)]
  | .sCmp _ _ d a b => uO d 1 [(a, 1), (b, 1)]
  | .sSel g w d a b c =>
    { uU d (wide w) [(a, wide w), (b, wide w), (c, 1)] with reads := guardRead g, part := g ≠ Guard.always }
  | .sBfe _ d a _ _ => uU d 1 [(a, 1)]
  | .sBfi _ d a b _ _ => uU d 1 [(a, 1), (b, 1)]
  | .sRsr w d _ => uU d (wide w) []
  | .sWsr w _ a => { fields := v3 [(a, wide w)] }
  | .sVget w d a i => uU d (wide w) [(a, wide w), (i, 1)]
  | .br g c _ => { fields := c.elim [] (fun x => [(50, x.2, 1)]), reads := guardRead g }
  | .brx g a | .ret g a => { fields := v3 [(a, 2)], reads := guardRead g }
  | .call g l _ => { reads := guardRead g, writes := [(l, 2)], part := g ≠ Guard.always }
  | .reform t => { fields := v3 (t.elim [] (fun a => [(a, 2)])) }
  | .exit | .nop | .yield => {}
  | .vMov w d a => uV d (wide w) [(a, wide w)]
  | .vLi w d _ => uV d (wide w) []
  | .vAdd _ _ d a b | .vSub _ _ d a b | .vMul _ d a b | .vMulhi _ d a b | .vAnd _ d a b | .vOr _ d a b
  | .vXor _ d a b | .vShl _ d a b | .vShr _ d a b | .vSra _ d a b | .vMin _ d a b | .vMax _ d a b =>
    uV d 1 [(a, 1), (b, 1)]
  | .vMad _ _ d a b c => uV d 1 [(a, 1), (b, 1), (c, 1)]
  | .vMadw _ d a b c => uV d 2 [(a, 1), (b, 1), (c, 2)]
  | .vNot _ d a | .vAbs _ _ d a | .vPopc _ d a | .vClz _ d a | .vBfe _ d a _ _ => uV d 1 [(a, 1)]
  | .vCmp _ _ d a b => uO d 1 [(a, 1), (b, 1)]
  | .vSel g w d a b c =>
    { uV d (wide w) [(a, wide w), (b, wide w), (c, 1)] with reads := guardRead g, part := g ≠ Guard.always }
  | .vBfi _ d a b _ _ => uV d 1 [(a, 1), (b, 1)]
  | .vDot4 _ _ _ d a b c => uV d 1 [(a, 1), (b, 1), (c, 1)]
  | .vReq _ d a m q => uV d 1 [(a, 1), (m, 1), (q, 1)]
  | .vUnpk3 _ p d a => { fields := v3 [(a, 1)], writes := [(.v d, 2), (.p p, 1)] }
  | .vCvt df sf d a => uV d (cvtSpan (cvtElems df sf) df) [(a, cvtSpan (cvtElems df sf) sf)]
  | .vShfl _ _ d a k _ => uV d 1 [(a, 1), (k, 1)]
  | .vRed _ d a => uO d 1 [(a, 1)]
  | .vScan _ _ d a => uV d 1 [(a, 1)]
  | .vBcast w _ d a i => uV d (wide w) [(a, wide w), (i, 1)]
  | .vVote op d a => uO d (if op = .ballot then 2 else 1) [(a, 1)]
  | .vFadd _ _ d a b | .vFsub _ _ d a b | .vFmul _ _ d a b | .vHadd2 _ _ d a b | .vHmul2 _ _ d a b
  | .vFmin _ d a b | .vFmax _ d a b => uV d 1 [(a, 1), (b, 1)]
  | .vFfma _ _ d a b c | .vHfma2 _ _ d a b c => uV d 1 [(a, 1), (b, 1), (c, 1)]
  | .vFcmp _ _ d a b => uO d 1 [(a, 1), (b, 1)]
  | .vFclass _ d a | .vFrnd _ _ d a | .vFrcp d a | .vFrsq d a | .vFsqrt _ d a | .vFexp2 d a | .vFlog2 d a
  | .vFsin d a | .vFcos d a | .vMxscl _ d a => uV d 1 [(a, 1)]
  | .vFcvt df sf _ d a rb =>
    let e := cvtElems df sf
    uV d (cvtSpan e df) ((a, cvtSpan e sf) :: rb.elim [] (fun x => [(x, e / 2)]))
  | .vFicvt df sf _ d a => uV d (cvtSpan (cvtElems df sf) df) [(a, cvtSpan (cvtElems df sf) sf)]
  | .vMxpack _ _ d a sc rb => { uV d 1 ((a, 1) :: (sc, 1) :: rb.elim [] (fun x => [(x, 1)])) with part := true }
  | .ld _ z d m pol => uLd (.v d) z.regs 2 m pol
  | .ldu _ z d m pol => uLd (.s d) z.regs 2 m pol
  | .lds _ z d m | .ldr _ z _ d m => uLd (.v d) z.regs 1 m 0x1FF
  | .ldc _ z d m => uLd d z.regs 1 m 0x1FF
  | .st g _ z x m pol | .stu g _ z x m pol => uSt g x z.regs 2 m pol
  | .sts g _ z x m | .str g _ z _ x m => uSt g x z.regs 1 m 0x1FF
  | .pref _ _ m pol => { fields := mFields 2 m, reads := polRead pol }
  | .fence _ _ _ | .phase _ => {}
  | .mxld _ _ d m => uLd (.v d) 2 2 m 0x1FF
  | .mxacc g _ _ _ x m slu n =>
    { fields := (50, x, 1) :: mFields 2 m ++ [(14, ⟨.v n, slu, false⟩, 1)], reads := guardRead g }
  | .atom g _ op _ _ ret x m | .atomu g _ op _ _ ret x m => uAtom g op ret 2 x m
  | .atoms g _ op _ _ ret _ x m => uAtom g op ret 1 x m
  | .tdef _ u => { reads := [(.s u, 4)] }
  | .mma _ _ _ _ stat _ _ _ => { reads := stat.elim [] (fun p => [(.s p, 2)]) }
  | .accZero _ _ | .accLd _ _ _ | .accSt _ _ _ | .accOut _ _ _ _ => {}
  | .accRd _ _ v _ => { writes := [(.v v, 8)] }
  | .accWr _ _ v _ lu => { fields := [(11, ⟨.v v, lu, false⟩, 8)] }
  | .mstat _ d _ => { writes := [(.s d, 1)] }
  | .cp c | .cpt c _ _ | .cpg c _ | .cpsc c _ | .cpr c | .cpx c _ | .coll c _ _ | .cpq c => uCmd c
  | .barInit _ m n => uObj false m [n]
  | .barArr _ m _ | .barWait _ m | .barAw _ m _ => uObj false m []
  | .tktTake _ gl d m => { uObj gl m [] with writes := [(.s d, 1)] }
  | .tktWait _ gl _ m t => uObj gl m [t]
  | .tktPass _ gl _ m => uObj gl m []
  | .waita _ gl _ _ m x => uObj gl m [x]
  | .waitf _ _ => {}
  | .fifoPush _ w b x => { fields := [(50, x, wide w), (26, b, 1)] }
  | .fifoPop _ w b d => { fields := [(26, b, 1)], writes := [(.v d, wide w)] }
  | .lbind _ | .lfree => {}
  | .ladd _ d x y | .lsub _ d x y => uV d 2 [(x, 2), (y, 2)]
  | .lneg d x => uV d 2 [(x, 2)]
  | .lshl d x a | .lshr _ d x a => uV d 2 [(x, 2), (a, 1)]
  | .lmulw d x a _ => { uV d 2 [(x, 2), (a, 2)] with reads := [(.v d, 2)] }
  | .lcmp _ _ d x y => uO d 1 [(x, 2), (y, 2)]
  | .lcarry _ d => uU d 1 []
  | .trap _ | .brk _ => {}
  | .launch _ d q a => uU d 1 [(q, 1), (a, 2)]
  | .perf w _ d _ => uU d (wide w) []
  | .icinv _ _ a l => { fields := v3 [(a, 2), (l, 1)] }
  | .clk d => uU d 2 []
  | .wfi | .iret => {}
  | .mmld _ w d m => uLd (.s d) (wide w) 1 m 0x1FF
  | .mmst _ w x m => { fields := (50, x, wide w) :: mFields 1 m }
  | _ => {}

/-- Sets of registers as bits: vector n at n, uniform n at 256 + n, predicate n at 640 + n. -/
abbrev RegSet := Nat

/-- The registers of an operand of `n` registers; p7 is none. -/
def regSet : Opnd × Nat → RegSet
  | (.v k, n) => (2 ^ n - 1) * 2 ^ k.toNat
  | (.s k, n) => (2 ^ n - 1) * 2 ^ (256 + k.toNat)
  | (.p k, _) => if k = 7#3 then 0 else 2 ^ (640 + k.toNat)
  | _ => 0

def unionOf (xs : List RegSet) : RegSet := xs.foldl (· ||| ·) 0

/-- The registers of `a` that are not in `b`. -/
def without (a b : RegSet) : RegSet := a ^^^ (a &&& b)

def Uses.readSet (u : Uses) : RegSet :=
  unionOf (u.fields.map (fun f => regSet (f.2.1.op, f.2.2)) ++ u.reads.map regSet)

def Uses.writeSet (u : Uses) : RegSet := unionOf (u.writes.map regSet)

/-- The registers the instruction writes in every lane that issues it. -/
def Uses.killSet (u : Uses) : RegSet := if u.part then 0 else u.writeSet

/-! ## Items of a kernel -/

/-- What the lines of a kernel's code say, in order. -/
inductive Item where
  | label (s : String)
  | instr (a : AInstr)
  | wait (fs : List Nat)
  | set (f : Nat)
  | safe
  | openBlock (cls : Nat)
  | closeBlock
  deriving DecidableEq, Repr

/-- An instruction with its flag, capture flag and registers. -/
structure FI where
  a : AInstr
  op : Nat
  flag : Option Nat
  uses : Uses
  deriving DecidableEq, Repr

/-- Long-latency opcodes (Table 5-2). -/
def isLong (op : Nat) : Bool :=
  (0x90 ≤ op && op ≤ 0xAF) || (0xB1 ≤ op && op ≤ 0xB8) || (0xC0 ≤ op && op ≤ 0xC7) || (0xD0 ≤ op && op ≤ 0xDA) ||
  op = 0xEE || op = 0xF0 || op = 0xF4 || op = 0xF5

/-- The blocking instructions (R48), and PHASE, which is placed as they are (R230). -/
def isBlocking (op : Nat) : Bool := op = 0x9B || op = 0xD2 || op = 0xD3 || op = 0xD5 || (0xD7 ≤ op && op ≤ 0xDA)

/-- Flags the kernel names in a `.set` or a `capf=` (R84). -/
def namedFlags : List Item → List Nat
  | [] => []
  | .set f :: r => f :: namedFlags r
  | .instr a :: r => a.capf.toList ++ namedFlags r
  | _ :: r => namedFlags r

/-- A step of the choice of flags: the one `.set` names for the next long-latency instruction; else, for an instruction
with a register destination, the flag of the pool least recently charged, which moves to the end of the pool (R84). -/
def assignFlags : List Nat → Option Nat → List Item → Option (List (Item × Option FI))
  | _, _, [] => some []
  | pool, st, .instr a :: r =>
    let op := opcodeOf a.i
    let u := usesOf a.i
    if !isLong op then (assignFlags pool st r).map (fun q => (.instr a, some ⟨a, op, none, u⟩) :: q)
    else match st with
      | some f => (assignFlags pool none r).map (fun q => (.instr a, some ⟨a, op, some f, u⟩) :: q)
      | none =>
        if u.writes.isEmpty then (assignFlags pool none r).map (fun q => (.instr a, some ⟨a, op, none, u⟩) :: q)
        else match pool with
          | [] => none
          | f :: fs => (assignFlags (fs ++ [f]) none r).map (fun q => (.instr a, some ⟨a, op, some f, u⟩) :: q)
  | pool, _, .set f :: r => (assignFlags pool (some f) r).map (fun q => (.set f, none) :: q)
  | pool, st, x :: r => (assignFlags pool st r).map (fun q => (x, none) :: q)

/-! ## SETA and SETB (R84, R297) -/

/-- Flags of a body in the order in which they are charged, none twice. -/
def flagsOf (xs : List FI) : List Nat :=
  (xs.flatMap (fun x => x.flag.toList ++ x.a.capf.toList)).eraseDups

/-- The value of a SET field: 15 holds no flag. -/
abbrev SetField := Nat

/-- The FSEL an instruction takes under SETA and SETB; none where no field serves it. -/
def fselOf (sa sb : SetField) (x : FI) : Option Bool :=
  if !isLong x.op then some false
  else
    let want := x.flag.getD 15
    let other (b : Bool) : Bool := match x.a.capf with
      | none => true
      | some c => (if b then sa else sb) = c
    if sa = want && other false then some false
    else if sb = want && other true then some true
    else none

/-- SETA and SETB of a body: SETA takes the first flag, SETB the second, a field that no flag fills holds 0xF; a capture
flag equal to the completion flag takes both. None where the conditions of R83 on flags fail. -/
def setFields (xs : List FI) : Option (SetField × SetField) :=
  let tries := match flagsOf xs with
    | [] => [(15, 15)]
    | [a] => [(a, 15), (a, a)]
    | [a, b] => [(a, b)]
    | _ => []
  tries.find? (fun p => xs.all (fun x => (fselOf p.1 p.2 x).isSome))

/-! ## Clauses (R83) -/

structure Cl where
  labels : List String
  cls : Option Nat             -- fixed by `.clause` or by the first instruction outside the uniform and control ranges
  safe : Bool
  wait : List Nat
  body : List FI
  deriving DecidableEq, Repr

/-- The class an opcode fixes: none for uniform and control opcodes. -/
def classOf (op : Nat) : Option Nat := if op < 0x40 then none else some (opClass op)

/-- Registers of long-latency destinations of a body. -/
def longDests (xs : List FI) : RegSet := unionOf ((xs.filter (fun x => isLong x.op)).map (fun x => x.uses.writeSet))

/-- The instruction may join the clause (conditions 1 to 4 of R83). -/
def Cl.takes (c : Cl) (x : FI) : Bool :=
  c.body.length < 16 &&
  (match c.cls, classOf x.op with
   | some k, some k2 => k = k2
   | _, _ => true) &&
  (setFields (c.body ++ [x])).isSome &&
  longDests c.body &&& (x.uses.readSet ||| x.uses.writeSet) = 0

def Cl.add (c : Cl) (x : FI) : Cl := { c with body := c.body ++ [x], cls := c.cls.or (classOf x.op) }

/-- The clause closes after this instruction: a clause-ending one (R64), LFREE (R277), WFI and IRET (R388). -/
def closes (op : Nat) : Bool := isEnding op || op = 0xE1 || op = 0xF2 || op = 0xF3

/-- The former of clauses: those done, the last first; the open one; and what stands before the next. -/
structure Former where
  done : List Cl := []
  cur : Option Cl := none
  labels : List String := []
  safe : Bool := false
  wait : List Nat := []
  block : Option Nat := none

def Former.close (f : Former) : Former := { f with done := f.cur.toList ++ f.done, cur := none }

/-- Open a clause with an instruction. -/
def Former.start (f : Former) (x : FI) (blocking : Bool) : Former :=
  let g := f.close
  { g with cur := some (({ labels := f.labels, cls := f.block, safe := f.safe || blocking, wait := f.wait,
                           body := [] } : Cl).add x), labels := [], safe := false, wait := [] }

/-- One item (R83, R84). Inside a block every instruction joins the one clause, or the block is refused; none follows one
that closes its clause (R277). -/
def Former.item (f : Former) (y : Item × Option FI) : Option Former :=
  match y with
  | (.label s, _) =>
    if f.block.isSome && f.cur.isSome then none else some { f with labels := f.labels ++ [s] }
  | (.wait fs, _) => some { f with wait := (f.wait ++ fs).eraseDups }
  | (.safe, _) => some { f with safe := true }
  | (.set _, _) => some f
  | (.openBlock k, _) => if f.block.isSome then none else some { f.close with block := some k }
  | (.closeBlock, _) => if f.block.isNone || f.cur.isNone then none else some { f.close with block := none }
  | (.instr _, none) => none
  | (.instr _, some x) =>
    match f.block with
    | some k =>
      match f.cur with
      | none =>
        let g := f.start x false
        if (classOf x.op).all (· = k) && (setFields [x]).isSome then some g else none
      | some c =>
        if c.takes x && !(c.body.any (fun z => closes z.op)) then some { f with cur := some (c.add x) } else none
    | none =>
      let g := match f.cur with
        | some c =>
          if f.labels.isEmpty && !f.safe && !isBlocking x.op && c.takes x then { f with cur := some (c.add x) }
          else f.start x (isBlocking x.op)
        | none => f.start x (isBlocking x.op)
      match setFields [x] with
      | none => none
      | some _ => some (if closes x.op then g.close else g)

/-- The clauses of a kernel's items; a label after the last instruction begins no clause. -/
def formClauses (xs : List (Item × Option FI)) : Option (List Cl) :=
  (xs.foldl (fun (acc : Option Former) y => acc.bind (fun f => f.item y)) (some {})).bind (fun f =>
    if f.block.isSome || !f.labels.isEmpty then none else some f.close.done.reverse)

/-! ## Flow (R85, R150) -/

/-- Clause numbers of the code labels. -/
def labelMap (cs : List Cl) : List (String × Nat) :=
  cs.zipIdx.flatMap (fun p => p.1.labels.map (fun l => (l, p.2)))

/-- Ends of clauses and the clauses they may branch to: a branch's target, every label for BRX and REFORM.TGT, the
return sites of every CALL for RET. None where a target is no label. -/
def jumps (cs : List Cl) (lm : List (String × Nat)) (c : Cl) : Option (List Nat) :=
  let tgt (a : AInstr) : Option (List Nat) := (a.label.bind (fun l => named lm l)).map (fun t => [t])
  match c.body.getLast? with
  | none => some []
  | some x =>
    match x.a.i with
    | .br _ _ _ => tgt x.a
    | .call _ _ _ => tgt x.a
    | .brx _ _ => some (lm.map (·.2))
    | .reform (some _) => some (lm.map (·.2))
    | .ret _ _ =>
      some ((cs.zipIdx.filter (fun p => match p.1.body.getLast? with
        | some y => (match y.a.i with | .call _ _ _ => true | _ => false)
        | none => false)).map (fun p => p.2 + 1))
    | _ => some []

/-- Flow may go on to the next clause in sequence. -/
def fallsThrough (c : Cl) : Bool :=
  match c.body.getLast? with
  | none => true
  | some x =>
    match x.a.i with
    | .br g none _ => g ≠ Guard.always
    | .call g _ _ => g ≠ Guard.always
    | .brx g _ => g ≠ Guard.always
    | .ret g _ => g ≠ Guard.always
    | .reform (some _) => false
    | .exit => false
    | .iret => false
    | _ => true

/-- A clause in the flow of its kernel: its number, the clauses it may branch to, and all its successors. -/
structure Node where
  c : Cl
  n : Nat
  jumps : List Nat
  succs : List Nat

def flow (cs : List Cl) : Option (List Node) :=
  let lm := labelMap cs
  cs.zipIdx.foldr (fun p acc => acc.bind (fun r => (jumps cs lm p.1).map (fun js =>
    let ts := js.filter (· < cs.length)
    ⟨p.1, p.2, ts, (ts ++ (if fallsThrough p.1 && p.2 + 1 < cs.length then [p.2 + 1] else [])).eraseDups⟩ :: r)))
    (some [])

/-- The targets of backward branches are safe points (R85). -/
def backward (ns : List Node) : List Nat := ns.flatMap (fun x => x.jumps.filter (· ≤ x.n))

/-- Clauses with their required safe points. -/
def withSafe (cs : List Cl) (ns : List Node) : List Cl :=
  let b := backward ns
  cs.zipIdx.map (fun p => { p.1 with safe := p.1.safe || b.contains p.2 })

/-- Apply `f` until nothing changes, at most `n` times. -/
def fixed {α : Type} [DecidableEq α] (f : α → α) : Nat → α → α
  | 0, x => x
  | n + 1, x => if f x = x then x else fixed f n (f x)

/-! ## Liveness (R85) -/

/-- Registers live before an instruction, from those live after it. -/
def liveBefore (x : FI) (after : RegSet) : RegSet := without after x.uses.killSet ||| x.uses.readSet

def liveIn (xs : List FI) (out : RegSet) : RegSet := xs.foldr liveBefore out

/-- One round over the clauses, the last first: what is live at each header. -/
def liveRound (ns : List Node) (live : List RegSet) : List RegSet :=
  ns.foldr (fun x l => l.set x.n (liveIn x.c.body (unionOf (x.succs.map (fun t => l.getD t 0))))) live

/-- Registers live at each header. -/
def liveness (ns : List Node) : List RegSet :=
  fixed (liveRound ns) (ns.length + 2) (ns.map (fun _ => 0))

/-- Registers live after each instruction of a body. -/
def liveAfter : List FI → RegSet → List RegSet
  | [], _ => []
  | _ :: r, out => liveIn r out :: liveAfter r out

/-- The live-mask word of a safe point (Table 2-3, R85). -/
def liveMask (live : RegSet) : DWord :=
  let bit (k : Nat) (has : Nat → Bool) (n : Nat) : Nat := ((upTo n).map (fun i => if has i then 2 ^ (k + i) else 0)).sum
  BitVec.ofNat 64 (bit 0 (fun i => (live >>> (8 * i)) % 2 ^ 8 ≠ 0) 32 +
    bit 32 (fun i => (live >>> (256 + 16 * i)) % 2 ^ 16 ≠ 0) 24 + bit 56 (fun i => (live >>> (640 + i)) % 2 ≠ 0) 7)

/-- The last-use bits an instruction takes: those written, and those of vector registers dead after it. None where a
written `!` stands on a register that some path reads before it is written (R85). -/
def lastUses (x : FI) (after : RegSet) : Option (List Nat) :=
  let bad := x.uses.fields.any (fun f =>
    f.2.1.lu && without after x.uses.killSet &&& regSet (f.2.1.op, f.2.2) ≠ 0)
  if bad then none
  else some ((x.uses.fields.filter (fun f =>
    f.2.1.op.isV && !f.2.1.lu && !f.2.1.kp && after &&& regSet (f.2.1.op, f.2.2) = 0)).map (·.1))

/-! ## Waits (R84) -/

/-- A long-latency instruction that writes registers: its clause, its flag and what is left of its destinations. -/
structure Def where
  clause : Nat
  pos : Nat
  flag : Nat
  regs : RegSet
  deriving DecidableEq, Repr

/-- What the instructions of a body leave of the definitions that reach it. -/
def defsAfter (n : Nat) : Nat → List FI → List Def → List Def
  | _, [], ds => ds
  | p, x :: r, ds =>
    let kept := (ds.map (fun d => { d with regs := without d.regs x.uses.killSet })).filter
      (fun d => d.regs ≠ 0 && !(d.clause = n && d.pos = p))
    let own := match x.flag with
      | some f => if isLong x.op && x.uses.writeSet ≠ 0 then [⟨n, p, f, x.uses.writeSet⟩] else []
      | none => []
    defsAfter n (p + 1) r (kept ++ own)

/-- Join two sets of definitions. -/
def joinDefs (a b : List Def) : List Def :=
  b.foldl (fun acc d =>
    if acc.any (fun e => e.clause = d.clause && e.pos = d.pos) then
      acc.map (fun e => if e.clause = d.clause && e.pos = d.pos then { e with regs := e.regs ||| d.regs } else e)
    else acc ++ [d]) a

/-- One round: each clause passes what leaves it on to its successors. -/
def defRound (step : Node → List Def → List Def) (ns : List Node) (at_ : List (List Def)) : List (List Def) :=
  ns.foldl (fun l x =>
    let out := step x (l.getD x.n [])
    x.succs.foldl (fun l t => l.set t (joinDefs (l.getD t []) out)) l) at_

/-- Definitions that reach each header. -/
def reaching (ns : List Node) : List (List Def) :=
  fixed (defRound (fun x => defsAfter x.n 0 x.c.body) ns) (ns.length * 17 + 2) (ns.map (fun _ => []))

/-- Flags whose destinations the body reads or writes, of long-latency instructions of other clauses. -/
def flagsRead (n : Nat) : Nat → List FI → List Def → List Nat
  | _, [], _ => []
  | p, x :: r, ds =>
    (ds.filter (fun d => d.clause ≠ n && d.regs &&& (x.uses.readSet ||| x.uses.writeSet) ≠ 0)).map Def.flag ++
      flagsRead n (p + 1) r (defsAfter n p [x] ds)

/-- Every clause with its waits. -/
def withWaits (ns : List Node) : List Cl :=
  let rs := reaching ns
  ns.map (fun x => { x.c with wait := (x.c.wait ++ flagsRead x.n 0 x.c.body (rs.getD x.n [])).eraseDups })

/-! ## Refused kernels -/

/-- What is still pending after a clause: its wait ends the operations of its flags; its own join. -/
def pendAfter (x : Node) (ds : List Def) : List Def :=
  joinDefs (ds.filter (fun d => !x.c.wait.contains d.flag)) ((defsAfter x.n 0 x.c.body []).map (fun d =>
    match x.c.body[d.pos]? with
    | some y => { d with regs := y.uses.writeSet }
    | none => d))

/-- No instruction touches a destination before a clause has waited on its flag (R60, R84). -/
def noEarlyUse (ns : List Node) : Bool :=
  let at_ := fixed (defRound pendAfter ns) (ns.length * 17 + 2) (ns.map (fun _ => []))
  ns.all (fun x =>
    let ds := (at_.getD x.n []).filter (fun d => !x.c.wait.contains d.flag)
    x.c.body.all (fun y => ds.all (fun d => d.regs &&& (y.uses.readSet ||| y.uses.writeSet) = 0)))

/-- Clauses that some path from the entry reaches. -/
def reachable (ns : List Node) : List Bool :=
  fixed (fun l => ns.foldl (fun l x => if l.getD x.n false then x.succs.foldl (fun l t => l.set t true) l else l) l)
    (ns.length + 2) ((ns.map (fun _ => false)).set 0 true)

/-- The longest run of headers that are no safe points, from each clause on: no more than 1,024 (R47, R85). -/
def runsOk (ns : List Node) : Bool :=
  let runs := ns.foldr (fun x (l : List Nat) =>
    l.set x.n (if x.c.safe then 0 else 1 + (x.succs.map (fun t => l.getD t 0)).foldl max 0)) (ns.map (fun _ => 0))
  runs.all (· ≤ 1024)

/-- Every register a RET reads is written on some path to it (R150). -/
def linksOk (ns : List Node) : Bool :=
  let out (xs : List FI) (s : RegSet) : RegSet := s ||| unionOf (xs.map (fun x => x.uses.writeSet))
  let at_ := fixed (fun l => ns.foldl (fun l x =>
    x.succs.foldl (fun l t => l.set t (l.getD t 0 ||| out x.c.body (l.getD x.n 0))) l) l) (ns.length * 8 + 2)
    (ns.map (fun _ => (0 : RegSet)))
  ns.all (fun x => match x.c.body.getLast? with
    | some y => (match y.a.i with
      | .ret _ _ => without (unionOf (y.uses.fields.map (fun f => regSet (f.2.1.op, f.2.2))))
          (out x.c.body (at_.getD x.n 0)) = 0
      | _ => true)
    | none => true)

/-- A body with the limbs bound (true) or perhaps not at its start: a long-integer instruction other than LBIND, LFREE
and LCARRY stands only where they are bound (R277). -/
def bindsOk : Bool → List FI → Bool × Bool
  | b, [] => (true, b)
  | b, x :: r =>
    if x.op = 0xE0 then bindsOk true r
    else if x.op = 0xE1 then bindsOk false r
    else if 0xE2 ≤ x.op && x.op ≤ 0xE8 && !b then (false, b)
    else bindsOk b r

def limbsOk (ns : List Node) : Bool :=
  let at_ := fixed (fun l => ns.foldl (fun l x =>
    match l.getD x.n none with
    | none => l
    | some b => x.succs.foldl (fun l t => l.set t (some (((l.getD t none).getD true) && (bindsOk b x.c.body).2))) l) l)
    (ns.length * 2 + 2) ((ns.map (fun _ => (none : Option Bool))).set 0 (some false))
  ns.all (fun x => match at_.getD x.n none with
    | some b => (bindsOk b x.c.body).1
    | none => true)

/-- The kernel keeps every rule by which the assembler refuses one. -/
def acceptable (ns : List Node) : Bool := noEarlyUse ns && runsOk ns && linksOk ns && limbsOk ns

end Sys2Proof.Machine.Aedud
end

