-- ==== Sys2Proof/Machine/Aedud.lean ====
section
/-! DEFINITION. The assembler (03 R81 to R86): the directives of Table 3-10, the constant window, the words of the clauses
with their headers and live masks, and the launch-record template (15 R333, R334). `assemble` reads a listing of 00 R14
and answers the kernels it emits, or none where a rule refuses the listing. -/
namespace Sys2Proof.Machine.Aedud

/-! ## What a kernel's lines declare -/

structure RoleDecl where
  name : String
  width : Nat
  count : Nat
  vregs : Nat
  sregs : Nat
  deriving DecidableEq, Repr

/-- A range template; `cls` as R334 numbers classes. -/
structure RangeDecl where
  cls : Nat
  base : BitVec 64
  stride : BitVec 64
  length : Nat
  deriving DecidableEq, Repr

/-- What has been read of a kernel: the last comes first in `items`, `bytes` and `dataLabels`; `pending` are the labels
of the data section that wait for the next byte. -/
structure Draft where
  name : String
  kennel : Bool := false
  roles : List RoleDecl := []
  scratch : Nat := 0
  acc : Nat := 0
  ranges : List RangeDecl := []
  pack : Nat := 0
  replay : Bool := false
  begun : Bool := false
  inData : Bool := false
  items : List Item := []
  bytes : List Byte := []
  pending : List String := []
  dataLabels : List (String × Nat) := []

/-- How often the listing has been read: to find the data labels, to find the code labels, and at last. -/
inductive Pass where
  | data
  | code
  | last
  deriving DecidableEq, Repr

/-- Expressions separated by blanks (`sep` none) or by commas. -/
def exprs (env : Env) (sep : Option Char) : Nat → List T → Option (List Int)
  | 0, _ => none
  | n + 1, ts =>
    match ts with
    | [] => if sep.isNone then some [] else none
    | _ =>
      (exprOf env sep.isNone ts).bind (fun p => match sep, p.2 with
        | none, r => (exprs env sep n r).map (fun q => p.1 :: q)
        | some _, [] => some [p.1]
        | some c, ⟨.mark d, _⟩ :: r => if c = d then (exprs env sep n r).map (fun q => p.1 :: q) else none
        | _, _ => none)

def blankExprs (env : Env) (ts : List T) : Option (List Int) := exprs env none (ts.length + 1) ts

def commaExprs (env : Env) (ts : List T) : Option (List Int) := exprs env (some ',') (ts.length + 1) ts

/-- A value between its limits. -/
def within (lo hi x : Int) : Option Nat := if lo ≤ x ∧ x ≤ hi then some x.toNat else none

/-- `f0, …`. -/
def flagList : Nat → List T → Option (List Nat)
  | 0, _ => none
  | n + 1, ts =>
    match ts with
    | ⟨.word s, _⟩ :: r =>
      match regOf s, r with
      | some ('f', k), [] => some [k]
      | some ('f', k), ⟨.mark ',', _⟩ :: r2 => (flagList n r2).map (fun q => k :: q)
      | _, _ => none
    | _ => none

/-! ## Directives (Table 3-10) -/

/-- A directive that stands in no section: what it declares of the kernel. The limits are those of the table. -/
def declare (env : Env) (p : Pass) (d : Draft) (name : String) (ts : List T) : Option Draft :=
  let one (lo hi : Int) : Option Nat :=
    (blankExprs env ts).bind (fun xs => match xs with
      | [x] => within lo hi x
      | _ => none)
  match name, ts with
  | ".TARGET", [⟨.word w, _⟩] =>
    if d.begun then none
    else if upper w = "CORE" then some { d with kennel := false }
    else if upper w = "KENNEL" then some { d with kennel := true } else none
  | ".ROLE", ⟨.word w, _⟩ :: r =>
    (blankExprs env r).bind (fun xs => match xs with
      | [wd, ct, vr, sr] => do
        let width ← within 8 64 wd
        let count ← within 1 96 ct
        let vregs ← within 8 256 vr
        let sregs ← within 16 384 sr
        let rs := d.roles ++ [⟨w, width, count, vregs, sregs⟩]
        if nameOk w && [8, 16, 32, 64].contains width && vregs % 8 = 0 && sregs % 16 = 0 && d.roles.length < 4 &&
            d.roles.all (fun x => x.name ≠ w) && (rs.map RoleDecl.count).sum ≤ 96 then some { d with roles := rs }
        else none
      | _ => none)
  | ".SCRATCH", _ => (one 0 24).map (fun n => { d with scratch := n })
  | ".ACC", _ => (one 0 16).map (fun n => { d with acc := n })
  | ".RANGE", ⟨.word w, _⟩ :: r =>
    (named [("RD", 0), ("WR", 1), ("ACC", 2), ("SHR", 3)] (upper w)).bind (fun cls =>
      (blankExprs env r).bind (fun xs => match xs with
        | [b, s, l] =>
          let ok := -2 ^ 63 ≤ b && b < 2 ^ 64 && -2 ^ 63 ≤ s && s < 2 ^ 64 && 1 ≤ l && l ≤ 2 ^ 57
          if (ok || p ≠ .last) && d.ranges.length < 16 then
            some { d with ranges := d.ranges ++ [⟨cls, BitVec.ofInt 64 b, BitVec.ofInt 64 s, l.toNat⟩] }
          else none
        | _ => none))
  | ".PACK", [⟨.num w, _⟩] =>
    (named [("1x2", 1), ("2x2", 2), ("1x4", 3)] w).map (fun n => { d with pack := n })
  | ".REPLAY", [] => some { d with replay := true }
  | _, _ => none

/-- A directive of the code section. -/
def codeDirective (name : String) (ts : List T) : Option Item :=
  match name, ts with
  | ".CLAUSE", [⟨.word w, _⟩] =>
    (named [("V", 0), ("M", 1), ("X", 2), ("A", 3), ("S", 4), ("L", 5), ("Y", 6)] (upper w)).map Item.openBlock
  | ".ENDCLAUSE", [] => some .closeBlock
  | ".WAIT", _ => (flagList (ts.length + 1) ts).map Item.wait
  | ".SET", _ =>
    (flagList (ts.length + 1) ts).bind (fun fs => match fs with
      | [f] => some (.set f)
      | _ => none)
  | ".SAFE", [] => some .safe
  | _, _ => none

/-- The labels that wait name the next byte; none waits when nothing follows. -/
def Draft.place (d : Draft) : Draft :=
  { d with dataLabels := d.pending.map (fun l => (l, d.bytes.length)) ++ d.dataLabels, pending := [] }

/-- Zero bytes up to a multiple of `n`. -/
def Draft.pad (d : Draft) (n : Nat) : Draft :=
  { d with bytes := List.replicate ((n - d.bytes.length % n) % n) 0 ++ d.bytes }

/-- The `n` bytes of a value, the lowest first, pushed onto the bytes already read. -/
def pushBytes (x : Int) : Nat → List Byte → List Byte
  | 0, bs => bs
  | n + 1, bs => pushBytes (x / 256) n (BitVec.ofInt 8 x :: bs)

/-- `.byte`, `.word` and `.dword`: values of `n` bytes, after natural alignment. -/
def Draft.emit (d : Draft) (p : Pass) (n : Nat) (xs : List Int) : Option Draft :=
  let ok := xs.all (fun x => -2 ^ (8 * n - 1) ≤ x && x < 2 ^ (8 * n))
  if ok || p ≠ .last then
    let e := (d.pad n).place
    some { e with bytes := xs.foldl (fun bs x => pushBytes x n bs) e.bytes }
  else none

/-- A directive of the data section. -/
def dataDirective (env : Env) (p : Pass) (d : Draft) (name : String) (ts : List T) : Option Draft :=
  match name with
  | ".ALIGN" =>
    (blankExprs env ts).bind (fun xs => match xs with
      | [x] => if 1 ≤ x ∧ x ≤ 4096 ∧ (upTo 13).any (fun k => x = 2 ^ k) then some (d.pad x.toNat) else none
      | _ => none)
  | ".BYTE" => (commaExprs env ts).bind (d.emit p 1)
  | ".WORD" => (commaExprs env ts).bind (d.emit p 4)
  | ".DWORD" => (commaExprs env ts).bind (d.emit p 8)
  | _ => none

/-- A line inside a kernel. -/
def Draft.line (env : Env) (p : Pass) (d : Draft) (l : Line) : Option Draft :=
  let d1 := match l.label with
    | none => d
    | some n => if d.inData then { d with pending := d.pending ++ [n] } else { d with items := .label n :: d.items }
  match l.head with
  | none => some d1
  | some h =>
    let u := upper h
    if u = ".DATA" then if d.inData || !l.rest.isEmpty then none else some { d1 with inData := true }
    else if u.toList.head? = some '.' then
      match declare env p d1 u l.rest with
      | some d2 => some d2
      | none =>
        if d.inData then dataDirective env p d1 u l.rest
        else (codeDirective u l.rest).map (fun x => { d1 with items := x :: d1.items })
    else if d.inData then none
    else if p = .data then some { d1 with begun := true }
    else (stmt env h l.rest).bind (fun s => (form d.kennel s).map (fun a =>
      { d1 with begun := true, items := .instr a :: d1.items }))

/-- The lines of a kernel, and its closing checks. -/
def readKernel (env : Env) (p : Pass) (name : String) (ls : List Line) : Option Draft :=
  (ls.foldl (fun acc l => acc.bind (fun d => Draft.line env p d l)) (some { name })).bind (fun d =>
    if d.roles.isEmpty then none else some d.place)

/-! ## Words (R62, R63, R84, R85) -/

/-- The bits of a set of flags. -/
def flagBits (fs : List Nat) : Nat := (fs.eraseDups.map (fun f => 2 ^ f)).sum

/-- The header of a clause. -/
def headerWord (c : Cl) (sf : SetField × SetField) : DWord :=
  BitVec.ofNat 64 (0xFF * 2 ^ 56 + c.cls.getD 0 * 2 ^ 52 + (c.body.length - 1) * 2 ^ 48 + flagBits c.wait * 2 ^ 36 +
    sf.1 * 2 ^ 32 + sf.2 * 2 ^ 28 + (if c.safe then 2 ^ 27 else 0))

/-- Words of a clause, its header and mask among them. -/
def Cl.size (c : Cl) : Nat := c.body.length + (if c.safe then 2 else 1)

/-- Byte addresses of the headers, and the first address after the code. -/
def addresses : Nat → List Cl → List Nat
  | a, [] => [a]
  | a, c :: r => a :: addresses (a + 8 * c.size) r

/-- OFF32 of a branch in a clause at `here` to `there`; none at more than 2³¹ words (R81). -/
def off32 (here there : Nat) : Option Nat :=
  let w : Int := ((there : Int) - here) / 8
  if -2 ^ 31 ≤ w ∧ w < 2 ^ 31 then some (BitVec.ofInt 32 w).toNat else none

/-- The word of an instruction: its encoding, FSEL, last-use bits and branch offset. -/
def bodyWord (lm : List (String × Nat)) (sf : SetField × SetField) (here : Nat) (x : FI) (after : RegSet) :
    Option DWord := do
  let w ← encode x.a.i
  let fs ← fselOf sf.1 sf.2 x
  let lu ← lastUses x after
  let off ← (match x.a.label with
    | none => some 0
    | some l => (named lm l).bind (off32 here) : Option Nat)
  pure (w ||| BitVec.ofNat 64 ((if fs then 2 ^ 51 else 0) ||| unionOf (lu.map (fun k => 2 ^ k)) ||| off * 2 ^ 7))

/-- All of a list, or none. -/
def allOf {α : Type} (xs : List (Option α)) : Option (List α) :=
  xs.foldr (fun x acc => x.bind (fun y => acc.map (fun r => y :: r))) (some [])

/-- The words of a clause at `here`, given what is live at its header and after its last instruction. -/
def clauseWords (lm : List (String × Nat)) (c : Cl) (here : Nat) (atHeader out : RegSet) : Option (List DWord) := do
  let sf ← setFields c.body
  let ws ← allOf ((c.body.zip (liveAfter c.body out)).map (fun p => bodyWord lm sf here p.1 p.2))
  pure (headerWord c sf :: ((if c.safe then [liveMask atHeader] else []) ++ ws))

/-! ## The three images (R86) -/

/-- The bytes of the template in pieces: a field of `n` bytes, little-endian. -/
def le (n x : Nat) : List Byte := (pushBytes x n []).reverse

/-- The launch-record template: the fields marked T of Table 15-1, the others 0. -/
def template (d : Draft) (codeBytes : Nat) : List Byte :=
  le 2 1 ++ le 1 d.roles.length ++ le 1 (if d.replay then 1 else 0) ++ le 1 0 ++ le 1 d.pack ++ le 1 d.acc ++
    le 1 d.ranges.length ++ le 1 d.scratch ++ List.replicate 15 0 ++ le 4 codeBytes ++ le 4 d.bytes.length ++
    List.replicate 96 0 ++
    (d.roles.flatMap (fun r => le 1 r.width ++ le 1 r.count ++ le 2 r.vregs ++ le 2 r.sregs ++ List.replicate 10 0)) ++
    List.replicate (16 * (4 - d.roles.length)) 0 ++ List.replicate 320 0 ++
    (d.ranges.flatMap (fun r => le 8 r.base.toNat ++ le 8 r.stride.toNat ++ le 8 r.length ++ le 1 r.cls ++
      List.replicate 7 0)) ++
    List.replicate (32 * (16 - d.ranges.length)) 0

/-- What the assembler emits for a kernel. -/
structure Kernel where
  name : String
  kennel : Bool
  code : List DWord
  window : List Byte
  template : List Byte
  deriving DecidableEq, Repr

/-- The clauses of a draft with their safe points, and their flow. -/
def shape (d : Draft) : Option (List Cl) := do
  let items := d.items.reverse
  let pool := (upTo 12).filter (fun f => !(namedFlags items).contains f)
  let xs ← assignFlags pool none items
  let cs ← formClauses xs
  let ns ← flow cs
  pure (withSafe cs ns)

/-- Code labels with their addresses. -/
def codeLabels (cs : List Cl) : List (String × Nat) :=
  (cs.zip (addresses 0 cs)).flatMap (fun p => p.1.labels.map (fun l => (l, p.2)))

/-- The code image of a draft, with the waits it takes. -/
def codeImage (d : Draft) : Option (List DWord) := do
  let cs ← shape d
  let ws := withWaits (← flow cs)
  let ns ← flow ws
  if !acceptable ns then none
  else
    let live := liveness ns
    let lm := codeLabels ws
    let parts ← allOf (((ns.zip (addresses 0 ws))).map (fun p =>
      clauseWords lm p.1.c p.2 (live.getD p.1.n 0) (unionOf (p.1.succs.map (fun t => live.getD t 0)))))
    pure parts.flatten

/-- Values of names: role names, then labels. That a name which is both a role's and a label's (`cons` of chapter 18) stands
for the role's number is a DESIGN CHOICE of the model (log 103): R81 does not say. -/
def envOf (roles : List RoleDecl) (labels : List (String × Nat)) : Env := fun s =>
  match named (roles.zipIdx.map (fun p => (p.1.name, (p.2 : Int)))) s with
  | some x => some x
  | none => (named labels s).map (fun n => (n : Int))

/-- A kernel from its lines: first its roles and data labels, then its clauses with code labels at 0, then, with every
label known, what is emitted. A name is one label only. -/
def kernelOf (name : String) (ls : List Line) : Option Kernel := do
  let names := ls.flatMap (fun l => l.label.toList)
  if !names.Nodup then none
  else
    let d0 ← readKernel (fun _ => some 0) .data name ls
    let zero := names.map (fun n => (n, 0))
    let d1 ← readKernel (envOf d0.roles (d0.dataLabels ++ zero)) .code name ls
    let cs ← shape d1
    let d2 ← readKernel (envOf d1.roles (d1.dataLabels ++ codeLabels cs)) .last name ls
    let code ← codeImage d2
    pure ⟨name, d2.kennel, code, d2.bytes.reverse, template d2 (8 * code.length)⟩

/-- A kernel's name is a word; R81 limits the names of labels and symbols only. -/
def kernelNameOk (s : String) : Bool :=
  match s.toList with
  | c :: _ => isLetter c || c = '_'
  | [] => false

/-- The kernels of a listing: nothing but blank lines stands between them, and they do not nest. -/
def kernelsOf : Option (String × List Line) → List Line → Option (List Kernel)
  | none, [] => some []
  | some _, [] => none
  | cur, l :: r =>
    match cur, l.label, l.head.map upper, l.rest with
    | none, none, none, _ => kernelsOf none r
    | none, none, some ".KERNEL", [⟨.word n, _⟩] => if kernelNameOk n then kernelsOf (some (n, [])) r else none
    | none, _, _, _ => none
    | some _, _, some ".KERNEL", _ => none
    | some (n, ls), lab, some ".ENDKERNEL", [] =>
      (kernelOf n (⟨lab, none, []⟩ :: ls).reverse).bind (fun k => (kernelsOf none r).map (fun q => k :: q))
    | some _, _, some ".ENDKERNEL", _ => none
    | some (n, ls), _, _, _ => kernelsOf (some (n, l :: ls)) r

/-- The assembler (R86): the kernels of a listing, in order; none where it refuses the listing. -/
def assemble (text : List Char) : Option (List Kernel) := (allOf ((linesOf text).map line)).bind (kernelsOf none)

end Sys2Proof.Machine.Aedud
end

