-- ==== Sys2Proof/Tests/Slice0.lean ====
section
/-! SUPPORT. Tests. Expected values come from the spec's encodings, tables and worked examples, or are computed by hand from
its rules. First the checks of well-formedness, then decoding, then single steps, then, for each statement with
hypotheses, a state and operands that meet them. -/
open Sys2Proof Sys2Proof.Machine

set_option maxRecDepth 20000
set_option exponentiation.threshold 5000

/-! ## Well-formedness: a term that breaks each check is refused -/

namespace Wf

def r (o : Opnd) : Src := ⟨o, false, false⟩
def v (n : Nat) : Src := r (.v (BitVec.ofNat 8 n))
def s (n : Nat) : Src := r (.s (BitVec.ofNat 9 n))
def p (n : Nat) : Src := r (.p (BitVec.ofNat 3 n))
def k (n : Nat) : Src := r (.nat (BitVec.ofNat 6 n))
def f1 : Src := r (.fp 0)
def lane : Src := r (.special 0)
def bothBits (n : Nat) : Src := ⟨.v (BitVec.ofNat 8 n), true, true⟩
def luConst : Src := ⟨.nat 1, true, false⟩
def m (b o : Src) : MAddr := ⟨b, o⟩
def g0 : Guard := ⟨false, 0⟩
def gBad : Guard := ⟨true, 7⟩
def cmd (d : BitVec 9) (sig : Option (BitVec 9 × BitVec 9)) (prio : BitVec 2) (sc : Scope) : CmdF :=
  ⟨false, d, sig, false, prio, sc⟩

end Wf
open Wf

theorem test_wf_refuses_operands :
    [Instr.sAdd .i32 false 384 (s 0) (s 1), .sAdd .i32 false 0 (s 384) (s 1), .sAdd .i32 false 0 (v 0) (s 1),
     .sAdd .i32 false 0 (s 0) lane, .sNot .i32 0 luConst, .vAdd .i32 false 0 (bothBits 1) (v 2), .vAdd .i32 false 0 (p 1) (v 2),
     .sMov true 3 (s 2), .sMov true 2 (s 3), .sMov true 2 f1, .sMov false 2 (p 1), .sLi true 3 0, .sLi false 384 0,
     .vMov true 3 (v 2), .vMov true 2 (v 3), .vMov true 2 (p 1), .vLi true 1 0].all (fun i => !i.wf) = true := by decide

theorem test_wf_refuses_uniform :
    [Instr.sSub .i32 false 0 (v 0) (s 1), .sMul .i32 400 (s 0) (s 1), .sAdd64 1 (s 0) (s 2), .sSub64 0 (s 1) (s 2),
     .sShl64 0 (s 2) (s 3), .sCmp .ord .i32 (.s 0) (s 0) (s 1), .sCmp .eq .i32 (.v 0) (s 0) (s 1),
     .sSel gBad false 0 (s 0) (s 1) (s 2), .sSel g0 true 1 (s 0) (s 2) (s 4), .sSel g0 false 0 (s 0) (s 1) (v 2),
     .sBfe .i32 0 (s 0) 0 0, .sBfe .i32 0 (s 0) 1 32, .sBfi .i32 0 (s 0) (s 1) 31 2, .sClz 0 (v 0), .sPopc 0 (p 0),
     .sRsr true 1 0, .sRsr false 384 0, .sWsr true 0 (s 1), .sWsr false 0 (v 1), .sVget false 0 (s 1) (s 2),
     .sVget true 0 (v 1) (s 2), .sVget false 0 (v 1) (v 2)].all (fun i => !i.wf) = true := by decide

theorem test_wf_refuses_control :
    [Instr.br gBad none 0, .br g0 (some (true, p 0)) 0, .brx g0 (s 1), .brx g0 (k 1), .ret gBad (s 0), .ret g0 (v 1),
     .call g0 (.p 0) 0, .call g0 (.s 1) 0, .call gBad (.s 0) 0, .reform (some (s 1)), .reform (some (k 0))].all
      (fun i => !i.wf) = true := by decide

theorem test_wf_refuses_vector :
    [Instr.vMad .i32 false 0 (v 0) (v 1) (p 2), .vMadw .i32 1 (v 0) (v 1) (v 2), .vMadw .i32 0 (v 0) (v 1) (v 3),
     .vNot .i32 0 (p 0), .vAbs .n8 false 0 (v 0), .vCmp .uno .i32 (.p 0) (v 0) (v 1), .vCmp .eq .i8 (.p 0) (v 0) (v 1),
     .vCmp .eq .i32 (.s 0) (v 0) (v 1), .vSel gBad false 0 (v 0) (v 1) (v 2), .vSel g0 true 1 (v 0) (v 2) (p 0),
     .vBfe .i32 0 (v 0) 0 33, .vBfi .i32 0 (v 0) (v 1) 20 20, .vPopc .i32 0 (p 0), .vDot4 false false false 0 (v 0) (v 1) (p 0),
     .vReq false 0 (v 0) (p 1) (v 2), .vUnpk3 0 0 1 (v 0), .vCvt .i8 .i8 0 (v 0), .vCvt .i32 .i4 0 (v 0),
     .vCvt .i32 .i8 2 (v 0), .vCvt .i8 .i32 0 (v 2), .vShfl .idx 7 0 (v 0) (k 0) 0, .vShfl .idx 0 0 (s 0) (k 0) 0,
     .vRed .addI (.p 0) (v 0), .vScan false .addI 0 (k 0), .vBcast true 0 1 (v 0) (s 0), .vBcast false 7 0 (v 0) (s 0),
     .vVote .ballot (.s 1) (p 0), .vVote .count (.p 0) (p 0), .vVote .all (.s 0) (s 1)].all (fun i => !i.wf) = true := by
  decide

theorem test_wf_refuses_float :
    [Instr.vFadd .f32 .sr 0 (v 0) (v 1), .vFsub .f32 .sr 0 (v 0) (v 1), .vFmul .f32 .dyn 0 (p 0) (v 1), .vFmin .f32 0 (v 0) (p 1),
     .vFfma .f32 .sr 0 (v 0) (v 1) (v 2), .vFcmp .eq .f32 (.s 0) (v 0) (v 1), .vFclass .f32 0 (p 0), .vFrnd .f32 .sr 0 (v 0),
     .vFcvt .f32 .f32 .dyn 0 (v 0) none, .vFcvt .f16 .f32 .dyn 0 (v 1) none, .vFcvt .e4m3 .f32 .sr 0 (v 0) none,
     .vFcvt .f16 .f32 .sr 0 (v 0) (some (v 1)), .vFcvt .e4m3 .f32 .rne 0 (v 0) (some (v 4)), .vFicvt .i8 .f16 .dyn 0 (v 0),
     .vFicvt .i32 .f32 .sr 0 (v 0), .vFrcp 0 (p 0), .vFsqrt .sr 0 (v 0), .vHfma2 .f32 .rne 0 (v 0) (v 1) (v 2),
     .vHadd2 .f32 .rne 0 (v 0) (v 1), .vHmul2 .f16 .sr 0 (v 0) (v 1), .vMxscl .e4m3 0 (p 0),
     .vMxpack .e4m3 .sr 0 (v 0) (v 1) none, .vMxpack .e4m3 .rne 0 (v 0) (v 1) (some (v 2))].all (fun i => !i.wf) = true := by
  decide

theorem test_wf_refuses_memory :
    [Instr.ld false .b64 1 (m (s 0) (k 0)) 0x1FF, .ld false .b32 0 (m (s 1) (k 0)) 0x1FF, .ld false .b32 0 (m (k 0) (k 0)) 0x1FF,
     .ld false .b32 0 (m (s 0) (p 0)) 0x1FF, .ld false .b32 0 (m (s 0) (k 0)) 384, .st gBad false .b32 (v 0) (m (s 0) (k 0)) 0x1FF,
     .st g0 false .i8 (v 0) (m (s 0) (k 0)) 0x1FF, .st g0 false .b64 (v 1) (m (s 0) (k 0)) 0x1FF,
     .st g0 false .b64 (k 1) (m (s 0) (k 0)) 0x1FF, .lds false .b128 2 (m (s 0) (k 0)), .lds false .b32 0 (m (k 1) (k 0)),
     .sts g0 false .i16 (v 0) (m (s 0) (k 0)), .ldr false .b64 0 1 (m (s 0) (k 0)), .str gBad false .b32 0 (v 0) (m (s 0) (k 0)),
     .ldu false .b64 1 (m (s 0) (k 0)) 0x1FF, .ldu false .b32 0 (m (s 0) (v 0)) 0x1FF, .stu g0 false .b32 (v 0) (m (s 0) (k 0)) 0x1FF,
     .ldc false .b32 (.s 0) (m (s 0) (v 0)), .ldc false .b64 (.v 1) (m (s 0) (k 0)), .ldc false .b32 (.p 0) (m (s 0) (k 0)),
     .pref false false (m (s 1) (k 0)) 0x1FF, .fence false .g .rlx, .mxld false .e4m3 1 (m (s 0) (k 0)),
     .mxacc g0 false .e4m3 .e4m3 (s 0) (m (s 0) (k 0)) false 0, .atom gBad false .add32 .d .rlx false (v 0) (m (s 0) (k 0)),
     .atom g0 false .cas32 .d .rlx false (v 1) (m (s 0) (k 0)), .atom g0 false .add32 .d .rlx true (k 1) (m (s 0) (k 0)),
     .atoms g0 false .add32 .d .rlx false none (v 0) (m (s 0) (k 0)),
     .atoms g0 false .add32 .t .rlx false (some 1) (v 0) (m (s 0) (k 0)), .atomu g0 false .add32 .g .rlx false (s 0) (m (s 0) (k 0)),
     .atomu g0 false .add32 .d .rlx false (v 0) (m (s 0) (k 0))].all (fun i => !i.wf) = true := by decide

theorem test_wf_refuses_engines :
    [Instr.tdef 0 2, .mma false 0 0 0 (some 1) false false 0, .accRd false 0 4 0, .accWr false 0 9 0 false, .accOut false 0 0 .dyn,
     .accOut false 0 0 .sr, .mstat false 384 false, .cp (cmd 4 none 0 .g), .cp (cmd 384 none 0 .g), .cp (cmd 0 (some (1, 0)) 0 .g),
     .cp (cmd 0 (some (384, 0)) 0 .g), .cp (cmd 0 (some (0, 384)) 0 .g), .cp (cmd 0 none 0 .d), .cpt (cmd 1 none 0 .g) true .none,
     .cpg (cmd 1 none 0 .g) false, .cpsc (cmd 1 none 0 .g) false, .cpr (cmd 1 none 0 .g), .cpx (cmd 1 none 0 .g) false,
     .coll (cmd 0 none 1 .g) .allred .f32, .cpq (cmd 0 none 1 .g)].all (fun i => !i.wf) = true := by decide

theorem test_wf_refuses_sync :
    [Instr.barInit false (m (s 0) (k 0)) (v 0), .barArr false (m (k 1) (k 0)) false, .barWait false (m (s 0) (v 0)),
     .barAw false (m (v 0) (k 0)) false, .tktTake false true 0 (m (s 1) (k 0)), .tktTake false false 384 (m (s 0) (k 0)),
     .tktWait false false .d (m (s 0) (k 0)) (s 1), .tktPass false false .k (m (s 0) (k 0)), .waita false true .d .eq (m (s 0) (k 0)) (v 0),
     .fifoPush false true (k 0) (v 1), .fifoPush false false (v 0) (v 0), .fifoPop false true (k 0) 1].all (fun i => !i.wf) = true := by
  decide

theorem test_wf_refuses_long_and_system :
    [Instr.lbind 1, .lbind 65, .ladd false 1 (v 0) (v 2), .lsub false 0 (v 1) (v 2), .ladd false 0 (v 0) f1, .lneg 0 (v 1),
     .lshl 0 (v 0) (v 2), .lshr false 0 (v 0) lane, .lmulw 0 (v 0) (s 1) 0, .lcmp .uno false (.s 0) (v 0) (v 2),
     .lcmp .eq false (.v 0) (v 0) (v 2), .lcarry false 384, .launch false 0 (r (.neg 1)) (s 0), .launch false 0 (s 0) (s 1),
     .perf false false 0 8, .perf false true 0 0x20, .perf true false 1 0, .icinv false false (s 1) (k 0),
     .icinv false false (s 0) (v 0), .clk 1, .mmld false true 1 (m (s 0) (k 0)), .mmld false false 0 (m (k 1) (k 0)),
     .mmst false true (s 1) (m (s 0) (k 0)), .mmst false false (k 1) (m (s 0) (k 0))].all (fun i => !i.wf) = true := by decide

theorem test_wf_refuses_events :
    [Instr.turn 576 0, .turn 0 6, .loadLand 0 96 0, .operandLogReplay 0 96, .parkWake 0 0 64, .reformFiling 0 96 0,
     .binReleaseFull 0 64, .collComplete 0 0 [⟨256, .allred, .f32, 0, [], []⟩], .push 64 0, .bankDrain 144 0, .bankDrain 0 128,
     .cmdResume 0 96, .regdataWrite 576 0 0, .registerWrite true (2 ^ 32) 4 0, .budgetPeriod [⟨144, [0, 0, 0, 0]⟩] [], .budgetPeriod [⟨0, [0]⟩] [],
     .budgetPeriod [] [0, 0, 0, 0, 0, 0, 0], .leashTrigger 0 6 0, .scanVisit 576, .scrub 0xB2D05E0000 .clean none,
     .sctlall 576 0, .enloRead 6].all (fun i => !i.wf) = true := by decide

/-! ## Decoding: words written out from the spec's encodings -/

def dec (w : DWord) : Option Instr := (decode w).toOption

def why (x : Except BadWord Instr) : Option BadWord :=
  match x with
  | .error e => some e
  | .ok _ => none

/-- The words of the listings of chapters 3, 6 and 7 and the instructions they are printed for. -/
theorem test_decode_uniform_and_control :
    dec 0x1872280000000181 = some (.sRsr true 20 12) ∧
    dec 0x3070940000000282 = some (.br .always (some (true, s 40)) 5) ∧
    dec 0x3071628000002901 = some (.br .always (some (false, r (.special 5))) 0x52) := by decide

theorem test_decode_vector :
    dec 0x59701300822822A0 = some (.vReq false 9 ⟨.v 4, true, false⟩ (s 20) (s 21)) ∧
    dec 0x607006004602000E = some (.vShfl .down 3 3 (v 2) (k 1) 0) ∧
    dec 0x4C70045806060001 = some (.vShl .n32 2 lane (k 3)) := by decide

theorem test_decode_float :
    dec 0x74700B00700400A0 = some (.vFfma .f32 .dyn 5 ⟨.v 3, true, false⟩ ⟨.v 2, true, false⟩ (v 5)) ∧
    dec 0x7970140080042166 = some (.vFcvt .e4m3 .f32 .sr 10 (v 4) (some (v 2))) ∧
    dec 0x7070050050020001 = some (.vFadd .f32 .rne 2 ⟨.v 2, true, false⟩ ⟨.v 1, true, false⟩) ∧
    dec 0x8570160060000000 = some (.vMxscl .e4m3 11 (v 3)) ∧
    dec 0x8670190060160001 = some (.vMxpack .e4m3 .rne 12 ⟨.v 3, true, false⟩ (v 11) none) := by decide

theorem test_decode_memory :
    dec 0x9070038840010A20 = some (.ld false .b32 7 (m (s 8) (v 2)) 40) ∧
    dec 0x96708488608AFFE0 = some (.ldu false .b32 9 (m (s 12) (s 21)) 0x1FF) ∧
    dec 0x9174030864017FE8 =
      some (.st .always false .b64 ⟨.v 6, true, false⟩ (m (s 12) ⟨.v 2, true, false⟩) 0x1FF) ∧
    dec 0x9A7000000000001C = some (.fence false .d .rel) ∧ dec 0x9B70000000000000 = some (.phase false) := by decide

theorem test_decode_atomics_and_mx :
    dec 0xA370028840010042 = some (.atom .always false .add32 .d .rel true (v 5) (m (s 8) (v 2))) ∧
    dec 0xAC7180884085002A = some (.atomu .always false .exch32 .t .rel false (k 1) (m (s 8) (s 10))) ∧
    dec 0x9C700A0840010000 = some (.mxld false .e4m3 20 (m (s 8) (v 2))) ∧
    dec 0x9D140608400142C0 =
      some (.mxacc ⟨false, 1⟩ false .e4m3 .e4m3 ⟨.v 12, true, false⟩ (m (s 8) (v 2)) true 11) := by decide

theorem test_decode_matrix_and_async :
    dec 0xB170808A00000011 = some (.mma false 1 0 1 (some 40) false true 1) ∧
    dec 0xB571007FC0000310 = some (.accRd false 2 16 3) ∧ dec 0xB870007FC000021E = some (.mstat false 30 true) ∧
    dec 0xC17040502A000089 = some (.cpt ⟨false, 16, some (40, 42), false, 1, .t⟩ false .fp8) := by decide

theorem test_decode_sync :
    dec 0xD071810861800000 = some (.barInit false (m (s 12) (k 0)) (k 2)) ∧
    dec 0xD170000979800000 = some (.barArr false (m (s 47) (k 0)) false) ∧
    dec 0xD5708C08A180002C = some (.tktWait false true .d (m (s 20) (k 0)) (s 24)) ∧
    dec 0xD67000084180002C = some (.tktPass false true .d (m (s 8) (k 0))) ∧
    dec 0xD7708B08608A0026 = some (.waita false true .t .ge (m (s 12) (s 20)) (s 22)) ∧
    dec 0xD87000000000000A = some (.waitf false 10) := by decide

theorem test_decode_long :
    dec 0xE070000000000100 = some (.lbind 8) ∧ dec 0xE2700D0086020000 = some (.ladd false 6 ⟨.v 4, true, false⟩ (k 1)) ∧
    dec 0xE3700C0080080000 = some (.lsub false 6 (v 4) (v 4)) ∧ dec 0xE770100082280060 = some (.lmulw 8 (v 4) (s 20) 3) ∧
    dec 0xE8725000C0100005 = some (.lcmp .ge false (.s 40) (v 6) (v 8)) ∧
    dec 0xE9723C0000000000 = some (.lcarry false 30) := by decide

theorem test_decode_system :
    dec 0xEE723C60A2280000 = some (.launch false 30 (k 5) (s 20)) ∧ dec 0xEF72280000000021 = some (.perf true false 20 1) ∧
    dec 0xF1723C0000000000 = some (.clk 30) ∧ dec 0xF270000000000000 = some .wfi ∧ dec 0xF370000000000000 = some .iret ∧
    dec 0xF470850821887FE0 = some (.mmld false false 10 (m (s 4) (k 16))) := by decide

/-- Reserved words (R73, R106, R107): an opcode of no instruction, a source field of no operand, a reserved MOD. -/
theorem test_decode_refuses :
    why (decode 0xF670000000000000) = some .illOp ∧ why (decode 0x1B70000000000000) = some .illOp ∧
    why (decode 0x16700000000000FF) = some .illEnc ∧ why (decode 0x3670000000000001) = some .illEnc ∧
    why (decodeFor false 0xF270000000000000) = some .illOp ∧ why (decodeFor true 0x4070000000000000) = some .illOp := by decide

/-- The host's reading of an opcode table row, and the word the step then runs. -/
theorem test_table_word :
    decodeTableWord 64 0x3670000000000000 = some .nop ∧
    (State.reset.withFetchWord 64 0x3670000000000000).ctx?.map (fun c => c.cl.word) = some 0x3670000000000000 := by decide

/-! ## Single steps -/

/-- A clause of one instruction in a group of eight running lanes: v0 to v15 of a lane hold its number, s0 to s47 hold 0,
the scratchpad is 64 KiB of zeros. -/
def bGroup (i : Instr) : Group :=
  { Group.init 0 0 8 64 64 0 0 with
    lanes := (upTo 8).map (fun l => { Lane.empty with
      thread := .running, tid := l, regs := (upTo 16).map (fun n => (n, ⟨BitVec.ofNat 32 l, false⟩)) }),
    sregs := (upTo 48).map (fun n => (n, ⟨0, false⟩)),
    portA := some (benchClause ((encode i).getD 0) 0xFF) }

def bTeam (g : Group) : Team :=
  { Team.make 0 0 0 0 [] 0 with st := .running, resident := true, groups := [g], fifos := List.replicate 4 (0, 0) }

def bench (i : Instr) (f : Group → Group := id) (h : Team → Team := id) (e : State → State := id) : State :=
  e { State.reset with
      focus := .port 0 0 false, mem := placeCode [] (benchClause ((encode i).getD 0) 0xFF), released := true,
      grids := [Grid.make 0 0 benchLaunch [0] [⟨0, 65536, 0, false⟩] 0], teams := [(0, h (bTeam (f (bGroup i))))],
      sched := { Sched.init with gridCount := 1, dispCount := 1 } }

def putS (n : Nat) (x : Word) (g : Group) : Group := g.setS n x
def putV (n : Nat) (f : Nat → Word) (g : Group) : Group := g.setLanes 0xFF n f

/-- The state after, and what the test looks at. -/
def next (i : Instr) (s : State) : State :=
  match exec i s with
  | .next t => t
  | _ => State.reset

def run (i : Instr) (f : Group → Group := id) (h : Team → Team := id) (e : State → State := id) : State :=
  next i (bench i f h e)

def sAt (s : State) (n : Nat) : Option Word := (s.group? 0 0).bind (fun g => (AMap.get? g.sregs n).map Reg.val)
def vAt (s : State) (l n : Nat) : Option Word := (s.group? 0 0).bind (fun g => (g.vReg l n).map Reg.val)
def gAt {α : Type} (s : State) (f : Group → α) : Option α := (s.group? 0 0).map f
def causeAt (s : State) : Option Cause := (s.group? 0 0).bind (fun g => g.halt.map Halt.cause)
/-- The words an operation in flight will land. -/
def landsAt (s : State) : List (Option Nat × Nat × Word) :=
  (((s.group? 0 0).map Group.ops).getD []).flatMap (fun o =>
    match o.act with
    | .land ws => ws.map (fun w => (w.lane, w.reg, w.val))
    | _ => [])

theorem test_bench_issues : (bench .nop).ctx?.map Ctx.active = some 0xFF := by decide

/-- R128: saturation to the signed range, and wrap without it. -/
theorem test_sAdd_saturates :
    sAt (run (.sAdd .i32 true 0 (s 1) (k 1)) (putS 1 0x7FFFFFFF)) 0 = some 0x7FFFFFFF ∧
    sAt (run (.sAdd .i32 false 0 (s 1) (k 1)) (putS 1 0x7FFFFFFF)) 0 = some 0x80000000 := by decide

theorem test_sSub64_borrows : sAt (run (.sSub64 0 (s 2) (k 1)) (putS 3 1 ∘ putS 2 0)) 1 = some 0 := by decide

theorem test_sMulhi_signed : sAt (run (.sMulhi .i32 0 (s 1) (k 2)) (putS 1 0x80000000)) 0 = some 0xFFFFFFFF := by decide

theorem test_sBfe_signs : sAt (run (.sBfe .i32 0 (s 1) 4 4) (putS 1 0xF0)) 0 = some 0xFFFFFFFF := by decide

theorem test_sShr_by_32 : sAt (run (.sShr .n32 0 (s 1) (k 32)) (putS 1 0xFFFFFFFF)) 0 = some 0 := by decide

theorem test_sClz_of_zero : sAt (run (.sClz 0 (s 1))) 0 = some 32 := by decide

/-- R131 with a constant condition, and R119: a guard that does not hold leaves the destination. -/
theorem test_sSel_guarded :
    sAt (run (.sSel .always false 0 (k 5) (k 9) (k 1))) 0 = some 5 ∧
    sAt (run (.sSel ⟨false, 0⟩ false 0 (k 5) (k 9) (k 1))) 0 = some 0 := by decide

/-- R135: the lane is taken modulo the width. -/
theorem test_sVget_wraps : sAt (run (.sVget false 0 (v 3) (k 11))) 0 = some 3 := by decide

/-- R35: the last use of a source unbinds it; the destination may be the source. -/
theorem test_last_use :
    sAt (run (.sMov false 0 ⟨.s 1, true, false⟩) (putS 1 7)) 0 = some 7 ∧
    sAt (run (.sMov false 0 ⟨.s 1, true, false⟩) (putS 1 7)) 1 = none ∧
    sAt (run (.sMov false 1 ⟨.s 1, true, false⟩) (putS 1 7)) 1 = some 7 := by decide

/-- R36. -/
theorem test_poison_read :
    sAt (run (.sMov false 0 (s 100))) 0 = some 0xFFC0DEAD ∧ gAt (run (.sMov false 0 (s 100))) Group.gstat = some 1 := by decide

/-- R137: the target is 8 bytes times the offset from the header; a target that is no clause header raises BADTARGET. -/
theorem test_br_target :
    gAt (run (.br .always none 0)) (fun g => (g.lane 0).pc) = some 0 ∧ causeAt (run (.br .always none 1)) = some .badTarget ∧
    gAt (run (.br ⟨false, 0⟩ none 1)) (fun g => (g.lane 0).pc) = some 16 := by decide

theorem test_exit_dissolves :
    gAt (run .exit) Group.live = some false ∧ gAt (run .exit) (fun g => g.running) = some 0 := by decide

/-- R163: packed bytes add modulo 256, and saturate each by itself. -/
theorem test_vAdd_bytes :
    vAt (run (.vAdd .n8 false 1 (s 0) (s 1)) (putS 1 0x01010101 ∘ putS 0 0xFF7F00FF)) 3 1 = some 0x00800100 ∧
    vAt (run (.vAdd .n8 true 1 (s 0) (s 1)) (putS 1 0x01010101 ∘ putS 0 0xFF7F00FF)) 3 1 = some 0xFF8001FF := by decide

/-- Table 7-5: a lane outside the segment reads its own. -/
theorem test_vShfl_up :
    vAt (run (.vShfl .up 0 1 (v 0) (k 1) 0)) 3 1 = some 2 ∧ vAt (run (.vShfl .up 0 1 (v 0) (k 1) 0)) 0 1 = some 0 := by decide

theorem test_vRed_add : sAt (run (.vRed .addI (.s 0) (v 0))) 0 = some 28 := by decide

theorem test_vScan_exclusive :
    vAt (run (.vScan true .addI 1 (v 0))) 0 1 = some 0 ∧ vAt (run (.vScan true .addI 1 (v 0))) 7 1 = some 21 := by decide

theorem test_vVote_ballot :
    sAt (run (.vVote .ballot (.s 0) (v 0))) 0 = some 0xFE ∧ sAt (run (.vVote .ballot (.s 0) (v 0))) 1 = some 0 := by decide

/-- R170: 242 is 22222 in ternary, each 2 the byte 0xFF; 243 is no code and raises TERNBAD. -/
theorem test_vUnpk3 :
    vAt (run (.vUnpk3 0 0 2 (s 0)) (putS 0 242)) 0 2 = some 0xFFFFFFFF ∧ vAt (run (.vUnpk3 0 0 2 (s 0)) (putS 0 242)) 0 3 = some 0xFF ∧
    gAt (run (.vUnpk3 0 0 2 (s 0)) (putS 0 243)) Group.ternbad = some 0xFF := by decide

/-- 1 + 2⁻²⁴ is a tie: to even by default, away with RNA; both set NX (R183, Table 6-3). -/
theorem test_vFadd_rounds :
    vAt (run (.vFadd .f32 .rne 1 (s 0) (s 1)) (putS 1 0x33800000 ∘ putS 0 0x3F800000)) 0 1 = some 0x3F800000 ∧
    vAt (run (.vFadd .f32 .rna 1 (s 0) (s 1)) (putS 1 0x33800000 ∘ putS 0 0x3F800000)) 0 1 = some 0x3F800001 := by decide

/-- ∞ − ∞ is the canonical NaN and sets INV. -/
theorem test_vFsub_invalid :
    (vAt (run (.vFsub .f32 .rne 1 (s 0) (s 0)) (putS 0 0x7F800000)) 0 1 = some 0x7FC00000) := by decide

/-- 2.5 is not exact in a byte integer: 2 to even (R193). -/
theorem test_vFicvt_ties :
    (vAt (run (.vFicvt .i32 .f32 .rne 1 (s 0)) (putS 0 0x40200000)) 0 1 = some 2) := by decide

/-- A declared range of the class at address 65,536, translated to physical 131,072; s8 and s9 hold its address. -/
def ranged (cls : RClass) (t : Team) : Team := { t with ranges := [⟨65536, 4096, cls, [⟨65536, 65536, 131072, true⟩]⟩] }

def based (g : Group) : Group := (g.setS 8 65536).setS 9 0

def memAt (bs : List Byte) (s : State) : State := { s with mem := Memory.writeN s.mem 131072 bs }

/-- Little-endian bytes, zero-extended into the destination; each lane reads its own address (R198, R213). -/
theorem test_ld_words :
    (landsAt (run (.ld false .b32 7 (m (s 8) (k 0)) 0x1FF) based (ranged .shr) (memAt [0x78, 0x56, 0x34, 0x92]))).head? =
      some (some 0, 7, 0x92345678) ∧
    (landsAt (run (.ld false .i8 7 (m (s 8) (v 0)) 0x1FF) based (ranged .shr) (memAt [0x78, 0x56, 0x34, 0x92])))[3]? =
      some (some 3, 7, 0xFFFFFF92) := by decide

/-- The highest lane's store stands (R199); to a WR range it is staged (R205). -/
theorem test_st_highest_lane :
    Memory.readLE (run (.st .always false .b32 (v 0) (m (s 8) (k 0)) 0x1FF) based (ranged .shr)).mem 131072 4 = 7 ∧
    Memory.readLE (run (.st .always false .b32 (v 0) (m (s 8) (k 0)) 0x1FF) based (ranged .wr)).mem 131072 4 = 0 := by decide

/-- Eight lanes add 1 to one word in ascending order; each gets the value before its own (R239). -/
theorem test_atom_ascends :
    Memory.readLE (run (.atom .always false .add32 .d .rlx true (v 3) (m (s 8) (k 0))) (based ∘ putV 3 (fun _ => 1)) (ranged .acc)
      (memAt [5])).mem 131072 4 = 13 ∧
    (landsAt (run (.atom .always false .add32 .d .rlx true (v 3) (m (s 8) (k 0))) (based ∘ putV 3 (fun _ => 1)) (ranged .acc)
      (memAt [5]))).getLast? = some (some 7, 3, 12) := by decide

/-- A lane that reaches past the scratchpad is switched off (R203); the others read. -/
theorem test_lds_violation :
    gAt (run (.lds false .b32 5 (m (s 1) (v 6))) (putS 1 0x80000 ∘ putV 6 (fun l => if l = 3 then 0 else 0xFFFFFFFC)))
      Group.svmask = some 8 := by decide

/-- A store outside the scratchpad by every lane leaves no thread in the group, which dissolves (R42, R203). -/
theorem test_violation_dissolves :
    gAt (run (.sts .always false .b32 (v 0) (m (s 1) (k 0))) (putS 1 0x80000)) Group.live = some false := by decide

theorem test_sts_writes :
    ((run (.sts .always false .b32 (v 0) (m (k 0) (v 4))) (putV 4 (fun l => BitVec.ofNat 32 (4 * l)))).team? 0).map
      (fun t => Memory.readLE t.scratch 12 4) = some 3 := by decide

/-- BAR.INIT sets the expected count (R245); a group that waits for a barrier it has arrived at parks (R246). -/
theorem test_barrier :
    ((run (.barInit false (m (s 1) (k 0)) (k 2)) (putS 1 64)).team? 0).map (fun t => Barrier.read t.scratch 64) =
      some ⟨0, 0, 2, 0⟩ ∧
    gAt (run (.barWait false (m (s 1) (k 0))) (putS 1 64) (fun t => t.spadWrite 72 [1])) (fun g => (g.lane 0).park.isSome) =
      some true := by decide

theorem test_tkt_take :
    landsAt (run (.tktTake false false 5 (m (s 1) (k 0))) (putS 1 64) (fun t => t.spadWrite 64 [9])) = [(none, 5, 9)] ∧
    ((run (.tktTake false false 5 (m (s 1) (k 0))) (putS 1 64) (fun t => t.spadWrite 64 [9])).team? 0).map
      (fun t => Memory.readLE t.scratch 64 4) = some 10 := by decide

theorem test_fifo_push_pop :
    ((run (.fifoPush false false (k 16) (v 0))).team? 0).map Team.fifos = some [(0, 1), (0, 0), (0, 0), (0, 0)] ∧
    gAt (run (.fifoPop false false (k 16) 5)) (fun g => (g.lane 0).park.isSome) = some true := by decide

theorem test_fence_and_waitf :
    gAt (run (.fence false .d .rel)) (fun g => g.ops.length) = some 1 ∧ gAt (run (.waitf false 1)) (fun g => (g.lane 0).pc) = some 16 := by
  decide

theorem test_tdef :
    gAt (run (.tdef 1 4) (putS 4 1 ∘ putS 7 2)) (fun g => g.tile 1) = some 0x00000002000000000000000000000001 := by decide

theorem test_engine_queue :
    ((run (.accZero false 15)).core 0).engineQ = [(0, 0, 0)] ∧ causeAt (run (.accOut false 0 0 .rne)) = none := by decide

/-- A command joins its team's queue when it issues (R312). -/
theorem test_command_queued : ((run (.cp (cmd 16 none 0 .g))).team? 0).map (fun t => t.cmds.length) = some 1 := by decide

/-- All ones plus 1 in eight limbs: zero, with C and OV (R279). -/
theorem test_ladd_carries :
    vAt (run (.ladd false 4 (v 2) (k 1)) ((fun g => { g with limbs := 8 }) ∘ putV 2 (fun _ => 0xFFFFFFFF) ∘ putV 3 (fun _ => 0xFFFFFFFF))) 7 5 =
      some 0 ∧
    gAt (run (.ladd false 4 (v 2) (k 1)) ((fun g => { g with limbs := 8 }) ∘ putV 2 (fun _ => 0xFFFFFFFF) ∘ putV 3 (fun _ => 0xFFFFFFFF)))
      Group.lcarry = some 3 := by decide

/-- −1 < 1 as signed, not as unsigned (R280). -/
theorem test_lcmp_signed :
    sAt (run (.lcmp .lt true (.s 0) (v 2) (k 1)) ((fun g => { g with limbs := 8 }) ∘ putV 2 (fun _ => 0xFFFFFFFF) ∘ putV 3 (fun _ => 0xFFFFFFFF))) 0 =
      some 1 ∧
    sAt (run (.lcmp .lt false (.s 0) (v 2) (k 1)) ((fun g => { g with limbs := 8 }) ∘ putV 2 (fun _ => 0xFFFFFFFF) ∘ putV 3 (fun _ => 0xFFFFFFFF))) 0 =
      some 0 := by decide

theorem test_lbind :
    gAt (run (.lbind 4)) Group.limbs = some 4 ∧ gAt (run (.lbind 4)) Group.idle = some 0xF0 ∧
    causeAt (run (.lbind 9)) = some .bindState ∧ causeAt (run .exit (fun g => { g with limbs := 4 })) = some .bindState := by decide

theorem test_trap_halts :
    causeAt (run (.trap 42)) = some .trapN ∧ gAt (run (.trap 42)) (fun g => g.halt.map Halt.num) = some (some 42) ∧
    gAt (run (.trap 42)) (fun g => g.halt.map Halt.hpc) = some (some 16) := by decide

theorem test_launch_codes :
    landsAt (run (.launch false 5 (s 1) (s 8)) (putS 1 64)) = [(none, 5, 4)] ∧
    landsAt (run (.launch false 5 (k 0) (s 8)) (putS 8 32)) = [(none, 5, 3)] ∧
    landsAt (run (.launch false 5 (k 0) (s 8))) = [(none, 5, 2)] := by decide

theorem test_clk : sAt (run (.clk 2) id id (fun s => { s with clk := 2 ^ 32 + 7 })) 3 = some 1 := by decide

/-- The Kennel core with the instruction in its slot; every uniform register is 0. -/
def kBench (i : Instr) (f : Group → Group := id) (e : Kennel → Kennel := id) : State :=
  let s := State.reset.place ((encode i).getD 0)
  let cl := benchClause ((encode i).getD 0) 1
  let g : Group := { s.k.grp with
    sregs := (upTo 48).map (fun n => (n, ⟨0, false⟩)), live := true, portA := some cl,
    lanes := [{ Lane.empty with thread := .running }] }
  { s with
    focus := .kennel, teams := [],
    k := e { s.k with started := true, locked := none, sram := placeCode [] cl, grp := f g } }

def kRun (i : Instr) (f : Group → Group := id) (e : Kennel → Kennel := id) : State := next i (kBench i f e)

def kReg (s : State) (n : Nat) : Option Word := (AMap.get? s.k.grp.sregs n).map Reg.val

/-- 320 quarter degrees is the Shepherd's first threshold after reset, 80 °C (Table 16-2). -/
theorem test_mmld_cool : kReg (kRun (.mmld false false 10 (m (s 4) (k 0))) (putS 4 0x40000)) 10 = some 320 := by decide

/-- An address of no register takes BUSERR with KBAD the address (R389); with INH set the core locks up (R387). -/
theorem test_mmst_buserr :
    (kRun (.mmst false false (s 1) (m (s 4) (k 0))) (putS 4 0x40010) (fun x => { x with inh := false })).k.kbad = 0x40010 ∧
    (kRun (.mmst false false (s 1) (m (s 4) (k 0))) (putS 4 0x40010)).k.locked.isSome = true := by decide

theorem test_iret_returns :
    (kRun .iret).k.inh = false ∧ (kRun .iret id (fun x => { x with inh := false })).k.code = BitVec.ofNat 8 Cause.illOp.code := by decide

theorem test_wfi_holds : (kRun .wfi).kPc = 0 ∧ (kRun .wfi id (fun x => { x with kien := 16, kipend := 16 })).kPc = 16 := by decide

theorem test_ldu_sram :
    kReg (kRun (.ldu false .b32 5 (m (s 4) (k 0)) 0x1FF) (putS 4 0x1000) (fun x => { x with sram := Memory.writeN x.sram 0x1000 [1, 2] })) 5 =
      some 0x201 := by decide

/-- A word of no instruction traps and keeps its place (R106); the step itself runs what stands in the slot. -/
theorem test_step_traps :
    (match step (State.reset.withFetchWord 64 0xFB70000000000000) with
     | .next t => causeAt t
     | _ => none) = some .illOp := by decide

theorem test_step_runs :
    (match step (State.reset.withFetchWord 64 0x0172280000000007) with
     | .next t => sAt t 20
     | _ => none) = some 7 := by decide

theorem test_push_overflows : ((next (.push 3 64) State.reset).queue 3).fifo.length = 1 := by decide

theorem test_resets_and_memory : (next .warmReset { State.reset with mem := [(5, 1)] }).mem = [(5, 1)] ∧
    (next .coldReset { State.reset with mem := [(5, 1)] }).mem = [] := by decide

/-! ## Witnesses: the hypotheses of the statements are met

Each theorem shows a concrete state and operands that meet all hypotheses of the statement it is named after; where a
statement speaks of many instructions, one for each. -/

namespace Wit

/-- The slot in focus, and the slot under a guard. -/
def ctxOf (s : State) : Ctx := s.ctx?.getD ⟨.kennel, Group.kennelInit, benchClause 0 0, 0⟩

def under (s : State) (gd : GuardUse) : Ctx := { ctxOf s with active := gd.narrow (ctxOf s).g (ctxOf s).active }

def issuesB (s : State) (core : CoreSet) (gd : GuardUse) (us : Ctx → List Use) : Bool :=
  s.ctx?.isSome && core.allows (ctxOf s).g.kennel && (under s gd).active != 0 &&
  !(ctxOf s).held s (gd.uses (ctxOf s).laneSet ++ us (ctxOf s).whole) && !(under s gd).short s (us (ctxOf s).whole) &&
  !(us (under s gd)).any (under s gd).readsBad

def roomB (s : State) (flag : FlagUse) (gd : GuardUse := .all) : Bool :=
  flag.ok (ctxOf s).cl &&
    (match flag.flag (ctxOf s).cl with | some f => ((under s gd).now s).flagCount f < 64 | none => true)

/-- What issuing leaves before the effect. -/
abbrev begun (s : State) (gd : GuardUse) (us : Ctx → List Use) : State := (ctxOf s).begun (under s gd) s us

def settlesB (c : Ctx) (x : State) : Bool :=
  match c.settle x with
  | .ok _ => true
  | .error _ => false

theorem slot {s : State} (h : s.ctx?.isSome = true) : s.ctx? = some (ctxOf s) := by
  obtain ⟨c, hc⟩ := Option.isSome_iff_exists.mp h
  simp [ctxOf, hc]

theorem issuesUnder {s : State} {core : CoreSet} {gd : GuardUse} {us : Ctx → List Use} {b : Bool} (h : issuesB s core gd us = true) :
    (ctxOf s).IssuesUnder (under s gd) s core gd us b := by
  simp only [issuesB, Bool.and_eq_true, bne_iff_ne, ne_eq, Bool.not_eq_true'] at h
  obtain ⟨⟨⟨⟨⟨h1, h2⟩, h3⟩, h4⟩, h5⟩, h6⟩ := h
  exact ⟨slot h1, h2, rfl, h3, h4, h5, fun _ => h6⟩

theorem issues {s : State} {core : CoreSet} {us : Ctx → List Use} (h : issuesB s core .all us = true) :
    (ctxOf s).Issues s core us := issuesUnder h

theorem issuesLong {s : State} {core : CoreSet} {flag : FlagUse} {gd : GuardUse} {us : Ctx → List Use}
    {b : Bool} (h : issuesB s core gd us = true) (hr : roomB s flag gd = true) :
    (ctxOf s).IssuesLong (under s gd) s core flag gd us b := by
  simp only [roomB, Bool.and_eq_true] at hr
  refine ⟨issuesUnder h, hr.1, fun f hf => ?_⟩
  have h2 := hr.2
  rw [hf] at h2
  exact of_decide_eq_true h2

theorem settles {c : Ctx} {x : State} (h : settlesB c x = true) : c.Settles x := by
  unfold settlesB at h
  split at h
  · next s2 h2 => exact ⟨s2, h2⟩
  · cases h

/-! ### Register instructions: UniformResults to ConversionResults, RegisterFrame, PoisonReads -/

/-- The instruction meets the hypotheses of its family's statement on the bench. -/
def regB (i : Instr) : Bool :=
  i.wf &&
  (match regRule i with
   | some r =>
     let s := bench i
     let c := under s r.guard
     encode i == some (ctxOf s).cl.word && issuesB s r.core r.guard (r.uses · s) && settlesB c ((ctxOf s).did c s (r.uses · s) (r.eff c s))
   | none => false)

theorem reg {i : Instr} (h : regB i = true) :
    ∃ (r : RegRule) (c0 c : Ctx) (s : State), i.wf = true ∧ regRule i = some r ∧ c0.IssuesUnder c s r.core r.guard (r.uses · s) ∧
      c.Settles (c0.did c s (r.uses · s) (r.eff c s)) := by
  unfold regB at h
  split at h
  · next r hr =>
    simp only [Bool.and_eq_true] at h
    exact ⟨r, _, _, _, h.1, hr, issuesUnder h.2.1.2, settles h.2.2⟩
  · simp at h

def uniforms : List Instr :=
  [.sMov false 1 (s 2), .sMov true 2 (s 4), .sLi false 1 7, .sAdd .i32 true 1 (s 2) (k 3), .sSub .n32 false 1 (s 2) (s 3),
   .sMul .i32 1 (s 2) (s 3), .sMulhi .n32 1 (s 2) (s 3), .sAnd .i32 1 (s 2) (s 3), .sOr .i32 1 (s 2) (s 3),
   .sXor .i32 1 (s 2) (s 3), .sNot .i32 1 (s 2), .sShl .i32 1 (s 2) (k 32), .sShr .i32 1 (s 2) (k 3), .sSra .i32 1 (s 2) (k 3),
   .sMin .i32 1 (s 2) (s 3), .sMax .i32 1 (s 2) (s 3), .sAdd64 2 (s 4) (s 6), .sSub64 2 (s 4) (s 6), .sShl64 2 (s 4) (k 4),
   .sCmp .lt .i32 (.p 1) (s 2) (s 3), .sSel .always false 1 (s 2) (s 3) (k 1), .sBfe .i32 1 (s 2) 0 32, .sBfi .i32 1 (s 2) (s 3) 4 8,
   .sClz 1 (s 2), .sPopc 1 (s 2), .sVget false 1 (v 2) (k 3)]

theorem wit_UniformResults : uniforms.all regB = true := by decide

def vectors : List Instr :=
  [.vMov false 1 (v 2), .vLi true 2 7, .vAdd .i8 true 1 (v 2) (v 3), .vSub .n4 false 1 (v 2) (k 3), .vMul .i16 1 (v 2) (v 3),
   .vMulhi .i32 1 (v 2) (s 3), .vMad .i32 false 1 (v 2) (v 3) (v 4), .vMadw .i32 2 (v 4) (v 5) (v 6), .vAnd .i32 1 (v 2) (v 3),
   .vOr .i32 1 (v 2) (v 3), .vXor .i32 1 (v 2) (v 3), .vNot .i32 1 (v 2), .vShl .n32 1 (v 2) (k 3), .vShr .n8 1 (v 2) (k 8),
   .vSra .i4 1 (v 2) (k 4), .vMin .i8 1 (v 2) (v 3), .vMax .i8 1 (v 2) (v 3), .vAbs .i8 true 1 (v 2), .vCmp .ge .i32 (.p 2) (v 2) (v 3),
   .vSel .always false 1 (v 2) (v 3) (p 0), .vBfe .n32 1 (v 2) 31 1, .vBfi .n32 1 (v 2) (v 3) 0 32, .vPopc .n4 1 (v 2), .vClz .n8 1 (v 2),
   .vDot4 true true true 1 (v 2) (v 3) (v 4), .vReq true 1 (v 2) (s 3) (s 4), .vUnpk3 3 1 2 (v 4)]

theorem wit_VectorIntegerResults : vectors.all regB = true := by decide

theorem wit_CrossLaneResults :
    [Instr.vShfl .xor 0 1 (v 2) (k 1) 0, .vBcast true 0 2 (v 4) (k 1), .vVote .uni (.p 1) (v 2), .vRed .addF (.s 1) (v 2),
     .vScan false .maxI 1 (v 2)].all regB = true := by decide

def floats : List Instr :=
  [.vFadd .f32 .rne 1 (v 2) (v 3), .vFsub .bf16 .rtz 1 (v 2) (v 3), .vFmul .f16 .rup 1 (v 2) (v 3), .vFmin .f32 1 (v 2) (v 3),
   .vFmax .f32 1 (v 2) (v 3), .vFfma .f32 .rdn 1 (v 2) (v 3) (v 4), .vFcmp .uno .f32 (.p 1) (v 2) (v 3), .vFclass .f32 1 (v 2),
   .vFrnd .f32 .rna 1 (v 2), .vFrcp 1 (v 2), .vFrsq 1 (v 2), .vFsqrt .dyn 1 (v 2), .vFexp2 1 (v 2), .vFlog2 1 (v 2), .vFsin 1 (v 2),
   .vFcos 1 (v 2), .vHfma2 .f16 .rne 1 (v 2) (v 3) (v 4), .vHadd2 .bf16 .rne 1 (v 2) (v 3), .vHmul2 .f16 .rne 1 (v 2) (v 3)]

theorem wit_FloatResults : floats.all regB = true := by decide

theorem wit_ConversionResults :
    [Instr.vCvt .i32 .i8 4 (v 2), .vCvt .n4 .i16 1 (v 4), .vFcvt .e4m3 .f32 .sr 1 (v 4) (some (v 2)), .vFicvt .i32 .f32 .rne 1 (v 2),
     .vMxscl .e4m3 1 (v 2), .vMxpack .e2m1 .rne 1 (v 2) (v 3) none].all regB = true := by decide

/-- RegisterFrame and the last part of PoisonReads ask for no more than the results do. -/
theorem wit_RegisterFrame :
    ∃ (i : Instr) (r : RegRule) (c0 c : Ctx) (s : State), i.wf = true ∧ regRule i = some r ∧ c0.IssuesUnder c s r.core r.guard (r.uses · s) ∧
      c.Settles (c0.did c s (r.uses · s) (r.eff c s)) :=
  ⟨_, reg (i := .sAdd .i32 true 1 (s 2) (k 3)) (by decide)⟩

/-- The same on the Kennel core. -/
theorem wit_RegisterFrame_kennel :
    (let i := Instr.sMov false 1 (s 2)
     let s := kBench i
     (ctxOf s).ag = .kennel ∧ (ctxOf s).g.kennel = true ∧ encode i = some (ctxOf s).cl.word ∧
       (regRule i).any (fun r => issuesB s r.core r.guard (r.uses · s) &&
         settlesB (under s r.guard) ((ctxOf s).did (under s r.guard) s (r.uses · s) (r.eff (under s r.guard) s))) = true) := by decide

/-! ### Encoding and the step -/

theorem wit_DecodeOfEncode : (uniforms ++ vectors ++ floats).all (fun i => i.wf && (encode i).isSome) = true := by decide

theorem wit_EncodeOfDecode : ∃ i, decode 0x4C70045806060001 = .ok i := ⟨_, rfl⟩

/-- UnassignedOpcodes, part by part: a word, a slot that holds one, an opcode at each edge of the ranges, a clause whose
second word another class admits. -/
theorem wit_UnassignedOpcodes :
    opAssigned ((0x1B00000000000000 : DWord).extractLsb' 56 8).toNat = false ∧
    (let s := State.reset.withFetchWord 64 0xFB70000000000000
     s.agenda = [] ∧ s.ctx? = some (ctxOf s) ∧ opAssigned ((ctxOf s).cl.word.extractLsb' 56 8).toNat = false) ∧
    ([0x1B, 0x2F, 0x38, 0x3F, 0x5C, 0x5F, 0x65, 0x9E, 0xAB, 0xF6, 0xFE].all (fun op => !opAssigned op) = true) ∧
    (let s := bench (.vNot .i32 1 (Wf.v 2))
     let f := s.fetcher (.port 0 0 false)
     s.inExtent f 8 = true ∧ admits 1 ((s.fetch f 8).1.extractLsb' 56 8).toNat ((1 : Nat) = 0) = false) := by
  refine ⟨by decide, ⟨rfl, slot (by decide), by decide⟩, by decide, by decide, by decide⟩

/-- The bench with another clause at its only code, and its lane set that stands there. -/
def coded (h w : DWord) (x : State) : State := { x with mem := Memory.writeN x.mem 0 (leBytes 8 h.toNat ++ leBytes 8 w.toNat) }

/-- Where the structural check finds the clause wanting, and the header of a clause it passes. -/
def checkAt (f : Fetcher) (s : State) : Option (Nat ⊕ DWord) :=
  match (fetchClause f 0 0xFF s).1 with
  | .error e => some (.inl e.pos)
  | .ok c => some (.inr c.hdr)

def standsAt (pc : DWord) : LaneSet := ⟨0xFF, pc, none, 0, 0⟩

/-- The structural check: a clause that passes it, one whose header is malformed, one of class 1 that holds a float word, a
lane set outside the extent, one whose lanes have begun 1,024 clauses, a safe point without its mask and one whose mask has
bit 63 set; and a clause of the Kennel core that fails it. -/
theorem wit_UnassignedOpcodes_check :
    (let s := bench (.vNot .i32 1 (Wf.v 2))
     let f := s.fetcher (.port 0 0 false)
     s.inExtent f 8 = true ∧ admits (hClass (s.fetch f 0).1) ((s.fetch f 8).1.extractLsb' 56 8).toNat true = true ∧
       s.inExtent f 0x10000 = false ∧ headerOk (s.fetch f 0).1 = true ∧ (s.team? 0).isSome = true ∧
       (s.group? 0 0).map Group.halt = some none ∧ (standsAt 0).resume = none) ∧
    (let s := bench (.vNot .i32 1 (Wf.v 2)) id id (coded 0xFFF0000010000001 0)
     headerOk (s.fetch (s.fetcher (.port 0 0 false)) 0).1 = false) ∧
    (let s := bench (.vNot .i32 1 (Wf.v 2)) id id (coded 0xFF10000010000000 0x7070000000000000)
     let f := s.fetcher (.port 0 0 false)
     s.inExtent f 0 = true ∧ checkAt f s = some (.inl 1)) ∧
    (let s := bench (.vNot .i32 1 (Wf.v 2)) (fun g => { g with lanes := g.lanes.map (fun x => { x with safeCnt := 1024 }) })
     let f := s.fetcher (.port 0 0 false)
     checkAt f s = some (.inr (s.fetch f 0).1) ∧ hSafe (s.fetch f 0).1 = false ∧ (s.group? 0 0).map (fun g => (g.lane 7).safeCnt) = some 1024) ∧
    (let s (m : DWord) := bench .nop id id (coded 0xFF00000018000000 m)
     let f := (s 0).fetcher (.port 0 0 false)
     headerOk ((s 0).fetch f 0).1 = true ∧ hSafe ((s 0).fetch f 0).1 = true ∧ (s 0).inExtent f 8 = true ∧
       (0x8000000000000000 : DWord).getLsbD 63 = true) ∧
    (let s := kBench .nop
     s.inExtent .kennel s.kPc.toNat = true ∧
       checkAt .kennel { s with k := { s.k with sram := [] } } = some (.inl 0)) := by
  decide

/-- The bench with a clause in each port, after port A's slot. -/
def halfWay : State :=
  next .nop (bench .nop (fun g => { g with
    portA := g.portA.map (fun x => { x with lanes := 0x0F }), portB := g.portA.map (fun x => { x with lanes := 0xF0 }) }))

theorem wit_StepRunsDecoded_ports :
    halfWay.midCycle = true ∧ halfWay.ctx?.map Ctx.ag = some (.port 0 0 true) ∧
      halfWay.ctx?.map (fun c => (decodeFor c.g.kennel c.cl.word).toOption) = some (some .nop) ∧
      (bench .nop).midCycle = false ∧ Instr.wf (.push 64 0) = false := by decide

theorem wit_StepRunsDecoded :
    (let s := bench (.sMov false 1 (s 2))
     s.agenda = [] ∧ s.ctx? = some (ctxOf s) ∧ decodeFor (ctxOf s).g.kennel (ctxOf s).cl.word = .ok (.sMov false 1 (Wf.s 2)) ∧
       ∃ t, exec (.sMov false 1 (Wf.s 2)) s = .next t) ∧
    (let s : State := { State.reset with agenda := [.event (.push 0 0)] }
     s.agenda = .event (.push 0 0) :: [] ∧ encode (.push 0 0) = none ∧
       ∃ t, exec (.push 0 0) { s with agenda := [] } = .next t) :=
  ⟨⟨rfl, slot (by decide), rfl, _, rfl⟩, rfl, rfl, _, rfl⟩

theorem wit_StepRunsDecoded_agenda :
    [Move.elapse 1, .focus .kennel, .conflict 2, .capture 0 0 0 [], .event (.push 0 0)].all (fun x =>
      let s : State := { bench .nop with agenda := [x] }
      !s.midCycle && s.agenda == x :: []) = true := by decide

theorem wit_StepTrapsBadWords :
    (let s := State.reset.withFetchWord 64 0xFB70000000000000
     s.agenda = [] ∧ s.ctx? = some (ctxOf s) ∧ decodeFor (ctxOf s).g.kennel (ctxOf s).cl.word = .error .illOp) ∧
    (let s := State.reset.withFetchWord 64 0x3670000000000001
     s.agenda = [] ∧ s.ctx? = some (ctxOf s) ∧ decodeFor (ctxOf s).g.kennel (ctxOf s).cl.word = .error .illEnc) :=
  ⟨⟨rfl, slot (by decide), rfl⟩, rfl, slot (by decide), rfl⟩

theorem wit_StepKeepsCanonical : State.reset.canonical ∧ ∃ t, step State.reset = .next t :=
  ⟨⟨by decide, by decide, by decide⟩, _, rfl⟩

/-! ### Exceptions -/

/-- A trap of the bench's only port; TRAPN, whose HPC is the next instruction, in a clause that has one. -/
theorem wit_TrapHaltsGroup :
    (let s := bench .nop
     let c := ctxOf s
     c.ag = .port 0 0 false ∧ (s.team? 0).isSome = true ∧ s.group? 0 0 = some c.g ∧ c.g.port false = some c.cl ∧
       c.cl.pos < c.cl.words.length ∧ (c.cl.lanes &&& c.g.movers).getLsbD 7 = true ∧ (c.g.port true).isSome = false) ∧
    (let s := bench .nop (fun g => { g with portA := g.portA.map (fun x => { x with words := x.words ++ x.words }) })
     let c := ctxOf s
     c.ag = .port 0 0 false ∧ s.group? 0 0 = some c.g ∧ c.g.port false = some c.cl ∧ c.cl.pos + 1 < c.cl.words.length) := by
  decide

/-- Both ports filled: port B inside its clause, and port B's header yet to issue. -/
def bothPorts (begun : Bool) (g : Group) : Group := { g with
  portA := g.portA.map (fun x => { x with lanes := 0x0F }),
  portB := g.portA.map (fun x => { x with lanes := 0xF0, words := if begun then x.words else [] }) }

theorem wit_TrapHaltsGroup_ports :
    (let s := bench .nop (bothPorts true)
     let c := ctxOf s
     c.ag = .port 0 0 false ∧ s.group? 0 0 = some c.g ∧ c.g.port false = some c.cl ∧
       (c.g.port (!false)).map (fun d => (decide (d.pos < d.words.length), (d.lanes &&& c.g.movers).getLsbD 7, d.lanes.getLsbD 3)) =
         some (true, true, false) ∧
       c.cl.lanes.getLsbD 7 = false ∧ (c.cl.lanes &&& c.g.movers).getLsbD 3 = true) ∧
    (let s := bench .nop (bothPorts false)
     let c := ctxOf s
     s.group? 0 0 = some c.g ∧ (c.g.port true).map Clause.words = some [] ∧ c.cl.lanes.getLsbD 7 = false) := by
  decide

/-- An effect, and what the budgets and the checkpoint say of it. -/
def settleAt (i : Instr) (f : Group → Group) : Option (Option Cause) :=
  let s := bench i f
  match regRule i with
  | some r => (match (under s r.guard).settle ((ctxOf s).did (under s r.guard) s (r.uses · s) (r.eff (under s r.guard) s)) with
    | .ok _ => none
    | .error e => some e)
  | none => none

/-- A 17th vector register beyond a budget of 16, and a 49th uniform one beyond 48; a copied block where the record gives no
CKPT slot. -/
theorem wit_TrapHaltsGroup_budgets :
    settleAt (.vLi false 100 7) (fun g => { g with vbud := 16 }) = some (some .regBudget) ∧
    settleAt (.sLi false 100 7) (fun g => { g with sbud := 48 }) = some (some .regBudget) ∧
    settleAt (.vLi false 15 7) (fun g => { g with vbud := 16 }) = none ∧
    (let s := bench .nop id (fun t => { t with ckpt := some ⟨[], [], [(0, [])], [], [], [], [], 0⟩ })
       (fun x => { x with grids := x.grids.map (fun g => { g with lr := { g.lr with nckpt := 0 } }) })
     let c := ctxOf s
     c.ag = .port 0 0 false ∧ (c.merged s).kennel = false ∧
       ((c.put s (c.merged s).spill).team? 0).map (fun t => ((t.ckpt.map Checkpoint.paid).getD 0, t.ckptUsed)) = some (0, 1) ∧
       (s.grid? 0).map (fun g => 16 * g.lr.nckpt) = some 0) := by decide

def vec2 (x : Byte) (y : Kennel) : Kennel := { y with inh := false, sram := Memory.write y.sram 17 x }

/-- The Kennel core with INH set, with INH clear and a handler at 0, and with INH clear and no clause header at the
vector's target. -/
theorem wit_KennelTakesTraps :
    (Cause.illOp ≠ .trapN ∧ Cause.illOp ≠ .brkpt ∧ Cause.illOp ≠ .uce) ∧
    ((ctxOf (kBench .nop)).ag = .kennel ∧ (kBench .nop).k.inh = true ∧ (kBench .nop).k.locked = none) ∧
    (let s := kBench .nop id (vec2 0)
     (ctxOf s).ag = .kennel ∧ s.k.inh = false ∧ s.k.locked = none ∧ 0 < s.k.grp.lanes.length ∧
       s.target .kennel (BitVec.ofNat 64 (Memory.readLE s.k.sram (s.k.kvbase.toNat / 256 * 256 + 16) 8)) = true) ∧
    (let s := kBench .nop id (vec2 1)
     (ctxOf s).ag = .kennel ∧ s.k.inh = false ∧ s.k.locked = none ∧
       s.target .kennel (BitVec.ofNat 64 (Memory.readLE s.k.sram (s.k.kvbase.toNat / 256 * 256 + 16) 8)) = false) ∧
    ((kBench .iret).target .kennel (kBench .iret).k.kepc = true ∧ 0 < (kBench .iret).k.grp.lanes.length) ∧
    (kBench .iret id (fun x => { x with kepc := 0x80000 })).target .kennel 0x80000 = false := by decide

def noLanes (g : Group) : Group := { g with svmask := 0xFF }

/-- The three parts of EmptyActiveIdles: every lane switched off; a guard that leaves no lane for a register, a global, a
scratchpad instruction and a branch. -/
theorem wit_EmptyActiveIdles :
    (let s := bench (.sMov false 1 (s 2)) noLanes
     s.ctx? = some (ctxOf s) ∧ (opCore 0).allows (ctxOf s).g.kennel = true ∧ (ctxOf s).active = 0) ∧
    (∃ (r : RegRule) (q : GRule) (p : SpadRule) (b : BranchRule),
      regRule (.vSel ⟨false, 0⟩ false 1 (v 2) (v 3) (v 4)) = some r ∧
      globRule (.st ⟨false, 0⟩ false .b32 (v 2) (m (s 8) (k 0)) 0x1FF) = some q ∧
      spadRule (.sts ⟨false, 0⟩ false .b32 (v 2) (m (s 8) (k 0))) = some p ∧ branchRule (.br ⟨false, 0⟩ none 0) = some b ∧
      (let s := bench .nop
       s.ctx? = some (ctxOf s) ∧ r.core.allows (ctxOf s).g.kennel = true ∧ (under s r.guard).active = 0 ∧
         q.core.allows (ctxOf s).g.kennel = true ∧ (under s q.guard).active = 0 ∧
         (under s p.guard).active = 0 ∧ (under s (.lanes b.guard)).active = 0)) ∧
    (let s := bench (.vSel ⟨false, 0⟩ false 1 (v 2) (v 3) (v 4))
     (issueSpec (.vSel ⟨false, 0⟩ false 1 (v 2) (v 3) (v 4))).any (fun sp =>
       sp.encOk (ctxOf s) && !(ctxOf s).held s (sp.guard.uses (ctxOf s).laneSet ++ sp.uses (ctxOf s).whole s) &&
         !(under s sp.guard).short s (sp.uses (ctxOf s).whole s)) = true) :=
  ⟨⟨slot (by decide), rfl, by decide⟩, ⟨_, _, _, _, rfl, rfl, rfl, rfl, slot (by decide), rfl, by decide, rfl, by decide, by decide,
    by decide⟩, by decide⟩

/-- The Kennel core's own group. -/
theorem wit_EmptyActiveIdles_kennel : (ctxOf (kBench .nop)).ag = .kennel ∧ (ctxOf (kBench .nop)).g.kennel = true := by decide

/-- An operation in flight. -/
def op (a : OpAct) : Op :=
  { id := 0, flag := some 0, capFlag := none, addr := 8, word := 0, lanes := 0xFF, act := a, dstV := [], dstS := [], acq := false,
    landed := false, entry := none, faulted := 0, vals := OpVals.empty, covered := [], gone := 0, spots := [], recs := [], early := [], earlyBad := false, turn := 0, portB := false,
    code := 0 }

def flying (a : OpAct) (g : Group) : Group := { g with ops := [op a], nextOp := 1 }

theorem wit_PendingRegistersHold :
    (let i := Instr.sMov false 1 (s 2)
     let s := bench i (fun g => { g with ops := [{ op (.land [⟨none, 2, 0, false⟩]) with dstS := [2] }] })
     (issueSpec i).any (fun sp =>
       s.ctx?.isSome && sp.core.allows (ctxOf s).g.kennel && sp.encOk (ctxOf s) && (under s sp.guard).active != 0 &&
         sp.flag.ok (ctxOf s).cl && sp.hdrOk (under s sp.guard) &&
         (sp.uses (ctxOf s).whole s).any (ctxOf s).g.pending) = true) ∧
    (let i := Instr.ldu false .b32 2 (m (Wf.s 4) (k 0)) 0x1FF
     let f : Flight := ⟨4, [⟨.s 4, 2, 0xFF, true⟩], none, false, 0⟩
     let s := bench i (fun g => { g with flying := [f] })
     (issueSpec i).any (fun sp =>
       s.ctx?.isSome && sp.encOk (ctxOf s) && sp.flag.ok (ctxOf s).cl && s.clk < f.due &&
         (sp.uses (ctxOf s).whole s).any (fun u => f.uses.any (fun v => u.meets v))) = true) := by decide

def badReg (g : Group) : Group := { g with
  sregs := AMap.set g.sregs 2 ⟨0, true⟩, lanes := g.lanes.map (fun x => { x with regs := AMap.set x.regs 2 ⟨0, true⟩ }) }

/-- A uniform register and a vector register that hold an error. -/
theorem wit_PendingRegistersHold_errors :
    [Instr.sMov false 1 (s 2), .vMov false 1 (v 2)].all (fun i => (issueSpec i).any (fun sp =>
      let s := bench i badReg
      let c := under s sp.guard
      s.ctx?.isSome && sp.core.allows c.g.kennel && sp.encOk (ctxOf s) && c.active != 0 &&
        !(ctxOf s).held s (sp.guard.uses (ctxOf s).laneSet ++ sp.uses (ctxOf s).whole s) &&
        !c.short s (sp.uses (ctxOf s).whole s) && sp.flag.ok c.cl && sp.hdrOk c && (sp.flag.flag c.cl).isNone &&
        c.ag == .port 0 0 false &&
        (sp.uses c s).any (fun u => !u.wr && decide (0 < u.n) && (match u.op with
          | .v r => u.lanes.getLsbD 3 && c.active.getLsbD 3 && ((c.g.vReg 3 r.toNat).map Reg.bad).getD false
          | .s r => ((AMap.get? c.g.sregs r.toNat).map Reg.bad).getD false
          | _ => false)))) = true := by decide

/-- A use of an unbound name, and one of bound names. -/
theorem wit_PoisonReads :
    (let s := bench .nop
     let c := ctxOf s
     s.ctx? = some c ∧ c.g.kennel = false ∧ AMap.get? c.g.sregs 100 = none ∧ AMap.get? c.g.sregs 2 ≠ none) ∧
    ∃ (i : Instr) (r : RegRule) (c0 c : Ctx) (s : State), i.wf = true ∧ regRule i = some r ∧
      c0.IssuesUnder c s r.core r.guard (r.uses · s) ∧ c.Settles (c0.did c s (r.uses · s) (r.eff c s)) :=
  ⟨⟨slot (by decide), rfl, by decide, by decide⟩, _, reg (i := .sMov false 1 (s 100)) (by decide)⟩

/-- Zero has 32 leading zeros, one has 31; a word whose other fields are not 0. -/
theorem wit_UniformCounts :
    (let s := bench (.sClz 1 (s 2)) (putS 2 0)
     let c := ctxOf s
     (Instr.sClz 1 (Wf.s 2)).wf = true ∧ c.Issues s .both (fun c => wrS c 1 1 :: readsOf c [(Wf.s 2, 1)]) ∧
       (c.rd s (.s 2) 0).toNat / 2 ^ (32 - 32) = 0) ∧
    (let s := bench (.sClz 1 (s 2)) (putS 2 1)
     (ctxOf s).Issues s .both (fun c => wrS c 1 1 :: readsOf c [(Wf.s 2, 1)]) ∧
       ((ctxOf s).rd s (.s 2) 0).toNat / 2 ^ (32 - 31) = 0 ∧ ((ctxOf s).rd s (.s 2) 0).toNat / 2 ^ (31 - 31) ≠ 0) ∧
    ((0x1670000000000001 : DWord).extractLsb' 56 8 = 0x16 ∧ (0x1670000000000001 : DWord).extractLsb' 0 29 ≠ 0) :=
  ⟨⟨by decide, issues (by decide), by decide⟩, ⟨issues (by decide), by decide, by decide⟩, by decide, by decide⟩

/-! ### Status registers -/

def statB (kennel : Bool) (n : Nat) (w64 : Bool) : Bool :=
  let s := if kennel then kBench .nop else bench .nop
  statKnown kennel n && issuesB s .both .all (fun c => [wrS c 2 (if w64 then 2 else 1)])

theorem wit_StatusReads :
    ([0, 4, 5, 6, 7, 12, 13, 14].all (fun n => statB false n false && statB false n true) = true) ∧
    ([0, 2, 4, 5, 6, 7].all (fun n => statB true n true) = true) := by decide

/-- Every writable register of a group, and of the Kennel core. -/
theorem wit_StatusWrites :
    ([5, 6, 7, 10, 14].all (fun n => statWritable false n &&
      issuesB (bench .nop) .both .all (fun c => readsOf c [(s 2, 1)])) = true) ∧ statWide false 10 = true ∧
    ([0, 2, 4, 5, 6, 7].all (fun n => statKnown true n &&
      issuesB (kBench .nop) .both .all (fun c => readsOf c [(s 2, 1)])) = true) ∧
    ([2, 7].all (statWide true) = true) ∧ (ctxOf (kBench .nop)).ag = .kennel ∧ (ctxOf (kBench .nop)).g.kennel = true := by decide

/-! ### Control -/

/-- The hypotheses of Branches up to the case distinction. -/
def brB (i : Instr) (s : State) : Bool :=
  match branchRule i with
  | some b =>
    issuesB s .both (.lanes b.guard) b.uses
  | none => false

def togetherB (b : BranchRule) (c : Ctx) (s : State) : Bool :=
  (upTo c.g.limbs).all (fun l => (upTo c.g.limbs).all (fun n => b.pc c s l = b.pc c s n))

theorem together {b : BranchRule} {c : Ctx} {s : State} (h : togetherB b c s = true) : b.together c s := by
  intro l n _ _ hl hn _ _ _ _
  simp only [togetherB, List.all_eq_true, decide_eq_true_eq] at h
  have mem : ∀ {x k : Nat}, x < k → x ∈ upTo k := by
    intro x k hx
    simpa [upTo] using hx
  exact h l (mem hl) n (mem hn)

/-- Each form with every target good. -/
theorem wit_Branches_jump :
    ([Instr.br .always none 0, .br .always (some (true, v 2)) 0, .brx .always (s 2), .call .always (.s 2) 0, .ret .always (s 2)].all
      (fun i => brB i (bench i) && (match branchRule i with
        | some b => togetherB b (under (bench i) (.lanes b.guard)) (bench i) &&
            (upTo 8).all (fun l => match b.target (under (bench i) (.lanes b.guard)) (bench i) l with
              | some a => (bench i).target ((bench i).fetcher (.port 0 0 false)) a
              | none => true)
        | none => false)) = true) := by decide

/-- Limb lanes that part: BR.Z on the lane number; and a target that is no clause header. -/
theorem wit_Branches_traps :
    (∃ b, branchRule (.br .always (some (true, v 0)) 0) = some b ∧
      (let s := bench (.br .always (some (true, v 0)) 0) (fun g => { g with limbs := 8 })
       (ctxOf s).IssuesUnder (under s (.lanes b.guard)) s .both (.lanes b.guard) b.uses ∧
         ¬b.together (under s (.lanes b.guard)) s)) ∧
    (∃ b, branchRule (.br .always none 1) = some b ∧
      (let s := bench (.br .always none 1)
       let c := under s (.lanes b.guard)
       (ctxOf s).IssuesUnder c s .both (.lanes b.guard) b.uses ∧ b.together c s ∧
         overBudget c.g (b.link c ((c.now ((ctxOf s).begun c s b.uses)).endUses c.active b.ends)) = false ∧ b.bad c s 0)) := by
  refine ⟨⟨_, rfl, issuesUnder (by decide), fun h => ?_⟩, _, rfl, issuesUnder (by decide), together (by decide), by decide,
    by decide, by decide, _, rfl, by decide⟩
  exact absurd (h 0 1 (by decide) (by decide) (by decide) (by decide) (by decide) (by decide) (by decide) (by decide)) (by decide)

/-- A group bound to eight limbs. -/
def bound (g : Group) : Group := { g with limbs := 8 }

/-- NOP and YIELD; EXIT of all lanes and of some; REFORM with and without a target, of a bad key, and in a bound group. -/
theorem wit_ThreadControl :
    issuesB (bench .nop) .both .all (fun _ => []) = true ∧ (ctxOf (bench .exit)).g.limbs = 0 ∧ (ctxOf (bench .exit)).g.kennel = false ∧
    (let s := bench .exit (fun g => { g with portA := g.portA.map (fun x => { x with lanes := 0x0F }) })
     issuesB s .both .all (fun _ => []) = true ∧ (ctxOf s).g.running.getLsbD 7 = true ∧ (ctxOf s).active.getLsbD 7 = false) ∧
    (let s := bench (.reform (some (Wf.s 2)))
     issuesB s .compute .all (fun c => readsOf c [(Wf.s 2, 2)]) = true ∧
       s.target (s.fetcher (ctxOf s).ag) ((ctxOf s).rd64 s (.s 2) 0) = true) ∧
    (let s := bench (.reform none) id id (fun x => { x with
        mem := Memory.writeN x.mem 16 (leBytes 8 (0xFF * 2 ^ 56 + 2 ^ 28) ++ leBytes 8 (0x36 * 2 ^ 56 + 7 * 2 ^ 52)),
        grids := [Grid.make 0 0 { benchLaunch with codelen := 32 } [0] [⟨0, 65536, 0, false⟩] 0] })
     issuesB s .compute .all (fun _ => []) = true ∧ s.target (s.fetcher (ctxOf s).ag) (ctxOf s).cl.succ = true) ∧
    (let s := bench .exit bound
     issuesB s .both .all (fun _ => []) = true ∧ (ctxOf s).g.limbs ≠ 0) ∧
    ([Instr.reform (some (Wf.s 2)), .reform none].all (fun i =>
      issuesB (bench i bound) .compute .all (fun c => match i with
        | .reform (some a) => readsOf c [(a, 2)]
        | _ => []) && (ctxOf (bench i bound)).g.limbs != 0) = true) ∧
    (let s := bench (.reform (some (v 2)))
     issuesB s .compute .all (fun c => readsOf c [(v 2, 2)]) = true ∧
       s.target (s.fetcher (ctxOf s).ag) ((ctxOf s).rd64 s (.v 2) 1) = false) := by decide

/-! ### Long integers -/

/-- Each instruction in a bound group whose result fits, and in one that is not bound. -/
theorem wit_LongIntegerResults :
    ([Instr.ladd true 4 (v 2) (v 6), .lsub false 4 (v 2) (k 1), .lneg 4 (v 2), .lshl 4 (v 2) (k 63), .lshr true 4 (v 2) (k 1),
      .lmulw 4 (v 2) (s 2) 3].all (fun i => i.wf && (match longRule i with
        | some r =>
          let s := bench i bound
          let c := ctxOf s
          issuesB s .compute .all r.uses && c.g.limbs != 0 && settlesB c (c.did c s r.uses (r.eff c s)) &&
            issuesB (bench i) .compute .all r.uses
        | none => false)) = true) ∧
    ((Instr.lcmp .lt true (.p 1) (v 2) (k 1)).wf = true ∧ (Instr.lcmp .lt true (.s 2) (v 2) (k 1)).wf = true ∧
      issuesB (bench .nop bound) .compute .all (fun _ => [⟨.s 2, 1, 0xFF, true⟩, ⟨.v 2, 2, 0xFF, false⟩, ⟨.nat 1, 2, 0xFF, false⟩]) = true ∧
      issuesB (bench .nop bound) .compute .all (fun _ => [⟨.p 1, 1, 0xFF, true⟩, ⟨.v 2, 2, 0xFF, false⟩, ⟨.nat 1, 2, 0xFF, false⟩]) = true ∧
      (let s := bench (.lcmp .lt true (.p 1) (v 2) (k 1))
       issuesB s .compute .all (fun _ => [⟨.p 1, 1, 0, true⟩, ⟨.v 2, 2, 0, false⟩, ⟨.nat 1, 2, 0, false⟩]) = true ∧
         (ctxOf s).g.limbs = 0)) ∧
    issuesB (bench (.lcarry true 2)) .compute .all (fun c => [wrS c 2 1]) = true := by decide

/-- Binding: 9 limbs in 8 lanes, a group already bound, a lane outside the set; 8 and 2 limbs that fit; LFREE of both. -/
theorem wit_Binding :
    issuesB (bench (.lbind 9)) .compute .all (fun _ => []) = true ∧ ¬((9 : BitVec 12).toNat ≤ (ctxOf (bench (.lbind 9))).g.width) ∧
    issuesB (bench (.lbind 8) bound) .compute .all (fun _ => []) = true ∧ (ctxOf (bench (.lbind 8) bound)).g.limbs ≠ 0 ∧
    ([8, 2].all (fun n =>
      let s := bench (.lbind (BitVec.ofNat 12 n))
      let c := ctxOf s
      issuesB s .compute .all (fun _ => []) && c.g.limbs == 0 && n ≤ c.g.width &&
        (upTo 8).all (fun l => (c.cl.lanes &&& c.g.running &&& ~~~c.g.svmask).getLsbD l) &&
        settlesB c (c.did c s (fun _ => []) (fun g => { g with limbs := n, lcarry := 0, idle := Mask.below c.g.width &&& ~~~Mask.below n }))) = true) ∧
    (let s := bench .lfree (fun g => { g with limbs := 4, idle := 0xF0, portA := g.portA.map (fun x => { x with lanes := 0x0F }) })
     issuesB s .compute .all (fun _ => []) = true ∧ (ctxOf s).g.limbs ≠ 0 ∧ (ctxOf s).g.idle.getLsbD 7 = true) ∧
    issuesB (bench .lfree) .compute .all (fun _ => []) = true := by decide

/-! ### Global memory -/

/-- GlobalAccessCompletes and AccessFrame: each instruction in a declared range. -/
def globB (i : Instr) (ok : Bool) : Bool :=
  i.wf && ok &&
  (match globRule i with
   | some r =>
     let s := bench i based (ranged .acc)
     let c := under s r.guard
     let s1 := begun s r.guard r.uses
     encode i == some (ctxOf s).cl.word && issuesB s r.core r.guard r.uses && roomB s r.flag r.guard &&
     !(r.acc c).waits s1 0 (c.now s1) (r.vals c s1) ((r.acc c).lanes c.active c.g.width) r.rel &&
     !(r.acc c).overtakes (c.now s1) (r.vals c s1) ((r.acc c).lanes c.active c.g.width) (r.run c s1 0) &&
     !(r.run c s1 0).uce && settlesB c (r.after c s1 0)
   | none => false)

def ga : MAddr := m (s 8) (k 0)

theorem wit_GlobalAccessCompletes :
    [Instr.ld false .b32 2 ga 0x1FF, .ld false .b128 4 ga 0x1FF, .st .always false .b64 (v 2) ga 0x1FF, .ldu false .b32 2 ga 0x1FF,
     .stu .always false .b32 (s 2) ga 0x1FF, .atom .always false .cas32 .d .ar true (v 2) ga,
     .atomu .always false .add64 .t .rel false (s 2) ga, .mxld false .e4m3 4 ga,
     .mxacc .always false .e4m3 .e4m3 (v 2) ga false 3].all (fun i => globB i true) = true := by decide

theorem glob {i : Instr} {r : GRule} (h : globB i true = true) (hr : globRule i = some r)
    (hok : ∀ c s, r.ok c s) (hag : (ctxOf (bench i based (ranged .acc))).ag = .port 0 0 false)
    (hk : (ctxOf (bench i based (ranged .acc))).g.kennel = false) :
    ∃ (c0 c : Ctx) (s : State), c.g.kennel = false ∧ c0.IssuesLong c s r.core r.flag r.guard r.uses ∧
      c.ag = .port 0 0 false ∧ r.Free c (c0.begun c s r.uses) 0 ∧ c.Settles (r.after c (c0.begun c s r.uses) 0) := by
  unfold globB at h
  simp only [hr, Bool.and_eq_true, Bool.not_eq_true'] at h
  obtain ⟨_, ⟨⟨⟨⟨⟨_, h1⟩, h2⟩, h3⟩, h4⟩, h5⟩, h6⟩ := h
  exact ⟨ctxOf (bench i based (ranged .acc)), under (bench i based (ranged .acc)) r.guard, bench i based (ranged .acc), hk,
    issuesLong h1 h2, hag, ⟨h3, h4, h5, hok _ _⟩, settles h6⟩

theorem wit_AccessFrame :
    ∃ (r : GRule) (c0 c : Ctx) (s : State), globRule (.st .always false .b64 (v 2) ga 0x1FF) = some r ∧ c.g.kennel = false ∧
      c0.IssuesLong c s r.core r.flag r.guard r.uses ∧ c.ag = .port 0 0 false ∧ r.Free c (c0.begun c s r.uses) 0 ∧
      c.Settles (r.after c (c0.begun c s r.uses) 0) := by
  obtain ⟨c0, c, s, h⟩ := glob (i := .st .always false .b64 (v 2) ga 0x1FF) (by decide) rfl (fun _ _ => trivial) rfl rfl
  exact ⟨_, c0, c, s, rfl, h⟩

/-- The blocks of the MX accesses are whole and their addresses multiples of 128. -/
theorem wit_MxBlocks :
    (let s := bench (.mxld false .e4m3 4 ga) based (ranged .acc)
     let c := ctxOf s
     (upTo 8).all (fun l => c.active.getLsbD l = c.active.getLsbD (l / 8 * 8)) = true ∧
       (c.vals s ga (Mask.lanes c.active c.g.width) none).va 0 % MxFmt.granule .e4m3 = 0) := by decide

/-- MXLD and MXACC of half a block, and of blocks at an address that is no multiple of the granule; MXLD beyond its budget; LD
of a poisoned line. -/
theorem wit_GlobalAccessCompletes_traps :
    ([Instr.mxld false .e4m3 4 ga, .mxacc .always false .e4m3 .e4m3 (v 2) ga false 3].all (fun i => (globRule i).any (fun r =>
      let s := bench i (fun g => { based g with portA := g.portA.map (fun x => { x with lanes := 0x0F }) }) (ranged .acc)
      let c := under s r.guard
      issuesB s r.core r.guard r.uses && roomB s r.flag r.guard && c.ag == .port 0 0 false &&
        decide (0 < c.g.width / 8 * 8) && c.active.getLsbD 0 && !c.active.getLsbD 7)) = true) ∧
    ([Instr.mxld false .e4m3 4 ga, .mxacc .always false .e4m3 .e4m3 (v 2) ga false 3].all (fun i => (globRule i).any (fun r =>
      let s := bench i (fun g => (g.setS 8 65540).setS 9 0) (ranged .acc)
      let c := under s r.guard
      issuesB s r.core r.guard r.uses && roomB s r.flag r.guard &&
        (upTo 8).all (fun l => c.active.getLsbD l) && (r.vals c (begun s r.guard r.uses)).va 0 % MxFmt.granule .e4m3 != 0)) = true) ∧
    ([(16, true), (64, false)].all (fun p => (globRule (.mxld false .e4m3 100 ga)).any (fun r =>
      let s := bench (.mxld false .e4m3 100 ga) (fun g => { based g with vbud := p.1 }) (ranged .acc)
      let c := ctxOf s
      issuesB s r.core r.guard r.uses && roomB s r.flag r.guard &&
        overBudget c.g (((c.now (begun s r.guard r.uses)).endUses c.active r.ends).addOp
          { c.op r.flag .idle with dstV := r.dV }) == p.2)) = true) ∧
    ((globRule (.ld false .b32 2 ga 0x1FF)).any (fun r =>
      let s : State := { bench (.ld false .b32 2 ga 0x1FF) based (ranged .shr) with poison := [1024] }
      let c := ctxOf s
      let s1 := begun s r.guard r.uses
      issuesB s r.core r.guard r.uses && roomB s r.flag r.guard &&
        !(r.acc c).waits s1 0 (c.now s1) (r.vals c s1) ((r.acc c).lanes c.active c.g.width) r.rel && (r.run c s1 0).uce) = true) := by
  decide

def tmOf (s : State) : Team := (s.team? 0).getD (bTeam (bGroup .nop))

def pieceOf (cls : RClass) : MPiece := ⟨65536, 4, some ⟨65536, 4096, cls, [⟨65536, 65536, 131072, true⟩]⟩⟩

theorem wit_LoadsRead_and_StoresStage :
    ([RClass.shr, .acc, .wr].all (fun cls =>
      let s := bench .nop id (ranged cls)
      ((tmOf s).pieces 65536 4 == [pieceOf cls]) && !s.poisoned 131072 4 && (s.team? 0).isSome &&
        ((s.col (colOf (tmOf s).core)).l1Find 1024 (some .wr) 0).isNone) = true) := by decide

/-- A poisoned line, without and with staged bytes for all that is read, and a line of the class that the column holds. -/
theorem wit_LoadsRead_lines :
    (let s : State := { bench .nop id (ranged .wr) with poison := [1024] }
     let u : State := { bench .nop id (fun t => { ranged .wr t with staged := (upTo 4).map (fun k => (131072 + k, 7)) }) with poison := [1024] }
     s.poisoned 131072 4 = true ∧ AMap.get? (tmOf s).staged 131072 = none ∧
       (upTo 4).all (fun k => (AMap.get? (tmOf u).staged (131072 + k)).isSome) = true) ∧
    (let t : State := ((bench .nop id (ranged .wr)).loadAt 0 (tmOf (bench .nop id (ranged .wr))) 0x1FF (pieceOf .wr) 131072).2
     (match (t.col (colOf 0)).l1Find 1024 (some .wr) 0 with
      | some y => decide (131072 % 128 + 4 ≤ y.data.length)
      | none => false) = true) := by decide

/-- StoreFrame and AtomicFrame: the access of every lane lies in the declared range, and byte 131,080 is not stored to. -/
theorem wit_StoreFrame :
    ([Instr.st .always false .b64 (v 2) ga 0x1FF, .stu .always false .b32 (s 2) ga 0x1FF, .atom .always false .add64 .d .rlx false (v 2) ga,
      .atomu .always false .add32 .d .rlx false (s 2) ga].all (fun i =>
        let s := bench i based (ranged .acc)
        (match globRule i with
         | some r => let c := under s r.guard
                     s.ctx?.isSome && c.ag == .port 0 0 false &&
                       ((r.acc c).lanes c.active c.g.width).all (fun l => (r.acc c).addr (r.vals c s) l == 65536) && (r.acc c).len ≤ 8
         | none => false) &&
        (match exec i s with | .next _ => true | _ => false)) = true) ∧
    ((ranged .acc (bTeam (bGroup .nop))).rangeAt 65536).isSome = true ∧
    (⟨65536, 65536, 131072, true⟩ : PageT).at 65536 = 131072 := by decide

/-- AtomicFrame's other parts: an atomic whose lanes are translated through a page, a ticket that is taken, an MXACC block; each
gives a next state. -/
theorem wit_AtomicFrame :
    (let i := Instr.atom .always false .add64 .d .rlx false (v 2) ga
     let s := bench i based (ranged .acc)
     s.ctx?.isSome = true ∧ ((s.place? (tmOf s) ⟨65536, 8, (tmOf s).rangeAt 65536⟩ true).1.toOption = some 131072)) ∧
    ([Instr.tktTake false true 2 ga, .tktPass false true .d ga].all (fun i =>
      let s := bench i based (ranged .shr)
      s.ctx?.isSome && (ctxOf s).ag == .port 0 0 false && ((s.place? (tmOf s) ⟨65536, 4, (tmOf s).rangeAt 65536⟩ true).1.toOption == some 131072) &&
        (match exec i s with | .next _ => true | _ => false)) = true) ∧
    (let s := bench .nop (flying (.mx [⟨0, 65536, 131072, .e4m3, .e4m3, [], 0⟩])) (ranged .acc)
     (s.group? 0 0).bind (fun g => (g.op? 0).map Op.act) = some (.mx [⟨0, 65536, 131072, .e4m3, .e4m3, [], 0⟩]) ∧
       (match exec (.mxaccBlock 0 0 0) s with | .next _ => true | _ => false) = true) := by decide

theorem wit_AtomicsReadModifyWrite :
    (let s := bench .nop id (ranged .acc)
     s.team? 0 = some (tmOf s) ∧ (tmOf s).rangeAt 65536 = some ⟨65536, 4096, .acc, [⟨65536, 65536, 131072, true⟩]⟩ ∧
       pageOf [⟨65536, 65536, 131072, true⟩] 65536 = some ⟨65536, 65536, 131072, true⟩ ∧ s.poisoned 131072 4 = false) ∧
    AtomOp.apply .inc 5 4 0 < 2 ^ 32 := by decide

/-- Both orders of two numbers of different sign; 1.0 and −1.0, 0.5, a zero of each sign, the infinities and a NaN. -/
theorem wit_AtomicsReadModifyWrite_values :
    (AtomOp.apply .minS 0xFFFFFFFF 1 0 = 0xFFFFFFFF ∧ AtomOp.apply .minU 0xFFFFFFFF 1 0 = 1 ∧ AtomOp.apply .maxS 1 0xFFFFFFFF 0 = 1) ∧
    (AtomOp.apply .cas32 5 5 9 = 9 ∧ AtomOp.apply .cas32 5 6 9 = 5 ∧ AtomOp.apply .inc 4 4 0 = 0 ∧ AtomOp.apply .inc 3 4 0 = 4) ∧
    ([0x3F800000, 0xBF800000, 0x3F000000].all (fun x => match fF32.val x with
      | .fin _ n _ => decide (n ≠ 0)
      | _ => false) = true) ∧
    ([0, 0x80000000].all (fun x => match fF32.val x with
      | .fin _ n _ => decide (n = 0)
      | _ => false) = true) ∧
    fF32.val 0x7F800000 = .inf false ∧ fF32.val 0xFF800000 = .inf true ∧
    (match fF32.val 0x7FC00000 with | .nan _ => true | _ => false) = true ∧
    AtomOp.apply .addF 0x3F800000 0x3F000000 0 = 0x3FC00000 ∧ AtomOp.apply .addF 0x3F800000 0xBF800000 0 = 0 ∧
    AtomOp.apply .addF 0x7F800000 0xFF800000 0 = 0x7FC00000 := by decide

theorem wit_WordsThatStore : ∃ t, (encode .nop).isSome = true ∧ exec .nop (bench .nop) = .next t ∧
    (bench .nop).scratchWf := by
  refine ⟨_, rfl, rfl, fun n tm h => ?_⟩
  have hs : (bench .nop).teams.all (fun p => Memory.wf p.2.scratch) = true := by decide
  have hm : ∀ (m : AMap Team), AMap.get? m n = some tm → ∃ p ∈ m, p.2 = tm := by
    intro m
    induction m with
    | nil => simp [AMap.get?]
    | cons p r ih =>
      simp only [AMap.get?]
      split
      · intro e; exact ⟨p, by simp, by simpa using e⟩
      · intro e; obtain ⟨q, hq, e'⟩ := ih e; exact ⟨q, by simp [hq], e'⟩
  obtain ⟨p, hp, rfl⟩ := hm _ h
  exact List.all_eq_true.mp hs p hp

/-- The Kennel's accesses: in the SRAM, misaligned, and the last aligned word of it. -/
theorem wit_KennelMemory :
    (let i := Instr.ldu false .b32 2 (m (s 4) (k 0)) 0x1FF
     let s := kBench i (putS 4 0x1000)
     let c := ctxOf s
     c.ag = .kennel ∧ c.g.kennel = true ∧ c.g.live = true ∧
       issuesB s .both .all (fun c => wrS c 2 1 :: readsOf c (MAddr.srcs (m (Wf.s 4) (k 0)) 2)) = true ∧
       roomB s (.must false) = true ∧ s.kHeld 0x1000 4 = false ∧
       (s.kLoad 0x1000 4).toBool = true ∧ (s.kLoad 0x1001 4).toBool = false ∧
       0x7FFFC % 4 = 0 ∧ 0x7FFFC + 4 ≤ 0x80000 ∧ s.sramBadIn 0x7FFFC 4 = false ∧ 0x7FFFE % 4 ≠ 0) ∧
    (let i := Instr.stu .always false .b32 (s 2) (m (s 4) (k 0)) 0x1FF
     let s := kBench i (putS 4 0x1000)
     let us (c : Ctx) := readsOf c ((Wf.s 2, 1) :: MAddr.srcs (m (Wf.s 4) (k 0)) 2)
     issuesB s .both (.whole .always) us = true ∧ roomB s (.may false) (.whole .always) = true ∧
       ((begun s (.whole .always) us).kStore 0x1000 [0, 0, 0, 0]).isSome = true) ∧
    (let s := kBench .nop
     s.kHeld (2 ^ 48) 4 = false ∧ s.poisoned 0 4 = false ∧ 2 ^ 48 % 4 = 0 ∧ 2 ^ 48 + 4 ≤ 2 ^ 48 + 768000000000 ∧
       ¬(2 ^ 48 + 768000000000 + 4 ≤ 2 ^ 48 + 768000000000) ∧ ¬(0x80000 + 4 ≤ 0x80000) ∧
       ({ s with poison := [0] } : State).poisoned 0 4 = true ∧
       ({ s with k := { s.k with bud := s.k.bud.map (fun _ => 0) } } : State).kHeld (2 ^ 48) 4 = true) := by decide

/-! ### Scratchpads, the constant window, prefetch, fences -/

def packed (s : State) : State := { s with grids := s.grids.map (fun g => { g with lr := { g.lr with pack := 2, shape := 1 } }) }

/-- The instruction meets the hypotheses of ScratchpadAccess in the group `f` makes of the bench's. -/
def spadB (i : Instr) (f : Group → Group) : Bool :=
  i.wf &&
  (match spadRule i with
   | some r =>
     let s := bench i f id packed
     let c := under s r.guard
     let s1 := begun s r.guard r.uses
     issuesB s .compute r.guard r.uses && roomB s r.flag r.guard && !(c.now s1).mustWait r.store r.rel &&
       (!r.remote || !s1.moving (r.own c s1)) &&
       (!r.reads || (r.good c s1).all (fun l => !(((r.own c s1).bind s1.team?).map (fun tm =>
         tm.spadBad (r.addr c s1 l).toNat r.len)).getD false)) &&
       settlesB c (r.after c s1)
   | none => false)

/-- The lanes it switches off there. -/
def spadViol (i : Instr) (f : Group → Group) : Mask :=
  let s := bench i f id packed
  match spadRule i with
  | some r => r.viol (under s r.guard) (begun s r.guard r.uses)
  | none => 0

def spads : List Instr :=
  [.lds false .b64 2 (m (k 0) (v 4)), .sts .always false .b32 (v 2) (m (k 0) (v 4)), .ldr false .b32 0 2 (m (k 0) (v 4)),
   .str .always false .b32 0 (v 2) (m (k 0) (v 4)), .atoms .always false .add32 .t .rel true none (v 2) (m (k 0) (v 4)),
   .atoms .always false .add32 .k .rlx false (some 0) (v 2) (m (k 0) (v 4))]

def outside (lanes : Nat → Bool) : Group → Group := putV 4 (fun l => if lanes l then 0xFFFFFFF0 else 0)

/-- In an unbound group and in a bound one, without a violation, with a lane outside, and with every lane outside; the last
word of the scratchpad. -/
theorem wit_ScratchpadAccess :
    spads.all (fun i => [id, bound].all (fun f =>
      (spadB i f && spadViol i f == 0) &&
        (spadB i (outside (· == 3) ∘ f) && spadViol i (outside (· == 3) ∘ f) == 8) &&
        (spadB i (outside (fun _ => true) ∘ f) && spadViol i (outside (fun _ => true) ∘ f) == 0xFF))) = true ∧
    spadB (.lds false .b32 2 (m (s 2) (k 0))) (putS 2 0x7FFFC) = true := by decide

theorem spad {i : Instr} {f : Group → Group} (h : spadB i f = true) :
    ∃ (r : SpadRule) (c0 c : Ctx) (s : State), spadRule i = some r ∧
      c0.IssuesLong c s .compute r.flag r.guard r.uses ∧ r.Free c (c0.begun c s r.uses) ∧
      c.Settles (r.after c (c0.begun c s r.uses)) := by
  unfold spadB at h
  split at h
  · next r hr =>
    simp only [Bool.and_eq_true, Bool.not_eq_true', Bool.or_eq_true] at h
    obtain ⟨_, ⟨⟨⟨⟨h1, h2⟩, h3⟩, h4⟩, h5⟩, h6⟩ := h
    refine ⟨r, _, _, _, hr, issuesLong h1 h2, ⟨h3, fun hr => ?_, fun hr l hl tm ht => ?_⟩, settles h6⟩
    · rcases h4 with h4 | h4
      · rw [hr] at h4; cases h4
      · exact h4
    · rcases h5 with h5 | h5
      · rw [hr] at h5; cases h5
      · have h8 := List.all_eq_true.mp h5 l hl
        rw [ht] at h8
        simpa using h8
  · simp at h

/-- A load and an atomic that read a granule with an error. -/
theorem wit_ScratchpadAccess_errors :
    [Instr.lds false .b32 2 (m (k 0) (k 0)), .atoms .always false .add32 .t .rlx false none (v 2) (m (k 0) (k 0))].all (fun i =>
      (spadRule i).any (fun r =>
        let s := bench i id (fun t => { t with scratchBad := [0] })
        let c := under s r.guard
        let s1 := begun s r.guard r.uses
        issuesB s .compute r.guard r.uses && roomB s r.flag r.guard && !(c.now s1).mustWait r.store r.rel && !r.remote && r.reads &&
          c.ag.team.isSome && ((r.own c s1).bind s1.team?).any (fun tm =>
            (r.good c s1).any (fun l => tm.spadBad (r.addr c s1 l).toNat r.len)))) = true := by decide

/-- A constant window whose line is poisoned. -/
theorem wit_OtherMemory_errors :
    (let s : State := { bench (.ldc false .b32 (.v 2) (m (k 0) (k 0))) with poison := [0] }
     let g : Grid := Grid.make 0 0 { benchLaunch with cwlen := 64 } [0] [⟨0, 65536, 0, false⟩] 0
     (State.cLanes 0 ((s.team? 0).getD (bTeam (bGroup .nop))) g 4 (fun _ => 0) (fun _ _ => []) [0] [] s).1 = none) := by decide

/-- OtherMemory: LDC within the constant window; an offset before it and one at its end; PREF; FENCE on the Kennel core,
without and with a flag, and with a store outstanding; PHASE. -/
theorem wit_OtherMemory :
    (let s := bench (.ldc false .b32 (.v 2) (m (k 0) (k 0)))
     issuesB s .compute .all (fun c => ⟨.v 2, 1, 0xFF, true⟩ :: readsOf c (MAddr.srcs (m (k 0) (k 0)) 1)) = true ∧
       roomB s (.must false) = true ∧ (ctxOf s).g.mustWait false false = false ∧ (ctxOf s).ag.team = some 0 ∧
       (s.team? 0).isSome = true ∧ (s.grid? 0).isSome = true ∧
       (State.cLanes 0 (tmOf s) (Grid.make 0 0 benchLaunch [0] [] 0) 4 (fun _ => 0) (fun _ _ => []) [0] [] s).1 = some []) ∧
    ((-16 : Int) + (16 : Nat) ≤ 0 ∧ (benchLaunch.cwlen : Int) ≤ 0) ∧
    (let s := bench (.pref false true ga 0x1FF)
     issuesB s .compute .all (fun c => readsOf c (MAddr.srcs ga 2) ++ polUse c 0x1FF) = true ∧
       roomB s (.may false) = true ∧ (ctxOf s).ag = .port 0 0 false ∧ (ctxOf s).g.olog = 0) ∧
    (issuesB (kBench (.fence false .d .ar)) .both .all (fun _ => []) = true ∧ (ctxOf (kBench (.fence false .d .ar))).g.kennel = true) ∧
    (let s := bench (.fence false .d .ar)
     issuesB s .both .all (fun _ => []) = true ∧ roomB s (.may false) = true ∧ (ctxOf s).g.ops.any Op.unperformed = false ∧
       (FlagUse.may false).flag (ctxOf s).cl ≠ none) ∧
    (let s := bench .nop (fun g => { g with portA := g.portA.map (fun x => { x with hdr := 0xFF40000FF0000000 }) })
     issuesB s .both .all (fun _ => []) = true ∧ (ctxOf s).g.ops.any Op.unperformed = false ∧
       (FlagUse.may false).flag (ctxOf s).cl = none) ∧
    (let s := bench (.fence false .d .ar) (flying (.mx [⟨0, 65536, 131072, .e4m3, .e4m3, [], 0⟩]))
     issuesB s .both .all (fun _ => []) = true ∧ roomB s (.may false) = true ∧ (ctxOf s).g.ops.any Op.unperformed = true) ∧
    (issuesB (bench (.phase false)) .compute .all (fun _ => []) = true ∧ roomB (bench (.phase false)) (.may false) = true) := by decide

/-! ### Synchronisation -/

/-- ObjectsComplete (`rdy`) and ObjectsPark (not `rdy`) on the object at offset 64. -/
def objB (i : Instr) (h : Team → Team) (rdy : Bool) : Bool :=
  i.wf &&
  (match objRule i with
   | some r =>
     let s := bench i (putS 1 64) h
     let c := ctxOf s
     let s1 := begun s .all r.uses
     issuesB s .compute .all r.uses && roomB s r.flag && !(c.now s1).mustWait r.store r.rel && c.ag.team == some 0 &&
       (match s1.team? 0 with
        | some tm =>
          decide (0 ≤ c.offset s1 r.m 0) && decide (r.off c s1 + r.al ≤ s1.spadSize tm) &&
            (r.rd.2 == 0 || !tm.spadBad (r.off c s1 + r.rd.1) r.rd.2) && r.ready c s1 tm (r.off c s1) == rdy &&
            (!rdy || settlesB c (r.after c s1 0 tm))
        | none => false)
   | none => false)

def so : MAddr := m (s 1) (k 0)

theorem wit_ObjectsComplete :
    ([Instr.barInit false so (k 2), .barArr false so true, .barWait false so, .barAw false so false, .tktTake false false 2 so,
      .tktWait false false .t so (k 0), .tktPass false false .g so, .waita false false .g .ge so (k 0)].all
        (fun i => objB i id true) = true) := by decide

/-- An object beyond the scratchpad, one before it, and one that holds an error. -/
theorem wit_ObjectsComplete_errors :
    [((0x7FFFFFC0 : Word), []), (0xFFFFFFC0, []), (64, [8])].all (fun p => (objRule (.tktTake false false 2 so)).any (fun r =>
      let s := bench (.tktTake false false 2 so) (putS 1 p.1) (fun t => { t with scratchBad := p.2 })
      let c := ctxOf s
      let s1 := begun s .all r.uses
      issuesB s .compute .all r.uses && roomB s r.flag && !(c.now s1).mustWait r.store r.rel && c.ag.team == some 0 &&
        (s1.team? 0).any (fun tm => if p.2.isEmpty then c.offset s1 r.m 0 < 0 || s1.spadSize tm < r.off c s1 + r.al
          else decide (0 ≤ c.offset s1 r.m 0) && decide (r.off c s1 + r.al ≤ s1.spadSize tm) && r.rd.2 != 0 &&
            tm.spadBad (r.off c s1 + r.rd.1) r.rd.2))) = true := by decide

/-- BAR.AW of lanes that hold a mark on the barrier whose phase has not passed, and of lanes for which all four marks of the
group are taken. -/
theorem wit_ObjectsPark_marks :
    [[⟨0xFF, 64, 0⟩], (upTo 4).map (fun n => ⟨0, 96 + 32 * n, 0⟩)].all (fun ms =>
      (objRule (.barAw false so false)).any (fun r =>
        let s := bench (.barAw false so false) (fun g => { putS 1 64 g with marks := ms }) (fun t => t.spadWrite 69 [2])
        let c := ctxOf s
        let s1 := begun s .all r.uses
        issuesB s .compute .all r.uses && roomB s r.flag && !(c.now s1).mustWait r.store r.rel && c.ag.team == some 0 &&
          (s1.team? 0).any (fun tm => r.off c s1 == 64 && decide (r.off c s1 + r.al ≤ s1.spadSize tm) &&
            !tm.spadBad (r.off c s1 + r.rd.1) r.rd.2 && !r.ready c s1 tm 64 &&
            Memory.readLE tm.scratch 64 4 == 0 &&
            (!(c.marksOn s1 64).isEmpty || (decide (4 ≤ (c.now s1).marks.length) &&
              !(c.now s1).marks.any (fun k => k.off = 64 && k.phase = 0)))))) = true ∧
    ((ctxOf (bench (.barAw false so false) (fun g => { putS 1 64 g with marks := [⟨0xFF, 64, 0⟩] }))).marksOn
      (bench (.barAw false so false) (fun g => { putS 1 64 g with marks := [⟨0xFF, 64, 0⟩] })) 64) ≠ [] := by decide

/-- A barrier this group has arrived at; a ticket that is not served; a word that differs. -/
theorem wit_ObjectsPark :
    objB (.barAw false so false) (fun t => t.spadWrite 69 [2]) false = true ∧
    (let s := bench (.barAw false so false) (putS 1 64) (fun t => t.spadWrite 69 [2])
     (ctxOf s).marksOn s 64 = [] ∧ ((ctxOf s).now s).marks.length < 4) ∧
    objB (.barWait false so) (fun t => t.spadWrite 72 [1]) false = true ∧ objB (.tktWait false false .t so (k 5)) id false = true ∧
    objB (.waita false false .g .ne so (k 0)) id false = true := by decide

theorem obj {i : Instr} {h : Team → Team} {rdy : Bool} (hb : objB i h rdy = true) :
    ∃ (r : ObjRule) (c : Ctx) (s : State) (tm : Team), objRule i = some r ∧ c.IssuesLong c s .compute r.flag .all r.uses ∧
      r.Free c (c.begun c s r.uses) 0 tm ∧ r.ready c (c.begun c s r.uses) tm (r.off c (c.begun c s r.uses)) = rdy := by
  unfold objB at hb
  split at hb
  · next r hr =>
    simp only [Bool.and_eq_true, Bool.not_eq_true', beq_iff_eq] at hb
    obtain ⟨_, ⟨⟨⟨h1, h2⟩, h3⟩, h4⟩, h5⟩ := hb
    split at h5
    · next tm ht =>
      simp only [Bool.and_eq_true, Bool.not_eq_true', Bool.or_eq_true, beq_iff_eq, decide_eq_true_eq] at h5
      obtain ⟨⟨⟨⟨h6, h7⟩, h8⟩, h9⟩, _⟩ := h5
      refine ⟨r, _, _, tm, hr, issuesLong h1 h2, ⟨h3, h4, ht, h6, h7, fun h0 => ?_⟩, h9⟩
      rcases h8 with h8 | h8
      · exact absurd h8 h0
      · exact h8
    · cases h5
  · simp at hb

/-- An arrival that repeats, one that completes the phase, one that does not; the expected count at 0, 1 and 96. -/
theorem wit_BarrierArrival :
    ((⟨0, 1, 2, 1⟩ : Barrier).arr.testBit 0 = true) ∧ ((⟨0, 1, 2, 2⟩ : Barrier).arr.testBit 0 = false ∧ 2 ≤ 1 + 1) ∧
    ((⟨0, 0, 96, 0⟩ : Barrier).arr.testBit 0 = false ∧ 0 + 1 < 96) := by decide

/-- `out` is what its access comes to: 0 done, 1 the condition fails, 2 a fault. -/
def globSyncB (i : Instr) (out : Nat := 0) (f : Group → Group := based) : Bool :=
  i.wf &&
  (match globSyncRule i with
   | some r =>
     let s := bench i f (ranged .shr)
     let c := ctxOf s
     let s1 := begun s .all r.uses
     let o := r.run c s1 0
     issuesB s .compute .all r.uses && roomB s r.flag && c.ag == .port 0 0 false &&
       !r.acc.waits s1 0 (c.now s1) (r.vals c s1) [0] r.rel && !r.acc.overtakes (c.now s1) (r.vals c s1) [0] o && !o.uce &&
       o.faults.isEmpty == (out != 2) && o.blocked == (out == 1) &&
       (match out with
        | 0 => settlesB c (c.flies o.s r.flag r.ends o.lands [] r.dS)
        | 1 => settlesB c s1
        | _ => settlesB c (r.faulted c s1 0))
   | none => false)

theorem wit_GlobalObjectsComplete :
    ([Instr.tktTake false true 2 ga, .tktWait false true .d ga (k 0), .tktPass false true .d ga,
      .waita false true .t .eq ga (k 0)].all globSyncB = true) ∧
    globSyncB (.tktWait false true .d ga (k 5)) 1 = true ∧ globSyncB (.waita false true .t .ne ga (k 0)) 1 = true ∧
    globSyncB (.tktTake false true 2 ga) 2 (fun g => (g.setS 8 0x500000).setS 9 0) = true := by decide

/-- A global ticket in a poisoned line. -/
theorem wit_GlobalObjectsComplete_errors :
    (globSyncRule (.tktTake false true 2 ga)).any (fun r =>
      let s : State := { bench (.tktTake false true 2 ga) based (ranged .shr) with poison := [1024] }
      let c := ctxOf s
      let s1 := begun s .all r.uses
      issuesB s .compute .all r.uses && roomB s r.flag && c.ag == .port 0 0 false &&
        !r.acc.waits s1 0 (c.now s1) (r.vals c s1) [0] r.rel && (r.run c s1 0).uce) = true := by decide

/-- WAITF with its flags clear and with one busy; PUSH to an empty and to a full bank, POP from a bank of one and of none. -/
theorem wit_FlagsAndFifos :
    (let s := bench (.waitf false 1)
     issuesB s .compute .all (fun _ => []) = true ∧ roomB s (.may false) = true ∧ (upTo 12).all (fun f => !(ctxOf s).g.flagBusy f) = true) ∧
    (let s := bench (.waitf false 1) (flying .idle)
     issuesB s .compute .all (fun _ => []) = true ∧ roomB s (.may false) = true ∧ (1 : BitVec 12).getLsbD 0 = true ∧
       (ctxOf s).g.flagBusy 0 = true ∧ (ctxOf s).ag ≠ .kennel) ∧
    ([0, 63, 64].all (fun n =>
      let s := bench (.fifoPush false false (k 16) (v 2)) id (fun t => { t with fifos := [(0, n)] })
      issuesB s .compute .all (fun c => readsOf c [(v 2, 1), (k 16, 1)]) && roomB s (.may false) && (ctxOf s).ag.team == some 0 &&
        s.fifoOf (tmOf s) 16 == some 0 && !(ctxOf s).g.mustWait true true) = true) ∧
    ([0, 1].all (fun n =>
      let s := bench (.fifoPop false false (k 16) 2) id (fun t => { t with fifos := [(63, n)] })
      issuesB s .compute .all (fun c => wrV c 2 1 :: readsOf c [(k 16, 1)]) && roomB s (.must false) &&
        s.fifoOf (tmOf s) 16 == some 0 && !(ctxOf s).g.mustWait true false &&
        (upTo 8).all (fun l => !(tmOf s).spadBad (32768 * 16 + 512 * 63 + 8 * l) 4)) = true) := by decide

/-- An entry that holds an error. -/
theorem wit_FlagsAndFifos_errors :
    (let s := bench (.fifoPop false false (k 16) 2) id (fun t => { t with fifos := [(0, 1)], scratchBad := [65536] })
     issuesB s .compute .all (fun c => wrV c 2 1 :: readsOf c [(k 16, 1)]) = true ∧ s.fifoOf (tmOf s) 16 = some 0 ∧
       (tmOf s).spadBad (32768 * 16 + 8 * 0) 4 = true) := by decide

/-! ### The matrix engine, the Retriever -/

def engB (i : Instr) : Bool :=
  i.wf &&
  (match engRule i with
   | some r =>
     let s := bench i
     let c := ctxOf s
     let s1 := begun s .all r.uses
     issuesB s .compute .all r.uses && roomB s r.flag && c.ag.team == some 0 && r.hdr c && !r.spad.waits (c.now s1) &&
       (match s1.team? 0 with
        | some tm =>
          (match r.acc with | some a => a.toNat < s1.nacc tm | none => true) && (s1.core tm.core).engineQ.length < 16 &&
            (match r.cap c with | some f => (c.now s1).flagCount f < 64 | none => true) &&
            (r.pieces c c.rows).all (fun p => p.1 + p.2 ≤ s1.spadSize tm) && settlesB c (r.after c s1 0 tm)
        | none => false)
   | none => false)

theorem wit_EngineQueues :
    ([Instr.mma false 15 0 1 (some 2) true true 1, .mma false 0 0 1 none false false 0, .accZero false 0, .accLd false 0 1,
      .accSt false 0 1, .accRd false 0 8 3, .accWr false 0 8 3 true, .accOut false 0 1 .rne, .mstat false 2 true].all engB = true) ∧
    issuesB (bench (.tdef 1 4)) .compute .all (fun _ => [⟨.s 4, 4, 0xFF, false⟩]) = true := by decide

/-- A tile beyond the two that the record gives. -/
theorem wit_EngineQueues_traps :
    (engRule (.accZero false 2)).any (fun r =>
      let s := bench (.accZero false 2) id id (fun x => { x with grids := x.grids.map (fun g => { g with lr := { g.lr with nacc := 2 } }) })
      issuesB s .compute .all r.uses && roomB s r.flag && (ctxOf s).ag.team == some 0 && r.hdr (ctxOf s) &&
        ((begun s .all r.uses).team? 0).any (fun tm => decide ((begun s .all r.uses).nacc tm ≤ 2)) && r.acc == some 2) = true := by
  decide

theorem eng {i : Instr} (h : engB i = true) :
    ∃ (r : EngRule) (c : Ctx) (s : State) (tm : Team), engRule i = some r ∧ c.IssuesLong c s .compute r.flag .all r.uses ∧
      r.Free c (c.begun c s r.uses) 0 tm ∧ c.Settles (r.after c (c.begun c s r.uses) 0 tm) := by
  unfold engB at h
  split at h
  · next r hr =>
    simp only [Bool.and_eq_true, beq_iff_eq, Bool.not_eq_true'] at h
    obtain ⟨_, ⟨⟨⟨⟨h1, h2⟩, h3⟩, h4⟩, h4'⟩, h5⟩ := h
    split at h5
    · next tm ht =>
      simp only [Bool.and_eq_true, decide_eq_true_eq] at h5
      obtain ⟨⟨⟨⟨h6, h7⟩, h8⟩, h9⟩, h10⟩ := h5
      refine ⟨r, _, _, tm, hr, issuesLong h1 h2, ⟨h3, ht, h4, h4', fun a ha => ?_, h7, fun f hf => ?_, fun p hp => ?_⟩, settles h10⟩
      · rw [ha] at h6; exact of_decide_eq_true h6
      · rw [hf] at h8; exact of_decide_eq_true h8
      · exact of_decide_eq_true (List.all_eq_true.mp h9 p hp)
    · cases h5
  · simp at h

def cmdB (i : Instr) : Bool :=
  i.wf &&
  (match cmdRule i with
   | some (opc, f, kind) =>
     let s := bench i (putS 25 0 ∘ putS 24 64)
     let c := ctxOf s
     let s1 := begun s .all (cmdUses · f)
     issuesB s .compute .all (cmdUses · f) && roomB s (.may f.fs) && c.ag.team == some 0 &&
       (match s1.team? 0 with
        | some tm =>
          let x := c.newCmd s1 tm opc f kind
          (match x.sigAddr with | some a => f.ssp || !s1.outside (some 0) (a.toNat / 4 * 4) 4 | none => true) &&
            (x.badBlock s1 || (x.spadPieces s1 0).all (fun p => !s1.outside p.1 p.2.1 p.2.2)) &&
            decide ((s1.columnCmds (colOf tm.core)).length < 64) && settlesB c (c.queued s1 0 f x)
        | none => false)
   | none => false)

theorem wit_CommandsQueue :
    (let f := cmd 16 (some (24, 26)) 0 .t
     [Instr.cp f, .cpt f true .none, .cpg f false, .cpsc f true, .cpr f, .cpx f false, .coll f .allred .f32, .cpq f].all cmdB = true) := by
  decide

theorem comm {i : Instr} (h : cmdB i = true) :
    ∃ (opc : Nat) (f : CmdF) (kind : CmdKind) (c : Ctx) (s : State) (tm : Team), cmdRule i = some (opc, f, kind) ∧
      c.IssuesLong c s .compute (.may f.fs) .all (cmdUses · f) ∧
      CmdFits c (c.begun c s (cmdUses · f)) 0 tm f (c.newCmd (c.begun c s (cmdUses · f)) tm opc f kind) := by
  unfold cmdB at h
  split at h
  · next opc f kind hr =>
    simp only [Bool.and_eq_true, beq_iff_eq] at h
    obtain ⟨_, ⟨⟨h1, h2⟩, h3⟩, h5⟩ := h
    split at h5
    · next tm ht =>
      simp only [Bool.and_eq_true, Bool.or_eq_true, decide_eq_true_eq] at h5
      obtain ⟨⟨⟨h6, h7⟩, h8⟩, _⟩ := h5
      refine ⟨opc, f, kind, ctxOf (bench i (putS 25 0 ∘ putS 24 64)), _, tm, hr, issuesLong h1 h2,
        ⟨h3, ht, fun a ha hs => ?_, fun hb p hp => ?_, h8⟩⟩
      · have ha' : ((ctxOf (bench i (putS 25 0 ∘ putS 24 64))).newCmd (begun (bench i (putS 25 0 ∘ putS 24 64)) .all (cmdUses · f))
          tm opc f kind).sigAddr = some a := ha
        rw [ha'] at h6
        simp only [hs, Bool.false_or, Bool.not_eq_true'] at h6
        exact h6
      · rcases h7 with h7 | h7
        · exact absurd (hb.symm.trans h7) (by decide)
        · have h9 := List.all_eq_true.mp h7 p hp
          simp only [Bool.not_eq_true'] at h9
          exact h9
    · cases h5
  · simp at h

/-! ### System -/

def oneTeam (s : State) : Prop := (s.team? 0).isSome = true ∧ (s.grid? 0).isSome = true

theorem wit_TrapAndBreak :
    (issuesB (bench (.trap 1)) .both .all (fun _ => []) = true ∧ (ctxOf (bench (.trap 1))).ag = .port 0 0 false ∧
      (bench (.brk 1)).grids.all (fun g => !g.lr.nobrk) = true) ∧
    (let s := bench (.brk 1) id id (fun x => { x with grids := x.grids.map (fun g => { g with lr := { g.lr with nobrk := true } }) })
     issuesB s .both .all (fun _ => []) = true ∧ (s.team? 0).isSome = true ∧ (s.grid? 0).map (fun g => g.lr.nobrk) = some true) ∧
    (issuesB (kBench (.trap 1)) .both .all (fun _ => []) = true ∧ (ctxOf (kBench (.trap 1))).ag = .kennel) ∧
    (let s := kBench (.trap 1) id (fun x => { x with inh := false })
     let c := ctxOf s
     issuesB s .both .all (fun _ => []) = true ∧ s.k.ends = [] ∧ s.k.inh = false ∧ s.k.locked = none ∧
       c.cl.pos + 1 = c.cl.words.length ∧ 0 < c.g.lanes.length) ∧
    ([(Instr.trap 1, 0), (.brk 1, 8)].all (fun p =>
      let s := kBench p.1 id (fun x => { x with inh := false, kvbase := 256 })
      issuesB s .both .all (fun _ => []) &&
        s.target .kennel (BitVec.ofNat 64 (Memory.readLE s.k.sram (s.k.kvbase.toNat / 256 * 256 + p.2) 8))) = true) := by decide

theorem wit_CountersAndCaches :
    ([0, 7, 0x10, 0x13, 0x20, 0x22].all (fun n => perfListed (BitVec.ofNat 12 n) &&
      issuesB (bench .nop) .compute .all (fun c => [wrS c 2 2])) = true) ∧
    (let s := bench (.clk 2)
     issuesB s .both .all (fun c => [wrS c 2 2]) = true ∧ (ctxOf s).g.flying = [] ∧ (upTo 12).all (fun f => !(ctxOf s).g.flagBusy f) = true) ∧
    (let s := bench (.clk 2) (flying .idle)
     issuesB s .both .all (fun c => [wrS c 2 2]) = true ∧ (ctxOf s).g.flagBusy 0 = true) ∧
    (let s := bench (.icinv false true (Wf.s 2) (k 8))
     issuesB s .both .all (fun c => readsOf c [(Wf.s 2, 2), (k 8, 1)]) = true ∧ roomB s (.may false) = true) := by decide

theorem wit_CountersAndCaches_team : ((ctxOf (bench .nop)).team? (bench .nop)).isSome = true := by decide

/-- Queue 64 and 63; an address of 32 and of 64; a queue that is off, one that is on and empty, one that is full. -/
theorem wit_LaunchPushes :
    (63 < 64 ∧ 63 ≤ 63 ∧ (32 : DWord).toNat % 64 ≠ 0 ∧ (64 : DWord).toNat % 64 = 0 ∧ (State.reset.queue 63).enable = false) ∧
    (let q : Queue := { Queue.init with enable := true }
     let s : State := { State.reset with queues := [(63, q)] }
     (s.queue 63).enable = true ∧ (s.queue 63).fifo.length < 64) ∧
    (let q : Queue := { Queue.init with enable := true, fifo := List.replicate 64 ⟨0, none⟩ }
     let s : State := { State.reset with queues := [(63, q)] }
     (s.queue 63).enable = true ∧ 64 ≤ (s.queue 63).fifo.length) ∧
    (let us (c : Ctx) := wrS c 5 1 :: readsOf c [(k 0, 1), (Wf.s 8, 2)]
     issuesB (kBench .nop) .both .all us = true ∧ (ctxOf (kBench .nop)).g.live = true ∧
       issuesB (bench (.launch false 5 (k 0) (Wf.s 8))) .both .all us = true ∧
       roomB (bench (.launch false 5 (k 0) (Wf.s 8))) (.must false) = true ∧
       (ctxOf (bench (.launch false 5 (k 0) (Wf.s 8)))).g.mustWait true true = false) := by decide

theorem wit_WaitAndReturn :
    (let s := kBench .wfi id (fun x => { x with kien := 16, kipend := 16 })
     issuesB s .kennel .all (fun _ => []) = true ∧ s.k.kipend &&& s.k.kien ≠ 0) ∧
    (issuesB (kBench .wfi) .kennel .all (fun _ => []) = true ∧ (kBench .wfi).k.kipend &&& (kBench .wfi).k.kien = 0) ∧
    (let s := kBench .iret
     let c := ctxOf s
     issuesB s .kennel .all (fun _ => []) = true ∧ c.ag = .kennel ∧ s.k.inh = true ∧ s.k.ends = [] ∧ s.k.locked = none ∧
       c.cl.pos + 1 = c.cl.words.length ∧ 0 < c.g.lanes.length ∧ s.target .kennel s.k.kepc = true) ∧
    (let s := kBench .iret id (fun x => { x with inh := false })
     issuesB s .kennel .all (fun _ => []) = true ∧ s.k.inh = false) := by decide

/-- A register of 32 bits, a pair of them, and an address of none; loads and stores. -/
theorem wit_MSpaceAccess :
    ([(0x40000, false), (0x80000, true)].all (fun p =>
      let s := kBench .iret (putS 4 (BitVec.ofNat 32 p.1))
      issuesB s .kennel .all (fun c => wrS c 10 2 :: readsOf c [(Wf.s 4, 1), (k 0, 1)]) &&
        ((ctxOf s).rd s (.s 4) 0).toNat == p.1 && (mregs p.2 p.1).isSome) = true) ∧
    (let s := kBench (.mmld false false 10 (m (Wf.s 4) (k 0))) (putS 4 0x40000)
     roomB s (.must false) = true ∧ (ctxOf s).g.live = true ∧ mreg 0x40000 ≠ some .warmrst ∧ 0x80000 % 8 = 0 ∧
       (mreg 0x80000).isSome = true ∧ (mreg 0x80004).isSome = true ∧ mregs false 0x40010 = none ∧ mregs false 2 = none ∧
       mregs true 0x80004 = none) ∧
    (let s := kBench (.mmst false true (Wf.s 2) (m (Wf.s 4) (k 0))) (putS 4 0x80000)
     issuesB s .kennel .all (fun c => readsOf c [(Wf.s 2, 2), (Wf.s 4, 1), (k 0, 1)]) = true ∧ roomB s (.may false) = true) := by decide

/-- Values at the limits and beyond them; budgets at the sum's limit. -/
theorem wit_MSpaceAccess_limits :
    (let s := State.reset
     let sum (x : Nat) : Nat := ((upTo 144).map (fun m => if m = 0 then x else (s.col m).pendBudget.getD (s.col m).budget)).sum
     sum 68 = 9792 ∧ 9792 < sum 69 ∧ s.cool.shutdown = false ∧ ({ Coolant.init with shutdown := true } : Coolant).shutdown = true) ∧
    (240 ≤ 320 ∧ 320 < State.reset.k.hot ∧ State.reset.k.hot < State.reset.k.crit ∧ State.reset.k.crit ≤ 500 ∧
      ¬(380 < State.reset.k.hot) ∧ 8 < State.reset.k.bud.length) ∧
    ((0x1008 : Nat) / 2 ^ 8 % 32 = 16 ∧ (0x1008 : Nat) % 16 = 8 ∧ (0x0300 : Nat) / 2 ^ 8 % 32 = 3 ∧ (0x0300 : Nat) % 16 = 0) := by decide

/-! ### Events -/

/-- No clause in the ports. -/
def idle (g : Group) : Group := { g with portA := none }

def ranLands (ws : List Land) (g : Group) : Group := flying (.land ws) g

/-- An MXACC block at the declared range. -/
def blk : MxBlk := ⟨0, 65536, 131072, .e4m3, .e4m3, [], 0⟩

/-- Eight operations in the operand log. -/
def logged (g : Group) : Group := { g with ops := (upTo 8).map (fun n => { op (.land []) with id := n + 1, entry := some n, faulted := 1 }) }

/-- A load of the bench whose lane 0 faulted and whose record the host has answered. -/
def faulted (g : Group) : Group :=
  { g with ops := [{ op (.land []) with word := (encode (.ld false .b32 2 ga 0x1FF)).getD 0, entry := some 0, faulted := 1,
                                        vals := ⟨65536, [(0, 0)], []⟩ }] }

theorem wit_GroupEvents :
    (let s := bench .nop idle
     (∀ x ∈ s.onSlice 0 0, x.2.2.inTurn = true → x.2.1.uce = true) ∧ ((s.core 0).slice 0).hop = none ∧
       (s.onSlice 0 0).length = 1 ∧ (s.onSlice 0 0).all (fun x => s.eligible x.1 x.2.1 x.2.2) = true) ∧
    ((((bGroup .nop |> ranLands [⟨none, 2, 7, false⟩]).op? 0).map (fun o => (o.landed, o.faulted)) = some (false, 0)) ∧
      ((bGroup .nop |> faulted).op? 0).map (fun o => (o.landed, o.faulted)) = some (false, 1) ∧
      ((bGroup .nop |> flying .idle).op? 0).map Op.act = some .idle ∧
      ((bGroup .nop |> flying (.fence true true)).op? 0).isSome = true ∧
      (bGroup .nop |> flying (.fence true true)).earlierOpen 0 = false) ∧
    (logged (bGroup .nop)).olog = 8 ∧ (bGroup .nop).olog = 0 ∧
    (let s := bench .nop (flying (.engine [0] (.zero 0)))
     (match (s.performMove 0 0 (tmOf s) (op (.engine [0] (.zero 0))) [0] (.zero 0)) with
      | some (.ok _) => true
      | _ => false) = true) ∧
    (let s := bench .nop faulted (ranged .shr)
     (match (tmOf s).groups with
      | g :: _ =>
        (match g.oldestEntry with
         | some o =>
           (match (dec o.word).bind replayAcc with
            | some a =>
              let r := a.runLanes 0 o.vals (a.lanes o.faulted g.width) ⟨[], [], false, false, g.shade o.portB o.turn o.covered, [], s⟩
              (tmOf s).resident && (tmOf s).st == .running && !(tmOf s).uce && s.answered (.entry 0 0 o.id) && !r.uce && !r.blocked && r.faults.isEmpty &&
                r.mx.isEmpty
            | none => false)
         | none => false)
      | [] => false) = true) ∧
    (let parked (seen : List Byte) (now : Nat) : State := { bench .nop (fun g => { g with lanes := g.lanes.map (fun x =>
        { x with park := some (.sync (.scratch 64 4) seen) }) }) with clk := now }
     let s := parked [1, 0, 0, 0] 0
     (s.objBytes 0 (bGroup .nop) (.scratch 64 4) ≠ [1, 0, 0, 0]) ∧ (s.group? 0 0).map (fun g => (g.lane 0).park) =
       some (some (.sync (.scratch 64 4) [1, 0, 0, 0])) ∧ 0 + 4096 ≤ (parked [0, 0, 0, 0] 4096).clk) ∧
    (let s := bench .nop (flying (.mx [blk])) (ranged .acc)
     (s.mxPerform 0 blk).isSome = true ∧ (tmOf s).uce = false ∧ (s.group? 0 0).bind (fun g => (g.op? 0).map Op.act) = some (.mx [blk])) := by decide

/-- A block and a replayed load whose line is poisoned. -/
theorem wit_GroupEvents_errors :
    (({ bench .nop (flying (.mx [blk])) (ranged .acc) with poison := [1024] } : State).poisoned blk.pa (MxFmt.granule blk.tf) = true) ∧
    (let s : State := { bench .nop faulted (ranged .shr) with poison := [1024] }
     ((loadAcc false .b32 2 0).runLanes 0 ⟨65536, [(0, 0)], []⟩ [0] ⟨[], [], false, false, [], [], s⟩).uce = true) := by decide

/-- What a list of words reads as, word by word. -/
theorem get_words (f : Nat → Word) (ws : List Nat) (w : Nat) :
    AMap.get? (ws.map (fun n => (n, f n))) w = if w ∈ ws then some (f w) else none := by
  induction ws with
  | nil => rfl
  | cons a r ih =>
    simp only [List.map_cons, AMap.get?, List.mem_cons]
    by_cases h : a = w
    · subst h; simp
    · rw [if_neg h, ih]
      simp [Ne.symm h]

/-- A capture that has read every word of its operands in a scratchpad of zeros. -/
theorem wit_EngineAndCommandEvents_words (ws : List Nat) :
    Memory.wf (bTeam (bGroup .nop)).scratch = true ∧ ∃ o : Op, ∀ w, AMap.get? o.early w =
      if w ∈ ws then some (BitVec.ofNat 32 (Memory.readLE (bTeam (bGroup .nop)).scratch (4 * w) 4)) else none :=
  ⟨rfl, { op .idle with early := ws.map (fun n => (n, BitVec.ofNat 32 (Memory.readLE (bTeam (bGroup .nop)).scratch (4 * n) 4))) },
    fun w => get_words (fun n => BitVec.ofNat 32 (Memory.readLE (bTeam (bGroup .nop)).scratch (4 * n) 4)) ws w⟩

def tI8 : BitVec 128 := 0
def mmaOf (ta : BitVec 128) (cap : Option Capture) : EngAct := .mma 0 ta ta none false 0 cap false false
def cap0 : Capture := ⟨[], [], [], [], false, false⟩
def queued (s : State) : State := s.modCore 0 (fun c => { c with engineQ := [(0, 0, 0)] })

/-- A command of the team with one segment that writes four bytes of its scratchpad. -/
def aCmd (st : CmdSt) (todo : List Segment) : Cmd :=
  { id := 0, grp := 0, op := 0, opcode := 0xC0, kind := .cp, prio := 0, words := List.replicate 8 0, sigAddr := some 64, sigSp := false,
    sigVal := 5, scope := .t, seq := 0, st := st, todo := todo, listed := [], draining := false, fail := .none, fails := [],
    nfail := 0, done := 0, chunk := 0, chunkEnd := 0, buf := [], bufBad := [], lost := [], window := none, found := none, began := 0, cleanG := [], cleanS := [] }

def seg : Segment := ⟨[⟨.glob 65536, .spad 0 0, 4, 4⟩]⟩
def segFar : Segment := ⟨[⟨.glob 0x500000, .spad 0 0, 4, 4⟩]⟩

def withCmd (c : Cmd) : State := bench .nop (flying (.cmd 0)) (fun t => ranged .shr { t with cmds := [c] })

def cmdReady (c : Cmd) : Bool :=
  (withCmd c).cmdRuns 0 (tmOf (withCmd c)) c && (withCmd c).cmdTurn 0 (tmOf (withCmd c)) c && (tmOf (withCmd c)).cmd? 0 == some c

theorem wit_EngineAndCommandEvents_engine :
    (let tile : BitVec 128 := BitVec.ofNat 128 (64 * 2 ^ 32 + 64 * 2 ^ 96)
     (mmaFmts tile tile).isSome = true ∧
     (let s := queued (bench .nop (flying (.engine [0] (mmaOf tile none))))
      s.captureTurn 0 (0, 0, 0) = true ∧ s.captured 0 < 4) ∧
     (let s := queued (bench .nop (flying (.engine [0] (mmaOf tile (some cap0)))))
      s.tileTurn 0 (0, 0, 0) (mmaOf tile (some cap0)) = true ∧ cap0.bad = false)) ∧
    mmaFmts 0 0 = none ∧ (queued (bench .nop (flying (.engine [0] (mmaOf 0 none))))).tileTurn 0 (0, 0, 0) (mmaOf 0 none) = true := by
  decide

theorem wit_EngineAndCommandEvents_commands :
    (cmdReady (aCmd .query []) = true) ∧
    (cmdReady (aCmd .move [seg]) = true ∧ (aCmd .move [seg]).listed.length < 16 ∧ (aCmd .move [seg]).windowBad seg = false ∧
      ((withCmd (aCmd .move [seg])).segFault (tmOf (withCmd (aCmd .move [seg]))) seg).1 = none) ∧
    (cmdReady (aCmd .move [segFar]) = true ∧
      ((withCmd (aCmd .move [segFar])).segFault (tmOf (withCmd (aCmd .move [segFar]))) segFar).1.isSome = true) ∧
    (cmdReady { aCmd .signal [] with sigAddr := none } = true ∧ cmdReady (aCmd .signal []) = true) ∧
    (let c := { aCmd .signal [] with sigAddr := some 65536, sigSp := true }
     let c1 : State := bench .nop (flying (.cmd 0)) (fun t => ranged .acc { t with cmds := [c] })
     c1.cmdRuns 0 (tmOf c1) c = true ∧ (c1.writeSignal 0 (tmOf c1) c 65536).1.toBool = true) ∧
    (let c := { aCmd .move [] with listed := [⟨seg, 65536, 0, true⟩] }
     let d := { aCmd .move [] with listed := [⟨segFar, 0x500000, 0, true⟩] }
     cmdReady c = true ∧ c.nextReplay = some ⟨seg, 65536, 0, true⟩ ∧
       ((withCmd c).segFault (tmOf (withCmd c)) seg).1 = none ∧ cmdReady d = true ∧ d.nextReplay.isSome = true ∧
       ((withCmd d).segFault (tmOf (withCmd d)) segFar).1.isSome = true) ∧
    (let c := { aCmd (.sigFault 5 true) [] with sigAddr := some 0x500000, sigSp := true }
     (withCmd c).cmdRuns 0 (tmOf (withCmd c)) c = true ∧ ((withCmd c).writeSignal 0 (tmOf (withCmd c)) c 0x500000).1.toBool = false) ∧
    (let w : Segment := ⟨[⟨.win 0, .buf 0, 4, 4⟩]⟩
     let c := { aCmd .header [w] with kind := .cpx true }
     cmdReady c = true ∧ (c.latch (withCmd c)).windowBad w = true ∧ cmdReady { c with st := .move } = true) := by decide

/-- A collective of two ranks, of which this module is rank 0, and one whose time is over. -/
theorem wit_EngineAndCommandEvents_collectives :
    (let c := { aCmd .collWait [] with kind := .coll .allred .i32, words := [0, 0, 0, 0, 4, 7, 0, 0] }
     let s : State := { withCmd c with k := { Kennel.init with coll := [(7, ⟨2, 0⟩)] } }
     let parts : List PeerPart := [⟨1, .allred, .i32, 4, [0, 0, 0, 0], []⟩]
     s.cmdRuns 0 (tmOf s) c = true ∧ s.clk < c.began + 4000 * s.k.ctimeout.toNat ∧ s.cmdServed 0 (tmOf s) c = true ∧
       s.collGroup (c.w 5) = (2, 0) ∧
       CollOp.sizes .allred 2 (c.w 4) = (4, 4) ∧
       (upTo 2).all (fun n => n == 0 || (parts.find? (fun p => p.rank = n)).any (fun p =>
         p.op == .allred && p.ty == .i32 && p.len == c.w 4 && p.data.length == 4)) = true) ∧
    (let c := { aCmd .collWait [] with kind := .coll .allred .i32 }
     let s : State := { withCmd c with clk := 4000 * 1000000 }
     s.cmdRuns 0 (tmOf s) c = true ∧ c.began + 4000 * s.k.ctimeout.toNat ≤ s.clk) := by decide

def filedOne (t : Nat) : Filed :=
  { tid := t, addr := 0, word := 0, pos := 0, regs := [], preds := 0, tern := false, from_ := 0, sregs := [], tiles := [], lcarry := 0,
    fpctl := 0, fpflags := 0, gstat := 0, safeCnt := 0, at_ := 0 }

def binOf (n : Nat) : Bin := ⟨0, 0, (upTo n).map filedOne⟩

def phased (s : State) : State := s.modTeam 0 (fun t => { t with groups := t.groups.map (fun g =>
  { idle g with lanes := g.lanes.map (fun x => { x with park := some .phase }) }) })

def exited (s : State) : State := s.modTeam 0 (fun t => { t with groups := t.groups.map (fun g =>
  { idle g with lanes := g.lanes.map (fun x => { x with thread := .exited }) }) })

def aCkpt : Checkpoint := ⟨[bGroup .nop], [], [], [], [], [], [], 0⟩

/-- The team has a checkpoint whose commits are too old: its check fails. -/
def stale (s : State) : State :=
  { s.modTeam 0 (fun t => { t with ckpt := some aCkpt }) with sched := { s.sched with commitSeq := 257 } }

theorem wit_RegroupAndPhaseEvents_bins :
    (let s := bench .nop (fun g => { idle g with lanes := g.lanes.map (fun x => { x with filing := some 0 }) })
     (s.group? 0 0).map (fun g => (g.live, g.halt.isNone, g.ops.isEmpty, (g.lane 0).filing.isSome)) = some (true, true, true, true) ∧
       s.filingTurn (tmOf s).core ((bGroup .nop).filingAt 0) = true ∧ (tmOf s).bins.length < 64 ∧
         (Team.filable (tmOf s) 0 (upTo 8)).length = 8) ∧
    (let s := bench .nop (fun g => { idle g with live := false }) (fun t => { t with bins := [binOf 8] })
     s.releasable 0 0 = some (tmOf s, binOf 8) ∧ (tmOf s).freeSlot 0 = some 0 ∧ 8 ≤ (binOf 8).threads.length) ∧
    (let s : State := { bench .nop (fun g => { idle g with live := false }) (fun t => { t with bins := [binOf 1] }) with clk := 256 }
     s.releasable 0 0 = some (tmOf s, binOf 1) ∧ (binOf 1).aged s.clk (tmOf s).asked = true ∧ (tmOf s).freeSlot 0 = some 0) ∧
    (let s : State := { bench .nop idle (fun t => { t with bins := [binOf 1] }) with clk := 256 }
     s.releasable 0 0 = some (tmOf s, binOf 1) ∧ (binOf 1).aged s.clk (tmOf s).asked = true ∧ (tmOf s).freeSlot 0 = none) ∧
    (let s := bench .nop id (fun t => { t with bins := List.replicate 64 (⟨1, 0, []⟩ : Bin) })
     64 ≤ (tmOf s).bins.length ∧ (tmOf s).bins.all (fun b => !(b.role == 0 && b.key == 0)) = true) := by decide

theorem wit_RegroupAndPhaseEvents_phases :
    (let s := phased (bench .nop)
     (tmOf s).atPhase = true ∧ s.mayCommit 0 = true ∧ s.checkFails (tmOf s) = false ∧ (tmOf s).restarting = false) ∧
    ((tmOf (stale (phased (bench .nop)))).atPhase = true ∧
      (stale (phased (bench .nop))).checkFails (tmOf (stale (phased (bench .nop)))) = true) ∧
    (let s := (stale (bench .nop)).modTeam 0 (fun t => { t with restarting := true, restarts := 3 })
     (tmOf s).ckpt = some aCkpt ∧ (tmOf s).quiet = true ∧ 4 ≤ (tmOf s).restarts + 1 ∧ s.sched.holder = none) ∧
    (let s := exited (bench .nop)
     (tmOf s).finished = true ∧ (tmOf s).quiet = true ∧ s.checkFails (tmOf s) = false) ∧
    ((tmOf (stale (exited (bench .nop)))).finished = true ∧
      (stale (exited (bench .nop))).checkFails (tmOf (stale (exited (bench .nop)))) = true) ∧
    (let g := bGroup .nop
     g.running.getLsbD 0 = true ∧ (g.svmask ||| g.svmask ||| g.svGone).getLsbD 0 = false) ∧
    (let g := noLanes (bGroup .nop)
     ∀ l, l < 8 → g.running.getLsbD l = true → g.svmask.getLsbD l = true) := by decide

/-- Staged bytes of two addresses; a checkpoint with a block, a tile and a FIFO of the bench. -/
theorem wit_RegroupAndPhaseEvents_memory :
    (let tm := { bTeam (bGroup .nop) with staged := [(131072, 1), (131073, 2)] }
     ((bench .nop id (fun _ => tm)).team? 0).isSome = true ∧ (tm.staged.map Prod.fst).Nodup) ∧
    (let k : Checkpoint := { aCkpt with blocks := [(1, List.replicate 2048 0)], tiles := [(0, List.replicate 4096 0)], fifos := [(2, 1, 1)] }
     (k.blocks.map Prod.fst).Nodup ∧ (∀ p ∈ k.blocks, p.2.length = 2048) ∧ (k.tiles.map Prod.fst).Nodup ∧
       (∀ p ∈ k.tiles, p.2.length = 4096) ∧ (k.fifos.map Prod.fst).Nodup ∧ 2 < (bTeam (bGroup .nop)).fifos.length) := by
  simp [bTeam, Team.make]
  decide

/-- Queue 0 is on and holds the address; a record at 0x10000. -/
def pushedAt (a : DWord) (rec_ : List Byte) : State :=
  { State.reset with mem := Memory.writeN [] 0x10000 rec_, sched := { Sched.init with enable := true },
                     queues := [(0, { Queue.init with enable := true, fifo := [⟨a, none⟩] })] }

/-- A record of zeros but for WAITADDR = 4096 and ROOT 0x20000; there one leaf of the root table maps the low pages. -/
def waits : State :=
  { pushedAt 0x10000 (List.replicate 40 0 ++ leBytes 8 0x20000 ++ List.replicate 48 0 ++ leBytes 8 4096) with
    mem := [] |> (fun x : Memory => Memory.writeN x 0x10000
        (List.replicate 40 0 ++ leBytes 8 0x20000 ++ List.replicate 48 0 ++ leBytes 8 4096))
      |> (fun x : Memory => Memory.writeN x 0x20000 (leBytes 8 (0x21000 + 1)))
      |> (fun x : Memory => Memory.writeN x 0x21000 (leBytes 8 (0x22000 + 1)))
      |> (fun x : Memory => Memory.writeN x 0x22000 (leBytes 8 (0x23000 + 1)))
      |> (fun x : Memory => Memory.writeN x 0x23000 (leBytes 8 (0x24000 + 1)))
      |> (fun x : Memory => Memory.writeN x 0x24008 (leBytes 8 (0x25000 + 7))) }

theorem wit_QueueEvents_queues :
    ((0 < 64 ∧ (State.reset.queue 0).fifo.length < 64) ∧
      (let s : State := { State.reset with queues := [(63, { Queue.init with fifo := List.replicate 64 ⟨0, none⟩ })] }
       64 ≤ (s.queue 63).fifo.length)) ∧
    (let s := pushedAt 0xB2D05DFFC0 []
     s.sched.enable = true ∧ (s.queue 0).enable = true ∧ (s.queue 0).grid = none ∧ (s.queue 0).snap = none ∧
       (0xB2D05DFFC0 : DWord).toNat % 64 = 0 ∧ (0xB2D05DFFC0 : DWord).toNat < 768000000000 ∧
       768000000000 < (0xB2D05DFFC0 : DWord).toNat + 1024) ∧
    (let s := pushedAt 0x10000 []
     s.mayStart 0 (Launch.parse (Memory.readN s.mem 0x10000 1024) none) = true ∧ s.allRetried (.head 0) = true ∧
       (0x10000 : DWord).toNat + 1024 ≤ 768000000000) ∧
    (let lr := Launch.parse (Memory.readN waits.mem 0x10000 1024) none
     lr.waitaddr ≠ 0 ∧ addrOk lr.waitaddr 4 true = true ∧ (waits.queue 0).head.waitPa = none ∧
       (waits.walk lr.root lr.waitaddr.toNat).toBool = true) ∧
    (let s : State := { bench .nop with queues := [(0, { Queue.init with snap := some 0 })] }
     (s.queue 0).snap = some 0 ∧ (s.grid? 0).isSome = true ∧ s.allRetried (.snap 0) = true) ∧
    (let tk (w : Faulter) : State := { bench .nop with sched := { Sched.init with tokens := [⟨5, w, false⟩] } }
     (tk (.range 0)).token? 5 = some ⟨5, .range 0, false⟩ ∧ (tk (.cmd 0 0)).token? 5 = some ⟨5, .cmd 0 0, false⟩ ∧
       (Faulter.entry 0 0 0).ofTeam 0 = true) := by decide

/-- A grid with one team to come; a team that waits, and one at each further stage. -/
def teamAt (st : TeamSt) (res : Bool) : State :=
  bench .nop idle (fun t => { t with st := st, resident := res })

theorem wit_QueueEvents_teams :
    (let s : State := { bench .nop with
        sched := { Sched.init with enable := true, dispCount := 1 }, queues := [(0, { Queue.init with enable := true, grid := some 0 })] }
     s.slotFree = true ∧ s.granted.isSome = true) ∧
    (let s := teamAt .dispatched false
     s.waiting (s.unit (tmOf s)) = true ∧ s.outranked (s.unit (tmOf s)) (tmOf s) = false ∧ (s.placeUnit (s.unit (tmOf s))).isSome = true) ∧
    (let s := State.reset.modCol 0 (fun c => { c with banks := [(127, .draining 0)] })
     AMap.get? (s.col 0).banks 127 = some (.draining 0)) ∧
    (let s := teamAt .admitted true
     (tmOf s).st = .admitted ∧ s.allRetried (.range 0) = true ∧ (s.pinRanges 0 (tmOf s).ranges).2 = []) ∧
    (let s := bench .nop idle (fun t => { t with st := .admitted, ranges := [⟨65536, 4096, .shr, []⟩] })
     (s.pinRanges 0 (tmOf s).ranges).2 ≠ []) ∧
    (let s := teamAt .translated true
     (tmOf s).st = .translated ∧ s.drains 0 (tmOf s) = false ∧ (tmOf s).fresh = false) ∧
    ((tmOf (bench .nop idle (fun t => { t with st := .translated, groups := [Group.init 0 0 8 64 64 0 0] }))).fresh = true) := by decide

/-- A saved team whose area reads as zeros, whose check value is then 0, and one whose area has a poisoned line. -/
theorem crc64_zeros {l : List Byte} (h : ∀ x ∈ l, x = 0) : crc64 l = 0 := by
  unfold crc64
  induction l with
  | nil => rfl
  | cons a r ih =>
    have h0 : crcStep 0 0 = 0 := by decide
    rw [List.foldl_cons, h a (by simp), h0]
    exact ih fun x hx => h x (by simp [hx])

theorem pinRead_zeros (s : State) (va n : Nat) : ∀ x ∈ s.pinRead [] va n, x = 0 := by
  intro x hx
  simp only [State.pinRead, List.mem_flatMap] at hx
  obtain ⟨p, _, hx⟩ := hx
  exact List.eq_of_mem_replicate hx

def unpinned : Grid := Grid.make 0 0 benchLaunch [0] [] 0

def savedTeam : State := { teamAt .translated true with grids := [unpinned] }

theorem wit_QueueEvents_restore :
    (savedTeam.grid? 0 = some unpinned ∧ savedTeam.areaOk unpinned 0 = true) ∧
    (let s : State := { teamAt .translated true with poison := [0] }
     (s.grid? 0).map (fun g => s.areaOk g 0) = some false) := by
  refine ⟨⟨by decide, ?_⟩, by decide⟩
  have hc : savedTeam.areaCrc [] (benchLaunch.areaMap 0) = 0 := by
    refine crc64_zeros fun x hx => ?_
    have hb : ∀ x ∈ savedTeam.areaBytes [] (benchLaunch.areaMap 0), x = 0 := by
      intro x hx
      simp only [State.areaBytes, List.mem_flatMap] at hx
      obtain ⟨i, _, hx⟩ := hx
      split at hx
      · exact List.eq_of_mem_replicate hx
      · exact pinRead_zeros _ _ _ x hx
    rcases List.mem_append.mp hx with hx | hx
    · exact hb x (List.mem_of_mem_take hx)
    · exact hb x (List.mem_of_mem_drop hx)
  have hp : unpinned.pins = [] := rfl
  have hl : unpinned.lr = benchLaunch := rfl
  simp only [State.areaOk, hp, hl, hc, Bool.and_eq_true, beq_iff_eq]
  exact ⟨by decide, by decide⟩

/-- A grid of priority 3 that waits while the bench's team holds the only core in service. -/
def crowded : State :=
  let s := bench .nop idle
  let hi : Launch := { benchLaunch with prio := 3, roles := [⟨64, 16, 256, 384⟩] }
  { s with
    clk := 400000, sched := { s.sched with priopre := true },
    grids := s.grids ++ [Grid.make 1 1 hi [0] [] 0],
    teams := [(0, bTeam (idle (bGroup .nop))), (1, { Team.make 1 0 1 0 [] 0 with groups := [] })] }

theorem wit_PreemptAndKillEvents_preempt :
    (let s := crowded
     (match s.team? 1 with
      | some tm =>
        s.sched.priopre && s.waiting (s.unit tm) && decide (tm.dispAt + 400000 ≤ s.clk) && (s.placeUnit (s.unit tm)).isNone &&
          (match s.grid? tm.grid with
           | some g =>
             let vs := s.victims (packCols g.lr.shape ((s.homes g tm).headD 0))
             g.lr.prio == 3 && vs.all (fun x => x.2.2.pre.isNone) && (worst vs).isSome
           | none => false)
      | none => false) = true) ∧
    ((bench .nop).find? 0 0).isSome = true ∧
    (let s := (exited (bench .nop)).modTeam 0 (fun t => { t with pre := some ⟨true, none, 0⟩ })
     s.canSave (tmOf s) = true ∧ (s.unit (tmOf s)).all (fun p => s.canSave p.2 || p.2.st == .saved) = true) ∧
    ((bench .nop).grid? 0).map Grid.completedAt = some none := by decide

def haltOf (ed : Mask) : Halt := ⟨.trapN, 16, 0xFF, 0, 0, 0, 0, false, none, ed⟩

def halts (ed : Mask) (pc : DWord) (n : Nat) : State :=
  bench .nop (fun g => { idle g with
    halt := some (haltOf ed), limbs := n,
    lanes := g.lanes.zipIdx.map (fun p => if p.2 = 1 then { p.1 with pc := pc } else p.1) })

theorem wit_PreemptAndKillEvents_windows :
    ([halts 0 0 0, halts 2 8 0, halts 0 8 8].all (fun s => (s.halted 0 0).isSome) = true) ∧
    (let f (s : State) := (s.group? 0 0).map (fun g => (s.badEdits (s.fetcher (.port 0 0 false)) g, g.limbSplit))
     f (halts 0 0 0) = some (0, none) ∧ f (halts 2 8 0) = some (2, none) ∧ f (halts 0 8 8) = some (0, some 1)) ∧
    (let s := bench .nop id (fun t => { t with uce := true })
     (tmOf s).uce = true ∧ (s.grid? 0).map (mayRelaunch (s.unit (tmOf s))) = some false) ∧
    (let s := bench .nop id (fun t => { t with uce := true }) (fun x => { x with grids := x.grids.map (fun g =>
       { g with lr := { g.lr with replay := true } }) })
     (s.grid? 0).map (mayRelaunch (s.unit (tmOf s))) = some true) ∧
    ((mreg 0x40000).isSome = true ∧ (hreg 0).isSome = true ∧ 0 % 8 = 0) := by decide

def sliceAt (x : Slice) (c : Core → Core := id) (now : Nat := 0) : State :=
  { State.reset with clk := now, cores := [(0, c { Core.init with slices := [(0, x)] })] }

theorem wit_PowerEvents_slices :
    (let s := sliceAt { Slice.init with target := 8 }
     s.mayHop 0 0 = true ∧ ((s.core 0).slice 0).retryAt = none) ∧
    (let s := sliceAt { Slice.init with hop := some ⟨15, 0⟩ } id 64
     ((s.core 0).slice 0).hop = some ⟨15, 0⟩ ∧ 0 + 64 ≤ s.clk) ∧
    (let s := sliceAt { Slice.init with retryAt := some 0 }
     ((s.core 0).slice 0).retryAt = some 0 ∧ (s.core 0).stretch = none ∧ ((s.core 0).slice 0).k = ((s.core 0).slice 0).target) ∧
    (let x : Slice := { Slice.init with retryAt := some 0, target := 8, issued := List.replicate 65 0 }
     (sliceAt x).mayHop 0 0 = true ∧ x.issued = 0 :: List.replicate 64 0 ∧ x.room < 2 * x.issued.length ∧ x.sank ≠ some 0) ∧
    (let s := sliceAt { Slice.init with target := 8 } (fun c => { c with stretch := some 0 })
     s.hopDue 0 0 = true ∧ (s.core 0).stretch = some s.clk) ∧
    (let s := sliceAt { Slice.init with leash := some ⟨40, 16, 15, 0⟩ } id 500
     ((s.core 0).slice 0).leash = some ⟨40, 16, 15, 0⟩ ∧ 0 + 500 ≤ s.clk) ∧
    (let s := sliceAt Slice.init (fun c => { c with stretch := some 0 }) 64
     (s.core 0).stretch = some 0 ∧ 0 + 64 ≤ s.clk) := by decide

/-- A slice of core 0 at a budget period, clamped and not. -/
theorem wit_PowerEvents_period :
    (let s (c : Bool) : State := sliceAt Slice.init (fun x => { x with clamp := c }) 4000
     [false, true].all (fun c => (s c).periodAt + 4000 ≤ (s c).clk && ((s c).core 0).clamp == c) = true) ∧
    ([(⟨0, [0, 0, 0, 0]⟩ : ColPeriod), ⟨143, [9000, 0, 0, 0]⟩].all (fun y => decide (y.col < 144)) = true) := by decide

/-- A team whose copy to core 1 is complete. -/
def moves : State := bench .nop idle (fun t => { t with mig := some ⟨1, [(0, 0)], 0, false⟩ })

theorem wit_PowerEvents_rest :
    ([(⟨0, [0, 0, 0, 0]⟩ : ColPeriod), ⟨1, [9000, 0, 0, 0]⟩].map ColPeriod.col).Nodup ∧ ({ State.reset with released := true } : State).released = true ∧ State.reset.readAt = none ∧
    (let s : State := { State.reset with clk := 39999, readAt := some 0 }
     s.readAt = some 0 ∧ s.clk < 0 + 40000 ∧ 0 + 40000 ≤ ({ s with clk := 40000 } : State).clk) ∧
    ((tmOf moves).mig = some ⟨1, [(0, 0)], 0, false⟩ ∧ moves.moved 0 (tmOf moves) = true ∧ moves.overtaken (tmOf moves) = false ∧
      moves.left 4 (colOf (tmOf moves).core) = true ∧ 0 < [(0, 0)].length) := by decide

/-- Core 0 being emptied since cycle 0, at cycle 8,000,000. -/
def draining (t : List (Nat × Team)) : State :=
  { State.reset with clk := 8000000, cores := [(0, { Core.init with scan := .draining 0 })], teams := t }

theorem wit_ScanAndHealthEvents_scans :
    ((draining []).onCore 0 = [] ∧ (draining []).teams = []) ∧
    (let s := draining [(0, bTeam (bGroup .nop))]
     (s.onCore 0).isEmpty = false ∧ (tmOf s).resident = true ∧ (tmOf s).core = 0 ∧ (tmOf s).mig = none ∧ (tmOf s).pre = none ∧
       0 + 8000000 ≤ s.clk ∧ 0 + 4000000 ≤ s.clk) ∧
    (let s : State := { State.reset with released := true }
     (s.core 0).scan = .idle ∧ s.nextVisit (coreStack 0) = some 0 ∧ s.scanFree (coreStack 0) = true) ∧
    (let s : State := { State.reset with clk := 200000, cores := [(0, { Core.init with scan := .patterns 0 })] }
     (s.core 0).scan = .patterns 0 ∧ 0 + 200000 ≤ s.clk ∧ s.left 5 (coreStack 0) = true) ∧
    (let s : State := bench .nop id (fun t => { t with pre := some ⟨false, some 5, 0⟩ }) (fun s => { s with clk := 4000000 })
     ((s.core 5).scan = .idle ∧ s.onCore 5 = []) ∧ (tmOf s).pre.map PreReq.scan = some (some 5) ∧ 0 + 4000000 ≤ s.clk) ∧
    ([ScanSt.skipped, .withdrawn].all (fun x =>
      let s : State := { State.reset with released := true, cores := [(0, { Core.init with scan := x })] }
      s.nextVisit (coreStack 0) == some 0 && s.scanFree (coreStack 0)) = true) := by decide

theorem wit_ScanAndHealthEvents_health :
    (State.reset.cool.lid ≠ true ∧ EccKind.uncorrectable ≠ .clean) ∧
    (let s : State := { State.reset with released := true, clk := 8000000000, cool := { Coolant.init with lidBad := some 0 } }
     s.released = true ∧ s.cool.lidBad = some 0 ∧ 0 + 400000000 < s.clk ∧ s.cool.lidCut = false ∧ 0 + 8000000000 ≤ s.clk ∧
       s.cool.shutdown = false) ∧
    (let s : State := { State.reset with released := true, clk := 8000000000,
                                         cool := { Coolant.init with lidBad := some 0, lidCut := true, cut := true } }
     s.cool.lidCut = true ∧ s.cool.microBad = none) ∧
    (let s : State := { State.reset with clk := 40000000000, cool := { Coolant.init with goodSince := some 0, shutdown := true } }
     s.cool.goodSince = some 0 ∧ s.cool.shutdown = true ∧ 0 + 40000000000 ≤ s.clk) := by decide

/-- An image of no payload; whether its signatures verify is open (log 14), so the case of an accepted one is shown
under that condition. -/
def image : List Byte := leBytes 4 0x4B4E4C31 ++ leBytes 4 1 ++ leBytes 8 0 ++ (List.replicate 384 0 ++ List.replicate 16224 0)

theorem wit_ResetEvents :
    (bootSlot State.reset.nvm = none) ∧
    (let s : State := { State.reset with clk := 4000000000, k := { Kennel.init with locked := some 0 } }
     s.k.locked = some 0 ∧ 0 + 4000000000 ≤ s.clk) ∧ ((0 : Word) ≠ 0x5752) ∧
    (let s : State := { State.reset with
        hbmReady := true, k := { Kennel.init with started := true }, cool := { Coolant.init with lid := true, micro := true, rail := true } }
     s.hbmReady = true ∧ s.k.started = true ∧ s.cool.lid = true ∧ s.cool.micro = true ∧ s.cool.rail = true ∧ s.released = false) := by
  decide

/-- No slot holds an image; an image that is refused. -/
theorem wit_ResetEvents_slots :
    bootable Nvm.init Nvm.init.slotA = none ∧ bootable Nvm.init Nvm.init.slotB = none ∧ bootable Nvm.init (some ⟨[]⟩) = none := by
  decide

theorem image_parses : ∃ i, Image.parse image = some i ∧ i.version = 1 ∧ i.payload = [] := by
  refine ⟨⟨image.take 16, (image.drop 16).take 384, image.drop 400, 1, []⟩, ?_, rfl, rfl⟩
  have h : image.length = 16624 := by
    simp only [image, List.length_append, List.length_replicate]
    rfl
  have h4 : leNat (image.take 4) = 0x4B4E4C31 := by decide
  have h8 : leNat ((image.drop 8).take 8) = 0 := by decide
  have hv : leNat ((image.drop 4).take 4) = 1 := by decide
  simp [Image.parse, h, h4, h8, hv]

theorem wit_ResetEvents_accepted (hv : ∀ i, Image.parse image = some i → i.rsaOk = true ∧ i.slhOk = true) :
    ∃ i, bootSlot { Nvm.init with slotA := some ⟨image⟩ } = some (false, i) ∧
      bootSlot { Nvm.init with slotA := some ⟨image⟩, slotB := some ⟨image⟩ } = some (false, i) ∧ i.version ≤ i.version := by
  obtain ⟨i, hi, hw, hp⟩ := image_parses
  have h1 := hv i hi
  refine ⟨i, ?_⟩
  simp [bootSlot, bootable, Nvm.init, hi, Image.accepted, h1.1, h1.2, hp, Option.filter]

theorem wit_KennelEvents :
    (let s := kBench .nop idle (fun x => { x with inh := false, kien := 0x30, kipend := 0x30 })
     s.k.started = true ∧ s.k.locked = none ∧ s.k.grp.portA = none ∧ (s.k.grp.lane 0).thread = .running ∧ s.k.inh = false ∧
       4 < 32 ∧ (s.k.kipend &&& s.k.kien).getLsbD 4 = true ∧
       (upTo 4).all (fun w => !(s.k.kipend &&& s.k.kien).getLsbD w) = true ∧
       s.target .kennel (BitVec.ofNat 64 (Memory.readLE s.k.sram (s.k.kvbase.toNat / 256 * 256 + 8 * 4) 8)) = true) ∧
    (0x80 ≤ (((0x80 : Word)).extractLsb' 0 8).toNat ∧ (((0x7F : Word)).extractLsb' 0 8).toNat < 0x80) ∧
    (let x : Word := 0x1008
     4 ≤ (x.extractLsb' 8 5).toNat ∧ (x.extractLsb' 8 5).toNat ≤ 16 ∧ 1 ≤ (x.extractLsb' 0 4).toNat ∧ (x.extractLsb' 0 4).toNat ≤ 8) ∧
    (State.reset.k.energy[5]?).isSome = true ∧ (State.reset.k.upstat.getLsbD 0 = false) ∧
    (({ Kennel.init with upstat := 1 } : Kennel).upstat.getLsbD 0 = true) ∧
    (State.reset.upRead 0x80000 0 = some [] ∧ State.reset.upRead 0x80000 1 = none ∧ (State.reset.upRead 0x7FFE0 32).isSome = true ∧
      (State.reset.upWrite 0x80001 []).isNone = true) := by decide

theorem wit_KennelEvents_accepted (hv : ∀ i, Image.parse image = some i → i.rsaOk = true ∧ i.slhOk = true) :
    ∃ i, Image.parse image = some i ∧ i.accepted 1 = true := by
  obtain ⟨i, hi, hw, _⟩ := image_parses
  exact ⟨i, hi, by simp [Image.accepted, (hv i hi).1, (hv i hi).2, hw]⟩

end Wit

/-! ## The assembler -/

/-- Words printed beside their statements in 03 Table 3-9, 13 R297, 10 R243 and 17 R389. -/
theorem test_aedud_words :
    ([("V.FFMA.F32", "v4, v1!, v2^, v4", false), ("MMA", "a1, t0, t1 k=1 capf=f3 stat=s40", false),
      ("TKT.WAIT.D", "[s20], s24 glob", false), ("MMLD.B32", "s10, [s4 + 16]", true)].map (fun x =>
        ((Aedud.stmt (fun _ => none) x.1 (Aedud.tokens x.2.1.toList)).bind (Aedud.form x.2.2)).bind
          (fun a => encode a.i))) =
      [some 0x7470090028040080, some 0xB170808A00000011, some 0xD5708C08A180002C, some 0xF470850821887FE0] := by decide

/-- The safe point of the worked encoding of chapter 3, with what follows reading v4 and v5; its header and words. -/
theorem test_aedud_safe_point :
    (Aedud.assemble (".kernel k\n.role w 64 1 8 16\n.safe\n.wait f2\nV.FFMA.F32 v4, v1!, v2^, v4\n" ++
      "v.ffma.f32 v5, v3!, v2!, v5 ; case\nl: ST.B32 [s0], v4\nST.B32 [s0], v5\nEXIT\n.endkernel\n").toList).map
        (fun ks => ks.map (fun k => k.code.take 4)) =
      some [[0xFF01004FF8000000, 0x0000000100000001, 0x7470090028040080, 0x74700B00700400A0]] := by decide

/-- The live mask of the loop of 03 R85: v0 to v7 and v8 to v15, s0 to s15. -/
theorem test_aedud_loop :
    (Aedud.assemble (".kernel k\n.role w 64 1 16 16\nhead: V.ADD.I32 v0, v0, v8\nBR.NZ s0, head\n" ++
      "ST.B32 [s2], v12\nEXIT\n.endkernel\n").toList).map (fun ks => ks.map (fun k => k.code[1]?)) =
      some [some 0x0000000100000003] := by decide

/-- Refused: a kernel without a role (Table 3-10), `!` before a later read (R85), −0.0 (R80), an order alone (R115). -/
theorem test_aedud_refuses :
    [".kernel k\nEXIT\n.endkernel", ".kernel k\n.role w 64 1 8 16\nV.ADD.I32 v1, v2!, v3\nST.B32 [s0], v2\nEXIT\n.endkernel",
     ".kernel k\n.role w 64 1 8 16\nV.FADD.F32 v1, v2, -0.0\nEXIT\n.endkernel",
     ".kernel k\n.role w 64 1 8 16\nATOM.ADD.I32 v1, [s0 + v2]\nEXIT\n.endkernel"].all
      (fun x => Aedud.assemble x.toList = none) = true := by decide
end

section
/-! PROOFS. The halt window of a group through a slot: issuing, settling and leaving the port keep it, on either core. -/
namespace Sys2Proof.Machine

/-! ## The halt window of an agent's group -/

/-- The halt window of the agent's group, where it has a group. -/
def State.haltOf (s : State) (a : Agent) : Option (Option Halt) := (s.grpOf a).map Group.halt

/-- An agent's group lies in the teams or in the Kennel. -/
theorem State.grpOf_congr {s t : State} (ht : t.teams = s.teams) (hk : t.k.grp = s.k.grp) (a : Agent) :
    t.grpOf a = s.grpOf a := by
  cases a with
  | kennel => simp [State.grpOf, hk]
  | port n g b => simp [State.grpOf, State.group?, State.team?, ht]

theorem State.haltOf_congr {s t : State} (ht : t.teams = s.teams) (hk : t.k.grp = s.k.grp) (a : Agent) :
    t.haltOf a = s.haltOf a := by
  rw [State.haltOf, State.grpOf_congr ht hk, State.haltOf]

theorem State.haltOf_putGrp (s : State) (a : Agent) (g : Group) :
    (s.putGrp a g).haltOf a = (s.haltOf a).map (fun _ => g.halt) := by
  cases a with
  | kennel => rfl
  | port t n b =>
    simp only [State.haltOf, State.grpOf, State.putGrp, State.group?_modGroup, Option.map_map]
    rfl

@[simp] theorem State.haltOf_tick (s : State) (n : Nat) (a : Agent) : (s.tick n).haltOf a = s.haltOf a :=
  State.haltOf_congr rfl rfl a

@[simp] theorem State.haltOf_modCore (s : State) (n : Nat) (f : Core → Core) (a : Agent) :
    (s.modCore n f).haltOf a = s.haltOf a := State.haltOf_congr rfl rfl a

/-- A group put in place of the agent's with the same halt window. -/
theorem haltOf_put_of_eq {c : Ctx} {s : State} {g : Group} (h : g.halt = (c.now s).halt) :
    (c.put s g).haltOf c.ag = s.haltOf c.ag := by
  rw [Ctx.put_eq, State.haltOf_putGrp, h]
  cases hg : s.grpOf c.ag <;> simp [State.haltOf, Ctx.now, hg]

theorem haltOf_mod {c : Ctx} {s : State} {f : Group → Group} (h : ∀ g, (f g).halt = g.halt) :
    (c.mod s f).haltOf c.ag = s.haltOf c.ag := haltOf_put_of_eq (h _)

/-! ## What keeps it: issuing -/

@[simp] theorem Group.freshen_halt (g : Group) (n : Nat) : (g.freshen n).halt = g.halt := by
  unfold Group.freshen; split <;> rfl

@[simp] theorem Group.caches_halt (g : Group) (b : Bool) (xs : List Nat) (us : List Use) :
    (g.caches b xs us).halt = g.halt := by
  cases b <;> rfl

@[simp] theorem Ctx.fly_halt (c : Ctx) (n : Nat) (us : List Use) (g : Group) : (c.fly n us g).halt = g.halt := by
  unfold Ctx.fly; dsimp only; split <;> rfl

@[simp] theorem Group.settled_halt (g : Group) (n : Nat) : (g.settled n).halt = g.halt := rfl

@[simp] theorem Group.setPort_halt (g : Group) (b : Bool) (x : Option Clause) : (g.setPort b x).halt = g.halt := by
  cases b <;> rfl

@[simp] theorem Group.leavePort_halt (g : Group) (b : Bool) (n : Nat) : (g.leavePort b n).halt = g.halt := by
  unfold Group.leavePort; dsimp only; split <;> simp

@[simp] theorem Group.spill_halt (g : Group) : g.spill.halt = g.halt := by
  unfold Group.spill; split <;> rfl

theorem haltOf_modSlice (c : Ctx) (s : State) (f : Slice → Slice) (a : Agent) :
    (c.modSlice s f).haltOf a = s.haltOf a := by
  unfold Ctx.modSlice; split <;> simp

theorem haltOf_openHalf (c : Ctx) (s : State) (us : List Use) (n : Nat) (a : Agent) :
    ({ c.openHalf s us n with conflict := none } : State).haltOf a = s.haltOf a := by
  unfold Ctx.openHalf; split <;> exact State.haltOf_congr rfl rfl a

theorem haltOf_presents (c : Ctx) (s : State) (us : List Use) : (c.presents s us).haltOf c.ag = s.haltOf c.ag := by
  unfold Ctx.presents
  dsimp only
  split
  · exact haltOf_mod (by simp)
  · split
    · rw [haltOf_modSlice, haltOf_mod (by simp), haltOf_openHalf]
    · rw [haltOf_mod (by simp), haltOf_openHalf]

theorem haltOf_noteReads (c : Ctx) (s : State) (us : List Use) : (c.noteReads s us).haltOf c.ag = s.haltOf c.ag := by
  have hp : (if us.any c.g.readsPoison then c.mod s (·.orGstat gPoisonRd) else s).haltOf c.ag = s.haltOf c.ag := by
    split
    · exact haltOf_mod (fun _ => rfl)
    · rfl
  unfold Ctx.noteReads
  dsimp only
  split
  · exact (haltOf_mod (by intro g; rfl)).trans hp
  · exact hp

theorem haltOf_begun (c0 c : Ctx) (s : State) (us : Ctx → List Use) :
    (c0.begun c s us).haltOf c.ag = s.haltOf c.ag := by
  rw [Ctx.begun, haltOf_noteReads, haltOf_presents]

/-! ## What keeps it: the end of a slot -/

theorem State.hwLog_kHalt (s : State) (ty : Nat) (sev : Option Nat) (src : Nat) (xs : List Nat) :
    (s.hwLog ty sev src xs).k.grp.halt = s.k.grp.halt := by
  unfold State.hwLog State.log
  dsimp only
  split <;> rfl

theorem State.lockup_kHalt (s : State) : s.lockup.k.grp.halt = s.k.grp.halt := by
  unfold State.lockup
  exact State.hwLog_kHalt ..

theorem State.kVector_kHalt (s : State) (v : Nat) (a : DWord) (b : Bool) :
    (s.kVector v a b).k.grp.halt = s.k.grp.halt := by
  unfold State.kVector
  dsimp only
  split
  · exact s.lockup_kHalt
  · split
    · rfl
    · exact State.lockup_kHalt _

theorem State.kIllegal_kHalt (s : State) (e : Cause) (x y : DWord) : (s.kIllegal e x y).k.grp.halt = s.k.grp.halt := by
  unfold State.kIllegal
  split
  · exact s.lockup_kHalt
  · exact State.kVector_kHalt ..

theorem State.kReturn_kHalt (s : State) : s.kReturn.k.grp.halt = s.k.grp.halt := by
  unfold State.kReturn
  dsimp only
  split
  · rfl
  · exact State.kIllegal_kHalt ..

theorem kEnds_kHalt (es : List ClauseEnd) (a : DWord) (s : State) : (kEnds es a s).k.grp.halt = s.k.grp.halt := by
  induction es generalizing s with
  | nil => rfl
  | cons e r ih =>
    unfold kEnds
    split
    · rfl
    · cases e with
      | trap => exact (ih _).trans (State.kVector_kHalt ..)
      | brk => exact (ih _).trans (State.kVector_kHalt ..)
      | iret => exact (ih _).trans (State.kReturn_kHalt _)

theorem haltOf_slot (c : Ctx) (s : State) : (c.slot s).haltOf c.ag = s.haltOf c.ag := by
  unfold Ctx.slot
  dsimp only
  split
  · rw [State.haltOf_modCore, haltOf_mod (by simp)]
  · exact haltOf_mod (by simp)

theorem haltOf_endClause (c : Ctx) (s : State) : (c.endClause s).haltOf c.ag = s.haltOf c.ag := by
  have hl : (c.mod s (fun g => g.leavePort c.ag.isB s.clk)).haltOf c.ag = s.haltOf c.ag := haltOf_mod (by simp)
  unfold Ctx.endClause
  dsimp only
  split
  · next ha =>
    rw [ha] at hl ⊢
    refine Eq.trans ?_ hl
    simp only [State.haltOf, State.grpOf, Option.map_some, kEnds_kHalt]
  · exact hl

theorem haltOf_advance (c : Ctx) (s : State) : (c.advance s).haltOf c.ag = s.haltOf c.ag := by
  unfold Ctx.advance
  dsimp only
  split
  · rw [haltOf_mod (by simp), haltOf_slot]
  · rw [haltOf_endClause, haltOf_mod (by simp), haltOf_slot]

theorem haltOf_next (c : Ctx) (s : State) (a : Agent) : (c.next s).haltOf a = s.haltOf a := by
  unfold Ctx.next Ctx.passTo
  dsimp only
  split
  · exact State.haltOf_congr rfl rfl a
  · split <;> exact State.haltOf_congr rfl rfl a

/-! ## What keeps it: budgets and the checkpoint -/

/-- What port A wrote of the uniform registers, put back over what now stands. -/
def keptReg (m : AMap Reg) (p : Nat × Option Reg) : AMap Reg :=
  match p.2 with
  | some r => AMap.set m p.1 r
  | none => m

/-- One step of what `Half.restore` does to the uniform registers. -/
def Group.keep (g : Group) (p : Nat × Option Reg) : Group :=
  match p.2 with
  | some r => { g with sregs := AMap.set g.sregs p.1 r }
  | none => g

theorem Group.foldl_keep : ∀ (l : List (Nat × Option Reg)) (g : Group),
    l.foldl Group.keep g = { g with sregs := l.foldl keptReg g.sregs }
  | [], _ => rfl
  | (_, none) :: l, g => Group.foldl_keep l g
  | (n, some r) :: l, g => Group.foldl_keep l { g with sregs := AMap.set g.sregs n r }

/-- Port A's writes that remain are of uniform registers and of three status registers (R118). -/
theorem Half.restore_eq (h : Half) (x : Option Nat) (g : Group) :
    ∃ a b d, h.restore x g =
      { g with sregs := h.kept.foldl keptReg g.sregs, lcarry := a, fpctl := b, fpflags := d } := by
  have hk : ∃ a b d, h.restore x g = { h.kept.foldl Group.keep g with lcarry := a, fpctl := b, fpflags := d } := by
    unfold Half.restore
    dsimp only
    split
    · exact ⟨_, _, _, rfl⟩
    · split <;> exact ⟨_, _, _, rfl⟩
  obtain ⟨a, b, d, hk⟩ := hk
  exact ⟨a, b, d, by rw [hk, Group.foldl_keep]⟩

theorem merged_halt (c : Ctx) (s : State) : (c.merged s).halt = (c.now s).halt := by
  unfold Ctx.merged
  split
  · next h _ =>
    obtain ⟨a, b, d, hr⟩ := h.restore_eq c.statWritten (c.now s)
    rw [hr]
  · rfl

theorem haltOf_modTeam {s : State} {t : Nat} {f : Team → Team} (hf : ∀ x, (f x).groups = x.groups) (a : Agent) :
    (s.modTeam t f).haltOf a = s.haltOf a := by
  cases a with
  | kennel => rfl
  | port n g b =>
    simp only [State.haltOf, State.grpOf, State.group?, State.team?_modTeam]
    split
    · next h => subst h; cases s.team? n <;> simp [Team.group?, hf]
    · rfl

theorem haltOf_payCkpt (s : State) (t : Nat) (a : Agent) : (s.payCkpt t).haltOf a = s.haltOf a := by
  have hc (j u n : Nat) : (s.charge j u n).haltOf a = s.haltOf a := by
    unfold State.charge
    split
    · rfl
    · exact State.haltOf_congr rfl rfl a
  unfold State.payCkpt
  split
  · split
    · rfl
    · exact (haltOf_modTeam (by intro x; rfl) a).trans (hc ..)
  · rfl

/-- Settling an effect keeps the halt window. -/
theorem haltOf_settle {c : Ctx} {x s2 : State} (h : c.settle x = .ok s2) : s2.haltOf c.ag = x.haltOf c.ag := by
  have hp : (c.put x (c.merged x).spill).haltOf c.ag = x.haltOf c.ag :=
    haltOf_put_of_eq (by rw [Group.spill_halt, merged_halt])
  unfold Ctx.settle at h
  dsimp only at h
  split at h
  · cases h
  · split at h
    · cases h; rfl
    · split at h
      · split at h
        · cases h; exact hp
        · split at h
          · cases h
          · split at h
            · cases h; rw [haltOf_payCkpt, hp]
            · cases h
      · cases h; exact hp

end Sys2Proof.Machine
end

section
/-! PROOFS. Groups that bind the same registers: the budgets and the checkpoint judge an effect by the names it binds and not by
the values it writes (R37, R234), so two such effects settle alike. -/
namespace Sys2Proof.Machine

/-! ## Groups that differ in values only -/

/-- The names of a lane's live registers. -/
def Lane.names (x : Lane) : List Nat := x.regs.map Prod.fst

/-- The two groups bind the same registers and retain the same names: what the budgets and the checkpoint judge an effect by
(R37, R234) is the same in both. -/
structure Group.SameBindings (g h : Group) : Prop where
  kennel : g.kennel = h.kennel
  vbud : g.vbud = h.vbud
  sbud : g.sbud = h.sbud
  lanes : g.lanes.map Lane.names = h.lanes.map Lane.names
  sregs : g.sregs.map Prod.fst = h.sregs.map Prod.fst
  ops : g.ops = h.ops
  retained : g.retained = h.retained

namespace Group.SameBindings
variable {g h : Group}

theorem refl (g : Group) : g.SameBindings g := ⟨rfl, rfl, rfl, rfl, rfl, rfl, rfl⟩

theorem boundV (hs : g.SameBindings h) : g.boundV = h.boundV := by
  have hl (x : Group) : x.boundV = x.ops.foldl (fun acc o => o.dstV.foldl setIns acc)
      ((x.lanes.map Lane.names).foldl (fun acc ns => ns.foldl setIns acc) []) := by
    simp only [Group.boundV, List.foldl_map, Lane.names]
  rw [hl, hl, hs.lanes, hs.ops]

theorem boundS (hs : g.SameBindings h) : g.boundS = h.boundS := by
  simp only [Group.boundS, hs.sregs, hs.ops]

theorem spill_retained (hs : g.SameBindings h) : g.spill.retained = h.spill.retained := by
  unfold Group.spill
  rw [hs.retained, hs.boundV, hs.boundS, hs.vbud, hs.sbud]
  split
  · exact hs.retained
  · rfl

theorem overBudget (hs : g.SameBindings h) (before : Group) :
    Machine.overBudget before g = Machine.overBudget before h := by
  simp only [Machine.overBudget, hs.kennel, hs.vbud, hs.sbud, hs.boundV, hs.boundS]

theorem touchV (hs : g.SameBindings h) (n : Nat) : (g.touchV n).SameBindings (h.touchV n) := by
  obtain ⟨hk, hv, hu, hl, hr, ho, ht⟩ := hs
  unfold Group.touchV
  rw [ht]
  split
  · exact ⟨hk, hv, hu, hl, hr, ho, rfl⟩
  · exact ⟨hk, hv, hu, hl, hr, ho, ht⟩

theorem touchS (hs : g.SameBindings h) (n : Nat) : (g.touchS n).SameBindings (h.touchS n) := by
  obtain ⟨hk, hv, hu, hl, hr, ho, ht⟩ := hs
  unfold Group.touchS
  rw [ht]
  split
  · exact ⟨hk, hv, hu, hl, hr, ho, rfl⟩
  · exact ⟨hk, hv, hu, hl, hr, ho, ht⟩

end Group.SameBindings

/-- The keys of a map after a write depend on its keys alone. -/
theorem AMap.keys_set {α β : Type} : ∀ {m : AMap α} {k : AMap β}, m.map Prod.fst = k.map Prod.fst →
    ∀ (n : Nat) (x : α) (y : β), (AMap.set m n x).map Prod.fst = (AMap.set k n y).map Prod.fst
  | [], [], _, _, _, _ => rfl
  | (a, _) :: r, (b, _) :: q, h, n, x, y => by
    simp only [List.map_cons, List.cons.injEq] at h
    obtain ⟨rfl, hr⟩ := h
    simp only [AMap.set]
    split
    · simp [hr]
    · split
      · simp [hr]
      · simp [AMap.keys_set hr n x y]

/-- The same for the uniform registers that port A's writes are put back over. -/
theorem keys_kept : ∀ (l : List (Nat × Option Reg)) {m k : AMap Reg}, m.map Prod.fst = k.map Prod.fst →
    (l.foldl keptReg m).map Prod.fst = (l.foldl keptReg k).map Prod.fst
  | [], _, _, h => h
  | (_, none) :: l, _, _, h => keys_kept l h
  | (n, some r) :: l, _, _, h => keys_kept l (AMap.keys_set h n r r)

/-- The names of the lanes after a write of register `n` in the lanes that `p` names. -/
theorem names_mapLanes (p : Nat → Bool) (n : Nat) (f f' : Nat → Reg) : ∀ {xs ys : List Lane} (i : Nat),
    xs.map Lane.names = ys.map Lane.names →
    (mapLanes (fun l x => if p l then { x with regs := AMap.set x.regs n (f l) } else x) i xs).map Lane.names =
      (mapLanes (fun l x => if p l then { x with regs := AMap.set x.regs n (f' l) } else x) i ys).map Lane.names
  | [], [], _, _ => rfl
  | x :: xs, y :: ys, i, h => by
    simp only [List.map_cons, List.cons.injEq] at h
    obtain ⟨hx, hr⟩ := h
    simp only [mapLanes, List.map_cons, names_mapLanes p n f f' (i + 1) hr, List.cons.injEq, and_true]
    split
    · exact AMap.keys_set hx ..
    · exact hx

/-! ### Writes of different values keep it -/

namespace Group.SameBindings
variable {g h : Group}

theorem setS (hs : g.SameBindings h) (n : Nat) (x y : Word) : (g.setS n x).SameBindings (h.setS n y) := by
  obtain ⟨hk, hv, hu, hl, hr, ho, ht⟩ := hs.touchS n
  exact ⟨hk, hv, hu, hl, AMap.keys_set hr .., ho, ht⟩

theorem setLanes (hs : g.SameBindings h) (m : Mask) (n : Nat) (f f' : Nat → Word) :
    (g.setLanes m n f).SameBindings (h.setLanes m n f') := by
  obtain ⟨hk, hv, hu, hl, hr, ho, ht⟩ := hs.touchV n
  exact ⟨hk, hv, hu, names_mapLanes _ n _ _ 0 hl, hr, ho, ht⟩

theorem setS64 (hs : g.SameBindings h) (n : Nat) (x y : DWord) : (g.setS64 n x).SameBindings (h.setS64 n y) :=
  (hs.setS n _ _).setS (n + 1) _ _

theorem setLanes64 (hs : g.SameBindings h) (m : Mask) (n : Nat) (f f' : Nat → DWord) :
    (g.setLanes64 m n f).SameBindings (h.setLanes64 m n f') :=
  (hs.setLanes m n _ _).setLanes m (n + 1) _ _

theorem setSpan (hs : g.SameBindings h) (m : Mask) (d e w : Nat) (f f' : Nat → Nat → Nat) :
    (g.setSpan m d e w f).SameBindings (h.setSpan m d e w f') := by
  unfold Group.setSpan
  induction upTo (spanRegs e w) generalizing g h with
  | nil => exact hs
  | cons j js ih => exact ih (hs.setLanes ..)

theorem setPred (hs : g.SameBindings h) (n : Nat) (m x y : Mask) : (g.setPred n m x).SameBindings (h.setPred n m y) := by
  obtain ⟨hk, hv, hu, hl, hr, ho, ht⟩ := hs
  unfold Group.setPred
  split <;> exact ⟨hk, hv, hu, hl, hr, ho, ht⟩

theorem of_sticky (hs : g.SameBindings h) (x : FFlags) : g.SameBindings (h.sticky x) :=
  ⟨hs.kennel, hs.vbud, hs.sbud, hs.lanes, hs.sregs, hs.ops, hs.retained⟩

theorem sticky (hs : g.SameBindings h) (x y : FFlags) : (g.sticky x).SameBindings (h.sticky y) :=
  ⟨hs.kennel, hs.vbud, hs.sbud, hs.lanes, hs.sregs, hs.ops, hs.retained⟩

/-- TERNBAD, set in either, both or neither. -/
theorem orTern (hs : g.SameBindings h) (p q : Prop) [Decidable p] [Decidable q] (x y : Mask) :
    (if p then g else g.orTern x).SameBindings (if q then h else h.orTern y) := by
  obtain ⟨hk, hv, hu, hl, hr, ho, ht⟩ := hs
  split <;> split <;> exact ⟨hk, hv, hu, hl, hr, ho, ht⟩

/-- Port A's writes put back over both (R118). -/
theorem restore (hs : g.SameBindings h) (k : Half) (x : Option Nat) :
    (k.restore x g).SameBindings (k.restore x h) := by
  obtain ⟨_, _, _, hg⟩ := k.restore_eq x g
  obtain ⟨_, _, _, hh⟩ := k.restore_eq x h
  obtain ⟨hk, hv, hu, hl, hr, ho, ht⟩ := hs
  rw [hg, hh]
  exact ⟨hk, hv, hu, hl, keys_kept k.kept hr, ho, ht⟩

end Group.SameBindings

/-! ## Settling depends on the bindings -/

theorem pair?_mod (c : Ctx) (s : State) (f : Group → Group) (a : Agent) : (c.mod s f).pair? a = s.pair? a := by
  cases a with
  | kennel => rfl
  | port t n b => cases b <;> simp [State.pair?, State.paired, Ctx.mod]

/-- The merged group after two effects that leave the same bindings. -/
theorem merged_sameBindings {c : Ctx} {b : State} {g : Group} {f f' : Group → Group} (hg : b.grpOf c.ag = some g)
    (hf : (f g).SameBindings (f' g)) : (c.merged (c.mod b f)).SameBindings (c.merged (c.mod b f')) := by
  simp only [Ctx.merged, pair?_mod, mod_now _ hg]
  split
  · exact hf.restore ..
  · exact hf

/-- The checkpoint has room for the team's copies, and the budget for them is not spent (R234, R323). -/
def State.pays (s : State) (tm : Team) : Prop :=
  tm.ckptNew = 0 ∨ (tm.ckptUsed ≤ s.ckptSlots tm ∧ s.left 4 (colOf tm.core) = true)

/-- On the Kennel core an effect settles when it binds no more than its budgets. -/
theorem settles_kennel {c : Ctx} (ha : c.ag = .kennel) (x : State) :
    c.Settles x ↔ overBudget c.g (c.merged x) = false := by
  unfold Ctx.Settles Ctx.settle
  rw [ha]
  dsimp only
  split
  · next ho => exact ⟨fun ⟨_, h⟩ => (nomatch h), fun h => absurd ho (Bool.eq_false_iff.mp h)⟩
  · next ho => exact ⟨fun _ => Bool.eq_false_iff.mpr ho, fun _ => ⟨_, rfl⟩⟩

/-- On a compute core the checkpoint's copies must be paid for as well. -/
theorem settles_port {c : Ctx} {t n : Nat} {p : Bool} (ha : c.ag = .port t n p) (x : State) :
    c.Settles x ↔ overBudget c.g (c.merged x) = false ∧
      ∀ tm, (c.put x (c.merged x).spill).team? t = some tm → (c.put x (c.merged x).spill).pays tm := by
  unfold Ctx.Settles Ctx.settle
  simp only [ha]
  split
  · next ho => exact ⟨fun ⟨_, h⟩ => (nomatch h), fun ⟨h, _⟩ => absurd ho (Bool.eq_false_iff.mp h)⟩
  · next ho =>
    have hb := Bool.eq_false_iff.mpr ho
    split
    · next tm ht =>
      simp only [ht, Option.some.injEq, forall_eq', hb, true_and]
      split
      · next h0 => exact ⟨fun _ => .inl h0, fun _ => ⟨_, rfl⟩⟩
      · next h0 =>
        split
        · next hl =>
          exact ⟨fun ⟨_, h⟩ => (nomatch h), fun h => h.elim (absurd · h0) fun ⟨hr, _⟩ => absurd hl (Nat.not_lt.mpr hr)⟩
        · next hl =>
          split
          · next hp => exact ⟨fun _ => .inr ⟨Nat.not_lt.mp hl, hp⟩, fun _ => ⟨_, rfl⟩⟩
          · next hp => exact ⟨fun ⟨_, h⟩ => (nomatch h), fun h => h.elim (absurd · h0) fun ⟨_, hr⟩ => absurd hr hp⟩
    · next ht => exact ⟨fun _ => ⟨hb, fun tm h => (nomatch ht.symm.trans h)⟩, fun _ => ⟨_, rfl⟩⟩

/-- The team's copies are counted by the names its groups have copied out (R234). -/
theorem Team.ckptUsed_modGroup (tm : Team) (n : Nat) {g h : Group} (hr : g.retained = h.retained) :
    (tm.modGroup n (fun _ => g)).ckptUsed = (tm.modGroup n (fun _ => h)).ckptUsed := by
  have hc (k : Retained → Nat) : (modifyAt tm.groups n (fun _ => g)).map (fun x => k x.retained) =
      (modifyAt tm.groups n (fun _ => h)).map (fun x => k x.retained) := by
    refine List.ext_getElem (by simp [modifyAt]) fun i _ _ => ?_
    by_cases hi : n = i <;> simp [modifyAt, hi, hr]
  simp only [Team.ckptUsed, Team.modGroup, hc (fun r => r.outV.length), hc (fun r => r.outS.length)]

/-- Whether the checkpoint's copies are paid for depends on the grids, the budgets and the names copied out. -/
theorem State.pays_modGroup {s t : State} (hg : t.grids = s.grids) (hk : t.k = s.k) (tm : Team) (n : Nat) {g h : Group}
    (hr : g.retained = h.retained) (hp : s.pays (tm.modGroup n (fun _ => g))) : t.pays (tm.modGroup n (fun _ => h)) := by
  unfold State.pays Team.ckptNew State.ckptSlots State.left State.spentOn State.grid? at hp ⊢
  rwa [hg, hk, ← tm.ckptUsed_modGroup n hr]

/-- The team of a port once a group has been put in the place of an effect's. -/
theorem team?_put_mod {c : Ctx} {t n : Nat} {p : Bool} (ha : c.ag = .port t n p) (b : State) (f : Group → Group) (g : Group) :
    (c.put (c.mod b f) g).team? t = (b.team? t).map (·.modGroup n (fun _ => g)) := by
  simp only [Ctx.put_eq, Ctx.mod, ha, State.team?_putGrp, if_true, Option.map_map]
  congr 1
  funext x
  simp [Team.modGroup, modifyAt, List.modify_modify_eq, Function.comp_def]

/-- Whether an effect settles is decided by the bindings it leaves: what values it writes does not matter. -/
theorem settles_of_sameBindings {c : Ctx} {b : State} {g : Group} {f f' : Group → Group} (hg : b.grpOf c.ag = some g)
    (hf : (f g).SameBindings (f' g)) (h : c.Settles (c.mod b f')) : c.Settles (c.mod b f) := by
  have hm := merged_sameBindings hg hf
  cases ha : c.ag with
  | kennel =>
    rw [settles_kennel ha] at h ⊢
    rw [hm.overBudget, h]
  | port t n p =>
    rw [settles_port ha] at h ⊢
    obtain ⟨hb, hp⟩ := h
    refine ⟨by rw [hm.overBudget, hb], ?_⟩
    rw [team?_put_mod ha] at hp ⊢
    intro _ ht
    obtain ⟨tm, hb, rfl⟩ := Option.map_eq_some_iff.mp ht
    have hq := hp _ (Option.map_eq_some_iff.mpr ⟨tm, hb, rfl⟩)
    refine State.pays_modGroup ?_ ?_ tm n hm.spill_retained.symm hq <;> simp [Ctx.mod, ha, State.putGrp]

end Sys2Proof.Machine
end

section
/-! PROOFS. Every register instruction that issues retires an effect that binds what its rule's effect binds and keeps the halt
window. The values that it writes are left to the statements of the instructions' results. -/
namespace Sys2Proof.Machine

/-! ## What results leave of the halt window -/

@[simp] theorem Group.touchV_halt (g : Group) (n : Nat) : (g.touchV n).halt = g.halt := by
  unfold Group.touchV; split <;> rfl

@[simp] theorem Group.touchS_halt (g : Group) (n : Nat) : (g.touchS n).halt = g.halt := by
  unfold Group.touchS; split <;> rfl

@[simp] theorem Group.setS_halt (g : Group) (n : Nat) (x : Word) : (g.setS n x).halt = g.halt := g.touchS_halt n

@[simp] theorem Group.setS64_halt (g : Group) (n : Nat) (x : DWord) : (g.setS64 n x).halt = g.halt := by
  simp [Group.setS64]

@[simp] theorem Group.setLanes_halt (g : Group) (m : Mask) (n : Nat) (f : Nat → Word) :
    (g.setLanes m n f).halt = g.halt := g.touchV_halt n

@[simp] theorem Group.setLanes64_halt (g : Group) (m : Mask) (n : Nat) (f : Nat → DWord) :
    (g.setLanes64 m n f).halt = g.halt := by simp [Group.setLanes64]

@[simp] theorem Group.setPred_halt (g : Group) (n : Nat) (m x : Mask) : (g.setPred n m x).halt = g.halt := by
  unfold Group.setPred; split <;> rfl

@[simp] theorem Group.orTern_halt (g : Group) (m : Mask) : (g.orTern m).halt = g.halt := rfl

/-- What every step of a fold keeps, the fold keeps. -/
theorem foldl_keeps {α β γ : Type} (k : β → γ) {f : β → α → β} (h : ∀ b a, k (f b a) = k b) (l : List α) (b : β) :
    k (l.foldl f b) = k b := by
  induction l generalizing b with
  | nil => rfl
  | cons a l ih => exact (ih (f b a)).trans (h b a)

@[simp] theorem Group.setSpan_halt (g : Group) (m : Mask) (d e w : Nat) (f : Nat → Nat → Nat) :
    (g.setSpan m d e w f).halt = g.halt := foldl_keeps Group.halt (by simp) _ _

theorem Group.freeV_halt (g : Group) (m : Mask) (n : Nat) : (g.freeV m n).halt = g.halt := by
  unfold Group.freeV; dsimp only; split <;> simp

theorem Group.freeS_halt (g : Group) (n : Nat) : (g.freeS n).halt = g.halt := by
  unfold Group.freeS; split <;> simp

theorem Group.endUse_halt (g : Group) (m : Mask) (x : Src) (n : Nat) : (g.endUse m x n).halt = g.halt := by
  unfold Group.endUse
  split
  · split
    · exact foldl_keeps Group.halt (fun g i => g.freeV_halt m _) _ _
    · exact foldl_keeps Group.halt (fun g i => g.freeS_halt _) _ _
    · rfl
  · rfl

@[simp] theorem Group.endUses_halt (g : Group) (m : Mask) (xs : List (Src × Nat)) : (g.endUses m xs).halt = g.halt :=
  foldl_keeps Group.halt (fun g (x : Src × Nat) => g.endUse_halt m x.1 x.2) xs g

/-! ## Register instructions retire by their rules, up to values -/

/-- What the rule's instruction issues with. -/
def RegRule.spec (r : RegRule) : Spec := { core := r.core, guard := r.guard, uses := r.uses }

/-- Wherever the instruction issues under the rule, it has an effect that binds what the rule's effect binds, and leaves the
halt window alone. -/
def RegRule.Retires (r : RegRule) (i : Instr) : Prop :=
  ∀ (c0 c : Ctx) (s : State), c0.IssuesUnder c s r.core r.guard (r.uses · s) →
    ∃ f : Group → Group, exec i s = c.finish s (.done (c0.did c s (r.uses · s) f)) ∧
      ∀ g, (f g).SameBindings (r.eff c s g) ∧ (f g).halt = g.halt

/-- An instruction whose meaning ends the rule's last uses and then writes what the rule writes, whatever the values. -/
theorem RegRule.retires_of {r : RegRule} {i : Instr} {body : Ctx → State → Res} (hi : ∀ s, exec i s = issue r.spec body s)
    (hb : ∀ c s, ∃ f : Group → Group, body c s = c.retire s r.ends f ∧
      ∀ s' g, (f g).SameBindings (r.res c s' g) ∧ (f g).halt = g.halt) : r.Retires i := by
  intro c0 c s h
  obtain ⟨f, hf, hs⟩ := hb c (c0.begun c s (r.uses · s))
  refine ⟨fun g => f (g.endUses c.active r.ends), ?_, fun g => ⟨(hs s _).1, by rw [(hs s _).2, Group.endUses_halt]⟩⟩
  rw [hi, issue_body (sp := r.spec) h rfl rfl rfl rfl]
  exact congrArg _ hf

/-! ### The shapes of rules -/

theorem uRule_retires {i : Instr} {d : BitVec 9} {xs : List Src} {f : (Opnd → Word) → Word}
    (hi : ∃ F, ∀ s, exec i s = uniform d 1 (xs.map (fun x => (x, 1))) F s) : (uRule d xs f).Retires i := by
  obtain ⟨F, hi⟩ := hi
  exact RegRule.retires_of hi fun c s => ⟨_, rfl, fun s' g => ⟨(Group.SameBindings.refl g).setS .., by simp⟩⟩

theorem uRule64_retires {i : Instr} {d : BitVec 9} {xs : List Src} {f : (Opnd → DWord) → DWord}
    (hi : ∃ F, ∀ s, exec i s = uniform d 2 (xs.map (fun x => (x, 2))) F s) : (uRule64 d xs f).Retires i := by
  obtain ⟨F, hi⟩ := hi
  exact RegRule.retires_of hi fun c s => ⟨_, rfl, fun s' g => ⟨(Group.SameBindings.refl g).setS64 .., by simp⟩⟩

theorem vRule_retires {i : Instr} {d : BitVec 8} {xs : List Src} {f : (Opnd → Word) → Word}
    (hi : ∃ F, ∀ s, exec i s = vector d (xs.map (fun x => (x, 1))) F s) : (vRule d xs f).Retires i := by
  obtain ⟨F, hi⟩ := hi
  exact RegRule.retires_of hi fun c s => ⟨_, rfl, fun s' g => ⟨(Group.SameBindings.refl g).setLanes .., by simp⟩⟩

theorem vRule64_retires {i : Instr} {d : BitVec 8} {xs : List (Src × Nat)} {f : (Opnd → Word) → (Opnd → DWord) → DWord}
    (hi : ∃ F, ∀ s, exec i s = vector64 d xs F s) : (vRule64 d xs f).Retires i := by
  obtain ⟨F, hi⟩ := hi
  exact RegRule.retires_of hi fun c s => ⟨_, rfl, fun s' g => ⟨(Group.SameBindings.refl g).setLanes64 .., by simp⟩⟩

theorem fRule_retires {i : Instr} {d : BitVec 8} {xs : List Src} {f : Ctx → State → Nat → Nat × FFlags}
    (hi : ∃ F, ∀ s, exec i s = vecF d xs F s) : (fRule d xs f).Retires i := by
  obtain ⟨F, hi⟩ := hi
  unfold vecF at hi
  exact RegRule.retires_of hi fun c s =>
    ⟨_, rfl, fun s' g => ⟨((Group.SameBindings.refl g).sticky ..).setLanes .., by simp⟩⟩

/-! ### Family by family

In each case the meaning unfolds to the issue of the rule's uses and a body that retires results; the case then says which
writes bind alike. -/

theorem uniRule_retires {i : Instr} {r : RegRule} (h : uniRule i = some r) : r.Retires i := by
  unfold uniRule at h
  split at h
  case h_1 w64 d a =>
    cases w64 <;> cases h
    · rw [if_neg Bool.false_ne_true]
      refine uRule_retires ?_
      exact ⟨_, fun s => by simp only [exec, execSMov, Bool.false_eq_true, if_false]; rfl⟩
    · rw [if_pos rfl]
      refine uRule64_retires ?_
      exact ⟨_, fun s => by simp only [exec, execSMov, if_true]; rfl⟩
  case h_2 x d imm =>
    cases x <;> cases h
    · rw [if_neg Bool.false_ne_true]
      refine uRule_retires ?_
      exact ⟨_, fun s => by simp only [exec, execSLi, Bool.false_eq_true, if_false]; rfl⟩
    · rw [if_pos rfl]
      refine uRule64_retires ?_
      exact ⟨_, fun s => by simp only [exec, execSLi, if_true]; rfl⟩
  all_goals cases h
  -- S.ADD64, S.SUB64 and S.SHL64
  case h_16 | h_17 | h_18 =>
    refine uRule64_retires ?_
    exact ⟨_, fun s => by simp only [exec, execSAdd64, execSSub64, execSShl64, uniWide]; rfl⟩
  all_goals
    refine uRule_retires ?_
    exact ⟨_, fun s => by
      simp only [exec, execSAdd, execSSub, execSMul, execSMulhi, execSAnd, execSOr, execSXor, execSNot, execSShl, execSShr,
        execSSra, execSMin, execSMax, execSBfe, execSBfi, execSClz, execSPopc, uniArith, uniBits]
      rfl⟩

theorem vecRule_retires {i : Instr} {r : RegRule} (h : vecRule i = some r) : r.Retires i := by
  unfold vecRule at h
  split at h
  case h_1 x d imm =>
    cases x <;> cases h
    · rw [if_neg Bool.false_ne_true]
      refine vRule_retires ?_
      exact ⟨_, fun s => by simp only [exec, execVLi, Bool.false_eq_true, if_false]; rfl⟩
    · rw [if_pos rfl]
      refine vRule64_retires ?_
      exact ⟨_, fun s => by simp only [exec, execVLi, if_true]; rfl⟩
  all_goals cases h
  -- V.MADW
  case h_7 =>
    refine vRule64_retires ?_
    exact ⟨_, fun s => by simp only [exec, execVMadw]; rfl⟩
  all_goals
    refine vRule_retires ?_
    exact ⟨_, fun s => by
      simp only [exec, execVAdd, execVSub, execVMul, execVMulhi, execVMad, execVAnd, execVOr, execVXor, execVNot, execVShl,
        execVShr, execVSra, execVMin, execVMax, execVAbs, execVBfe, execVBfi, execVPopc, execVClz, execVDot4, execVReq,
        vArith1, vArith2, vBits2, vShift, vCount]
      rfl⟩

theorem uniRule2_retires {i : Instr} {r : RegRule} (hw : i.wf = true) (h : uniRule2 i = some r) : r.Retires i := by
  unfold uniRule2 at h
  split at h
  case h_1 cc t d a b =>
    cases h
    refine RegRule.retires_of (fun s => by simp only [exec, execSCmp]; rfl) fun c s => ⟨_, rfl, fun s' g => ?_⟩
    simp only [Instr.wf, Bool.and_eq_true] at hw
    obtain ⟨⟨⟨-, hd⟩, -⟩, -⟩ := hw
    cases d with
    | p i => exact ⟨(Group.SameBindings.refl g).setPred .., g.setPred_halt ..⟩
    | s n => exact ⟨(Group.SameBindings.refl g).setS .., g.setS_halt ..⟩
    | v | special | nat | neg | fp => simp [Opnd.isS, Opnd.isP] at hd
  case h_2 gd w64 d a b x =>
    cases h
    refine RegRule.retires_of (fun s => by simp only [exec, execSSel]; rfl) fun c s => ⟨_, rfl, fun s' g => ?_⟩
    cases w64
    · exact ⟨(Group.SameBindings.refl g).setS .., g.setS_halt ..⟩
    · exact ⟨(Group.SameBindings.refl g).setS64 .., g.setS64_halt ..⟩
  case h_3 w64 d a i =>
    cases h
    refine RegRule.retires_of (fun s => by simp only [exec, execSVget]; rfl) fun c s => ⟨_, rfl, fun s' g => ?_⟩
    cases w64
    · exact ⟨(Group.SameBindings.refl g).setS .., g.setS_halt ..⟩
    · exact ⟨(Group.SameBindings.refl g).setS64 .., g.setS64_halt ..⟩
  case h_4 => cases h

theorem vecRule2_retires {i : Instr} {r : RegRule} (h : vecRule2 i = some r) : r.Retires i := by
  unfold vecRule2 at h
  split at h
  case h_1 w64 d a =>
    cases h
    cases w64
    · refine RegRule.retires_of (fun s => by simp only [exec, execVMov, Bool.false_eq_true, if_false, vector]; rfl)
        fun c s => ⟨_, rfl, fun s' g => ⟨(Group.SameBindings.refl g).setLanes .., g.setLanes_halt ..⟩⟩
    · refine RegRule.retires_of (fun s => by simp only [exec, execVMov, if_true, vector64]; rfl)
        fun c s => ⟨_, rfl, fun s' g => ⟨(Group.SameBindings.refl g).setLanes64 .., g.setLanes64_halt ..⟩⟩
  case h_2 gd w64 d a b x =>
    cases h
    refine RegRule.retires_of (fun s => by simp only [exec, execVSel]; rfl) fun c s => ⟨_, rfl, fun s' g => ?_⟩
    cases w64
    · exact ⟨(Group.SameBindings.refl g).setLanes .., g.setLanes_halt ..⟩
    · exact ⟨(Group.SameBindings.refl g).setLanes64 .., g.setLanes64_halt ..⟩
  case h_3 cc t d a b =>
    cases h
    refine RegRule.retires_of (fun s => by simp only [exec, execVCmp]; rfl) fun c s => ⟨_, rfl, fun s' g => ?_⟩
    cases d with
    | p i => exact ⟨(Group.SameBindings.refl g).setPred .., g.setPred_halt ..⟩
    | v n => exact ⟨(Group.SameBindings.refl g).setLanes .., g.setLanes_halt ..⟩
    | s | special | nat | neg | fp => exact ⟨.refl g, rfl⟩
  case h_4 byte pd d a =>
    cases h
    refine RegRule.retires_of (fun s => by simp only [exec, execVUnpk3]; rfl) fun c s => ⟨_, rfl, fun s' g => ⟨?_, ?_⟩⟩
    · exact (((Group.SameBindings.refl g).setLanes64 ..).setPred ..).orTern ..
    · split <;> simp
  case h_5 => cases h

theorem laneRule_retires {i : Instr} {r : RegRule} (h : laneRule i = some r) : r.Retires i := by
  unfold laneRule at h
  split at h
  case h_1 mode seg d a k off =>
    cases h
    exact RegRule.retires_of (fun s => by simp only [exec, execVShfl]; rfl)
      fun c s => ⟨_, rfl, fun s' g => ⟨(Group.SameBindings.refl g).setLanes .., g.setLanes_halt ..⟩⟩
  case h_2 w64 seg d a i =>
    cases h
    refine RegRule.retires_of (fun s => by simp only [exec, execVBcast]; rfl) fun c s => ⟨_, rfl, fun s' g => ?_⟩
    cases w64
    · exact ⟨(Group.SameBindings.refl g).setLanes .., g.setLanes_halt ..⟩
    · exact ⟨(Group.SameBindings.refl g).setLanes64 .., g.setLanes64_halt ..⟩
  case h_3 o d a =>
    cases h
    refine RegRule.retires_of (fun s => by simp only [exec, execVVote]; rfl) fun c s => ⟨_, rfl, fun s' g => ?_⟩
    have hs := Group.SameBindings.refl g
    by_cases ho : o = .ballot
    · simp only [ho, if_true]
      cases d with
      | p i => exact ⟨hs.setPred .., by simp⟩
      | v n => exact ⟨hs.setLanes64 .., by simp⟩
      | s n => exact ⟨hs.setS64 .., by simp⟩
      | special | nat | neg | fp => exact ⟨hs, rfl⟩
    · simp only [ho, if_false, show ¬((1 : Nat) = 2) by decide]
      cases d with
      | p i => exact ⟨hs.setPred .., by simp⟩
      | v n => exact ⟨hs.setLanes .., by simp⟩
      | s n => exact ⟨hs.setS .., by simp⟩
      | special | nat | neg | fp => exact ⟨hs, rfl⟩
  case h_4 o d a =>
    cases h
    refine RegRule.retires_of (fun s => by simp only [exec, execVRed]; rfl) fun c s => ⟨_, rfl, fun s' g => ?_⟩
    have hs := (Group.SameBindings.refl g).sticky (c.reduce s o a).2 (c.reduce s' o a).2
    cases d with
    | v n => exact ⟨hs.setLanes .., by simp⟩
    | s n => exact ⟨hs.setS .., by simp⟩
    | p | special | nat | neg | fp => exact ⟨hs, rfl⟩
  case h_5 excl o d a =>
    cases h
    exact RegRule.retires_of (fun s => by simp only [exec, execVScan]; rfl)
      fun c s => ⟨_, rfl, fun s' g => ⟨((Group.SameBindings.refl g).sticky ..).setLanes .., by simp⟩⟩
  case h_6 => cases h

theorem fltRule_retires {i : Instr} {r : RegRule} (h : fltRule i = some r) : r.Retires i := by
  unfold fltRule at h
  split at h
  all_goals cases h
  case h_19 cc ty d a b =>
    refine RegRule.retires_of (fun s => by simp only [exec, execVFcmp]; rfl) fun c s => ⟨_, rfl, fun s' g => ?_⟩
    have hs (x y : FFlags) := (Group.SameBindings.refl g).sticky x y
    cases d with
    | p i => exact ⟨(hs ..).setPred .., by simp⟩
    | v n => exact ⟨(hs ..).setLanes .., by simp⟩
    | s | special | nat | neg | fp => exact ⟨hs .., rfl⟩
  all_goals
    refine fRule_retires ?_
    exact ⟨_, fun s => by
      simp only [exec, execVFadd, execVFsub, execVFmul, execVFfma, execVFmin, execVFmax, execVFclass, execVFrnd, execVFsqrt,
        execVFrcp, execVFrsq, execVFexp2, execVFlog2, execVFsin, execVFcos, execVHadd2, execVHmul2, execVHfma2, vecF2, vecSpec,
        vecH]
      rfl⟩

/-- The two tables of element widths agree (Table 4-1). -/
theorem fmtWidth_eq (f : Fmt) : Fmt.width f = f.spanBits := by cases f <;> rfl

/-- A conversion's results are a span written over the flags. -/
theorem cRule_res (e sw dw : Nat) (d : BitVec 8) (a : Src) (ys : List (Src × Nat))
    (f : Ctx → State → Nat → Nat → Nat × FFlags) (c : Ctx) (s : State) (g : Group) :
    ∃ x, (cRule e sw dw d a ys f).res c s g =
      (g.sticky x).setSpan c.active d.toNat e dw (fun l k => (f c s l k).1) := ⟨_, rfl⟩

theorem cRule_retires {i : Instr} {e sw dw : Nat} {d : BitVec 8} {a : Src} {ys : List (Src × Nat)}
    {f : Ctx → State → Nat → Nat → Nat × FFlags} (hi : ∃ F, ∀ s, exec i s = convert e sw dw d a ys F s) :
    (cRule e sw dw d a ys f).Retires i := by
  obtain ⟨F, hi⟩ := hi
  unfold convert at hi
  refine RegRule.retires_of hi fun c s => ⟨_, rfl, fun s' g => ?_⟩
  obtain ⟨x, hx⟩ := cRule_res e sw dw d a ys f c s' g
  rw [hx]
  exact ⟨((Group.SameBindings.refl g).sticky ..).setSpan .., by simp⟩

theorem cvtRule_retires {i : Instr} {r : RegRule} (h : cvtRule i = some r) : r.Retires i := by
  have he (df sf : Fmt) : convElems df sf = cvtElems df sf := by simp [convElems, cvtElems, fmtWidth_eq, Nat.min_comm]
  unfold cvtRule at h
  split at h
  all_goals cases h
  case h_1 df sf d a =>
    refine RegRule.retires_of (fun s => by simp only [exec, execVCvt, he]; rfl) fun c s => ⟨_, rfl, fun s' g => ?_⟩
    obtain ⟨x, hx⟩ := cRule_res _ _ _ d a [] _ c s' g
    rw [hx]
    exact ⟨((Group.SameBindings.refl g).of_sticky x).setSpan .., by simp⟩
  case h_2 df sf r d a rb =>
    refine cRule_retires ?_
    exact ⟨_, fun s => by simp only [exec, execVFcvt, he]; rfl⟩
  case h_3 df sf r d a =>
    refine cRule_retires ?_
    exact ⟨_, fun s => by simp only [exec, execVFicvt, he]; rfl⟩
  case h_4 mf d a =>
    refine fRule_retires ?_
    exact ⟨_, fun s => by simp only [exec, execVMxscl]; rfl⟩
  case h_5 mf r d a sc rb =>
    exact RegRule.retires_of (fun s => by simp only [exec, execVMxpack]; rfl)
      fun c s => ⟨_, rfl, fun s' g => ⟨((Group.SameBindings.refl g).sticky ..).setLanes .., by simp⟩⟩

/-- Every register instruction retires by its rule. -/
theorem regRule_retires {i : Instr} {r : RegRule} (hw : i.wf = true) (h : regRule i = some r) : r.Retires i := by
  simp only [regRule, Option.or_eq_some_iff] at h
  rcases h with h | ⟨-, h | ⟨-, h | ⟨-, h | ⟨-, h | ⟨-, h | ⟨-, h⟩⟩⟩⟩⟩⟩
  · exact uniRule_retires h
  · exact uniRule2_retires hw h
  · exact vecRule_retires h
  · exact vecRule2_retires h
  · exact laneRule_retires h
  · exact fltRule_retires h
  · exact cvtRule_retires h

/-- An instruction that retires by its rule takes no trap where the rule's effect fits: the halt window stands. -/
theorem RegRule.Retires.keeps_halt {r : RegRule} {i : Instr} (hr : r.Retires i) {c0 c : Ctx} {s : State}
    (h : c0.IssuesUnder c s r.core r.guard (r.uses · s)) (hs : c.Settles (c0.did c s (r.uses · s) (r.eff c s))) :
    ∃ t h, exec i s = .next t ∧ t.grpOf c.ag = some h ∧ h.halt = (c.now s).halt := by
  obtain ⟨f, hi, hf⟩ := hr c0 c s h
  have hag : c.ag = c0.ag := by rw [h.narrowed]
  obtain ⟨g, hg, -, -⟩ := slot_group h.slot
  rw [← hag] at hg
  have hb : (c0.begun c s (r.uses · s)).haltOf c.ag = some g.halt := by
    rw [haltOf_begun, State.haltOf, hg, Option.map_some]
  obtain ⟨gb, hgb, -⟩ := Option.map_eq_some_iff.mp hb
  obtain ⟨s2, h2⟩ := settles_of_sameBindings hgb (hf gb).1 hs
  have ht : (c.next (c.advance s2)).haltOf c.ag = some g.halt := by
    rw [haltOf_next, haltOf_advance, haltOf_settle h2, haltOf_mod fun g => (hf g).2, hb]
  obtain ⟨gt, hgt, hh⟩ := Option.map_eq_some_iff.mp ht
  exact ⟨_, gt, hi.trans (finish_done h2), hgt, by rw [hh, Ctx.now, hg, Option.getD_some]⟩

end Sys2Proof.Machine
end

section
/-! PROOFS. Reads of dead lanes and unbound names (R36). -/
namespace Sys2Proof.Machine

theorem mem_lanes {m : Mask} {w l : Nat} : l ∈ Mask.lanes m w ↔ l < w ∧ l < 64 ∧ m.getLsbD l = true := by
  simp only [Mask.lanes, upTo, List.mem_filter, List.mem_range]
  exact ⟨fun ⟨hw, hm⟩ => ⟨hw, BitVec.lt_of_getLsbD hm, hm⟩, fun ⟨hw, _, hm⟩ => ⟨hw, hm⟩⟩

/-- On a compute core a use reads poison where a register it names is unbound, or dead in a lane of the use (R36). -/
theorem readsPoison_iff {g : Group} (hk : g.kennel = false) (u : Use) : g.readsPoison u = true ↔
    u.wr = false ∧ ∃ k, k < u.n ∧
      ((∃ r l, u.op = .v r ∧ l < g.width ∧ l < 64 ∧ u.lanes.getLsbD l = true ∧ g.vReg l (r.toNat + k) = none) ∨
        ∃ r, u.op = .s r ∧ AMap.get? g.sregs (r.toNat + k) = none) := by
  unfold Group.readsPoison
  cases h : u.op <;> simp [hk, mem_lanes, upTo, AMap.has, and_assoc]

/-- What noting the reads leaves in the group: POISONRD set where a use reads poison, the registers and the halt window as they
stood. -/
theorem noteReads_group {c : Ctx} {s : State} {g : Group} (us : List Use) (hg : s.grpOf c.ag = some g) :
    ∃ h, (c.noteReads s us).grpOf c.ag = some h ∧ h.lanes = g.lanes ∧ h.sregs = g.sregs ∧ h.halt = g.halt ∧
      h.gstat = if us.any c.g.readsPoison then g.gstat ||| gPoisonRd else g.gstat := by
  unfold Ctx.noteReads
  dsimp only
  split <;> split
  · exact ⟨_, mod_grpOf _ (mod_grpOf _ hg), rfl, rfl, rfl, rfl⟩
  · exact ⟨_, mod_grpOf _ hg, rfl, rfl, rfl, rfl⟩
  · exact ⟨_, mod_grpOf _ hg, rfl, rfl, rfl, rfl⟩
  · exact ⟨_, hg, rfl, rfl, rfl, rfl⟩

theorem rd_sreg {c : Ctx} (hk : c.g.kennel = false) (s : State) (n : BitVec 9) (l : Nat) :
    c.rd s (.s n) l = ((AMap.get? c.g.sregs n.toNat).map Reg.val).getD 0xFFC0DEAD := by
  simp [Ctx.rd, Group.sVal, hk, Config.poison]

/-- Each half of a pair is the read of its own register (R36). -/
theorem rd64_vreg (c : Ctx) (s : State) (n : BitVec 8) (l : Nat) (hn : n.toNat < 255) :
    c.rd64 s (.v n) l = c.rd s (.v (n + 1)) l ++ c.rd s (.v n) l := by
  have h1 : (n + 1).toNat = n.toNat + 1 := by bv_omega
  simp only [Ctx.rd64, Ctx.rd, h1]

theorem rd64_sreg (c : Ctx) (s : State) (n : BitVec 9) (l : Nat) (hn : n.toNat < 511) :
    c.rd64 s (.s n) l = c.rd s (.s (n + 1)) l ++ c.rd s (.s n) l := by
  have h1 : (n + 1).toNat = n.toNat + 1 := by bv_omega
  simp only [Ctx.rd64, Ctx.rd, h1]

/-- Settles O14: values and POISONRD from what a read does and what noting the reads leaves; no trap, since an instruction that
issues by its rule retires and keeps the halt window. -/
theorem poisonReads : Obligations.PoisonReads := by
  unfold Obligations.PoisonReads
  refine ⟨fun c s hk => ⟨fun n l => rfl, fun n l => rd_sreg hk s n l, fun n l => rd64_vreg c s n l,
    fun n l => rd64_sreg c s n l⟩, fun c s us hc hk => ?_, fun i r c0 c s hw hr h hs => ?_⟩
  · obtain ⟨g, hg, hn, -⟩ := slot_group hc
    obtain ⟨h, hh, hl, hr, ht, hp⟩ := noteReads_group us hg
    rw [hn]
    refine ⟨h, hh, hl, hr, ht, fun hx => ?_, fun hx => ?_⟩ <;> rw [hp]
    · exact if_pos (List.any_eq_true.mpr (by simpa only [readsPoison_iff hk] using hx))
    · exact if_neg fun hy => hx (by simpa only [readsPoison_iff hk] using List.any_eq_true.mp hy)
  · exact (regRule_retires hw hr).keeps_halt h hs

end Sys2Proof.Machine
end

section
/-! PROOFS. S.CLZ and S.POPC: what they write, and which words of their opcodes hold no instruction (R133). -/
namespace Sys2Proof

/-! ## Words with one source -/

/-- Where a word ends in zeros, a bit is 0 when it lies in them or is 0 in what stands above them. -/
theorem getLsbD_append_zero {n m k : Nat} (x : BitVec n) (h : m ≤ k → x.getLsbD (k - m) = false) :
    (x ++ 0#m).getLsbD k = false := by
  rw [BitVec.getLsbD_append]
  split
  · exact BitVec.getLsbD_zero
  · next hk => exact h (Nat.le_of_not_lt hk)

/-- A word with one source and no MOD has its 29 low bits, SRC1, SRC2 and MOD, clear (Table 3-7). -/
theorem e3_low_eq_zero (op : BitVec 8) (d : BitVec 10) (a : Src) :
    (e3 op d (some a) none none 0).extractLsb' 0 29 = 0 := by
  ext k hk
  simp only [BitVec.getElem_extractLsb', Nat.zero_add, BitVec.ofNat_eq_ofNat, BitVec.getElem_zero]
  exact getLsbD_append_zero _ fun _ => getLsbD_append_zero _ fun _ => getLsbD_append_zero _ fun _ => by omega

theorem dU1_eq_some {w : DWord} {f : BitVec 9 → Src → Instr} {i : Instr} (h : dU1 w f = some i) : ∃ d a, i = f d a := by
  simp only [dU1, Option.bind_eq_bind, Option.bind_eq_some_iff, Option.some.injEq] at h
  obtain ⟨d, -, a, -, rfl⟩ := h
  exact ⟨d, a, rfl⟩

/-- A word of an assigned opcode raises ILLENC where the instruction that its fields give has another word (R77). -/
theorem decode_illEnc {w : DWord} (ha : opAssigned (fOp w).toNat = true)
    (h : ∀ i, decodeFields w = some i → encode i ≠ some w) : decode w = .error .illEnc := by
  unfold decode
  rw [if_pos ha]
  split
  · next i hi => rw [if_neg (by simp [h i hi])]
  · rfl

/-- An opcode whose instructions have one source and no MOD raises ILLENC where SRC1, SRC2 or MOD is not 0. -/
theorem decode_illEnc_of_low {w : DWord} {op : BitVec 8} {f : BitVec 9 → Src → Instr}
    (ha : opAssigned (fOp w).toNat = true) (hf : decodeFields w = dU1 w f)
    (he : ∀ d a, encode (f d a) = some (e3 op (sDst d) (some a) none none 0)) (hw : w.extractLsb' 0 29 ≠ 0) :
    decode w = .error .illEnc := by
  refine decode_illEnc ha fun i hi h => hw ?_
  obtain ⟨d, a, rfl⟩ := dU1_eq_some (hf.symm.trans hi)
  exact Option.some.inj ((he d a).symm.trans h) ▸ e3_low_eq_zero ..

namespace Machine

/-! ## Completing by a rule -/

/-- An instruction whose body does the rule's effect to what issuing leaves completes by the rule. -/
theorem RegRule.completes_of {r : RegRule} {i : Instr} {body : Ctx → State → Res} (hi : ∀ s, exec i s = issue r.spec body s)
    (hb : ∀ (c0 c : Ctx) (s : State), body c (c0.begun c s (r.uses · s)) = .done (c0.did c s (r.uses · s) (r.eff c s))) :
    r.completes i :=
  fun c0 c s h => runsTo_of_retires (sp := r.spec) (hi s) h rfl rfl rfl (hb c0 c s)

/-- A uniform instruction with one result register completes by its rule where it computes the rule's value. -/
theorem uRule_completes {i : Instr} {d : BitVec 9} {xs : List Src} {f : (Opnd → Word) → Word} {F : Ctx → State → DWord}
    (hi : ∀ s, exec i s = uniform d 1 (xs.map (fun x => (x, 1))) F s)
    (hF : ∀ (c0 c : Ctx) (s : State) us, (F c (c0.begun c s us)).extractLsb' 0 32 = f (fun o => c.rd s o 0)) :
    (uRule d xs f).completes i :=
  RegRule.completes_of hi fun c0 c s => by
    rw [Ctx.retire, hF]
    rfl

/-! ## Counts of bits -/

/-- The number of leading zeros is the `n` whose top `n` bits are 0 and the bit below them, if there is one, is not. -/
theorem clzN_eq {w n x : Nat} (hn : n ≤ w) (hz : x / 2 ^ (w - n) = 0) (h1 : n = w ∨ x / 2 ^ (w - 1 - n) ≠ 0) :
    clzN w x = n := by
  have hlt : x < 2 ^ (w - n) := (Nat.div_eq_zero_iff_lt (Nat.two_pow_pos _)).mp hz
  rcases Nat.eq_or_lt_of_le hn with rfl | hn
  · have hx : x = 0 := by simpa using hlt
    exact if_pos hx
  · have hle : 2 ^ (w - 1 - n) ≤ x := Nat.le_of_not_lt fun h => h1.elim (Nat.ne_of_lt hn) (absurd (Nat.div_eq_of_lt h))
    have hx : x ≠ 0 := Nat.ne_of_gt (Nat.lt_of_lt_of_le (Nat.two_pow_pos _) hle)
    have hl : Nat.log2 x = w - 1 - n := (Nat.log2_eq_iff hx).mpr ⟨hle, by rwa [show w - 1 - n + 1 = w - n by omega]⟩
    rw [clzN, if_neg hx, hl]
    omega

/-- The number of 1 bits of a word's value is that of the word. -/
theorem popN_toNat {w : Nat} (x : BitVec w) : popN w x.toNat = ((upTo w).filter (fun k => x.getLsbD k)).length := rfl

/-- What a uniform instruction writes of a count. -/
theorem extractLsb'_ofNat (n : Nat) : (BitVec.ofNat 64 n).extractLsb' 0 32 = BitVec.ofNat 32 n := by
  rw [← BitVec.setWidth_eq_extractLsb' (by decide), BitVec.setWidth_ofNat_of_le (by decide)]

theorem exec_sClz (d : BitVec 9) (a : Src) (s : State) :
    exec (.sClz d a) s = uniform d 1 [(a, 1)] (fun c s => BitVec.ofNat 64 (clzN 32 (c.rdU s a.op).toNat)) s := rfl

theorem exec_sPopc (d : BitVec 9) (a : Src) (s : State) :
    exec (.sPopc d a) s = uniform d 1 [(a, 1)] (fun c s => BitVec.ofNat 64 (popN 32 (c.rdU s a.op).toNat)) s := rfl

theorem sClz_completes (d : BitVec 9) (a : Src) :
    (uRule d [a] (fun r => BitVec.ofNat 32 (clzN 32 (r a.op).toNat))).completes (.sClz d a) :=
  uRule_completes (exec_sClz d a) fun _ _ _ _ => by rw [rdU_begun, extractLsb'_ofNat]

theorem sPopc_completes (d : BitVec 9) (a : Src) :
    (uRule d [a] (fun r => BitVec.ofNat 32 (((upTo 32).filter (fun k => (r a.op).getLsbD k)).length))).completes
      (.sPopc d a) :=
  uRule_completes (exec_sPopc d a) fun _ _ _ _ => by rw [rdU_begun, extractLsb'_ofNat, popN_toNat]

/-- Settles O15: both complete by their rules, where the count of leading zeros is the one the statement describes; a word with
a bit set in SRC1, SRC2 or MOD is not the word of the instruction its fields give. -/
theorem uniformCounts : Obligations.UniformCounts := by
  unfold Obligations.UniformCounts
  refine ⟨fun d a c s _ h => ⟨fun n hn hz h1 => ?_, sPopc_completes d a c c s h⟩, fun w hop hw => ?_⟩
  · rw [← clzN_eq hn hz h1]
    exact sClz_completes d a c c s h
  · rcases hop with hop | hop
    · exact decode_illEnc_of_low (f := .sClz) (by rw [fOp, hop]; rfl) (by simp [decodeFields, fOp, hop, decodeU])
        (fun _ _ => rfl) hw
    · exact decode_illEnc_of_low (f := .sPopc) (by rw [fOp, hop]; rfl) (by simp [decodeFields, fOp, hop, decodeU])
        (fun _ _ => rfl) hw

end Machine
end Sys2Proof
end

section
/-! PROOFS. The fields of a packed word are read back, and each field's code names what it was the code of (Tables 3-4 to 3-7). -/
namespace Sys2Proof

/-! ## Parts of a concatenation -/

/-- What lies above the last part. -/
theorem extract_above {n m : Nat} (k len : Nat) (x : BitVec n) (y : BitVec m) :
    (x ++ y).extractLsb' (m + k) len = x.extractLsb' k len := by
  ext i hi
  simp [BitVec.getLsbD_append, Nat.add_assoc]

/-- What lies in the last part. -/
theorem extract_within {n m : Nat} {k len : Nat} (x : BitVec n) (y : BitVec m) (h : k + len ≤ m) :
    (x ++ y).extractLsb' k len = y.extractLsb' k len := by
  ext i hi
  simp [BitVec.getLsbD_append, show k + i < m by omega]

/-- The last part itself. -/
theorem extract_last {n m : Nat} (x : BitVec n) (y : BitVec m) : (x ++ y).extractLsb' 0 m = y :=
  (extract_within x y (Nat.le_of_eq (Nat.zero_add m))).trans BitVec.extractLsb'_eq_self

theorem getLsbD_within {n m k : Nat} (x : BitVec n) (y : BitVec m) (h : k < m) : (x ++ y).getLsbD k = y.getLsbD k := by
  simp [BitVec.getLsbD_append, h]

theorem getLsbD_above {n m : Nat} (k : Nat) (x : BitVec n) (y : BitVec m) : (x ++ y).getLsbD (m + k) = x.getLsbD k := by
  simp [BitVec.getLsbD_append]

theorem getLsbD_ofBool_above {n : Nat} (b : Bool) (y : BitVec n) : (BitVec.ofBool b ++ y).getLsbD n = b := by
  simpa using getLsbD_above 0 (BitVec.ofBool b) y

theorem getLsbD_last_ofBool {n : Nat} (x : BitVec n) (b : Bool) : (x ++ BitVec.ofBool b).getLsbD 0 = b := by
  simpa using getLsbD_within x (BitVec.ofBool b) (k := 0) Nat.one_pos

theorem toNat_zero_append {m : Nat} (n : Nat) (y : BitVec m) : (0#n ++ y).toNat = y.toNat := by
  simp [BitVec.toNat_append]

/-! ## Formats (Table 3-7) -/

section V3
variable (op : BitVec 8) (g : Guard) (fs : Bool) (d : BitVec 10) (a b c : BitVec 12) (m : BitVec 5)

@[simp] theorem Guard.dec_enc : Guard.dec g.enc = g := by
  obtain ⟨neg, p⟩ := g
  rw [Guard.dec, Guard.enc, getLsbD_ofBool_above, extract_last]

@[simp] theorem fOp_packV : fOp (packV op g d a b c m) = op := Laws.WordOpcode.packV_op ..
@[simp] theorem fGuard_packV : fGuard (packV op g d a b c m) = g :=
  (congrArg Guard.dec ((extract_above 47 ..).trans ((extract_above 35 ..).trans ((extract_above 23 ..).trans
    ((extract_above 11 ..).trans ((extract_above 1 ..).trans ((extract_above 0 ..).trans (extract_last ..)))))))).trans g.dec_enc
@[simp] theorem fDst_packV : fDst (packV op g d a b c m) = d :=
  (extract_above 36 ..).trans ((extract_above 24 ..).trans ((extract_above 12 ..).trans ((extract_above 0 ..).trans
    (extract_last ..))))
@[simp] theorem fS0_packV : fS0 (packV op g d a b c m) = a :=
  (extract_above 24 ..).trans ((extract_above 12 ..).trans ((extract_above 0 ..).trans (extract_last ..)))
@[simp] theorem fS1_packV : fS1 (packV op g d a b c m) = b :=
  (extract_above 12 ..).trans ((extract_above 0 ..).trans (extract_last ..))
@[simp] theorem fS2_packV : fS2 (packV op g d a b c m) = c := (extract_above 0 ..).trans (extract_last ..)
@[simp] theorem fMod_packV : fMod (packV op g d a b c m) = m := extract_last ..
@[simp] theorem getLsbD_packV {k : Nat} (h : k < 5) : (packV op g d a b c m).getLsbD k = m.getLsbD k := getLsbD_within _ _ h
@[simp] theorem fOp_packVF : fOp (packVF op fs d a b c m) = op := Laws.WordOpcode.packVF_op ..
@[simp] theorem fFs_packVF : fFs (packVF op fs d a b c m) = fs :=
  (getLsbD_above 46 ..).trans ((getLsbD_above 34 ..).trans ((getLsbD_above 22 ..).trans ((getLsbD_above 10 ..).trans
    ((getLsbD_above 0 ..).trans (getLsbD_last_ofBool ..)))))
@[simp] theorem fDst_packVF : fDst (packVF op fs d a b c m) = d :=
  (extract_above 36 ..).trans ((extract_above 24 ..).trans ((extract_above 12 ..).trans ((extract_above 0 ..).trans
    (extract_last ..))))
@[simp] theorem fS0_packVF : fS0 (packVF op fs d a b c m) = a :=
  (extract_above 24 ..).trans ((extract_above 12 ..).trans ((extract_above 0 ..).trans (extract_last ..)))
@[simp] theorem fS1_packVF : fS1 (packVF op fs d a b c m) = b :=
  (extract_above 12 ..).trans ((extract_above 0 ..).trans (extract_last ..))
@[simp] theorem getLsbD_packVF {k : Nat} (h : k < 5) : (packVF op fs d a b c m).getLsbD k = m.getLsbD k :=
  getLsbD_within _ _ h
end V3
section VL
variable (op : BitVec 8) (fs : Bool) (d : BitVec 10) (m : BitVec 9) (x : Word)

@[simp] theorem fOp_packVL : fOp (packVL op fs d m x) = op := Laws.WordOpcode.packVL_op ..
@[simp] theorem fFs_packVL : fFs (packVL op fs d m x) = fs :=
  (getLsbD_above 19 ..).trans ((getLsbD_above 10 ..).trans ((getLsbD_above 0 ..).trans (getLsbD_last_ofBool ..)))
@[simp] theorem fDst_packVL : fDst (packVL op fs d m x) = d :=
  (extract_above 9 ..).trans ((extract_above 0 ..).trans (extract_last ..))
@[simp] theorem fImm32_packVL : fImm32 (packVL op fs d m x) = x := extract_last ..
@[simp] theorem getLsbD_packVL_mod : (packVL op fs d m x).getLsbD 32 = m.getLsbD 0 :=
  (getLsbD_above 0 ..).trans (getLsbD_within _ _ (by decide))
/-- The low bits of the immediate. -/
@[simp] theorem extract_packVL_imm : (packVL op fs d m x).extractLsb' 0 12 = x.extractLsb' 0 12 :=
  extract_within _ _ (by decide)
end VL

section M
variable (op : BitVec 8) (g : Guard) (fs : Bool) (d b o : BitVec 12) (p : BitVec 9) (m : BitVec 6)

@[simp] theorem fOp_packM : fOp (packM op g fs d b o p m) = op := Laws.WordOpcode.packM_op ..
@[simp] theorem fGuard_packM : fGuard (packM op g fs d b o p m) = g :=
  (congrArg Guard.dec ((extract_above 46 ..).trans ((extract_above 37 ..).trans ((extract_above 25 ..).trans
    ((extract_above 13 ..).trans ((extract_above 1 ..).trans ((extract_above 0 ..).trans (extract_last ..)))))))).trans
    g.dec_enc
@[simp] theorem fFs_packM : fFs (packM op g fs d b o p m) = fs :=
  (getLsbD_above 45 ..).trans ((getLsbD_above 36 ..).trans ((getLsbD_above 24 ..).trans ((getLsbD_above 12 ..).trans
    ((getLsbD_above 0 ..).trans (getLsbD_last_ofBool ..)))))
@[simp] theorem fData_packM : fData (packM op g fs d b o p m) = d :=
  (extract_above 33 ..).trans ((extract_above 24 ..).trans ((extract_above 12 ..).trans ((extract_above 0 ..).trans
    (extract_last ..))))
@[simp] theorem fBase_packM : fBase (packM op g fs d b o p m) = b :=
  (extract_above 21 ..).trans ((extract_above 12 ..).trans ((extract_above 0 ..).trans (extract_last ..)))
@[simp] theorem fOffs_packM : fOffs (packM op g fs d b o p m) = o :=
  (extract_above 9 ..).trans ((extract_above 0 ..).trans (extract_last ..))
@[simp] theorem fPol_packM : fPol (packM op g fs d b o p m) = p := (extract_above 0 ..).trans (extract_last ..)
@[simp] theorem fMMod_packM : fMMod (packM op g fs d b o p m) = m := extract_last ..
@[simp] theorem getLsbD_packM {k : Nat} (h : k < 6) : (packM op g fs d b o p m).getLsbD k = m.getLsbD k :=
  getLsbD_within _ _ h
@[simp] theorem extract_packM_mod {k n : Nat} (h : k + n ≤ 6) :
    (packM op g fs d b o p m).extractLsb' k n = m.extractLsb' k n := extract_within _ _ h
end M

section X
variable (op : BitVec 8) (fs : Bool) (a b c : BitVec 4) (s : BitVec 9) (m : BitVec 30)

@[simp] theorem fOp_packX : fOp (packX op fs a b c s m) = op := Laws.WordOpcode.packX_op ..
@[simp] theorem fFs_packX : fFs (packX op fs a b c s m) = fs :=
  (getLsbD_above 21 ..).trans ((getLsbD_above 12 ..).trans ((getLsbD_above 8 ..).trans ((getLsbD_above 4 ..).trans
    ((getLsbD_above 0 ..).trans (getLsbD_last_ofBool ..)))))
@[simp] theorem fAcc_packX : fAcc (packX op fs a b c s m) = a :=
  (extract_above 17 ..).trans ((extract_above 8 ..).trans ((extract_above 4 ..).trans ((extract_above 0 ..).trans
    (extract_last ..))))
@[simp] theorem fTa_packX : fTa (packX op fs a b c s m) = b :=
  (extract_above 13 ..).trans ((extract_above 4 ..).trans ((extract_above 0 ..).trans (extract_last ..)))
@[simp] theorem fTb_packX : fTb (packX op fs a b c s m) = c :=
  (extract_above 9 ..).trans ((extract_above 0 ..).trans (extract_last ..))
@[simp] theorem fStat_packX : fStat (packX op fs a b c s m) = s := (extract_above 0 ..).trans (extract_last ..)
@[simp] theorem fXMod_packX : fXMod (packX op fs a b c s m) = m := extract_last ..
@[simp] theorem getLsbD_packX {k : Nat} (h : k < 30) : (packX op fs a b c s m).getLsbD k = m.getLsbD k :=
  getLsbD_within _ _ h
end X

section A
variable (op : BitVec 8) (fs : Bool) (d s v : BitVec 9) (m : BitVec 24)

@[simp] theorem fOp_packA : fOp (packA op fs d s v m) = op := Laws.WordOpcode.packA_op ..
@[simp] theorem fFs_packA : fFs (packA op fs d s v m) = fs :=
  (getLsbD_above 27 ..).trans ((getLsbD_above 18 ..).trans ((getLsbD_above 9 ..).trans ((getLsbD_above 0 ..).trans
    (getLsbD_last_ofBool ..))))
@[simp] theorem fDesc_packA : fDesc (packA op fs d s v m) = d :=
  (extract_above 18 ..).trans ((extract_above 9 ..).trans ((extract_above 0 ..).trans (extract_last ..)))
@[simp] theorem fSig_packA : fSig (packA op fs d s v m) = s :=
  (extract_above 9 ..).trans ((extract_above 0 ..).trans (extract_last ..))
@[simp] theorem fSigv_packA : fSigv (packA op fs d s v m) = v := (extract_above 0 ..).trans (extract_last ..)
@[simp] theorem fAMod_packA : fAMod (packA op fs d s v m) = m := extract_last ..
@[simp] theorem getLsbD_packA {k : Nat} (h : k < 24) : (packA op fs d s v m).getLsbD k = m.getLsbD k :=
  getLsbD_within _ _ h
@[simp] theorem extract_packA_mod {k n : Nat} (h : k + n ≤ 24) :
    (packA op fs d s v m).extractLsb' k n = m.extractLsb' k n := extract_within _ _ h
end A

section B
variable (op : BitVec 8) (g : Guard) (c : BitVec 12) (o : Word) (m : BitVec 7)

@[simp] theorem fOp_packB : fOp (packB op g c o m) = op := Laws.WordOpcode.packB_op ..
@[simp] theorem fGuard_packB : fGuard (packB op g c o m) = g :=
  (congrArg Guard.dec ((extract_above 45 ..).trans ((extract_above 13 ..).trans ((extract_above 1 ..).trans
    ((extract_above 0 ..).trans (extract_last ..)))))).trans g.dec_enc
@[simp] theorem fCond_packB : fCond (packB op g c o m) = c :=
  (extract_above 32 ..).trans ((extract_above 0 ..).trans (extract_last ..))
@[simp] theorem fOff32_packB : fOff32 (packB op g c o m) = o := (extract_above 0 ..).trans (extract_last ..)
@[simp] theorem getLsbD_packB {k : Nat} (h : k < 7) : (packB op g c o m).getLsbD k = m.getLsbD k :=
  getLsbD_within _ _ h
@[simp] theorem extract_packB_mod {k n : Nat} (h : k + n ≤ 7) :
    (packB op g c o m).extractLsb' k n = m.extractLsb' k n := extract_within _ _ h
end B

/-! ## Codes (Tables 3-4, 4-1, 5-3 to 5-7) -/

@[simp] theorem STy.dec_enc (t : STy) : STy.dec t.enc = some t := by cases t <;> rfl
@[simp] theorem ITy.dec_enc (t : ITy) : ITy.dec t.enc = t := by cases t <;> rfl
@[simp] theorem FTy.dec_enc (t : FTy) : FTy.dec t.enc = some t := by cases t <;> rfl
@[simp] theorem Rnd.dec_enc (r : Rnd) : Rnd.dec r.enc = some r := by cases r <;> rfl
@[simp] theorem Fmt.dec_enc (f : Fmt) : Fmt.dec f.enc = some f := by cases f <;> rfl
@[simp] theorem MxFmt.dec_enc (f : MxFmt) : MxFmt.dec f.enc = some f := by cases f <;> rfl
@[simp] theorem Cond.dec_enc (c : Cond) : Cond.dec c.enc = c := by cases c <;> rfl
@[simp] theorem MSize.dec_enc (z : MSize) : MSize.dec z.enc = some z := by cases z <;> rfl
@[simp] theorem Scope.dec_enc (x : Scope) : Scope.dec x.enc = some x := by cases x <;> rfl
@[simp] theorem Order.dec_enc (o : Order) : Order.dec o.enc = o := by cases o <;> rfl
@[simp] theorem AtomOp.dec_enc (o : AtomOp) : AtomOp.dec o.enc = some o := by cases o <;> rfl
@[simp] theorem ShMode.dec_enc (m : ShMode) : ShMode.dec m.enc = m := by cases m <;> rfl
@[simp] theorem RedOp.dec_enc (o : RedOp) : RedOp.dec o.enc = some o := by cases o <;> rfl
@[simp] theorem VoteOp.dec_enc (o : VoteOp) : VoteOp.dec o.enc = some o := by cases o <;> rfl
@[simp] theorem WaitCc.dec_enc (c : WaitCc) : WaitCc.dec c.enc = c := by cases c <;> rfl
@[simp] theorem MxF.dec_enc (m : MxF) : MxF.dec m.enc = some m := by cases m <;> rfl
@[simp] theorem CollOp.dec_enc (o : CollOp) : CollOp.dec o.enc = some o := by cases o <;> rfl
@[simp] theorem CollTy.dec_enc (t : CollTy) : CollTy.dec t.enc = some t := by cases t <;> rfl

/-- An operand the machine has is the one its code names (Table 3-4). -/
@[simp] theorem Opnd.dec_enc {o : Opnd} (h : o.ok = true) : Opnd.dec o.enc = some o := by
  cases o with
  | v n =>
    have hn : (0#2 ++ n).toNat = n.toNat := toNat_zero_append 2 n
    simp [Opnd.dec, Opnd.enc, hn, show n.toNat < 256 from n.isLt]
  | s n =>
    have hn : n.toNat < 384 := by simpa [Opnd.ok] using h
    simp only [Opnd.dec, Opnd.enc, BitVec.toNat_ofNat, Nat.mod_eq_of_lt (show 0x100 + n.toNat < 2 ^ 10 by omega)]
    rw [if_neg (by omega), if_pos (by omega), Nat.add_sub_cancel_left, BitVec.ofNat_toNat, BitVec.setWidth_eq]
  | p n | special n | nat n | neg n | fp n =>
    have hn := n.isLt
    simp only [Opnd.dec, Opnd.enc, BitVec.toNat_ofNat]
    rw [Nat.mod_eq_of_lt (by omega)]
    simp (disch := omega) only [if_neg, if_pos, Nat.add_sub_cancel_left, BitVec.ofNat_toNat, BitVec.setWidth_eq]

@[simp] theorem Src.dec_enc {x : Src} (h : x.op.ok = true) : Src.dec x.enc = some x := by
  obtain ⟨o, lu, kp⟩ := x
  have hl : (Src.enc ⟨o, lu, kp⟩).getLsbD 11 = lu :=
    (getLsbD_above 1 (BitVec.ofBool lu ++ BitVec.ofBool kp) o.enc).trans (getLsbD_ofBool_above lu (BitVec.ofBool kp))
  have hk : (Src.enc ⟨o, lu, kp⟩).getLsbD 10 = kp :=
    (getLsbD_above 0 (BitVec.ofBool lu ++ BitVec.ofBool kp) o.enc).trans (getLsbD_last_ofBool ..)
  have ho : (Src.enc ⟨o, lu, kp⟩).extractLsb' 0 10 = o.enc := extract_last ..
  simp only [Src.dec, ho, hl, hk, Opnd.dec_enc h, Option.map_some]

@[simp] theorem sOf_sDst {d : BitVec 9} (h : d.toNat < 384) : sOf (sDst d) = some d := by
  simp only [sOf, sDst, BitVec.toNat_ofNat, Nat.mod_eq_of_lt (show 0x100 + d.toNat < 2 ^ 10 by omega)]
  rw [if_pos (by omega), Nat.add_sub_cancel_left, BitVec.ofNat_toNat, BitVec.setWidth_eq]

@[simp] theorem vOf_vDst (d : BitVec 8) : vOf (vDst d) = some d := by
  have hd : (vDst d).toNat = d.toNat := toNat_zero_append 2 d
  rw [vOf, if_pos (by rw [hd]; exact d.isLt)]
  exact congrArg some (extract_last ..)

@[simp] theorem data10_data12 (x : BitVec 10) : data10 (data12 x) = some x := by
  have hx : (data12 x).toNat = x.toNat := toNat_zero_append 2 x
  rw [data10, if_pos (by rw [hx]; exact x.isLt)]
  exact congrArg some (extract_last ..)

theorem Src.op_ok_of_ok {x : Src} (h : x.ok = true) : x.op.ok = true := by
  simp only [Src.ok, Bool.and_eq_true] at h
  exact h.1.1

/-- A source that a word may hold is the one its field names (R72). -/
@[simp] theorem Src.dec_enc_of_ok {x : Src} (h : x.ok = true) : Src.dec x.enc = some x := Src.dec_enc (Src.op_ok_of_ok h)

/-! ## Parts of MOD, IMM12 and POL -/

@[simp] theorem mod5b_bit (b : Bool) : (mod5b b).getLsbD 0 = b := getLsbD_last_ofBool ..
@[simp] theorem modI_type (sat : Bool) (t : BitVec 3) : (modI sat t).extractLsb' 0 3 = t := extract_last ..
@[simp] theorem modI_sat (sat : Bool) (t : BitVec 3) : (modI sat t).getLsbD 3 = sat :=
  (getLsbD_above 0 ..).trans (getLsbD_last_ofBool ..)
@[simp] theorem modF_type (f : FTy) (r : Rnd) : (modF f r).extractLsb' 3 2 = f.enc :=
  (extract_above 0 ..).trans BitVec.extractLsb'_eq_self
@[simp] theorem modF_rnd (f : FTy) (r : Rnd) : (modF f r).extractLsb' 0 3 = r.enc := extract_last ..
@[simp] theorem immCc_cond (cc : Cond) : (immCc cc).extractLsb' 0 3 = cc.enc := extract_last ..
@[simp] theorem immBf_pos (p : BitVec 5) (n : BitVec 6) : (immBf p n).extractLsb' 0 5 = p := extract_last ..
@[simp] theorem immBf_len (p : BitVec 5) (n : BitVec 6) : (immBf p n).extractLsb' 5 6 = n :=
  (extract_above 0 ..).trans (extract_last ..)
@[simp] theorem immCvt_dst (df sf : Fmt) : (immCvt df sf).extractLsb' 0 5 = df.enc := extract_last ..
@[simp] theorem immCvt_src (df sf : Fmt) : (immCvt df sf).extractLsb' 5 5 = sf.enc :=
  (extract_above 0 ..).trans (extract_last ..)
@[simp] theorem modM_size (z : MSize) (pk : BitVec 2) : (modM z pk).extractLsb' 3 3 = z.enc :=
  (extract_above 2 ..).trans ((extract_above 0 ..).trans BitVec.extractLsb'_eq_self)
@[simp] theorem modM_pack (z : MSize) (pk : BitVec 2) : (modM z pk).extractLsb' 1 2 = pk :=
  (extract_above 0 ..).trans (extract_last ..)
@[simp] theorem modS_space (gl : Bool) (sc : Scope) (v : BitVec 2) : (modS gl sc v).getLsbD 5 = gl :=
  (getLsbD_above 3 ..).trans (getLsbD_ofBool_above ..)
@[simp] theorem modS_scope (gl : Bool) (sc : Scope) (v : BitVec 2) : (modS gl sc v).extractLsb' 2 3 = sc.enc :=
  (extract_above 0 ..).trans (extract_last ..)
@[simp] theorem modS_var (gl : Bool) (sc : Scope) (v : BitVec 2) : (modS gl sc v).extractLsb' 0 2 = v := extract_last ..
@[simp] theorem data12_code (x : BitVec 10) : (data12 x).extractLsb' 0 10 = x := extract_last ..
@[simp] theorem dec_zero : Src.dec 0#12 = some ⟨.v 0, false, false⟩ := by decide

/-! ## Commands (R311) -/

section Cmd
variable (op : BitVec 8) (c : CmdF) (bits : BitVec 18)

@[simp] theorem fOp_eA : fOp (eA op c bits) = op := fOp_packA ..

/-- MOD[23:6] of a command. -/
@[simp] theorem eA_bit (k : Nat) (h : k < 18) : (eA op c bits).getLsbD (6 + k) = bits.getLsbD k :=
  (getLsbD_packA _ _ _ _ _ _ (by omega)).trans ((congrArg (BitVec.getLsbD _) (by omega : 6 + k = 3 + (2 + (1 + k)))).trans
    ((getLsbD_above ..).trans ((getLsbD_above ..).trans (getLsbD_above ..))))

@[simp] theorem eA_bits (k n : Nat) (h : k + n ≤ 18) : (eA op c bits).extractLsb' (6 + k) n = bits.extractLsb' k n :=
  (extract_packA_mod _ _ _ _ _ _ (by omega)).trans ((congrArg (BitVec.extractLsb' · n _) (by omega : 6 + k = 3 + (2 + (1 + k)))).trans
    ((extract_above ..).trans ((extract_above ..).trans (extract_above ..))))

/-- The common fields of a command come back: a signal's register is none that stands for no signal. -/
theorem fCmd_eA {c : CmdF} (h : c.ok = true) : fCmd (eA op c bits) = some c := by
  obtain ⟨fs, desc, sig, ssp, prio, scope⟩ := c
  have hm (x y : BitVec 9) :
      fAMod (packA op fs desc x y (bits ++ BitVec.ofBool ssp ++ prio ++ scope.enc)) = bits ++ BitVec.ofBool ssp ++ prio ++ scope.enc :=
    fAMod_packA ..
  have hs : (bits ++ BitVec.ofBool ssp ++ prio ++ scope.enc).extractLsb' 0 3 = scope.enc := extract_last ..
  have hp : (bits ++ BitVec.ofBool ssp ++ prio ++ scope.enc).extractLsb' 3 2 = prio :=
    (extract_above 0 ..).trans (extract_last ..)
  have hb : (bits ++ BitVec.ofBool ssp ++ prio ++ scope.enc).getLsbD 5 = ssp :=
    (getLsbD_above 2 ..).trans ((getLsbD_above 0 ..).trans (getLsbD_last_ofBool ..))
  cases sig with
  | none =>
    simp only [fCmd, eA, Option.getD_none, hm, hs, hp, hb, fFs_packA, fDesc_packA, fSig_packA, Scope.dec_enc]
    rfl
  | some p =>
    obtain ⟨g, v⟩ := p
    have hg : g ≠ 0x1FF#9 := by
      rintro rfl
      simp [CmdF.ok] at h
    simp only [fCmd, eA, Option.getD_some, hm, hs, hp, hb, fFs_packA, fDesc_packA, fSig_packA, fSigv_packA, Scope.dec_enc]
    exact congrArg (fun x => some (CmdF.mk fs desc x ssp prio scope)) (if_neg hg)
end Cmd

end Sys2Proof
end

section
/-! PROOFS. The decoder reads back what the encoder wrote. -/
namespace Sys2Proof

theorem syncAddr_ok {gl : Bool} {m : MAddr} (h : syncAddr gl m = true) : m.base.ok = true ∧ m.offs.ok = true := by
  simp only [syncAddr, Src.u, gBase, sBase, Bool.and_eq_true] at h
  refine ⟨?_, h.2.1⟩
  split at h <;> simp_all

/-- Both widths of a destination name a register the machine has. -/
theorem sOf_sDst_of_width {w : Bool} {n : Nat} {d : BitVec 9} (h : (if w then sAl n d else sOk d) = true) :
    sOf (sDst d) = some d := by
  refine sOf_sDst ?_
  split at h <;> simp_all [sAl, sOk]

theorem spanSrcOk_ok {n : Nat} {a : Src} (h : spanSrcOk n a = true) : a.ok = true := by
  unfold spanSrcOk Src.vec Src.vAl at h
  split at h <;> simp_all

/-- The random-bit source of a conversion stands in the word just where the mode asks for one (R110). -/
theorem dRb_enc {r : Rnd} {rb : Option Src} {p : Src → Bool} (hp : ∀ x, p x = true → x.ok = true)
    (h : (match rb with | none => decide (r ≠ .sr) | some x => r == .sr && p x) = true) :
    dRb r (rb.elim 0 Src.enc) = some rb := by
  cases rb with
  | none => simp only [decide_eq_true_eq] at h; simp [dRb, h]
  | some x =>
    simp only [Bool.and_eq_true, beq_iff_eq] at h
    simp [dRb, h.1, hp x h.2]

end Sys2Proof
end

section
/-! PROOFS. The decoder reads back what the encoder wrote, operand by operand (R71 to R76, Table 5-2). -/
namespace Sys2Proof

/-- The fields of the instruction's word name the instruction. -/
def Instr.ReadBack (i : Instr) : Prop := i.wf = true → ∀ w, encode i = some w → decodeFields w = some i

/-! ## Instructions whose MOD or POL packs several parts -/

theorem reads_atom (g fs op sc o rt x m) : (Instr.atom g fs op sc o rt x m).ReadBack := by
  intro hw w h
  obtain rfl := Option.some.inj h
  simp only [Instr.wf, atomData, gBase, Src.vec, Bool.and_eq_true] at hw
  have ho : (op.enc ++ o.enc).extractLsb' 2 4 = op.enc := (extract_above 0 ..).trans BitVec.extractLsb'_eq_self
  have hr : (op.enc ++ o.enc).extractLsb' 0 2 = o.enc := extract_last ..
  have hb : (0#8 ++ BitVec.ofBool rt).getLsbD 0 = rt := getLsbD_last_ofBool ..
  cases sc <;> simp [decodeFields, decodeM, eM, dAtom, fAddr, hw, ho, hr, hb, Scope.enc, Scope.dec, -BitVec.getLsbD_eq_getElem]

theorem reads_atomu (g fs op sc o rt x m) : (Instr.atomu g fs op sc o rt x m).ReadBack := by
  intro hw w h
  obtain rfl := Option.some.inj h
  simp only [Instr.wf, atomData, gBase, Src.u, Bool.and_eq_true] at hw
  have ho : (op.enc ++ o.enc).extractLsb' 2 4 = op.enc := (extract_above 0 ..).trans BitVec.extractLsb'_eq_self
  have hr : (op.enc ++ o.enc).extractLsb' 0 2 = o.enc := extract_last ..
  have hb : (0#8 ++ BitVec.ofBool rt).getLsbD 0 = rt := getLsbD_last_ofBool ..
  cases sc <;> simp at hw <;> simp [decodeFields, decodeM, eM, dAtom, fAddr, hw, ho, hr, hb, Scope.enc, Scope.dec, -BitVec.getLsbD_eq_getElem]

theorem reads_atoms (g fs op sc o rt pk x m) : (Instr.atoms g fs op sc o rt pk x m).ReadBack := by
  intro hw w h
  obtain rfl := Option.some.inj h
  simp only [Instr.wf, atomData, sBase, Src.vec, Bool.and_eq_true, Bool.or_eq_true, beq_iff_eq] at hw
  obtain ⟨⟨⟨⟨⟨-, ⟨hx, -⟩, -⟩, hm, -⟩, hf, -⟩, hsc⟩, -⟩ := hw
  have ho : (op.enc ++ o.enc).extractLsb' 2 4 = op.enc := (extract_above 0 ..).trans BitVec.extractLsb'_eq_self
  have hr : (op.enc ++ o.enc).extractLsb' 0 2 = o.enc := extract_last ..
  have hb : (0#5 ++ BitVec.ofBool pk.isSome ++ pk.getD 0 ++ BitVec.ofBool rt).getLsbD 0 = rt := getLsbD_last_ofBool ..
  have h1 : (0#5 ++ BitVec.ofBool pk.isSome ++ pk.getD 0 ++ BitVec.ofBool rt).extractLsb' 1 2 = pk.getD 0 :=
    (extract_above 0 ..).trans (extract_last ..)
  have h3 : (0#5 ++ BitVec.ofBool pk.isSome ++ pk.getD 0 ++ BitVec.ofBool rt).getLsbD 3 = pk.isSome :=
    (getLsbD_above 2 ..).trans ((getLsbD_above 0 ..).trans (getLsbD_last_ofBool ..))
  have hp : (if pk.isSome then some (pk.getD 0#2) else none) = pk := by cases pk <;> rfl
  generalize (0#5 ++ BitVec.ofBool pk.isSome ++ pk.getD 0 ++ BitVec.ofBool rt) = pol at hb h1 h3
  rcases hsc with (rfl | rfl) | rfl <;>
    simp [decodeFields, decodeM, eM, dAtom, fAddr, hx, hm, hf, ho, hr, hb, h1, h3, hp, Scope.enc, Scope.dec,
      -BitVec.getLsbD_eq_getElem]

theorem reads_vDot4 (asg bsg sat d a b c) : (Instr.vDot4 asg bsg sat d a b c).ReadBack := by
  intro hw w h
  obtain rfl := Option.some.inj h
  simp only [Instr.wf, Src.vec, Bool.and_eq_true] at hw
  have h0 : (0#2 ++ BitVec.ofBool sat ++ BitVec.ofBool bsg ++ BitVec.ofBool asg).getLsbD 0 = asg := getLsbD_last_ofBool ..
  have h1 : (0#2 ++ BitVec.ofBool sat ++ BitVec.ofBool bsg ++ BitVec.ofBool asg).getLsbD 1 = bsg :=
    (getLsbD_above 0 ..).trans (getLsbD_last_ofBool ..)
  have h2 : (0#2 ++ BitVec.ofBool sat ++ BitVec.ofBool bsg ++ BitVec.ofBool asg).getLsbD 2 = sat :=
    (getLsbD_above 1 ..).trans ((getLsbD_above 0 ..).trans (getLsbD_last_ofBool ..))
  simp [decodeFields, decodeVI, e3, dV3, hw, h0, h1, h2, -BitVec.getLsbD_eq_getElem]

theorem reads_vUnpk3 (byte pd d a) : (Instr.vUnpk3 byte pd d a).ReadBack := by
  intro hw w h
  obtain rfl := Option.some.inj h
  simp only [Instr.wf, Src.vec, Bool.and_eq_true] at hw
  have h0 : (pd ++ byte).extractLsb' 0 2 = byte := extract_last ..
  have h2 : (pd ++ byte).extractLsb' 2 3 = pd := (extract_above 0 ..).trans BitVec.extractLsb'_eq_self
  simp [decodeFields, decodeVI, e3, dV1, hw, h0, h2]

theorem reads_vShfl (mode seg d a k off) : (Instr.vShfl mode seg d a k off).ReadBack := by
  intro hw w h
  obtain rfl := Option.some.inj h
  simp only [Instr.wf, Src.v, Src.vec, Bool.and_eq_true] at hw
  have h0 : (seg ++ mode.enc).extractLsb' 0 2 = mode.enc := extract_last ..
  have h2 : (seg ++ mode.enc).extractLsb' 2 3 = seg := (extract_above 0 ..).trans BitVec.extractLsb'_eq_self
  simp [decodeFields, decodeVI, eI, dV2, hw, h0, h2]

theorem reads_vRed (o d a) : (Instr.vRed o d a).ReadBack := by
  intro hw w h
  obtain rfl := Option.some.inj h
  simp only [Instr.wf, Src.v, Bool.and_eq_true] at hw
  have h0 : (0#1 ++ o.enc).extractLsb' 0 4 = o.enc := extract_last ..
  simp [decodeFields, decodeVI, e3, hw, h0]

theorem reads_vScan (ex o d a) : (Instr.vScan ex o d a).ReadBack := by
  intro hw w h
  obtain rfl := Option.some.inj h
  simp only [Instr.wf, Src.v, Bool.and_eq_true] at hw
  have h0 : (BitVec.ofBool ex ++ o.enc).extractLsb' 0 4 = o.enc := extract_last ..
  have h4 : (BitVec.ofBool ex ++ o.enc).getLsbD 4 = ex := getLsbD_ofBool_above ..
  simp [decodeFields, decodeVI, e3, dV1, hw, h0, h4, -BitVec.getLsbD_eq_getElem]

theorem reads_vBcast (w64 seg d a i) : (Instr.vBcast w64 seg d a i).ReadBack := by
  intro hw w h
  obtain rfl := Option.some.inj h
  have ha : a.ok = true := by cases w64 <;> simp_all [Instr.wf, Src.v, Src.vAl]
  have hi : i.ok = true := by simp_all [Instr.wf, Src.u]
  have h0 : (0#1 ++ BitVec.ofBool w64 ++ seg).extractLsb' 0 3 = seg := modI_type w64 seg
  have h3 : (0#1 ++ BitVec.ofBool w64 ++ seg).getLsbD 3 = w64 := modI_sat w64 seg
  simp [decodeFields, decodeVI, e3, dV2, ha, hi, h0, h3, -BitVec.getLsbD_eq_getElem]

theorem reads_vVote (o d a) : (Instr.vVote o d a).ReadBack := by
  intro hw w h
  obtain rfl := Option.some.inj h
  simp only [Instr.wf, Bool.and_eq_true] at hw
  have h0 : (0#2 ++ o.enc).extractLsb' 0 3 = o.enc := extract_last ..
  simp [decodeFields, decodeVI, e3, hw, h0]

theorem reads_vFcvt (df sf r d a rb) : (Instr.vFcvt df sf r d a rb).ReadBack := by
  intro hw w h
  obtain rfl := Option.some.inj h
  simp only [Instr.wf, Bool.and_eq_true] at hw
  have h0 : (0#2 ++ r.enc).extractLsb' 0 3 = r.enc := extract_last ..
  have h3 : (0#2 ++ r.enc).extractLsb' 3 2 = FTy.f32.enc := (extract_above 0 ..).trans (by rfl)
  have hr : dRb r (rb.elim 0#12 Src.enc) = some rb :=
    dRb_enc (p := fun x => fcvtSrOk df sf && x.vAl (cvtElems df sf / 2)) (by simp +contextual [Src.vAl])
      (by cases rb <;> simpa [and_assoc] using hw.2)
  simp [decodeFields, decodeVF, eI, dF, dV1, h0, h3, hr, spanSrcOk_ok hw.1.2]

theorem reads_vFicvt (df sf r d a) : (Instr.vFicvt df sf r d a).ReadBack := by
  intro hw w h
  obtain rfl := Option.some.inj h
  simp only [Instr.wf, Bool.and_eq_true] at hw
  have h0 : (0#2 ++ r.enc).extractLsb' 0 3 = r.enc := extract_last ..
  have h3 : (0#2 ++ r.enc).extractLsb' 3 2 = FTy.f32.enc := (extract_above 0 ..).trans (by rfl)
  simp [decodeFields, decodeVF, eI, dF, dV1, h0, h3, spanSrcOk_ok hw.2]

theorem reads_vFsqrt (r d a) : (Instr.vFsqrt r d a).ReadBack := by
  intro hw w h
  obtain rfl := Option.some.inj h
  simp only [Instr.wf, Src.vec, Bool.and_eq_true] at hw
  have h0 : (0#2 ++ r.enc).extractLsb' 0 3 = r.enc := extract_last ..
  have h3 : (0#2 ++ r.enc).extractLsb' 3 2 = FTy.f32.enc := (extract_above 0 ..).trans (by rfl)
  simp [decodeFields, decodeVF, e3, dF, dV1, hw, h0, h3]

theorem reads_vMxscl (m d a) : (Instr.vMxscl m d a).ReadBack := by
  intro hw w h
  obtain rfl := Option.some.inj h
  simp only [Instr.wf, Src.vec, Bool.and_eq_true] at hw
  have h3 : (m.enc ++ 0#3).extractLsb' 3 2 = m.enc := (extract_above 0 ..).trans BitVec.extractLsb'_eq_self
  simp [decodeFields, decodeVF, e3, dV1, hw, h3]

theorem reads_vMxpack (m r d a sc rb) : (Instr.vMxpack m r d a sc rb).ReadBack := by
  intro hw w h
  obtain rfl := Option.some.inj h
  simp only [Instr.wf, Src.vec, Bool.and_eq_true] at hw
  have h0 : (m.enc ++ r.enc).extractLsb' 0 3 = r.enc := extract_last ..
  have h3 : (m.enc ++ r.enc).extractLsb' 3 2 = m.enc := (extract_above 0 ..).trans BitVec.extractLsb'_eq_self
  have hr : dRb r (rb.elim 0#12 Src.enc) = some rb :=
    dRb_enc (p := fun x => x.ok && !x.op.isP) (by simp +contextual) (by cases rb <;> simpa using hw.2)
  simp [decodeFields, decodeVF, e3, dV2, hw, h0, h3, hr]

theorem reads_pref (fs l1 m pol) : (Instr.pref fs l1 m pol).ReadBack := by
  intro hw w h
  obtain rfl := Option.some.inj h
  simp only [Instr.wf, gBase, Src.vec, Bool.and_eq_true] at hw
  have h4 : (0#1 ++ BitVec.ofBool l1 ++ 0#4).getLsbD 4 = l1 := (getLsbD_above 0 ..).trans (getLsbD_last_ofBool ..)
  simp [decodeFields, decodeM, eM, fAddr, hw, h4, -BitVec.getLsbD_eq_getElem]

theorem reads_fence (fs sc o) : (Instr.fence fs sc o).ReadBack := by
  intro hw w h
  obtain rfl := Option.some.inj h
  have h1 : (sc.enc ++ o.enc ++ 0#1).extractLsb' 1 2 = o.enc := (extract_above 0 ..).trans (extract_last ..)
  have h3 : (sc.enc ++ o.enc ++ 0#1).extractLsb' 3 3 = sc.enc :=
    (extract_above 2 ..).trans ((extract_above 0 ..).trans BitVec.extractLsb'_eq_self)
  simp [decodeFields, decodeM, h1, h3]

theorem reads_mxld (fs tf d m) : (Instr.mxld fs tf d m).ReadBack := by
  intro hw w h
  obtain rfl := Option.some.inj h
  simp only [Instr.wf, gBase, Src.vec, Bool.and_eq_true] at hw
  have h2 : (0#2 ++ tf.enc ++ 0#2).extractLsb' 2 2 = tf.enc := (extract_above 0 ..).trans (extract_last ..)
  simp [decodeFields, decodeM, eM, fAddr, hw, h2]

theorem reads_mxacc (g fs tf sf x m slu sreg) : (Instr.mxacc g fs tf sf x m slu sreg).ReadBack := by
  intro hw w h
  obtain rfl := Option.some.inj h
  simp only [Instr.wf, gBase, Src.vec, Src.v, Bool.and_eq_true] at hw
  have h2 : (sf.enc ++ tf.enc ++ 0#2).extractLsb' 2 2 = tf.enc := (extract_above 0 ..).trans (extract_last ..)
  have h4 : (sf.enc ++ tf.enc ++ 0#2).extractLsb' 4 2 = sf.enc :=
    (extract_above 2 ..).trans ((extract_above 0 ..).trans BitVec.extractLsb'_eq_self)
  have h8 : (BitVec.ofBool slu ++ sreg).getLsbD 8 = slu := getLsbD_ofBool_above ..
  have h0 : (BitVec.ofBool slu ++ sreg).extractLsb' 0 8 = sreg := extract_last ..
  simp [decodeFields, decodeM, eM, fAddr, hw, h2, h4, h8, h0, -BitVec.getLsbD_eq_getElem]

theorem reads_tdef (t u) : (Instr.tdef t u).ReadBack := by
  intro hw w h
  obtain rfl := Option.some.inj h
  have h0 : (0#21 ++ u).extractLsb' 0 9 = u := extract_last ..
  simp [decodeFields, decodeXA, h0]

theorem reads_mma (fs acc ta tb stat za capf koff) : (Instr.mma fs acc ta tb stat za capf koff).ReadBack := by
  intro hw w h
  obtain rfl := Option.some.inj h
  have h0 : (0#24 ++ BitVec.ofBool za ++ BitVec.ofBool capf ++ koff).extractLsb' 0 4 = koff := extract_last ..
  have h4 : (0#24 ++ BitVec.ofBool za ++ BitVec.ofBool capf ++ koff).getLsbD 4 = capf :=
    (getLsbD_above 0 ..).trans (getLsbD_last_ofBool ..)
  have h5 : (0#24 ++ BitVec.ofBool za ++ BitVec.ofBool capf ++ koff).getLsbD 5 = za :=
    (getLsbD_above 1 ..).trans ((getLsbD_above 0 ..).trans (getLsbD_last_ofBool ..))
  have hs : (if stat.getD 0x1FF = 0x1FF then none else some (stat.getD 0x1FF)) = stat := by
    cases stat with
    | none => rfl
    | some p =>
      have hp : p ≠ 0x1FF := by rintro rfl; simp [Instr.wf, sAl] at hw
      exact if_neg hp
  simp only [decodeFields, decodeXA, fOp_packX, fFs_packX, fAcc_packX, fTa_packX, fTb_packX, fStat_packX, fXMod_packX,
    getLsbD_packX _ _ _ _ _ _ _ (show 4 < 30 by decide), getLsbD_packX _ _ _ _ _ _ _ (show 5 < 30 by decide), h0, h4, h5, hs]
  rfl

theorem reads_accRd (fs acc v cb) : (Instr.accRd fs acc v cb).ReadBack := by
  intro hw w h
  obtain rfl := Option.some.inj h
  have h0 : (0#19 ++ cb ++ v).extractLsb' 0 8 = v := extract_last ..
  have h8 : (0#19 ++ cb ++ v).extractLsb' 8 3 = cb := (extract_above 0 ..).trans (extract_last ..)
  simp [decodeFields, decodeXA, h0, h8]

theorem reads_accWr (fs acc v cb vlu) : (Instr.accWr fs acc v cb vlu).ReadBack := by
  intro hw w h
  obtain rfl := Option.some.inj h
  have h0 : (0#18 ++ BitVec.ofBool vlu ++ cb ++ v).extractLsb' 0 8 = v := extract_last ..
  have h8 : (0#18 ++ BitVec.ofBool vlu ++ cb ++ v).extractLsb' 8 3 = cb := (extract_above 0 ..).trans (extract_last ..)
  have h11 : (0#18 ++ BitVec.ofBool vlu ++ cb ++ v).getLsbD 11 = vlu :=
    (getLsbD_above 3 ..).trans ((getLsbD_above 0 ..).trans (getLsbD_last_ofBool ..))
  simp [decodeFields, decodeXA, h0, h8, h11, -BitVec.getLsbD_eq_getElem]

theorem reads_accOut (fs acc ta r) : (Instr.accOut fs acc ta r).ReadBack := by
  intro hw w h
  obtain rfl := Option.some.inj h
  have h0 : (0#27 ++ r.enc).extractLsb' 0 3 = r.enc := extract_last ..
  simp [decodeFields, decodeXA, h0]

theorem reads_mstat (fs d clr) : (Instr.mstat fs d clr).ReadBack := by
  intro hw w h
  obtain rfl := Option.some.inj h
  have h0 : (0#20 ++ BitVec.ofBool clr ++ d).extractLsb' 0 9 = d := extract_last ..
  have h9 : (0#20 ++ BitVec.ofBool clr ++ d).getLsbD 9 = clr := (getLsbD_above 0 ..).trans (getLsbD_last_ofBool ..)
  simp [decodeFields, decodeXA, h0, h9, -BitVec.getLsbD_eq_getElem]

theorem reads_cpt (c dir mx) : (Instr.cpt c dir mx).ReadBack := by
  intro hw w h
  obtain rfl := Option.some.inj h
  have hb : (eA 0xC1 c (0#15 ++ mx.enc ++ BitVec.ofBool dir)).getLsbD 6 = dir :=
    (eA_bit 0xC1 c _ 0 (by decide)).trans (getLsbD_last_ofBool ..)
  have hm : (eA 0xC1 c (0#15 ++ mx.enc ++ BitVec.ofBool dir)).extractLsb' 7 2 = mx.enc :=
    (eA_bits 0xC1 c _ 1 2 (by decide)).trans ((extract_above 0 ..).trans (extract_last ..))
  simp only [BitVec.ofNat_eq_ofNat] at hb hm
  simp [decodeFields, decodeXA, fCmd_eA _ _ hw, hb, hm, -BitVec.getLsbD_eq_getElem]

theorem reads_coll (c op ty) : (Instr.coll c op ty).ReadBack := by
  intro hw w h
  obtain rfl := Option.some.inj h
  simp only [Instr.wf, Bool.and_eq_true] at hw
  have ho : (eA 0xC6 c (0#14 ++ ty.enc ++ op.enc)).extractLsb' 6 2 = op.enc :=
    (eA_bits 0xC6 c _ 0 2 (by decide)).trans (extract_last ..)
  have ht : (eA 0xC6 c (0#14 ++ ty.enc ++ op.enc)).extractLsb' 8 2 = ty.enc :=
    (eA_bits 0xC6 c _ 2 2 (by decide)).trans ((extract_above 0 ..).trans (extract_last ..))
  simp only [BitVec.ofNat_eq_ofNat] at ho ht
  simp [decodeFields, decodeXA, fCmd_eA _ _ hw.1, ho, ht]

theorem reads_waitf (fs mask) : (Instr.waitf fs mask).ReadBack := by
  intro hw w h
  obtain rfl := Option.some.inj h
  have h0 : (0#20 ++ mask).extractLsb' 0 12 = mask := extract_last ..
  simp [decodeFields, decodeS, h0]

theorem reads_fifoPush (fs w64 b x) : (Instr.fifoPush fs w64 b x).ReadBack := by
  intro hw w h
  obtain rfl := Option.some.inj h
  have hb : b.ok = true := by simp_all [Instr.wf, Src.u]
  have hx : x.ok = true := by cases w64 <;> simp_all [Instr.wf, Src.v, Src.vAl]
  have h0 : (0#5 ++ BitVec.ofBool w64).getLsbD 0 = w64 := getLsbD_last_ofBool ..
  simp [decodeFields, decodeS, hb, hx, h0, -BitVec.getLsbD_eq_getElem]

theorem reads_fifoPop (fs w64 b d) : (Instr.fifoPop fs w64 b d).ReadBack := by
  intro hw w h
  obtain rfl := Option.some.inj h
  have hb : b.ok = true := by simp_all [Instr.wf, Src.u]
  have h0 : (0#5 ++ BitVec.ofBool w64).getLsbD 0 = w64 := getLsbD_last_ofBool ..
  simp [decodeFields, decodeS, hb, h0, -BitVec.getLsbD_eq_getElem]

theorem reads_lmulw (d x a j) : (Instr.lmulw d x a j).ReadBack := by
  intro hw w h
  obtain rfl := Option.some.inj h
  simp only [Instr.wf, Src.vAl, Bool.and_eq_true] at hw
  have h0 : (0#6 ++ j).extractLsb' 0 6 = j := extract_last ..
  simp [decodeFields, decodeLY, eI, dV2, hw, h0]

theorem reads_lcmp (cc sg d x y) : (Instr.lcmp cc sg d x y).ReadBack := by
  intro hw w h
  obtain rfl := Option.some.inj h
  simp only [Instr.wf, longOk, Src.vAl, Bool.and_eq_true] at hw
  have h0 : (0#1 ++ BitVec.ofBool sg ++ cc.enc).extractLsb' 0 3 = cc.enc := modI_type sg cc.enc
  have h3 : (0#1 ++ BitVec.ofBool sg ++ cc.enc).getLsbD 3 = sg := modI_sat sg cc.enc
  simp [decodeFields, decodeLY, e3, hw, h0, h3, -BitVec.getLsbD_eq_getElem]

theorem reads_perf (w64 clr d num) : (Instr.perf w64 clr d num).ReadBack := by
  intro hw w h
  obtain rfl := Option.some.inj h
  simp only [Instr.wf, Bool.and_eq_true] at hw
  have h0 : (0#3 ++ BitVec.ofBool clr ++ BitVec.ofBool w64).getLsbD 0 = w64 := getLsbD_last_ofBool ..
  have h1 : (0#3 ++ BitVec.ofBool clr ++ BitVec.ofBool w64).getLsbD 1 = clr :=
    (getLsbD_above 0 ..).trans (getLsbD_last_ofBool ..)
  simp [decodeFields, decodeLY, eI, sOf_sDst_of_width hw.2, h0, h1, -BitVec.getLsbD_eq_getElem]

/-! ## All of them -/

/-- The fields of an instruction's word name the instruction: each operand, each modifier. -/
theorem decodeFields_encode {i : Instr} {w : DWord} (hw : i.wf = true) (h : encode i = some w) : decodeFields w = some i := by
  cases i
  case atom => exact reads_atom _ _ _ _ _ _ _ _ hw _ h
  case atomu => exact reads_atomu _ _ _ _ _ _ _ _ hw _ h
  case atoms => exact reads_atoms _ _ _ _ _ _ _ _ _ hw _ h
  case vDot4 => exact reads_vDot4 _ _ _ _ _ _ _ hw _ h
  case vUnpk3 => exact reads_vUnpk3 _ _ _ _ hw _ h
  case vShfl => exact reads_vShfl _ _ _ _ _ _ hw _ h
  case vRed => exact reads_vRed _ _ _ hw _ h
  case vScan => exact reads_vScan _ _ _ _ hw _ h
  case vBcast => exact reads_vBcast _ _ _ _ _ hw _ h
  case vVote => exact reads_vVote _ _ _ hw _ h
  case vFcvt => exact reads_vFcvt _ _ _ _ _ _ hw _ h
  case vFicvt => exact reads_vFicvt _ _ _ _ _ hw _ h
  case vFsqrt => exact reads_vFsqrt _ _ _ hw _ h
  case vMxscl => exact reads_vMxscl _ _ _ hw _ h
  case vMxpack => exact reads_vMxpack _ _ _ _ _ _ hw _ h
  case pref => exact reads_pref _ _ _ _ hw _ h
  case fence => exact reads_fence _ _ _ hw _ h
  case mxld => exact reads_mxld _ _ _ _ hw _ h
  case mxacc => exact reads_mxacc _ _ _ _ _ _ _ _ hw _ h
  case tdef => exact reads_tdef _ _ hw _ h
  case mma => exact reads_mma _ _ _ _ _ _ _ _ hw _ h
  case accRd => exact reads_accRd _ _ _ _ hw _ h
  case accWr => exact reads_accWr _ _ _ _ _ hw _ h
  case accOut => exact reads_accOut _ _ _ _ hw _ h
  case mstat => exact reads_mstat _ _ _ hw _ h
  case cpt => exact reads_cpt _ _ _ hw _ h
  case coll => exact reads_coll _ _ _ hw _ h
  case waitf => exact reads_waitf _ _ hw _ h
  case fifoPush => exact reads_fifoPush _ _ _ _ hw _ h
  case fifoPop => exact reads_fifoPop _ _ _ _ hw _ h
  case lmulw => exact reads_lmulw _ _ _ _ hw _ h
  case lcmp => exact reads_lcmp _ _ _ _ _ hw _ h
  case perf => exact reads_perf _ _ _ _ hw _ h
  -- events have no word
  case turn | loadLand | frdoorRetry | frdoorKill | operandLogReplay | parkWake | reformFiling | binReleaseFull |
      binAgeExpire | mmaCapture | mmaComplete | mxaccBlock | commandSignal | segmentReplay | collComplete |
      collTimeout | phaseCommit | phaseRestart | teamExit | push | snapshot | startConditionPoll | dispatch |
      admission | bankDrain | rangeTranslation | teamStart | prioPreempt | preempt | preemptSave | release | kill |
      regdataWrite | cmdResume | cmdKillTeam | cmdKillGrid | registerWrite | shepherdReading | migrationEnd |
      budgetPeriod | hopBegin | hopEnd | droopStretch | stretchEnd | hopRetry | leashTrigger | leashStep | scanVisit |
      scanPreemptWithdraw | scanComplete | packKill | eccEvent | scrub | flowChange | flowLossBudgetCut |
      coolantShutdown | coolantRecovery | coldReset | computeRelease | warmReset | pcieHotReset | warmrst |
      lockupReset | interruptEntry | ktimerMatch | logcommit | sctlall | enloRead | upcmdVerify | upcmdAttest |
      updateDone | retrieverSegment | scanMoveTimeout => exact nomatch h
  case br g c off =>
    cases c with
    | none => obtain rfl := Option.some.inj h; simp [decodeFields, decodeU]
    | some c =>
      obtain ⟨z, x⟩ := c
      obtain rfl := Option.some.inj h
      simp only [Instr.wf, Src.vec, Bool.and_eq_true] at hw
      cases z <;> simp [decodeFields, decodeU, hw, -BitVec.getLsbD_eq_getElem]
  case reform t =>
    cases t with
    | none => obtain rfl := Option.some.inj h; rfl
    | some a =>
      obtain rfl := Option.some.inj h
      simp only [Instr.wf, Bool.and_eq_true] at hw
      simp [decodeFields, decodeU, e3, hw, -BitVec.getLsbD_eq_getElem]
  -- the opcode of an atomic holds its scope
  all_goals obtain rfl := Option.some.inj h
  -- W64 decides how wide the operands must be
  case sMov w64 d a | sWsr w64 d a | sRsr w64 d n | vMov w64 d a | sSel g w64 d a b c | vSel g w64 d a b c | sVget w64 d a i =>
    simp only [Instr.wf, Src.u, Src.u64, Src.vec, Src.vec64, Src.v, Src.vAl, sAl, sOk] at hw
    cases w64 <;>
      simp_all [decodeFields, decodeU, decodeVI, e3, eI, dU1, dU64, dV1, dV3, and_assoc, ← and_or_left,
        -BitVec.getLsbD_eq_getElem]
  case sLi x d imm | vLi x d imm =>
    have hb : (0#8 ++ BitVec.ofBool x).getLsbD 0 = x := getLsbD_last_ofBool ..
    cases x <;> simp_all [Instr.wf, sAl, sOk, decodeFields, decodeU, decodeVI, -BitVec.getLsbD_eq_getElem]
  -- uniform and control
  case sAdd | sSub | sMul | sMulhi | sAnd | sOr | sXor | sNot | sShl | sShr | sSra | sMin | sMax | sAdd64 | sSub64 | sShl64 |
      sCmp | sBfe | sBfi | sClz | sPopc | brx | ret | call | exit | nop | yield =>
    simp only [Instr.wf, Src.u, Src.u64, sAl, sOk, Bool.and_eq_true, decide_eq_true_eq] at hw
    simp [decodeFields, decodeU, e3, eI, dU1, dU2, dU64, hw, -BitVec.getLsbD_eq_getElem]
  -- vector integers
  case vAdd | vSub | vMul | vMulhi | vMad | vMadw | vAnd | vOr | vXor | vNot | vShl | vShr | vSra | vMin | vMax | vAbs | vCmp |
      vBfe | vBfi | vPopc | vClz | vReq =>
    simp only [Instr.wf, Src.vec, Src.vec64, Bool.and_eq_true] at hw
    simp [decodeFields, decodeVI, e3, eI, dV1, dV2, dV3, hw, -BitVec.getLsbD_eq_getElem]
  case vCvt df sf d a =>
    simp only [Instr.wf, Bool.and_eq_true] at hw
    simp [decodeFields, decodeVI, eI, dV1, spanSrcOk_ok hw.2]
  -- cross-lane
  -- vector floats
  case vFadd | vFsub | vFmul | vFmin | vFfma | vFmax | vFcmp | vFclass | vFrnd | vFrcp | vFrsq | vFexp2 | vFlog2 | vFsin |
      vFcos | vHfma2 | vHadd2 | vHmul2 =>
    simp only [Instr.wf, Src.vec, Bool.and_eq_true] at hw
    simp [decodeFields, decodeVF, e3, eI, dF, dV1, dV2, dV3, hw]
  -- memory
  case ld | lds | ldr | ldu | st | sts | str | stu | ldc =>
    simp only [Instr.wf, stData, gBase, sBase, Src.vec, Src.u, sAl, Bool.and_eq_true, decide_eq_true_eq] at hw
    simp [decodeFields, decodeM, eM, dLdV, dSt, fSz, fAddr, hw]
  case phase => simp [decodeFields, decodeM]
  case mmld fs b d m | mmst fs b d m =>
    simp only [Instr.wf, sBase, sAl, sOk] at hw
    have hb : (modM (if b then MSize.b64 else .b32) 0).getLsbD 3 = b := by cases b <;> rfl
    cases b <;> simp_all [decodeFields, decodeM, eM, fAddr, -BitVec.getLsbD_eq_getElem]
  -- matrix engine
  case accZero | accLd | accSt => simp [decodeFields, decodeXA]
  -- commands
  case cp | cpr => simp [decodeFields, decodeXA, fCmd_eA _ _ hw]
  case cpq =>
    simp only [Instr.wf, Bool.and_eq_true] at hw
    simp [decodeFields, decodeXA, fCmd_eA _ _ hw.1]
  case cpg c x | cpsc c x | cpx c x =>
    have hb (op : BitVec 8) : (eA op c (0#17 ++ BitVec.ofBool x)).getLsbD 6 = x :=
      (eA_bit op c _ 0 (by decide)).trans (getLsbD_last_ofBool ..)
    simp [decodeFields, decodeXA, fCmd_eA _ _ hw, hb, -BitVec.getLsbD_eq_getElem]
  -- synchronisation
  case barInit fs m n =>
    simp only [Instr.wf, Src.u, Bool.and_eq_true] at hw
    obtain ⟨hb, ho⟩ := syncAddr_ok hw.1
    simp [decodeFields, decodeS, eS, eM, fAddr, hb, ho, hw]
  case barWait =>
    obtain ⟨hb, ho⟩ := syncAddr_ok hw
    simp [decodeFields, decodeS, eS, eM, fAddr, hb, ho]
  case barArr fs m drop | barAw fs m drop =>
    obtain ⟨hb, ho⟩ := syncAddr_ok hw
    have h0 : (0#5 ++ BitVec.ofBool drop).getLsbD 0 = drop := getLsbD_last_ofBool ..
    simp [decodeFields, decodeS, eS, eM, fAddr, hb, ho, h0, -BitVec.getLsbD_eq_getElem]
  case tktTake fs gl d m =>
    simp only [Instr.wf, sOk, Bool.and_eq_true, decide_eq_true_eq] at hw
    obtain ⟨hb, ho⟩ := syncAddr_ok hw.2
    simp [decodeFields, decodeS, eS, eM, fAddr, hb, ho, hw, -BitVec.getLsbD_eq_getElem]
  case tktWait fs gl sc m t =>
    simp only [Instr.wf, Src.u, Bool.and_eq_true] at hw
    obtain ⟨hb, ho⟩ := syncAddr_ok hw.1.1
    simp [decodeFields, decodeS, eS, eM, fAddr, hb, ho, hw, -BitVec.getLsbD_eq_getElem]
  case tktPass fs gl sc m =>
    simp only [Instr.wf, Bool.and_eq_true] at hw
    obtain ⟨hb, ho⟩ := syncAddr_ok hw.1
    simp [decodeFields, decodeS, eS, eM, fAddr, hb, ho, -BitVec.getLsbD_eq_getElem]
  case waita fs gl sc cc m x =>
    simp only [Instr.wf, Src.u, Bool.and_eq_true] at hw
    obtain ⟨hb, ho⟩ := syncAddr_ok hw.1.1
    simp [decodeFields, decodeS, eS, eM, fAddr, hb, ho, hw, -BitVec.getLsbD_eq_getElem]
  -- long integers and system
  case lbind | lfree | ladd | lsub | lneg | lshl | lshr | lcarry | trap | brk | launch | icinv | clk | wfi | iret =>
    simp only [Instr.wf, longOk, Src.vAl, gBase, sAl, sOk, Bool.and_eq_true, decide_eq_true_eq] at hw
    simp [decodeFields, decodeLY, e3, eI, dV1, dV2, hw, -BitVec.getLsbD_eq_getElem]
end Sys2Proof
end

section
/-! PROOFS. The decoder and the encoder are inverse to each other (R71 to R77, Table 5-2). -/
namespace Sys2Proof

theorem decodeU_unassigned {op : Nat} (w : DWord) (h : opAssigned op = false) : decodeU op w = none := by
  unfold decodeU
  split <;> try cases h
  rfl

theorem decodeVI_unassigned {op : Nat} (w : DWord) (h : opAssigned op = false) : decodeVI op w = none := by
  unfold decodeVI
  split <;> try cases h
  rfl

theorem decodeVF_unassigned {op : Nat} (w : DWord) (h : opAssigned op = false) : decodeVF op w = none := by
  unfold decodeVF
  split <;> try cases h
  rfl

theorem decodeM_unassigned {op : Nat} (w : DWord) (h : opAssigned op = false) : decodeM op w = none := by
  unfold decodeM
  extract_lets
  split <;> try cases h
  rfl

theorem decodeXA_unassigned {op : Nat} (w : DWord) (h : opAssigned op = false) : decodeXA op w = none := by
  unfold decodeXA
  split <;> try cases h
  rfl

theorem decodeS_unassigned {op : Nat} (w : DWord) (h : opAssigned op = false) : decodeS op w = none := by
  unfold decodeS
  split <;> try cases h
  rfl

theorem decodeLY_unassigned {op : Nat} (w : DWord) (h : opAssigned op = false) : decodeLY op w = none := by
  unfold decodeLY
  split <;> try cases h
  rfl

/-- An opcode between two of Table 5-2's ranges has no form: the decoder's own table ends with the map's. -/
theorem decodeFields_unassigned {w : DWord} (h : opAssigned (fOp w).toNat = false) : decodeFields w = none := by
  unfold decodeFields
  simp only [decodeU_unassigned w h, decodeVI_unassigned w h, decodeVF_unassigned w h, decodeM_unassigned w h,
    decodeXA_unassigned w h, decodeS_unassigned w h, decodeLY_unassigned w h, ite_self]

/-- The opcode of a word whose fields are an instruction's is in the map. -/
theorem opAssigned_of_decodeFields {w : DWord} {i : Instr} (h : decodeFields w = some i) :
    opAssigned (fOp w).toNat = true := by
  cases ha : opAssigned (fOp w).toNat
  · rw [decodeFields_unassigned ha] at h
    cases h
  · rfl

theorem decode_ok_iff {w : DWord} {i : Instr} : decode w = .ok i ↔ decodeFields w = some i ∧ i.wf = true ∧ encode i = some w := by
  constructor
  · intro h
    unfold decode at h
    split at h
    · split at h
      · next j hj =>
        split at h
        · next hc => cases h; exact ⟨hj, by simpa using hc⟩
        · cases h
      · cases h
    · cases h
  · rintro ⟨hf, hw, he⟩
    simp [decode, opAssigned_of_decodeFields hf, hf, hw, he]

/-- Settles O1: what `decodeFields` reads of a word is what `encode` put there, and the decoder accepts it. -/
theorem decodeOfEncode : Obligations.DecodeOfEncode := fun _ _ hw h =>
  decode_ok_iff.2 ⟨decodeFields_encode hw h, hw, h⟩

/-- Settles O2: the decoder accepts a word only after encoding what it has read. -/
theorem encodeOfDecode : Obligations.EncodeOfDecode := fun _ _ h => (decode_ok_iff.1 h).2

/-- Settles O3: the ten words are decoded. -/
theorem decodeWords : Obligations.DecodeWords := by
  unfold Obligations.DecodeWords
  simp only [decode_ok_iff]
  decide
end Sys2Proof
end

section
/-! PROOFS. What a step runs (log 5), and the state after reset. -/
namespace Sys2Proof.Machine

theorem step_of_core {s t : State} (h : stepCore s = .next t) : step s = .next (t.timer s.clk) :=
  (step_next_iff ..).2 ⟨t, h, rfl⟩

theorem step_of_core_refused {s : State} {r : Refusal} (h : stepCore s = .refused r) : step s = .refused r := by
  simp [step, h]

/-- No time has passed, so the timer is not looked at. -/
theorem timer_clk (s : State) : s.timer s.clk = s := by simp [State.timer]

/-- With no move that comes first, the step is the focus's next slot. -/
theorem stepCore_eq_runSlot {s : State} (h : s.agenda = [] ∨ s.midCycle = true) : stepCore s = runSlot s := by
  obtain ⟨-, e⟩ | ⟨hm, e⟩ := stepCore_cases s
  · exact e
  · have ha : s.agenda = [] := h.resolve_right (by simp [hm])
    simp [stepCore, hm, ha]

theorem runSlot_instr {s : State} {c : Ctx} {i : Instr} (hc : s.ctx? = some c)
    (hd : decodeFor c.g.kennel c.cl.word = .ok i) : runSlot s = exec i s := by
  simp [runSlot, State.nextSlot, hc, hd]

theorem runSlot_badWord {s : State} {c : Ctx} {e : BadWord} (hc : s.ctx? = some c)
    (hd : decodeFor c.g.kennel c.cl.word = .error e) : runSlot s = .next (c.badWord s e) := by
  simp [runSlot, State.nextSlot, hc, hd]

/-- Settles O5, by the cases of `stepCore`. -/
theorem stepRunsDecoded : Obligations.StepRunsDecoded := by
  refine ⟨fun s c i ha hc hd => ?_, fun s r hm => ⟨?_, ?_, ?_, ?_, ?_, ?_, ?_⟩⟩
  · have h : stepCore s = exec i s := (stepCore_eq_runSlot ha).trans (runSlot_instr hc hd)
    exact ⟨fun t he => step_of_core (h.trans he), fun f he => (step_fault_iff s f).2 (h.trans he),
      fun r he => step_of_core_refused (h.trans he)⟩
  · intro n ha
    exact step_of_core (by simp [stepCore, hm, ha])
  · intro a ha
    exact step_of_core (by simp [stepCore, hm, ha])
  · intro n ha
    rw [step_of_core (t := { s with agenda := r, conflict := some n }) (by simp [stepCore, hm, ha])]
    exact congrArg _ (timer_clk { s with agenda := r, conflict := some n })
  · intro t gi id ws ha
    exact step_of_core (by simp [stepCore, hm, ha])
  · intro e ha
    exact step_of_core (by simp [stepCore, hm, ha])
  · intro i t ha he hw ht
    exact step_of_core (by simp [stepCore, hm, ha, isEvent, he, hw, ht])
  · intro i ha hw
    rw [step_of_core (t := { s with agenda := r }) (by simp [stepCore, hm, ha, hw])]
    exact congrArg _ (timer_clk { s with agenda := r })

/-- Settles O6: a slot whose word is no instruction takes its trap. -/
theorem stepTrapsBadWords : Obligations.StepTrapsBadWords := fun _ _ _ ha hc hd =>
  step_of_core ((stepCore_eq_runSlot (.inl ha)).trans (runSlot_badWord hc hd))

/-- Settles O8: after reset every memory is empty. -/
theorem resetCanonical : Obligations.ResetCanonical := ⟨rfl, rfl, rfl⟩

/-- Settles O9: the registers are as `State.reset` lists them, and no queue, column or slice has an entry of its own yet. -/
theorem resetValues : Obligations.ResetValues := by
  refine ⟨rfl, rfl, rfl, rfl, rfl, rfl, rfl, rfl, rfl, rfl, rfl, rfl, rfl, fun q => ⟨rfl, rfl, rfl⟩, fun m => rfl,
    fun c i => ⟨rfl, rfl⟩, rfl, rfl, rfl⟩
end Sys2Proof.Machine
end

section
/-! PROOFS. A state that no run reaches but every statement about all states speaks of: a group whose width says 0 though it has
lanes. S.CMP writes the predicate bits of the lanes below the width, its rule those of all lanes of ACTIVE. -/
namespace Sys2Proof.Machine
open Wf

/-- S.CMP of two equal constants to p0, and what its rule writes. -/
def cmpToP0 : Instr := .sCmp .eq .i32 (.p 0) (k 5) (k 5)

/-- Eight running lanes in a group whose width says 0. -/
def widthlessBench : State := bench cmpToP0 (fun g => { g with width := 0 })

def State.predsAt (s : State) : Option (List Mask) := (s.group? 0 0).map Group.preds

/-- An instruction that does not end in the state its rule gives does not complete by the rule. -/
theorem not_completes {i : Instr} {r : RegRule} {s : State} {α : Type} (look : State → α)
    (hi : Wit.issuesB s r.core r.guard (r.uses · s) = true) {s2 : State}
    (h2 : (Wit.under s r.guard).settle ((Wit.ctxOf s).did (Wit.under s r.guard) s (r.uses · s) (r.eff (Wit.under s r.guard) s)) = .ok s2)
    (hne : look (next i s) ≠ look ((Wit.under s r.guard).next ((Wit.under s r.guard).advance s2))) : ¬ r.completes i := by
  intro h
  obtain ⟨t, ⟨s3, h3, rfl⟩, ht⟩ := (h _ _ s (Wit.issuesUnder hi)).1 ⟨s2, h2⟩
  obtain rfl : s2 = s3 := Except.ok.inj (h2.symm.trans h3)
  exact hne (by rw [next, ht])

theorem cmpToP0_not_completes : ∀ r, uniRule2 cmpToP0 = some r → ¬ r.completes cmpToP0 := by
  rintro r h
  cases h
  exact not_completes (s := widthlessBench) State.predsAt (by decide) (s2 := _) rfl (by decide)

/-- Refutes O16: in a group of width 0 with running lanes, S.CMP to a predicate leaves the bits of ACTIVE at 0 where its rule
sets them. -/
theorem not_uniformResults : ¬ Obligations.UniformResults := fun h =>
  cmpToP0_not_completes _ rfl (h cmpToP0 _ rfl (.inr rfl))
end Sys2Proof.Machine
end

section
/-! PROOFS. The values of the integer instructions: the model's delivery of an exact integer is the spec's element arithmetic
(R128 to R133, R163 to R170). -/
namespace Sys2Proof.Machine

/-! ## Elements -/

theorem packWord_congr {n : Nat} {f g : Nat → Nat} (h : ∀ k, f k % 2 ^ n = g k % 2 ^ n) : packWord n f = packWord n g := by
  simp only [packWord, h]

theorem elemAt_lt (n k : Nat) (w : Word) : elemAt n k w < 2 ^ n := Nat.mod_lt _ (Nat.two_pow_pos n)

theorem bits_pos (t : ITy) : 0 < ITy.bits t := by cases t <;> decide

theorem bits_le (t : ITy) : ITy.bits t ≤ 32 := by cases t <;> decide

/-- Read as signed or not, an element is its pattern modulo 2ⁿ. -/
theorem readInt_emod (sgn : Bool) (n x : Nat) : readInt sgn n x % 2 ^ n = (x : Int) % 2 ^ n := by
  unfold readInt
  split
  · exact Int.sub_emod_right ..
  · rfl

/-- A wrapped result is the pattern of any natural number congruent to it. -/
theorem wrapped_eq {n x : Nat} {r : Int} (h : r % 2 ^ n = (x : Int) % 2 ^ n) : (r % 2 ^ n).toNat % 2 ^ n = x % 2 ^ n := by
  have h1 : r % 2 ^ n = ((x % 2 ^ n : Nat) : Int) := by rw [h, Int.natCast_emod, Int.natCast_pow]; rfl
  rw [h1, Int.toNat_natCast, Nat.mod_mod]

/-- Element by element, a wrapped operation on the integers is the operation on patterns that agrees with it modulo 2ⁿ. -/
theorem elemOp_eq_wrap {t : ITy} {F : Nat → Int → Int → Int → Int} {f : Nat → Nat → Nat → Nat} (a b : Word)
    (h : ∀ (x y : Nat) (p q r : Int), y < 2 ^ ITy.bits t → p % 2 ^ ITy.bits t = (x : Int) % 2 ^ ITy.bits t →
      q % 2 ^ ITy.bits t = (y : Int) % 2 ^ ITy.bits t →
      F (ITy.bits t) p q r % 2 ^ ITy.bits t = ((f (2 ^ ITy.bits t) x y : Nat) : Int) % 2 ^ ITy.bits t) :
    elemOp t false F a b 0 = elemWrap t f a b :=
  packWord_congr fun _ => wrapped_eq (h _ _ _ _ _ (elemAt_lt ..) (readInt_emod ..) (readInt_emod ..))

theorem elemOp_add (t : ITy) (a b : Word) :
    elemOp t false (fun _ x y _ => x + y) a b 0 = elemWrap t (fun _ x y => x + y) a b :=
  elemOp_eq_wrap a b fun _ _ _ _ _ _ hp hq => by rw [Int.natCast_add, Int.add_emod, hp, hq, ← Int.add_emod]

theorem elemOp_sub (t : ITy) (a b : Word) :
    elemOp t false (fun _ x y _ => x - y) a b 0 = elemWrap t (fun m x y => x + (m - y)) a b :=
  elemOp_eq_wrap a b fun x y p q _ hy hp hq => by
    have hm : ((x + (2 ^ ITy.bits t - y) : Nat) : Int) = x - y + 2 ^ ITy.bits t := by
      rw [Int.natCast_add, Int.ofNat_sub (Nat.le_of_lt hy), Int.natCast_pow]
      show (x : Int) + (2 ^ ITy.bits t - y) = _
      omega
    rw [hm, Int.add_emod_right, Int.sub_emod, hp, hq, ← Int.sub_emod]

theorem elemOp_mul (t : ITy) (a b : Word) :
    elemOp t false (fun _ x y _ => x * y) a b 0 = elemWrap t (fun _ x y => x * y) a b :=
  elemOp_eq_wrap a b fun _ _ _ _ _ _ hp hq => by rw [Int.natCast_mul, Int.mul_emod, hp, hq, ← Int.mul_emod]

/-! ### Saturation -/

/-- The range of a type of `n` bits. -/
def rangeLo (sgn : Bool) (n : Nat) : Int := if sgn then -(2 ^ (n - 1)) else 0

def rangeHi (sgn : Bool) (n : Nat) : Int := if sgn then 2 ^ (n - 1) - 1 else 2 ^ n - 1

def clampTo (lo hi r : Int) : Int := if r < lo then lo else if hi < r then hi else r

theorem rangeLo_le_rangeHi (sgn : Bool) (n : Nat) : rangeLo sgn n ≤ rangeHi sgn n := by
  have hp : (0 : Int) < 2 ^ (n - 1) := Int.pow_pos (by decide)
  have hq : (0 : Int) < 2 ^ n := Int.pow_pos (by decide)
  cases sgn <;> simp only [rangeLo, rangeHi, if_true, if_false, Bool.false_eq_true] <;> omega

/-- The two ways to write a clamp. -/
theorem max_min_eq_clampTo {lo hi : Int} (h : lo ≤ hi) (r : Int) : max lo (min r hi) = clampTo lo hi r := by
  unfold clampTo
  split
  · omega
  · split <;> omega

theorem clampTo_of_range {lo hi r : Int} (h : lo ≤ r ∧ r ≤ hi) : clampTo lo hi r = r := by
  rw [clampTo, if_neg (by omega), if_neg (by omega)]

/-- A saturated result is the clamp to the type's range. -/
theorem deliverInt_sat (sgn : Bool) (n : Nat) (r : Int) :
    deliverInt true sgn n r = (clampTo (rangeLo sgn n) (rangeHi sgn n) r % 2 ^ n).toNat := by
  rw [← max_min_eq_clampTo (rangeLo_le_rangeHi sgn n)]
  have hq : (0 : Int) < 2 ^ n := Int.pow_pos (by decide)
  cases sgn
  · rw [Int.emod_eq_of_lt]
    · simp [deliverInt, rangeLo, rangeHi]
    · exact Int.le_max_left ..
    · simp only [rangeLo, rangeHi, Bool.false_eq_true, if_false]
      omega
  · rfl

theorem elemClamp_eq (t : ITy) (f : Int → Int → Int → Int) (a b c : Word) :
    elemClamp t f a b c = packWord (ITy.bits t) (fun k =>
      (clampTo (rangeLo (ITy.sgn t) (ITy.bits t)) (rangeHi (ITy.sgn t) (ITy.bits t))
        (f (readInt (ITy.sgn t) (ITy.bits t) (elemAt (ITy.bits t) k a)) (readInt (ITy.sgn t) (ITy.bits t) (elemAt (ITy.bits t) k b))
          (readInt (ITy.sgn t) (ITy.bits t) (elemAt (ITy.bits t) k c))) % 2 ^ ITy.bits t).toNat) := rfl

theorem elemOp_sat (t : ITy) (f : Int → Int → Int → Int) (a b c : Word) :
    elemOp t true (fun _ => f) a b c = elemClamp t f a b c := by
  simp only [elemClamp_eq, ← deliverInt_sat]
  rfl

/-! ### Values within the range: a wrapped delivery clamps nothing -/

theorem readInt_range {sgn : Bool} {n x : Nat} (hn : 0 < n) (hx : x < 2 ^ n) :
    rangeLo sgn n ≤ readInt sgn n x ∧ readInt sgn n x ≤ rangeHi sgn n := by
  obtain ⟨m, rfl⟩ : ∃ m, n = m + 1 := ⟨n - 1, by omega⟩
  have hp : (2 : Int) ^ (m + 1) = 2 * 2 ^ m := by rw [Int.pow_succ, Int.mul_comm]
  have hx' : (x : Int) < 2 * 2 ^ m := by rw [← hp]; exact_mod_cast hx
  have h0 : (0 : Int) < 2 ^ m := Int.pow_pos (by decide)
  cases sgn
  · simp only [rangeLo, rangeHi, readInt, Bool.false_and, if_false, Bool.false_eq_true, hp]
    omega
  · have htop : x.testBit m = true ↔ (2 : Int) ^ m ≤ x := by
      have h2 : x / 2 ^ m < 2 := (Nat.div_lt_iff_lt_mul (Nat.two_pow_pos m)).2 (by rw [Nat.pow_succ'] at hx; exact hx)
      have h1 : (2 : Int) ^ m ≤ x ↔ 1 ≤ x / 2 ^ m := by rw [Nat.one_le_div_iff (Nat.two_pow_pos m)]; norm_cast
      rw [Nat.testBit_eq_decide_div_mod_eq, decide_eq_true_eq, Nat.mod_eq_of_lt h2, h1]
      omega
    simp only [rangeLo, rangeHi, readInt, Bool.true_and, if_true, Nat.add_sub_cancel, htop, hp]
    split <;> omega

theorem elemOp_of_range (t : ITy) (f : Int → Int → Int → Int) (a b : Word)
    (h : ∀ x y z : Int, f x y z = x ∨ f x y z = y) :
    elemOp t false (fun _ => f) a b 0 = elemClamp t f a b 0 := by
  rw [elemClamp_eq]
  refine packWord_congr fun k => ?_
  have hr (w : Word) := readInt_range (sgn := ITy.sgn t) (bits_pos t) (elemAt_lt (ITy.bits t) k w)
  rw [clampTo_of_range]
  · rfl
  · obtain e | e := h (readInt (ITy.sgn t) (ITy.bits t) (elemAt (ITy.bits t) k a))
      (readInt (ITy.sgn t) (ITy.bits t) (elemAt (ITy.bits t) k b)) (readInt (ITy.sgn t) (ITy.bits t) (elemAt (ITy.bits t) k 0)) <;>
      rw [e] <;> exact hr _
end Sys2Proof.Machine
end

section
/-! PROOFS. Shifts, fields and counts as the spec writes them (R132, R133, R166, R167). -/
namespace Sys2Proof.Machine

/-! ## Shifts of elements -/

theorem shiftWord_shl (t : ITy) (a b : Word) :
    shiftWord t (fun n x y => if n ≤ y then 0 else x * 2 ^ y) a b =
      elemWrap t (fun m x y => if y < 32 then x * 2 ^ y % m else 0) a b := by
  refine packWord_congr fun k => ?_
  have hn := bits_le t
  generalize elemAt (ITy.bits t) k a = x
  generalize elemAt (ITy.bits t) k b = y
  dsimp only
  by_cases h : ITy.bits t ≤ y
  · have hd : x * 2 ^ y % 2 ^ ITy.bits t = 0 :=
      Nat.mod_eq_zero_of_dvd (Nat.dvd_mul_left_of_dvd (Nat.pow_dvd_pow 2 h) x)
    split <;> simp [hd]
  · simp [if_neg h, show y < 32 by omega]

theorem shiftWord_shr (t : ITy) (a b : Word) :
    shiftWord t (fun n x y => if n ≤ y then 0 else x / 2 ^ y) a b =
      elemWrap t (fun _ x y => if y < 32 then x / 2 ^ y else 0) a b := by
  refine packWord_congr fun k => ?_
  have hn := bits_le t
  have hx := elemAt_lt (ITy.bits t) k a
  generalize elemAt (ITy.bits t) k a = x at *
  generalize elemAt (ITy.bits t) k b = y
  dsimp only
  by_cases h : ITy.bits t ≤ y
  · have hd : x / 2 ^ y = 0 := Nat.div_eq_of_lt (Nat.lt_of_lt_of_le hx (Nat.pow_le_pow_right (by decide) h))
    simp [h, hd]
  · simp [if_neg h, show y < 32 by omega]

/-! ## Fields -/

theorem fieldOf_toNat {w : Word} {pos len : Nat} (h : len ≤ 32) :
    (fieldOf w pos len).toNat = w.toNat / 2 ^ pos % 2 ^ len := by
  have hl : 2 ^ len - 1 < 2 ^ 32 := by have := Nat.pow_le_pow_right (n := 2) (by decide) h; have := Nat.two_pow_pos len; omega
  rw [fieldOf, BitVec.toNat_and, BitVec.toNat_ofNat, Nat.mod_eq_of_lt hl, BitVec.toNat_ushiftRight, Nat.shiftRight_eq_div_pow,
    Nat.and_two_pow_sub_one_eq_mod]

theorem bfe_n32 {w : Word} {pos len : Nat} (h : len ≤ 32) : bfe .n32 w pos len = fieldOf w pos len := by
  apply BitVec.eq_of_toNat_eq
  rw [fieldOf_toNat h]
  have : w.toNat / 2 ^ pos % 2 ^ len < 2 ^ 32 :=
    Nat.lt_of_lt_of_le (Nat.mod_lt _ (Nat.two_pow_pos len)) (Nat.pow_le_pow_right (by decide) h)
  exact (BitVec.toNat_ofNat ..).trans (Nat.mod_eq_of_lt this)

/-- A field moved to the top of the word and back down is its value read as signed. -/
theorem sshiftRight_shiftLeft_toInt {f : Word} {len : Nat} (h1 : 1 ≤ len) (h : len ≤ 32) (hf : f.toNat < 2 ^ len) :
    ((f <<< (32 - len)).sshiftRight (32 - len)).toInt =
      if 2 ^ (len - 1) ≤ f.toNat then (f.toNat : Int) - 2 ^ len else f.toNat := by
  obtain ⟨k, rfl⟩ : ∃ k, len = 32 - k := ⟨32 - len, by omega⟩
  have hk : k < 32 := by omega
  have hP : 0 < 2 ^ k := Nat.two_pow_pos k
  have hPQ : 2 ^ (32 - k) * 2 ^ k = 2 ^ 32 := by rw [← Nat.pow_add, Nat.sub_add_cancel (Nat.le_of_lt hk)]
  have hQ : 2 ^ (32 - k) = 2 ^ (32 - k - 1) * 2 := by rw [← Nat.pow_succ, show (32 - k - 1).succ = 32 - k by omega]
  have hN : f.toNat * 2 ^ k < 2 ^ 32 := hPQ ▸ Nat.mul_lt_mul_of_pos_right hf hP
  have hs : (f <<< k).toNat = f.toNat * 2 ^ k := by
    rw [BitVec.toNat_shiftLeft, Nat.shiftLeft_eq, Nat.mod_eq_of_lt hN]
  have hc : 2 * (f <<< k).toNat < 2 ^ 32 ↔ f.toNat < 2 ^ (32 - k - 1) := by
    rw [hs, ← hPQ, hQ, ← Nat.mul_assoc, Nat.mul_lt_mul_right hP]
    omega
  rw [show 32 - (32 - k) = k by omega, BitVec.toInt_sshiftRight, Int.shiftRight_eq_div_pow, BitVec.toInt_eq_toNat_cond, hs]
  rw [hs] at hc
  have hI (x : Int) : x * ((2 ^ k : Nat) : Int) / ((2 ^ k : Nat) : Int) = x := Int.mul_ediv_cancel x (by omega)
  by_cases hlt : f.toNat < 2 ^ (32 - k - 1)
  · rw [if_pos (hc.2 hlt), if_neg (by omega), Int.natCast_mul]
    exact hI _
  · rw [if_neg (mt hc.1 hlt), if_pos (by omega), ← hPQ, Int.natCast_mul, Int.natCast_mul, ← Int.sub_mul]
    exact hI _

theorem bfe_i32 {w : Word} {pos len : Nat} (h1 : 1 ≤ len) (h : len ≤ 32) :
    bfe .i32 w pos len = (fieldOf w pos len <<< (32 - len)).sshiftRight (32 - len) := by
  have hf := fieldOf_toNat (w := w) (pos := pos) h
  have hlt : (fieldOf w pos len).toNat < 2 ^ len := hf ▸ Nat.mod_lt _ (Nat.two_pow_pos len)
  have he := sshiftRight_shiftLeft_toInt h1 h hlt
  rw [← BitVec.ofInt_toInt (x := BitVec.sshiftRight ..), he, hf]
  simp only [bfe, truncI]
  generalize w.toNat / 2 ^ pos % 2 ^ len = x
  split <;> simp

/-- V.BFE and S.BFE (R132, R166). -/
theorem bfe_eq {pos : BitVec 5} {len : BitVec 6} (h : bfOk pos len = true) (t : STy) (w : Word) :
    bfe t w pos.toNat len.toNat =
      match t with
      | .n32 => fieldOf w pos.toNat len.toNat
      | .i32 => (fieldOf w pos.toNat len.toNat <<< (32 - len.toNat)).sshiftRight (32 - len.toNat) := by
  simp only [bfOk, Bool.and_eq_true, decide_eq_true_eq] at h
  cases t
  · exact bfe_i32 h.1.1 h.1.2
  · exact bfe_n32 h.1.2

/-- V.BFI and S.BFI (R132, R166): the bits of b under the mask. -/
theorem bfi_eq {pos : BitVec 5} {len : BitVec 6} (h : bfOk pos len = true) (a b : Word) :
    bfi a b pos.toNat len.toNat =
      (a &&& ~~~(BitVec.ofNat 32 (2 ^ len.toNat - 1) <<< pos.toNat)) |||
        ((b <<< pos.toNat) &&& (BitVec.ofNat 32 (2 ^ len.toNat - 1) <<< pos.toNat)) := by
  simp only [bfOk, Bool.and_eq_true, decide_eq_true_eq] at h
  generalize pos.toNat = p at h ⊢
  generalize len.toNat = n at h ⊢
  have hm : BitVec.ofNat 32 ((2 ^ n - 1) * 2 ^ p) = BitVec.ofNat 32 (2 ^ n - 1) <<< p := by
    apply BitVec.eq_of_toNat_eq
    simp [Nat.shiftLeft_eq]
  have hb : BitVec.ofNat 32 (b.toNat % 2 ^ n * 2 ^ p) = (b <<< p) &&& (BitVec.ofNat 32 (2 ^ n - 1) <<< p) := by
    rw [← BitVec.shiftLeft_and_distrib]
    apply BitVec.eq_of_toNat_eq
    have hn : (2 ^ n - 1) % 4294967296 = 2 ^ n - 1 := by
      have := Nat.pow_le_pow_right (n := 2) (by decide) h.1.2
      have := Nat.two_pow_pos n
      exact Nat.mod_eq_of_lt (by omega)
    simp [Nat.shiftLeft_eq, hn, Nat.and_two_pow_sub_one_eq_mod]
  simp only [bfi, hm, hb]

/-! ## Counts -/

/-- The last of the numbers up to `n` that are at most `m`. -/
theorem getLastD_filter_le {n m : Nat} (h : m ≤ n) : ((upTo (n + 1)).filter (fun k => k ≤ m)).getLastD 0 = m := by
  induction n with
  | zero => simp [Nat.le_zero.1 h]; rfl
  | succ n ih =>
    rw [upTo, List.range_succ, List.filter_append]
    rcases Nat.eq_or_lt_of_le h with rfl | hlt
    · simp
    · simpa [show ¬ n + 1 ≤ m by omega, upTo] using ih (by omega)

theorem clzN_le (n x : Nat) : clzN n x ≤ n := by unfold clzN; split <;> omega

/-- The top `k` bits of a value are 0 for the `k` up to its count of leading zeros. -/
theorem div_eq_zero_iff_le_clzN {n x k : Nat} (hx : x < 2 ^ n) (hk : k ≤ n) : x / 2 ^ (n - k) = 0 ↔ k ≤ clzN n x := by
  rw [Nat.div_eq_zero_iff_lt (Nat.two_pow_pos _)]
  unfold clzN
  split
  · next h0 => simp [h0, hk, Nat.two_pow_pos]
  · next h0 =>
    have hl := (Nat.log2_lt h0).2 hx
    rw [← Nat.log2_lt h0]
    omega

theorem leadingZeros_eq {n x : Nat} (hx : x < 2 ^ n) : leadingZeros n x = clzN n x := by
  rw [leadingZeros, ← getLastD_filter_le (clzN_le n x)]
  congr 1
  refine List.filter_congr fun k hk => ?_
  have : k < n + 1 := List.mem_range.1 hk
  simp only [div_eq_zero_iff_le_clzN hx (Nat.le_of_lt_succ this)]
end Sys2Proof.Machine
end

section
/-! PROOFS. The vector integer instructions complete with their results (R160 to R170). -/
namespace Sys2Proof.Machine

/-! ## The shapes of rules -/

/-- A vector instruction of one register completes by its rule where it computes the rule's value in each lane. -/
theorem vRule_completes {i : Instr} {d : BitVec 8} {xs : List Src} {f : (Opnd → Word) → Word} {F : Ctx → State → Nat → Word}
    (hi : ∀ s, exec i s = vector d (xs.map (fun x => (x, 1))) F s)
    (hF : ∀ (c0 c : Ctx) (s : State) us l, F c (c0.begun c s us) l = f (fun o => c.rd s o l)) : (vRule d xs f).completes i :=
  RegRule.completes_of hi fun c0 c s => by
    rw [show F c (c0.begun c s ((vRule d xs f).uses · s)) = fun l => f (fun o => c.rd s o l) from funext (hF c0 c s _)]
    rfl

theorem vRule64_completes {i : Instr} {d : BitVec 8} {xs : List (Src × Nat)} {f : (Opnd → Word) → (Opnd → DWord) → DWord}
    {F : Ctx → State → Nat → DWord} (hi : ∀ s, exec i s = vector64 d xs F s)
    (hF : ∀ (c0 c : Ctx) (s : State) us l, F c (c0.begun c s us) l = f (fun o => c.rd s o l) (fun o => c.rd64 s o l)) :
    (vRule64 d xs f).completes i :=
  RegRule.completes_of hi fun c0 c s => by
    rw [show F c (c0.begun c s ((vRule64 d xs f).uses · s)) = fun l => f (fun o => c.rd s o l) (fun o => c.rd64 s o l) from
      funext (hF c0 c s _)]
    rfl

/-! ## Values -/

theorem imin_eq (x y : Int) : min x y = if x ≤ y then x else y := Int.min_def ..
theorem imax_eq (x y : Int) : max x y = if y ≤ x then x else y := by rw [Int.max_def]; split <;> split <;> omega

theorem natAbs_eq_ite (x : Int) : (x.natAbs : Int) = if x < 0 then -x else x := by split <;> omega

/-- V.MADW: 64 bits of the exact sum (R164). -/
theorem madw_eq (t : STy) (a b : Word) (z : DWord) :
    truncI 64 (STy.ext t a * STy.ext t b + (match t with | .i32 => z.toInt | .n32 => (z.toNat : Int))) =
      match t with
      | .n32 => a.setWidth 64 * b.setWidth 64 + z
      | .i32 => a.signExtend 64 * b.signExtend 64 + z := by
  cases t with
  | i32 =>
    have hs (x : Word) : BitVec.ofInt 64 x.toInt = x.signExtend 64 := by
      rw [← BitVec.toInt_signExtend_of_le (v := 64) (x := x) (by decide), BitVec.ofInt_toInt]
    simp only [truncI, STy.ext, BitVec.ofInt_add, BitVec.ofInt_mul, BitVec.ofInt_toInt, hs]
  | n32 =>
    simp only [truncI, STy.ext, BitVec.ofInt_add, BitVec.ofInt_mul, BitVec.ofInt_natCast, BitVec.ofNat_toNat]
    rfl

theorem satS_eq_clamp (r : Int) : satS 32 r = STy.clamp .i32 r := by
  rw [satS, max_min_eq_clampTo (by decide)]
  simp only [clampTo, STy.clamp, STy.lo, STy.hi, show (2 : Int) ^ (32 - 1) = 2147483648 by decide,
    show (2147483648 : Int) - 1 = 2147483647 by decide]
  by_cases h1 : r < -2147483648 <;> by_cases h2 : 2147483647 < r <;> simp only [h1, h2, if_true, if_false]

/-- V.DOT4: four products onto the third operand (R168). -/
theorem dot4_eq (p : Nat → Int) (e : Int) : (upTo 4).foldl (fun t k => t + p k) e = e + p 0 + p 1 + p 2 + p 3 := rfl

/-- The INT8 code of a trit (R100). -/
def tritCode (z : Nat) : Nat := if z = 2 then 0xFF else z

theorem unpk3_eq_sum (x : Nat) :
    unpk3 x = BitVec.ofNat 64 (((upTo 5).map (fun i => tritCode (x / 3 ^ i % 3) * 256 ^ i)).sum) := by
  refine congrArg (fun f : Nat → Nat => BitVec.ofNat 64 (((upTo 5).map (fun i => f i * 256 ^ i)).sum)) (funext fun i => ?_)
  have hz : x / 3 ^ i % 3 < 3 := Nat.mod_lt _ (by decide)
  generalize x / 3 ^ i % 3 = z at hz
  obtain rfl | rfl | rfl : z = 0 ∨ z = 1 ∨ z = 2 := by omega
  all_goals rfl

theorem sum_upTo_five (f : Nat → Nat) : ((upTo 5).map f).sum = f 0 + f 1 + f 2 + f 3 + f 4 := by
  simp only [upTo, List.range_succ, List.range_zero, List.nil_append, List.cons_append, List.map_cons, List.map_nil,
    List.sum_cons, List.sum_nil]
  omega

/-- The weights of a packed word's bytes. -/
theorem bytes_eq (a b c d e : Nat) : a * 256 ^ 0 + b * 256 ^ 1 + c * 256 ^ 2 + d * 256 ^ 3 + e * 256 ^ 4 =
    a + 2 ^ 8 * b + 2 ^ 16 * c + 2 ^ 24 * d + 2 ^ 32 * e := by omega

/-- The five trits of a byte (R100, R170). -/
theorem unpk3_eq (x : Nat) :
    unpk3 x = BitVec.ofNat 64 (tritCode (x / 3 ^ 0 % 3) + 2 ^ 8 * tritCode (x / 3 ^ 1 % 3) + 2 ^ 16 * tritCode (x / 3 ^ 2 % 3) +
      2 ^ 24 * tritCode (x / 3 ^ 3 % 3) + 2 ^ 32 * tritCode (x / 3 ^ 4 % 3)) := by
  rw [unpk3_eq_sum, sum_upTo_five, bytes_eq]

@[simp] theorem bitOr_begun (c0 c : Ctx) (s : State) (us : Ctx → List Use) (o : Opnd) (l : Nat) :
    c.bitOr (c0.begun c s us) o l = c.bitOr s o l := by cases o <;> simp [Ctx.bitOr]

theorem rdBit_eq_bitOr (c : Ctx) (s : State) (o : Opnd) (l : Nat) : c.rdBit s o l = c.bitOr s o l := by
  cases o <;> rfl

theorem rd_ite (c : Ctx) (s : State) (p : Prop) [Decidable p] (x y : Opnd) (l : Nat) :
    c.rd s (if p then x else y) l = if p then c.rd s x l else c.rd s y l := apply_ite (c.rd s · l) p x y

theorem rd64_ite (c : Ctx) (s : State) (p : Prop) [Decidable p] (x y : Opnd) (l : Nat) :
    c.rd64 s (if p then x else y) l = if p then c.rd64 s x l else c.rd64 s y l := apply_ite (c.rd64 s · l) p x y

/-! ## The instructions with one result register or a pair -/

theorem vecRule_completes {i : Instr} {r : RegRule} (hw : i.wf = true) (h : vecRule i = some r) : r.completes i := by
  unfold vecRule at h
  split at h
  case h_1 x d imm =>
    cases x <;> cases h
    · rw [if_neg Bool.false_ne_true]
      exact vRule_completes (F := fun _ _ _ => imm) (fun s => rfl) fun _ _ _ _ _ => rfl
    · rw [if_pos rfl]
      exact vRule64_completes (F := fun _ _ _ => imm.signExtend 64) (fun s => rfl) fun _ _ _ _ _ => rfl
  all_goals cases h
  case h_2 t sat d a b =>
    refine vRule_completes (fun s => by simp only [exec, execVAdd, vArith2]; rfl) fun c0 c s us l => ?_
    cases sat <;> simp only [rd_begun, Bool.false_eq_true, if_false, if_true, elemOp_add, elemOp_sat]
  case h_3 t sat d a b =>
    refine vRule_completes (fun s => by simp only [exec, execVSub, vArith2]; rfl) fun c0 c s us l => ?_
    cases sat <;> simp only [rd_begun, Bool.false_eq_true, if_false, if_true, elemOp_sub, elemOp_sat]
  case h_4 t d a b => exact vRule_completes (fun s => by simp only [exec, execVMul, vArith2]; rfl) fun c0 c s us l => by simp only [rd_begun, elemOp_mul]
  case h_5 t d a b => exact vRule_completes (fun s => by simp only [exec, execVMulhi, vArith2]; rfl) fun c0 c s us l => by simp [shrI]
  case h_6 t sat d a b e =>
    refine vRule_completes (fun s => by simp only [exec, execVMad]; rfl) fun c0 c s us l => ?_
    cases sat <;> simp [elemOp_sat]
  case h_7 t d a b e => exact vRule64_completes (fun s => by simp only [exec, execVMadw]; rfl) fun c0 c s us l => by simp only [rd_begun, rd64_begun]; exact madw_eq ..
  case h_8 | h_9 | h_10 | h_11 => exact vRule_completes (fun s => by simp only [exec, execVAnd, execVOr, execVXor, execVNot, vBits2]; rfl) fun c0 c s us l => by simp only [rd_begun]
  case h_12 t d a b => exact vRule_completes (fun s => by simp only [exec, execVShl, vShift, vBits2]; rfl) fun c0 c s us l => by simp only [rd_begun, shiftWord_shl]
  case h_13 t d a b => exact vRule_completes (fun s => by simp only [exec, execVShr, vShift, vBits2]; rfl) fun c0 c s us l => by simp only [rd_begun, shiftWord_shr]
  case h_14 t d a b => exact vRule_completes (fun s => by simp only [exec, execVSra, vShift, vBits2]; rfl) fun c0 c s us l => by simp only [rd_begun]; rfl
  case h_15 t d a b =>
    refine vRule_completes (fun s => by simp only [exec, execVMin, vArith2]; rfl) fun c0 c s us l => ?_
    simp only [rd_begun, imin_eq]
    exact elemOp_of_range t (fun x y _ => if x ≤ y then x else y) _ _ fun x y _ => by split <;> simp
  case h_16 t d a b =>
    refine vRule_completes (fun s => by simp only [exec, execVMax, vArith2]; rfl) fun c0 c s us l => ?_
    simp only [rd_begun, imax_eq]
    exact elemOp_of_range t (fun x y _ => if y ≤ x then x else y) _ _ fun x y _ => by split <;> simp
  case h_17 t sat d a =>
    refine vRule_completes (fun s => by simp only [exec, execVAbs, vArith1]; rfl) fun c0 c s us l => ?_
    cases sat <;> simp only [rd_begun, natAbs_eq_ite, Bool.false_eq_true, if_false, if_true, elemOp_sat]
  case h_18 t d a pos len =>
    simp only [Instr.wf, Bool.and_eq_true] at hw
    exact vRule_completes (fun s => by simp only [exec, execVBfe]; rfl) fun c0 c s us l => by simp only [rd_begun]; exact bfe_eq hw.2 ..
  case h_19 t d a b pos len =>
    simp only [Instr.wf, Bool.and_eq_true] at hw
    exact vRule_completes (fun s => by simp only [exec, execVBfi, vBits2]; rfl) fun c0 c s us l => by simp only [rd_begun, bfi_eq hw.2]
  case h_20 t d a => exact vRule_completes (fun s => by simp only [exec, execVPopc, vCount]; rfl) fun c0 c s us l => by simp only [rd_begun]; rfl
  case h_21 t d a =>
    exact vRule_completes (fun s => by simp only [exec, execVClz, vCount]; rfl) fun c0 c s us l => by simp only [rd_begun, leadingZeros_eq (elemAt_lt ..)]
  case h_22 sa sb sat d a b e =>
    exact vRule_completes (fun s => by simp only [exec, execVDot4]; rfl) fun c0 c s us l => by simp only [rd_begun, dot4_eq, satS_eq_clamp]; rfl
  case h_23 => exact vRule_completes (fun s => by simp only [exec, execVReq]; rfl) fun c0 c s us l => by simp only [rd_begun]

theorem vecRule2_completes {i : Instr} {r : RegRule} (h : vecRule2 i = some r) : r.completes i := by
  unfold vecRule2 at h
  split at h
  case h_1 w64 d a =>
    cases h
    cases w64
    · refine RegRule.completes_of (fun s => by simp only [exec, execVMov, Bool.false_eq_true, if_false, vector]; rfl)
        fun c0 c s => ?_
      simp only [rdBit_eq_bitOr, bitOr_begun]
      rfl
    · refine RegRule.completes_of (fun s => by simp only [exec, execVMov, if_true, vector64]; rfl) fun c0 c s => ?_
      simp only [rd64_begun]
      rfl
  case h_2 gd w64 d a b x =>
    cases h
    refine RegRule.completes_of (fun s => by simp only [exec, execVSel]; rfl) fun c0 c s => ?_
    simp only [rdBit_eq_bitOr, bitOr_begun, rd64_begun, rd_begun]
    cases w64
    · simp only [Bool.false_eq_true, if_false, ite_not, rd_ite]
      rfl
    · simp only [ite_not, if_true, rd64_ite]
      rfl
  case h_3 cc t d a b =>
    cases h
    refine RegRule.completes_of (fun s => by simp only [exec, execVCmp]; rfl) fun c0 c s => ?_
    simp only [rd_begun]
    rfl
  case h_4 byte pd d a =>
    cases h
    refine RegRule.completes_of (fun s => by simp only [exec, execVUnpk3]; rfl) fun c0 c s => ?_
    simp only [rd_begun, unpk3_eq]
    rfl
  case h_5 => cases h

/-- Settles O17, rule by rule: each element of the result is the exact integer delivered to the type. -/
theorem vectorIntegerResults : Obligations.VectorIntegerResults := fun _ _ hw h =>
  h.elim (vecRule_completes hw) vecRule2_completes
end Sys2Proof.Machine
end

section
/-! PROOFS. The cross-lane instructions complete with their results (R172 to R177). -/
namespace Sys2Proof.Machine

/-- The vote's result, spelt out over the lanes of ACTIVE (Table 7-7). -/
theorem voteResult_eq (c : Ctx) (s : State) (o : VoteOp) (a : Src) :
    c.voteResult s o a =
      match o with
      | .all => if (Mask.lanes c.active c.g.width).all (fun l => c.bitOr s a.op l ≠ 0) then 1 else 0
      | .any => if (Mask.lanes c.active c.g.width).any (fun l => c.bitOr s a.op l ≠ 0) then 1 else 0
      | .uni => if (Mask.lanes c.active c.g.width).all
          (fun l => c.bitOr s a.op l = c.bitOr s a.op ((Mask.lanes c.active c.g.width).headD 0)) then 1 else 0
      | .ballot => Mask.ofLanes ((Mask.lanes c.active c.g.width).filter (fun l => c.bitOr s a.op l ≠ 0))
      | .count => BitVec.ofNat 64 ((Mask.lanes c.active c.g.width).filter (fun l => c.bitOr s a.op l ≠ 0)).length := by
  simp only [Ctx.voteResult, Ctx.vote, rdBit_eq_bitOr]
  rfl

theorem laneRule_completes {i : Instr} {r : RegRule} (h : laneRule i = some r) : r.completes i := by
  unfold laneRule at h
  split at h
  case h_1 mode seg d a k off =>
    cases h
    refine RegRule.completes_of (fun s => by simp only [exec, execVShfl]; rfl) fun c0 c s => ?_
    simp only [rd_begun]
    rfl
  case h_2 w64 seg d a i =>
    cases h
    refine RegRule.completes_of (fun s => by simp only [exec, execVBcast]; rfl) fun c0 c s => ?_
    simp only [rd_begun, rd64_begun, rdU_begun]
    rfl
  case h_3 o d a =>
    cases h
    refine RegRule.completes_of (fun s => by simp only [exec, execVVote]; rfl) fun c0 c s => ?_
    simp only [voteResult_begun]
    have hn : ((if o = .ballot then 2 else 1) = 2) ↔ o = .ballot := by split <;> simp_all
    simp only [hn, voteResult_eq]
    rfl
  case h_4 o d a =>
    cases h
    refine RegRule.completes_of (fun s => by simp only [exec, execVRed]; rfl) fun c0 c s => ?_
    simp only [reduce_begun]
    rfl
  case h_5 excl o d a =>
    cases h
    refine RegRule.completes_of (fun s => by simp only [exec, execVScan]; rfl) fun c0 c s => ?_
    simp only [scan_begun]
    rfl
  case h_6 => cases h

/-- Settles O18, rule by rule. -/
theorem crossLaneResults : Obligations.CrossLaneResults := fun _ _ _ h => laneRule_completes h
end Sys2Proof.Machine
end

section
/-! PROOFS. The float and conversion instructions complete with their results and flags (R171, R181 to R196). -/
namespace Sys2Proof.Machine

/-- A float instruction completes by its rule where it computes the rule's value and flags in each lane. -/
theorem fRule_completes {i : Instr} {d : BitVec 8} {xs : List Src} {f F : Ctx → State → Nat → Nat × FFlags}
    (hi : ∀ s, exec i s = vecF d xs F s) (hF : ∀ (c0 c : Ctx) (s : State) us l, F c (c0.begun c s us) l = f c s l) :
    (fRule d xs f).completes i := by
  unfold vecF at hi
  refine RegRule.completes_of hi fun c0 c s => ?_
  rw [show F c (c0.begun c s ((fRule d xs f).uses · s)) = f c s from funext (hF c0 c s _)]
  rfl

theorem fltRule_completes {i : Instr} {r : RegRule} (h : fltRule i = some r) : r.completes i := by
  unfold fltRule at h
  split at h
  all_goals cases h
  case h_19 cc ty d a b =>
    refine RegRule.completes_of (fun s => by simp only [exec, execVFcmp]; rfl) fun c0 c s => ?_
    simp only [rdF_begun]
    rfl
  all_goals
    refine fRule_completes (fun s => by
      simp only [exec, execVFadd, execVFsub, execVFmul, execVFfma, execVFmin, execVFmax, execVFclass, execVFrnd, execVFsqrt,
        execVFrcp, execVFrsq, execVFexp2, execVFlog2, execVFsin, execVFcos, execVHadd2, execVHmul2, execVHfma2, vecF2, vecSpec,
        vecH]
      rfl) fun c0 c s us l => ?_
    simp only [rdF_begun]
  all_goals rfl

/-- Settles O19, rule by rule. -/
theorem floatResults : Obligations.FloatResults := fun _ _ _ h => fltRule_completes h

/-! ## Conversions -/

/-- No flags change nothing of the result on its way. -/
theorem Group.sticky_none (g : Group) : g.sticky {} = g := by
  have h : (fun x : Flight => { x with flags := x.flags ||| FFlags.word {} }) = id := by
    funext x
    exact congrArg (fun w => { x with flags := w }) (BitVec.or_zero : x.flags ||| 0#32 = x.flags)
  simp [Group.sticky, h, modifyAt]

theorem orFlags_none (ls : List Nat) : ls.foldl (fun (a : FFlags) _ => a.or {}) {} = {} := by
  induction ls with
  | nil => rfl
  | cons a ls ih => exact ih

/-- The two counts of elements in a lane agree. -/
theorem convElems_eq (df sf : Fmt) : convElems df sf = cvtElems df sf := by
  simp [convElems, cvtElems, fmtWidth_eq, Nat.min_comm]

/-- No V.FICVT is between two integer formats. -/
theorem ficvtPairOk_of_integers {df sf : Fmt} (hd : Fmt.flt df = none) (hs : Fmt.flt sf = none) :
    ¬ ficvtPairOk df sf = true := by
  have key : ∀ f, Fmt.flt f = none → f ≠ .f32 ∧ f.isHalf = false := by intro f h; cases f <;> simp_all [Fmt.flt, Fmt.isHalf]
  simp [ficvtPairOk, key df hd, key sf hs]

theorem cRule_completes {i : Instr} {e sw dw : Nat} {d : BitVec 8} {a : Src} {ys : List (Src × Nat)}
    {f F : Ctx → State → Nat → Nat → Nat × FFlags} (hi : ∀ s, exec i s = convert e sw dw d a ys F s)
    (hF : ∀ (c0 c : Ctx) (s : State) us l k, F c (c0.begun c s us) l k = f c s l k) :
    (cRule e sw dw d a ys f).completes i := by
  unfold convert at hi
  refine RegRule.completes_of hi fun c0 c s => ?_
  rw [show F c (c0.begun c s ((cRule e sw dw d a ys f).uses · s)) = f c s from funext fun l => funext fun k => hF c0 c s _ l k]
  rfl

/-- A conversion that raises no flag only writes its span. -/
theorem cRule_res_of_exact (e sw dw : Nat) (d : BitVec 8) (a : Src) (ys : List (Src × Nat)) (v : Ctx → State → Nat → Nat → Nat)
    (c : Ctx) (s : State) (g : Group) :
    (cRule e sw dw d a ys (fun c s l k => (v c s l k, {}))).res c s g = g.setSpan c.active d.toNat e dw (v c s) := by
  simp only [cRule, orFlags_none, Group.sticky_none]
  rfl

theorem cRule_exact_completes {i : Instr} {e sw dw : Nat} {d : BitVec 8} {a : Src} {v V : Ctx → State → Nat → Nat → Nat}
    (hi : ∀ s, exec i s = issue (cRule e sw dw d a [] (fun c s l k => (v c s l k, {}))).spec (fun c s =>
      c.retire s [(a, spanRegs e sw)] (fun g => g.setSpan c.active d.toNat e dw (V c s))) s)
    (hV : ∀ (c0 c : Ctx) (s : State) us l k, V c (c0.begun c s us) l k = v c s l k) :
    (cRule e sw dw d a [] (fun c s l k => (v c s l k, {}))).completes i :=
  RegRule.completes_of hi fun c0 c s => by
    rw [show V c (c0.begun c s ((cRule e sw dw d a [] (fun c s l k => (v c s l k, {}))).uses · s)) = v c s from
      funext fun l => funext fun k => hV c0 c s _ l k]
    refine congrArg (fun f => Res.done (c.mod _ f)) (funext fun g => ?_)
    exact (cRule_res_of_exact ..).symm

theorem cvtRule_completes {i : Instr} {r : RegRule} (hw : i.wf = true) (h : cvtRule i = some r) : r.completes i := by
  unfold cvtRule at h
  split at h
  all_goals cases h
  case h_1 df sf d a =>
    refine cRule_exact_completes (fun s => by simp only [exec, execVCvt, convElems_eq]; rfl) fun c0 c s us l k => ?_
    simp only [spanElem_begun, deliverInt_sat]
    rfl
  case h_2 df sf r d a rb =>
    refine cRule_completes (fun s => by simp only [exec, execVFcvt, convElems_eq]; rfl) fun c0 c s us l k => ?_
    simp only [spanElem_begun, randBits_begun]
  case h_3 df sf r d a =>
    refine cRule_completes (fun s => by simp only [exec, execVFicvt, convElems_eq]; rfl) fun c0 c s us l k => ?_
    simp only [spanElem_begun]
    have hp : ficvtPairOk df sf = true := by simp only [Instr.wf, Bool.and_eq_true] at hw; exact hw.1.1.1
    cases hs : Fmt.flt sf with
    | some S => rfl
    | none =>
      cases hd : Fmt.flt df with
      | some D => rfl
      | none => exact absurd hp (ficvtPairOk_of_integers hd hs)
  case h_4 mf d a =>
    refine fRule_completes (fun s => by simp only [exec, execVMxscl]; rfl) fun c0 c s us l => ?_
    simp only [rd_begun]
  case h_5 mf r d a sc rb =>
    refine RegRule.completes_of (fun s => by simp only [exec, execVMxpack]; rfl) fun c0 c s => ?_
    simp only [mxCode_begun]
    rfl

/-- Settles O20, rule by rule. -/
theorem conversionResults : Obligations.ConversionResults := fun _ _ hw h => cvtRule_completes hw h

end Sys2Proof.Machine
end

section
/-! PROOFS. What issuing leaves of the state: the group's collectors, caches and notices of results, GSTAT and the CLKHI shadow,
the slice cycle and the units; nothing else. -/
namespace Sys2Proof.Machine

/-- A team without its groups. -/
def Team.bare (t : Team) : Team := { t with groups := [] }

/-- `t` differs from `s` in groups, the slice cycle, the banks' last answer and the units alone. -/
structure State.SlotFrame (s t : State) : Prop where
  eq : ∃ y c x u g, t = { s with cycle := y, conflict := c, cores := x, teams := u, k := { s.k with grp := g } }
  teams : ∀ n, (t.team? n).map Team.bare = (s.team? n).map Team.bare

namespace State.SlotFrame
variable {s t u : State}

theorem refl (s : State) : s.SlotFrame s := ⟨⟨_, _, _, _, _, rfl⟩, fun _ => rfl⟩

theorem trans (h : s.SlotFrame t) (h' : t.SlotFrame u) : s.SlotFrame u := by
  obtain ⟨⟨_, _, _, _, _, rfl⟩, ht⟩ := h
  obtain ⟨⟨_, _, _, _, _, rfl⟩, hu⟩ := h'
  exact ⟨⟨_, _, _, _, _, rfl⟩, fun n => (hu n).trans (ht n)⟩

theorem putGrp (s : State) (a : Agent) (g : Group) : s.SlotFrame (s.putGrp a g) := by
  cases a with
  | kennel => exact ⟨⟨_, _, _, _, _, rfl⟩, fun _ => rfl⟩
  | port n gi b =>
    refine ⟨⟨_, _, _, _, _, rfl⟩, fun m => ?_⟩
    rw [State.team?_putGrp]
    split
    · next e => rw [e, Option.map_map]; rfl
    · rfl

theorem mod (c : Ctx) (s : State) (f : Group → Group) : s.SlotFrame (c.mod s f) := putGrp ..

theorem modSlice (c : Ctx) (s : State) (f : Slice → Slice) : s.SlotFrame (c.modSlice s f) := by
  unfold Ctx.modSlice
  split <;> exact ⟨⟨_, _, _, _, _, rfl⟩, fun _ => rfl⟩

theorem openHalf (c : Ctx) (s : State) (us : List Use) (n : Nat) :
    s.SlotFrame { c.openHalf s us n with conflict := none } := by
  unfold Ctx.openHalf
  split <;> exact ⟨⟨_, _, _, _, _, rfl⟩, fun _ => rfl⟩

theorem presents (c : Ctx) (s : State) (us : List Use) : s.SlotFrame (c.presents s us) := by
  unfold Ctx.presents
  dsimp only
  split
  · exact mod ..
  · split
    · exact ((openHalf ..).trans (mod ..)).trans (modSlice ..)
    · exact (openHalf ..).trans (mod ..)

theorem noteReads (c : Ctx) (s : State) (us : List Use) : s.SlotFrame (c.noteReads s us) := by
  unfold Ctx.noteReads
  dsimp only
  split <;> split
  · exact (mod ..).trans (mod ..)
  · exact mod ..
  · exact mod ..
  · exact refl s

theorem begun (c0 c : Ctx) (s : State) (us : Ctx → List Use) : s.SlotFrame (c0.begun c s us) :=
  (presents ..).trans (noteReads ..)

/-! What the frame keeps, field by field. -/

variable (h : s.SlotFrame t)
include h

theorem clk : t.clk = s.clk := by obtain ⟨⟨_, _, _, _, _, rfl⟩, -⟩ := h; rfl
theorem mem : t.mem = s.mem := by obtain ⟨⟨_, _, _, _, _, rfl⟩, -⟩ := h; rfl
theorem poison : t.poison = s.poison := by obtain ⟨⟨_, _, _, _, _, rfl⟩, -⟩ := h; rfl
theorem bus : t.bus = s.bus := by obtain ⟨⟨_, _, _, _, _, rfl⟩, -⟩ := h; rfl
theorem cols : t.cols = s.cols := by obtain ⟨⟨_, _, _, _, _, rfl⟩, -⟩ := h; rfl
theorem grids : t.grids = s.grids := by obtain ⟨⟨_, _, _, _, _, rfl⟩, -⟩ := h; rfl
theorem sched : t.sched = s.sched := by obtain ⟨⟨_, _, _, _, _, rfl⟩, -⟩ := h; rfl
theorem icache : t.icache = s.icache := by obtain ⟨⟨_, _, _, _, _, rfl⟩, -⟩ := h; rfl
theorem focus : t.focus = s.focus := by obtain ⟨⟨_, _, _, _, _, rfl⟩, -⟩ := h; rfl
theorem agenda : t.agenda = s.agenda := by obtain ⟨⟨_, _, _, _, _, rfl⟩, -⟩ := h; rfl
theorem kennel : ∃ g, t.k = { s.k with grp := g } := by obtain ⟨⟨_, _, _, _, _, rfl⟩, -⟩ := h; exact ⟨_, rfl⟩

end State.SlotFrame

/-! ## The group at issue -/

/-- `h` differs from `g` in what issuing notes: collectors and caches, results on their way, FPFLAGS and what was last set. -/
def Group.Presented (g h : Group) : Prop :=
  ∃ x y z w v, h = { g with colA := x, colB := y, flying := z, fpflags := w, fresh := v }

theorem Group.presented_caches (g : Group) (b : Bool) (cs : List Nat) (us : List Use) : g.Presented (g.caches b cs us) := by
  cases b <;> exact ⟨_, _, _, _, _, rfl⟩

theorem Group.presented_freshen (g : Group) (n : Nat) : g.Presented (g.freshen n) := by
  unfold Group.freshen
  split <;> exact ⟨_, _, _, _, _, rfl⟩

theorem Group.presented_settled (g : Group) (n : Nat) : g.Presented (g.settled n) := ⟨_, _, _, _, _, rfl⟩

theorem Group.presented_fly (c : Ctx) (n : Nat) (us : List Use) (g : Group) : g.Presented (c.fly n us g) := by
  unfold Ctx.fly
  dsimp only
  split <;> exact ⟨_, _, _, _, _, rfl⟩

theorem Group.Presented.trans {g h k : Group} (a : g.Presented h) (b : h.Presented k) : g.Presented k := by
  obtain ⟨_, _, _, _, _, rfl⟩ := a
  obtain ⟨_, _, _, _, _, rfl⟩ := b
  exact ⟨_, _, _, _, _, rfl⟩

/-- The group's part of issuing. -/
def Ctx.noticed (c : Ctx) (now : Nat) (us : List Use) (g : Group) : Group := c.fly now us ((g.settled now).freshen now)

theorem Ctx.presented_noticed (c : Ctx) (now : Nat) (us : List Use) (g : Group) : g.Presented (c.noticed now us g) :=
  ((g.presented_settled now).trans (Group.presented_freshen ..)).trans (Group.presented_fly ..)

theorem grpOf_openHalf (c : Ctx) (s : State) (us : List Use) (n : Nat) (a : Agent) :
    ({ c.openHalf s us n with conflict := none } : State).grpOf a = s.grpOf a := by
  unfold Ctx.openHalf
  split <;> exact State.grpOf_congr rfl rfl a

theorem grpOf_modSlice (c : Ctx) (s : State) (f : Slice → Slice) (a : Agent) : (c.modSlice s f).grpOf a = s.grpOf a := by
  unfold Ctx.modSlice
  split <;> exact State.grpOf_congr rfl rfl a

/-- The group of the issuing agent after an instruction has left its port. -/
theorem presents_grpOf {c : Ctx} {s : State} {g : Group} (us : List Use) (hg : s.grpOf c.ag = some g) :
    (c.presents s us).grpOf c.ag = some (if c.g.kennel then c.noticed s.clk us g
      else (c.noticed s.clk us g).caches c.ag.isB (keptCodes c.opcode c.cl.word) us) := by
  have h1 : ({ c.openHalf s us (c.need s us) with conflict := none } : State).grpOf c.ag = some g := by
    rw [grpOf_openHalf, hg]
  unfold Ctx.presents
  dsimp only
  split
  · exact mod_grpOf _ hg
  · split
    · rw [grpOf_modSlice]
      exact mod_grpOf _ h1
    · exact mod_grpOf _ h1

theorem presents_presented {c : Ctx} {s : State} {g : Group} (us : List Use) (hg : s.grpOf c.ag = some g) :
    ∃ h, (c.presents s us).grpOf c.ag = some h ∧ g.Presented h := by
  refine ⟨_, presents_grpOf us hg, ?_⟩
  split
  · exact c.presented_noticed ..
  · exact (c.presented_noticed ..).trans (Group.presented_caches ..)

end Sys2Proof.Machine
end

section
/-! PROOFS. S.RSR completes with the register it names (R120, R122, R124, R134, R385). -/
namespace Sys2Proof.Machine

/-- Writes leave no trace of a read. -/
theorem noteReads_wrS (c : Ctx) (s : State) (d : BitVec 9) (n : Nat) : c.noteReads s [wrS c d n] = s := by
  simp [Ctx.noteReads, Group.readsPoison, wrS]

theorem mod_k_port {c : Ctx} {t n : Nat} {b : Bool} (ha : c.ag = .port t n b) (s : State) (f : Group → Group) :
    (c.mod s f).k = s.k := by simp [Ctx.mod, ha, State.putGrp, State.modGroup, State.modTeam]

/-- A compute group's instruction leaves the Kennel's core alone as it issues. -/
theorem presents_k_port {c : Ctx} {t n : Nat} {b : Bool} (ha : c.ag = .port t n b) (s : State) (us : List Use) :
    (c.presents s us).k = s.k := by
  have ho : ({ c.openHalf s us (c.need s us) with conflict := none } : State).k = s.k := by unfold Ctx.openHalf; split <;> rfl
  have hm (u : State) (f : Slice → Slice) : (c.modSlice u f).k = u.k := by unfold Ctx.modSlice; split <;> rfl
  unfold Ctx.presents
  dsimp only
  split
  · exact mod_k_port ha ..
  · split
    · rw [hm, mod_k_port ha, ho]
    · rw [mod_k_port ha, ho]

/-- The shadow of CLKHI stands until a read of the clock. -/
theorem presents_clkhi (c : Ctx) (s : State) (us : List Use) : (c.presents s us).k.grp.clkhi = s.k.grp.clkhi := by
  cases ha : c.ag with
  | kennel =>
    have hg : s.grpOf c.ag = some s.k.grp := by rw [ha]; rfl
    obtain ⟨h, hh, _, _, _, _, _, rfl⟩ := presents_presented us hg
    rw [ha] at hh
    rw [Option.some.inj hh]
  | port t n b => rw [presents_k_port ha]

theorem statRead_presents (c : Ctx) (s : State) (us : List Use) (n : Nat) : c.statRead (c.presents s us) n = c.statRead s n := by
  have hf := State.SlotFrame.presents c s us
  have hv := view_presents c s us
  simp only [Ctx.view, Prod.mk.injEq] at hv
  obtain ⟨hlo, -, ht⟩ := hv
  obtain ⟨g, hk⟩ := hf.kennel
  unfold Ctx.statRead
  split
  · have hc : g.clkhi = s.k.grp.clkhi := by rw [← presents_clkhi c s us, hk]
    simp only [State.statKennel, hlo, hk, hc]
  · simp only [Ctx.statGroup, hf.clk, hlo]
    cases hs : c.team? s <;> cases hp : c.team? (c.presents s us) <;> simp_all

/-- A compute group's status registers (Table 6-2). -/
theorem statRead_group {c : Ctx} (hk : c.g.kennel = false) (s : State) (n : Nat) : c.statRead s n = c.statGroup s n := by
  simp [Ctx.statRead, hk]

theorem statRead_kennel {c : Ctx} (hk : c.g.kennel = true) (s : State) (n : Nat) : c.statRead s n = s.statKennel n := by
  simp [Ctx.statRead, hk]

/-- Nothing on its way has landed. -/
theorem flags_of_pending {g : Group} {now : Nat} (h : ∀ f ∈ g.flying, now ≤ f.due) : g.flags now = g.fpflags := by
  unfold Group.flags
  generalize g.fpflags = x
  generalize g.flying = l at h
  induction l generalizing x with
  | nil => rfl
  | cons f fs ih =>
    obtain ⟨hf, hr⟩ := List.forall_mem_cons.1 h
    rw [List.foldl_cons, if_neg (by omega)]
    exact ih x hr

/-- Two bits as a number. -/
theorem kstat_value (a b : Bool) : (boolW a ||| (boolW b <<< 1)).setWidth 64 =
    BitVec.ofNat 64 ((if a then 1 else 0) + (if b then 2 else 0)) := by cases a <;> cases b <;> rfl

theorem kcause_value (code vec : BitVec 8) : (code ++ vec).setWidth 64 = BitVec.ofNat 64 (vec.toNat + 256 * code.toNat) := by
  apply BitVec.eq_of_toNat_eq
  have := code.isLt
  have := vec.isLt
  rw [BitVec.toNat_setWidth, BitVec.toNat_append, BitVec.toNat_ofNat, Nat.shiftLeft_eq, Nat.mul_comm,
    ← Nat.two_pow_add_eq_or_of_lt vec.isLt]
  congr 1
  omega

theorem sRsr_runsTo {w64 : Bool} {d : BitVec 9} {num : BitVec 12} {c : Ctx} {s : State}
    (h : c.Issues s .both (fun c => [wrS c d (if w64 then 2 else 1)])) (hn : statKnown c.g.kennel num.toNat = true) :
    let x := c.statRead s num.toNat
    let s' := c.begun c s (fun c => [wrS c d (if w64 then 2 else 1)])
    RunsTo (.sRsr w64 d num) c s
      (c.mod (if num.toNat = 12 then c.mod s' (fun g => { g with clkhi := s.clkLo.extractLsb' 32 32 }) else s')
        (fun g => if w64 then g.setS64 d.toNat x else g.setS d.toNat (x.extractLsb' 0 32))) := by
  intro x s'
  have hs' : s' = c.presents s [wrS c.whole d (if w64 then 2 else 1)] := noteReads_wrS ..
  have hx : c.statRead s' num.toNat = x := by rw [hs', statRead_presents]
  have hlo : s'.clkLo = s.clkLo := congrArg Prod.fst (view_begun c c s _)
  apply runsTo_of_done
  rw [← hlo, ← hx]
  simp only [exec, execSRsr]
  exact issue_body (sp := { core := .both, encOk := fun c => statKnown c.g.kennel num.toNat, uses := _ }) h hn rfl rfl rfl

/-- Settles O22: the reads of Tables 6-2 and 17-1, row by row. -/
theorem statusReads : Obligations.StatusReads := by
  refine ⟨fun w64 d num c s h hn => sRsr_runsTo h hn, fun c s hk => ?_, fun c s hk => ?_⟩
  · simp only [statRead_group hk]
    refine ⟨rfl, rfl, rfl, rfl, rfl, rfl, rfl, rfl, rfl, rfl, rfl, ?_, fun h => ?_, fun tm ht => ?_⟩
    · simp only [Ctx.statGroup, Group.gstatRead, ite_not]
    · simp only [Ctx.statGroup, flags_of_pending h]
    · simp [Ctx.statGroup, ht]
  · simp only [statRead_kennel hk]
    exact ⟨kstat_value .., kcause_value .., rfl, rfl, rfl, rfl, rfl, rfl, rfl, rfl⟩

end Sys2Proof.Machine
end

section
/-! PROOFS. Two changes of one group are one. -/
namespace Sys2Proof.Machine

theorem AMap.set_set {α : Type} (m : AMap α) (n : Nat) (x y : α) : AMap.set (AMap.set m n x) n y = AMap.set m n y := by
  induction m with
  | nil => simp [AMap.set]
  | cons p r ih =>
    obtain ⟨k, z⟩ := p
    by_cases h1 : n < k
    · simp [AMap.set, h1]
    · by_cases h2 : n = k
      · simp [AMap.set, h2]
      · simp [AMap.set, h1, h2, ih]

theorem AMap.update_update {α : Type} (m : AMap α) (n : Nat) (f g : α → α) :
    AMap.update (AMap.update m n f) n g = AMap.update m n (g ∘ f) := by
  unfold AMap.update
  cases h : AMap.get? m n with
  | none => simp [h]
  | some x => simp [AMap.get?_set, AMap.set_set]

theorem State.modTeam_modTeam (s : State) (t : Nat) (f g : Team → Team) :
    (s.modTeam t f).modTeam t g = s.modTeam t (g ∘ f) := by
  simp [State.modTeam, AMap.update_update]

theorem Team.modGroup_modGroup (x : Team) (n : Nat) (f g : Group → Group) :
    (x.modGroup n f).modGroup n g = x.modGroup n (g ∘ f) := by
  simp [Team.modGroup, modifyAt, List.modify_modify_eq]

theorem State.putGrp_putGrp (s : State) (a : Agent) (g h : Group) : (s.putGrp a g).putGrp a h = s.putGrp a h := by
  cases a with
  | kennel => rfl
  | port t n b =>
    simp only [State.putGrp, State.modGroup, State.modTeam_modTeam]
    congr 1
    funext x
    exact Team.modGroup_modGroup ..

theorem mod_mod {c : Ctx} {s : State} {x : Group} (hx : s.grpOf c.ag = some x) (f g : Group → Group) :
    c.mod (c.mod s f) g = c.mod s (fun y => g (f y)) := by
  rw [Ctx.mod, mod_now f hx, Ctx.mod, Ctx.put_eq, Ctx.put_eq, State.putGrp_putGrp]
  simp [Ctx.mod, Ctx.now, hx]

/-- The issuing agent has a group, before and after issuing. -/
theorem IssuesUnder_group {c0 c : Ctx} {s : State} {core : CoreSet} {gd : GuardUse} {us : Ctx → List Use} {b : Bool}
    (h : c0.IssuesUnder c s core gd us b) : ∃ g, s.grpOf c.ag = some g ∧ c.now s = g := by
  obtain ⟨g, hg, hn, -⟩ := slot_group h.slot
  rw [h.narrowed]
  exact ⟨g, hg, hn⟩

theorem begun_grpOf {c0 c : Ctx} {s : State} {g : Group} (us : Ctx → List Use) (hg : s.grpOf c.ag = some g) :
    ∃ h, (c0.begun c s us).grpOf c.ag = some h := by
  obtain ⟨h, hh, -⟩ := presents_presented (us c0.whole) hg
  obtain ⟨k, hk, -⟩ := noteReads_group (us c) hh
  exact ⟨k, hk⟩

end Sys2Proof.Machine
end

section
/-! PROOFS. S.WSR writes what each status register keeps (R93, R120, R134, R385). -/
namespace Sys2Proof.Machine

/-- FPCTL: mode codes above 4 are reserved (R93). -/
theorem fpctlWrite_eq (old x : Word) :
    fpctlWrite old x = (x &&& 8) ||| (if 4 < (x &&& 7).toNat then old &&& 7 else x &&& 7) := by
  have h : (x &&& 7#32 ≤ 4#32) ↔ ¬ 4 < (x &&& 7).toNat := by rw [BitVec.le_def, Nat.not_lt]; rfl
  simp only [fpctlWrite, h, ite_not]
  rfl

/-- A write to a group's status register, register by register (Table 6-2). -/
theorem Group.statWrite_eq {n : BitVec 12} (hn : statWritable false n.toNat = true) (g : Group) (v : DWord) :
    g.statWrite n.toNat v =
      let lo := v.extractLsb' 0 32
      { g with
        lcarry := if n = 5 then lo &&& 3 else g.lcarry,
        fpctl := if n = 6 then (lo &&& 8) ||| (if 4 < (lo &&& 7).toNat then g.fpctl &&& 7 else lo &&& 7) else g.fpctl,
        fpflags := if n = 7 then (lo &&& 15) ||| g.fresh.fp else g.fpflags,
        ternbad := if n = 10 then (g.ternbad &&& ~~~v) ||| g.fresh.tern else g.ternbad,
        gstat := if n = 14 then (g.gstat &&& ~~~(lo &&& 0x207)) ||| g.fresh.gstat else g.gstat } := by
  simp only [statWritable, Bool.false_eq_true, if_false, Bool.or_eq_true, decide_eq_true_eq] at hn
  have ho (k : BitVec 12) (h : n.toNat = k.toNat) : n = k := BitVec.eq_of_toNat_eq h
  rcases hn with (((h | h) | h) | h) | h
  · obtain rfl := ho 5 h; rfl
  · obtain rfl := ho 6 h; simp only [Group.statWrite, fpctlWrite_eq]; rfl
  · obtain rfl := ho 7 h; rfl
  · obtain rfl := ho 10 h; rfl
  · obtain rfl := ho 14 h; rfl

/-- The value S.WSR writes. -/
def Ctx.wsrValue (c : Ctx) (s : State) (w64 : Bool) (a : Src) : DWord :=
  if w64 then c.rd64 s a.op 0 else (c.rd s a.op 0).setWidth 64

@[simp] theorem wsrValue_begun (c0 c : Ctx) (s : State) (us : Ctx → List Use) (w64 : Bool) (a : Src) :
    c.wsrValue (c0.begun c s us) w64 a = c.wsrValue s w64 a := by simp [Ctx.wsrValue]

theorem wsrValue_low (c : Ctx) (s : State) (w64 : Bool) (a : Src) :
    (if w64 then c.wsrValue s w64 a else c.wsrValue s w64 a &&& 0xFFFFFFFF#64) = c.wsrValue s w64 a := by
  cases w64
  · simp only [Ctx.wsrValue, Bool.false_eq_true, if_false]
    generalize c.rd s a.op 0 = w
    ext i hi
    by_cases h : i < 32
    · have hm : (0xFFFFFFFF#64).getLsbD i = true := (by decide : ∀ i < 32, (0xFFFFFFFF#64).getLsbD i = true) i h
      simp [← BitVec.getLsbD_eq_getElem, hm]
    · simp [BitVec.getLsbD_of_ge w i (by omega)]
  · rfl

def wsrUses (w64 : Bool) (a : Src) (c : Ctx) : List Use := readsOf c [(a, if w64 then 2 else 1)]

/-- What S.WSR does where it issues. -/
theorem sWsr_runsTo {w64 : Bool} {num : BitVec 12} {a : Src} {c : Ctx} {s : State} (h : c.Issues s .both (wsrUses w64 a))
    (hn : statWritable c.g.kennel num.toNat = true) (hw : w64 = true → statWide c.g.kennel num.toNat = true) :
    RunsTo (.sWsr w64 num a) c s (c.statWrite (c.mod (c.begun c s (wsrUses w64 a)) (fun g =>
      g.endUses c.active [(a, if w64 then 2 else 1)])) num.toNat w64 (c.wsrValue s w64 a)) := by
  apply runsTo_of_done
  rw [← wsrValue_begun c c s (wsrUses w64 a)]
  have hok : (statWritable c.g.kennel num.toNat && (!w64 || statWide c.g.kennel num.toNat)) = true := by
    cases w64 <;> simp_all
  simp only [exec, execSWsr]
  exact issue_body (sp := { core := .both, encOk := _, uses := _ }) h hok rfl rfl rfl

/-- A write to a Kennel status register, register by register (Table 17-1). -/
theorem statKennelWrite_eq {n : BitVec 12} (hn : statKnown true n.toNat = true) (x : State) (w64 : Bool) (v : DWord) :
    x.statKennelWrite n.toNat w64 v =
      let lo := v.extractLsb' 0 32
      let kt : DWord := if w64 then v else x.k.ktimer.extractLsb' 32 32 ++ lo
      let justSet : Word := if x.k.pendAt = x.clk then x.k.pendNew else 0
      let y : State := { x with k := { x.k with
        ktimer := if n = 7 then kt else x.k.ktimer,
        refused := if n = 0 then x.k.refused && (!lo.getLsbD 1 || x.k.refAt = some x.clk) else x.k.refused,
        kepc := if n = 2 then (if w64 then v else x.k.kepc.extractLsb' 32 32 ++ lo) else x.k.kepc,
        kvbase := if n = 4 then lo &&& 0xFFFFFF00 else x.k.kvbase,
        kien := if n = 5 then lo &&& 0x7F0 else x.k.kien,
        kipend := if n = 6 then (x.k.kipend &&& ~~~lo) ||| justSet else x.k.kipend } }
      if n = 7 ∧ kt = x.clkLo then y.kpend 8 else y := by
  simp only [statKnown, if_true, Bool.or_eq_true, decide_eq_true_eq] at hn
  have ho (k : BitVec 12) (h : n.toNat = k.toNat) : n = k := BitVec.eq_of_toNat_eq h
  have hb : (v.extractLsb' 0 32).getLsbD 1 = v.getLsbD 1 := by simp
  rcases hn with (h | h) | h
  · generalize hk : n.toNat = k at h
    obtain rfl | rfl | rfl | rfl | rfl | rfl | rfl | rfl :
        k = 0 ∨ k = 1 ∨ k = 2 ∨ k = 3 ∨ k = 4 ∨ k = 5 ∨ k = 6 ∨ k = 7 := by omega
    · obtain rfl := ho 0 hk; simp only [hb]; rfl
    · obtain rfl := ho 1 hk; rfl
    · obtain rfl := ho 2 hk; rfl
    · obtain rfl := ho 3 hk; rfl
    · obtain rfl := ho 4 hk; rfl
    · obtain rfl := ho 5 hk; rfl
    · obtain rfl := ho 6 hk; rfl
    · obtain rfl := ho 7 hk
      simp only [true_and]
      rfl
  · obtain rfl := ho 12 h; rfl
  · obtain rfl := ho 13 h; rfl

/-- Settles O23: the value written goes through the group's or the Kennel's own write, register by register. -/
theorem statusWrites : Obligations.StatusWrites := by
  refine ⟨fun w64 num a c s hk h hn hw => ?_, fun w64 num a c s hk ha h hn hw => ?_⟩
  · obtain ⟨g, hg, -⟩ := IssuesUnder_group h
    obtain ⟨g', hg'⟩ := begun_grpOf (c0 := c) (wsrUses w64 a) hg
    have hr := sWsr_runsTo h (by rw [hk]; exact hn) (by rw [hk]; exact hw)
    simp only [Ctx.statWrite, hk, Bool.false_eq_true, if_false, wsrValue_low, mod_mod hg', Group.statWrite_eq hn] at hr
    exact hr
  · have hr := sWsr_runsTo h (by rw [hk]; exact hn) (by rw [hk]; exact hw)
    simp only [Ctx.statWrite, hk, if_true, statKennelWrite_eq hn] at hr
    exact hr

end Sys2Proof.Machine
end

section
/-! PROOFS. What writes and last uses leave of the lanes; targets; budgets under port A's writes put back. -/
namespace Sys2Proof.Machine

/-! ## Lists read at and past their end -/

theorem getD_of_length_le {α : Type} (l : List α) (d : α) {i : Nat} (h : l.length ≤ i) : l.getD i d = d := by
  rw [List.getD_eq_getElem?_getD, List.getElem?_eq_none h]
  rfl

theorem getD_of_lt {α : Type} (l : List α) (d : α) {i : Nat} (h : i < l.length) : l.getD i d = l[i] := by
  rw [List.getD_eq_getElem?_getD, List.getElem?_eq_getElem h]
  rfl

theorem filter_const_true {α : Type} (l : List α) : l.filter (fun _ => true) = l :=
  List.filter_eq_self.2 fun _ _ => rfl

/-! ## Conditionals -/

theorem ite_congr_iff {α : Sort _} {b c : Prop} [Decidable b] [Decidable c] {x y u v : α} (h : b ↔ c) (hx : x = u) (hy : y = v) :
    (if b then x else y) = if c then u else v :=
  ite_congr (propext h) (fun _ => hx) fun _ => hy

/-! ## Lanes -/

/-- `h` has the lanes of `g` but for their registers, and the same lanes are switched off and idle. -/
structure Group.SameThreads (g h : Group) : Prop where
  len : h.lanes.length = g.lanes.length
  lane : ∀ l, ∃ r, h.lane l = { g.lane l with regs := r }
  svmask : h.svmask = g.svmask
  idle : h.idle = g.idle

namespace Group.SameThreads
variable {g h k : Group}

theorem of_lanes (hl : h.lanes = g.lanes) (hs : h.svmask = g.svmask) (hi : h.idle = g.idle) : g.SameThreads h :=
  ⟨by rw [hl], fun l => ⟨(g.lane l).regs, by simp only [Group.lane, hl]⟩, hs, hi⟩

theorem refl (g : Group) : g.SameThreads g := of_lanes rfl rfl rfl

theorem trans (a : g.SameThreads h) (b : h.SameThreads k) : g.SameThreads k :=
  ⟨b.len.trans a.len, fun l => by
    obtain ⟨r, hr⟩ := a.lane l
    obtain ⟨q, hq⟩ := b.lane l
    exact ⟨q, by rw [hq, hr]⟩, b.svmask.trans a.svmask, b.idle.trans a.idle⟩

theorem of_mapLanes {f : Nat → Lane → Lane} (hf : ∀ l x, ∃ r, f l x = { x with regs := r }) (hl : h.lanes = mapLanes f 0 g.lanes)
    (hs : h.svmask = g.svmask) (hi : h.idle = g.idle) : g.SameThreads h := by
  refine ⟨by rw [hl, mapLanes_length], fun l => ?_, hs, hi⟩
  simp only [Group.lane, hl, mapLanes_getD, Nat.zero_add]
  split
  · exact hf l _
  · next hn => exact ⟨(g.lanes.getD l Lane.empty).regs, by rw [getD_of_length_le _ _ (Nat.le_of_not_lt hn)]⟩

theorem touchV (g : Group) (n : Nat) : g.SameThreads (g.touchV n) := by
  unfold Group.touchV; split <;> exact of_lanes rfl rfl rfl

theorem touchS (g : Group) (n : Nat) : g.SameThreads (g.touchS n) := by
  unfold Group.touchS; split <;> exact of_lanes rfl rfl rfl

theorem setS (g : Group) (n : Nat) (x : Word) : g.SameThreads (g.setS n x) :=
  (touchS g n).trans (of_lanes rfl rfl rfl)

theorem setS64 (g : Group) (n : Nat) (x : DWord) : g.SameThreads (g.setS64 n x) := (setS ..).trans (setS ..)

theorem setLanes (g : Group) (m : Mask) (n : Nat) (f : Nat → Word) : g.SameThreads (g.setLanes m n f) := by
  refine (touchV g n).trans (of_mapLanes (fun l x => ?_) rfl rfl rfl)
  dsimp only
  split
  · exact ⟨_, rfl⟩
  · exact ⟨x.regs, rfl⟩

theorem setLanes64 (g : Group) (m : Mask) (n : Nat) (f : Nat → DWord) : g.SameThreads (g.setLanes64 m n f) :=
  (setLanes ..).trans (setLanes ..)

theorem setPred (g : Group) (n : Nat) (m x : Mask) : g.SameThreads (g.setPred n m x) := by
  unfold Group.setPred; split <;> exact of_lanes rfl rfl rfl

theorem modLanes_erase (g : Group) (m : Mask) (n : Nat) :
    g.SameThreads (g.modLanes m (fun y => { y with regs := AMap.erase y.regs n })) := by
  refine of_mapLanes (fun l x => ?_) rfl rfl rfl
  split
  · exact ⟨_, rfl⟩
  · exact ⟨x.regs, rfl⟩

theorem freeV (g : Group) (m : Mask) (n : Nat) : g.SameThreads (g.freeV m n) := by
  unfold Group.freeV
  dsimp only
  split
  · exact modLanes_erase ..
  · exact (modLanes_erase ..).trans (touchV ..)

theorem freeS (g : Group) (n : Nat) : g.SameThreads (g.freeS n) := by
  unfold Group.freeS
  split
  · exact refl g
  · exact (touchS g n).trans (of_lanes rfl rfl rfl)

theorem foldl {α : Type} {f : Group → α → Group} (hf : ∀ (g : Group) a, g.SameThreads (f g a)) (l : List α) (g : Group) :
    g.SameThreads (l.foldl f g) := by
  induction l generalizing g with
  | nil => exact refl g
  | cons a l ih => exact (hf g a).trans (ih _)

theorem endUse (g : Group) (m : Mask) (x : Src) (n : Nat) : g.SameThreads (g.endUse m x n) := by
  unfold Group.endUse
  split
  · split
    · exact foldl (fun g i => freeV ..) _ g
    · exact foldl (fun g i => freeS ..) _ g
    · exact refl g
  · exact refl g

theorem endUses (g : Group) (m : Mask) (xs : List (Src × Nat)) : g.SameThreads (g.endUses m xs) :=
  foldl (fun _ _ => endUse ..) xs g

theorem of_presented (hp : g.Presented h) : g.SameThreads h := by
  obtain ⟨_, _, _, _, _, rfl⟩ := hp
  exact of_lanes rfl rfl rfl

/-! What the same threads have in common. -/

variable (ht : g.SameThreads h)
include ht

theorem thread (l : Nat) : (h.lane l).thread = (g.lane l).thread := by obtain ⟨r, hr⟩ := ht.lane l; rw [hr]
theorem tid (l : Nat) : (h.lane l).tid = (g.lane l).tid := by obtain ⟨r, hr⟩ := ht.lane l; rw [hr]
theorem pc (l : Nat) : (h.lane l).pc = (g.lane l).pc := by obtain ⟨r, hr⟩ := ht.lane l; rw [hr]

theorem running : h.running = g.running := by
  simp only [Group.running, Group.lanesWhere, ht.len, ht.thread]

theorem movers : h.movers = g.movers := by simp only [Group.movers, ht.running, ht.svmask]

end Group.SameThreads

/-- Noting the reads leaves the lanes. -/
theorem noteReads_sameThreads {c : Ctx} {s : State} {g : Group} (us : List Use) (hg : s.grpOf c.ag = some g) :
    ∃ h, (c.noteReads s us).grpOf c.ag = some h ∧ g.SameThreads h := by
  unfold Ctx.noteReads
  dsimp only
  split <;> split
  · exact ⟨_, mod_grpOf _ (mod_grpOf _ hg), .of_lanes rfl rfl rfl⟩
  · exact ⟨_, mod_grpOf _ hg, .of_lanes rfl rfl rfl⟩
  · exact ⟨_, mod_grpOf _ hg, .of_lanes rfl rfl rfl⟩
  · exact ⟨_, hg, .refl g⟩

theorem begun_sameThreads {c0 c : Ctx} {s : State} {g : Group} (us : Ctx → List Use) (hg : s.grpOf c.ag = some g) :
    ∃ h, (c0.begun c s us).grpOf c.ag = some h ∧ g.SameThreads h := by
  obtain ⟨h, hh, hp⟩ := presents_presented (us c0.whole) hg
  obtain ⟨k, hk, ht⟩ := noteReads_sameThreads (us c) hh
  exact ⟨k, hk, (Group.SameThreads.of_presented hp).trans ht⟩

/-! ## Masks of lanes -/

theorem getLsbD_one (l k : Nat) : (Mask.one l).getLsbD k = (decide (k = l) && decide (k < 64)) := by
  simp only [Mask.one, BitVec.getLsbD_ofNat, Nat.testBit_two_pow, Bool.and_comm, eq_comm]

theorem getLsbD_ofLanes (ls : List Nat) (k : Nat) : (Mask.ofLanes ls).getLsbD k = (decide (k ∈ ls) && decide (k < 64)) := by
  have h : ∀ (m : Mask), (ls.foldl (fun m x => m ||| Mask.one x) m).getLsbD k =
      (m.getLsbD k || (decide (k ∈ ls) && decide (k < 64))) := by
    induction ls with
    | nil => intro m; simp
    | cons a r ih =>
      intro m
      rw [List.foldl_cons, ih, BitVec.getLsbD_or, getLsbD_one, Bool.eq_iff_iff]
      simp only [Bool.or_eq_true, Bool.and_eq_true, decide_eq_true_eq, List.mem_cons]
      grind
  simpa [Mask.ofLanes] using h 0

theorem getLsbD_below (n k : Nat) : (Mask.below n).getLsbD k = (decide (k < n) && decide (k < 64)) := by
  simp only [Mask.below, BitVec.getLsbD_ofNat, Nat.testBit_two_pow_sub_one, Bool.and_comm]

theorem getLsbD_running (g : Group) (l : Nat) :
    g.running.getLsbD l = true ↔ l < g.lanes.length ∧ l < 64 ∧ (g.lane l).thread = .running := by
  simp only [Group.running, Group.lanesWhere, getLsbD_ofLanes, upTo, Bool.and_eq_true, decide_eq_true_eq, List.mem_filter,
    List.mem_range, beq_iff_eq]
  grind

/-! ## Targets -/

namespace State.SlotFrame
variable {s t : State} (h : s.SlotFrame t)
include h

theorem fetcher (a : Agent) : t.fetcher a = s.fetcher a := by
  unfold State.fetcher
  cases a with
  | kennel => rfl
  | port n gi b =>
    have hn := h.teams n
    simp only [Agent.team, Option.bind_some]
    cases ht : t.team? n <;> cases hs : s.team? n <;> simp [ht, hs, Team.bare] at hn ⊢
    simp [hn]

theorem target (f : Fetcher) (a : DWord) : t.target f a = s.target f a := by
  obtain ⟨⟨_, _, _, _, _, rfl⟩, -⟩ := h
  rfl

end State.SlotFrame

/-! ## Budgets -/

theorem setIns_comm (l : List Nat) (m n : Nat) : setIns (setIns l m) n = setIns (setIns l n) m := by
  induction l with
  | nil => grind [setIns]
  | cons k r ih => grind [setIns]

theorem foldl_setIns_comm (ds l : List Nat) (m : Nat) : ds.foldl setIns (setIns l m) = setIns (ds.foldl setIns l) m := by
  induction ds generalizing l with
  | nil => rfl
  | cons d ds ih => rw [List.foldl_cons, setIns_comm, ih]; rfl

theorem length_le_setIns (l : List Nat) (m : Nat) : l.length ≤ (setIns l m).length := by
  induction l with
  | nil => simp
  | cons k r ih =>
    simp only [setIns]
    (repeat' split) <;> simp_all

theorem map_fst_set {α : Type} (m : AMap α) (n : Nat) (x : α) : (AMap.set m n x).map Prod.fst = setIns (m.map Prod.fst) n := by
  induction m with
  | nil => rfl
  | cons p r ih =>
    simp only [AMap.set, List.map_cons, setIns]
    (repeat' split) <;> simp_all

/-- One more uniform register binds no fewer. -/
theorem boundS_le_set (g : Group) (n : Nat) (x : Reg) :
    g.boundS.length ≤ ({ g with sregs := AMap.set g.sregs n x } : Group).boundS.length := by
  have key (os : List Op) (l : List Nat) :
      (os.foldl (fun acc o => o.dstS.foldl setIns acc) l).length ≤
        (os.foldl (fun acc o => o.dstS.foldl setIns acc) (setIns l n)).length := by
    induction os generalizing l with
    | nil => exact length_le_setIns ..
    | cons o os ih => rw [List.foldl_cons, List.foldl_cons, foldl_setIns_comm]; exact ih _
  simp only [Group.boundS, map_fst_set]
  exact key ..

theorem boundS_le_kept (l : List (Nat × Option Reg)) (g : Group) :
    g.boundS.length ≤ ({ g with sregs := l.foldl keptReg g.sregs } : Group).boundS.length := by
  induction l generalizing g with
  | nil => exact Nat.le_refl _
  | cons p l ih =>
    obtain ⟨n, _ | r⟩ := p
    · exact ih g
    · exact Nat.le_trans (boundS_le_set g n r) (ih { g with sregs := AMap.set g.sregs n r })

/-- An effect beyond its budget stays so with port A's writes put back over it (R118). -/
theorem overBudget_restore {b g : Group} (h : Half) (x : Option Nat) (ho : overBudget b g = true) :
    overBudget b (h.restore x g) = true := by
  obtain ⟨_, _, _, he⟩ := h.restore_eq x g
  have hS : g.boundS.length ≤ (h.restore x g).boundS.length := by rw [he]; exact boundS_le_kept h.kept g
  have hV : (h.restore x g).boundV = g.boundV := by rw [he]; rfl
  have hr : (h.restore x g).kennel = g.kennel ∧ (h.restore x g).vbud = g.vbud ∧ (h.restore x g).sbud = g.sbud := by
    rw [he]; exact ⟨rfl, rfl, rfl⟩
  obtain ⟨hk, hv, hs⟩ := hr
  simp only [overBudget, hk, hv, hs, hV, Bool.and_eq_true, Bool.or_eq_true, decide_eq_true_eq] at ho ⊢
  exact ⟨ho.1, by omega⟩

theorem overBudget_merged {c : Ctx} {s : State} (ho : overBudget c.g (c.now s) = true) : overBudget c.g (c.merged s) = true := by
  unfold Ctx.merged
  split
  · exact overBudget_restore _ _ ho
  · exact ho

end Sys2Proof.Machine
end

section
/-! PROOFS. BR, BRX, CALL and RET (R136 to R140, R283). -/
namespace Sys2Proof.Machine

/-- Eight bytes a step, as a product of words or of integers. -/
theorem relative_eq (c : Ctx) (off : Word) : c.relative off = c.at off := by
  have h : BitVec.ofInt 64 (8 * off.toInt) = 8#64 * off.signExtend 64 := by
    rw [BitVec.ofInt_mul, ← BitVec.toInt_signExtend_of_le (v := 64) (x := off) (by decide), BitVec.ofInt_toInt]
    rfl
  rw [Ctx.relative, Ctx.at, h]

/-! ## What the branch does -/

/-- The lanes of ACTIVE whose target fails, as a mask. -/
theorem getLsbD_badTargets (c : Ctx) (s : State) (tgt : Nat → Option DWord) (l : Nat) :
    (c.badTargets s tgt).getLsbD l = true ↔
      l < c.g.width ∧ c.active.getLsbD l = true ∧ ∃ a, tgt l = some a ∧ s.target (s.fetcher c.ag) a = false := by
  simp only [Ctx.badTargets, getLsbD_ofLanes, Bool.and_eq_true, decide_eq_true_eq, List.mem_filter, mem_lanes]
  cases ht : tgt l with
  | none => simp
  | some a =>
    simp only [Bool.not_eq_true', Option.some.injEq, exists_eq_left']
    exact ⟨fun ⟨⟨⟨hw, _, ha⟩, hb⟩, _⟩ => ⟨hw, ha, hb⟩, fun ⟨hw, ha, hb⟩ =>
      ⟨⟨⟨hw, BitVec.lt_of_getLsbD ha, ha⟩, hb⟩, BitVec.lt_of_getLsbD ha⟩⟩

theorem mask_eq_zero_iff (m : Mask) : m = 0 ↔ ∀ l, m.getLsbD l = false := by
  constructor
  · rintro rfl l
    simp
  · intro h
    exact BitVec.eq_of_getLsbD_eq fun i _ => by simpa using h i

/-- Limb lanes that are not switched off and would stand at different places. -/
theorem diverges_iff (c : Ctx) (tgt : Nat → Option DWord) :
    c.diverges tgt = true ↔ ∃ l m, (l < 64 ∧ l < c.g.limbs ∧ l < c.g.width ∧ c.g.svmask.getLsbD l = false) ∧
      (m < 64 ∧ m < c.g.limbs ∧ m < c.g.width ∧ c.g.svmask.getLsbD m = false) ∧ c.newPc tgt l ≠ c.newPc tgt m := by
  have hm (l : Nat) : l ∈ Mask.lanes (Mask.below c.g.limbs &&& ~~~c.g.svmask) c.g.width ↔
      l < 64 ∧ l < c.g.limbs ∧ l < c.g.width ∧ c.g.svmask.getLsbD l = false := by
    rw [mem_lanes]
    simp only [BitVec.getLsbD_and, BitVec.getLsbD_not, getLsbD_below, Bool.and_eq_true, decide_eq_true_eq, Bool.not_eq_true']
    grind
  simp only [← hm]
  unfold Ctx.diverges
  generalize Mask.lanes (Mask.below c.g.limbs &&& ~~~c.g.svmask) c.g.width = ls
  cases ls with
  | nil => simp
  | cons a r =>
    simp only [List.any_eq_true, decide_eq_true_eq]
    constructor
    · rintro ⟨x, hx, hne⟩
      exact ⟨x, a, List.mem_cons_of_mem _ hx, List.mem_cons_self .., hne⟩
    · rintro ⟨l, m, hl, hm, hne⟩
      have key (x : Nat) (hx : x ∈ a :: r) (hn : c.newPc tgt x ≠ c.newPc tgt a) : ∃ y ∈ r, c.newPc tgt y ≠ c.newPc tgt a := by
        rcases List.mem_cons.1 hx with rfl | hx
        · exact absurd rfl hn
        · exact ⟨x, hx, hn⟩
      by_cases h : c.newPc tgt l = c.newPc tgt a
      · exact key m hm fun h' => hne (h.trans h'.symm)
      · exact key l hl h

/-- Moving program counters changes no binding. -/
theorem overBudget_setPcs (c : Ctx) (b g : Group) (pc : Nat → DWord) (tgt : Nat → Option DWord) :
    overBudget b (c.setPcs pc (c.swerve tgt g)) = overBudget b g := by
  have hn (f : Nat → Lane → Lane) (hf : ∀ l x, (f l x).names = x.names) (xs : List Lane) : ∀ n,
      (mapLanes f n xs).map Lane.names = xs.map Lane.names := by
    induction xs with
    | nil => intro n; rfl
    | cons x xs ih => intro n; simp [mapLanes, ih, hf]
  have hs : (c.setPcs pc (c.swerve tgt g)).SameBindings g :=
    ⟨rfl, rfl, rfl, hn _ (fun l x => by split <;> rfl) g.lanes 0, rfl, rfl, rfl⟩
  exact hs.overBudget b

/-- Where each lane stands once the branch has moved the lanes of its clause. -/
theorem setPcs_pc (c : Ctx) (pc : Nat → DWord) (g : Group) (l : Nat) :
    ((c.setPcs pc g).lane l).pc = if (c.cl.lanes &&& g.movers).getLsbD l then pc l else (g.lane l).pc := by
  simp only [Ctx.setPcs, Group.lane, mapLanes_getD, Nat.zero_add]
  by_cases hl : l < g.lanes.length
  · simp only [hl, if_true]
    split <;> rfl
  · have hm : (c.cl.lanes &&& g.movers).getLsbD l = false := by
      have : ¬ g.running.getLsbD l = true := fun h => hl ((getLsbD_running g l).1 h).1
      simp [Group.movers, this]
    rw [if_neg hl, hm, getD_of_length_le _ _ (Nat.le_of_not_lt hl)]
    rfl

/-! ## Completing by a rule -/

/-- The rule's own `pc` is the model's. -/
theorem BranchRule.pc_eq (b : BranchRule) (c : Ctx) (s : State) : b.pc c s = c.newPc (b.target c s) := rfl

theorem BranchRule.not_together_iff {b : BranchRule} {c : Ctx} {s : State} :
    ¬ b.together c s ↔ c.diverges (b.target c s) = true := by
  rw [diverges_iff]
  simp only [BranchRule.together, Classical.not_forall, b.pc_eq]
  constructor
  · rintro ⟨l, m, h1, h2, h3, h4, h5, h6, h7, h8, h9⟩
    exact ⟨l, m, ⟨h1, h3, h5, h7⟩, ⟨h2, h4, h6, h8⟩, h9⟩
  · rintro ⟨l, m, ⟨h1, h3, h5, h7⟩, ⟨h2, h4, h6, h8⟩, h9⟩
    exact ⟨l, m, h1, h2, h3, h4, h5, h6, h7, h8, h9⟩

theorem diverges_limbs {c : Ctx} {tgt : Nat → Option DWord} (h : c.diverges tgt = true) : c.g.limbs ≠ 0 := by
  obtain ⟨l, _, ⟨-, h2, -⟩, -⟩ := (diverges_iff c tgt).1 h
  omega

/-- An instruction whose meaning is the branch of its rule. -/
def BranchRule.Means (b : BranchRule) (i : Instr) (c0 c : Ctx) (s : State) : Prop :=
  exec i s = c.finish s (c.branch (c0.begun c s b.uses) b.ends (b.link c) (b.target c s))

theorem BranchRule.bad_iff (b : BranchRule) (c0 c : Ctx) (s : State) (l : Nat) :
    b.bad c s l ↔ (c.badTargets (c0.begun c s b.uses) (b.target c s)).getLsbD l = true := by
  have hf := State.SlotFrame.begun c0 c s b.uses
  simp only [getLsbD_badTargets, hf.fetcher, hf.target]
  rfl

variable {b : BranchRule} {i : Instr} {c0 c : Ctx} {s : State}

theorem BranchRule.Means.divBound (h : b.Means i c0 c s) (ht : ¬ b.together c s) :
    TrapsTo i c s .divBound (Mask.below c.g.limbs) 0 := by
  have hd := BranchRule.not_together_iff.1 ht
  have hl := diverges_limbs hd
  simp only [BranchRule.Means, Ctx.branch, hd, hl, ne_eq, not_false_eq_true, decide_true, Bool.and_true, if_true] at h
  exact h

theorem BranchRule.Means.badTarget (h : b.Means i c0 c s) (ht : b.together c s)
    (ho : overBudget c.g (b.link c ((c.now (c0.begun c s b.uses)).endUses c.active b.ends)) = false) (hb : ∃ l, b.bad c s l) :
    TrapsTo i c s .badTarget (c.badTargets (c0.begun c s b.uses) (b.target c s)) 0 := by
  have hd : c.diverges (b.target c s) = false := by simpa using mt BranchRule.not_together_iff.2 (not_not_intro ht)
  have hm : c.badTargets (c0.begun c s b.uses) (b.target c s) ≠ 0 := by
    obtain ⟨l, hl⟩ := hb
    intro h0
    simpa [h0] using (b.bad_iff c0 c s l).1 hl
  simp only [BranchRule.Means, Ctx.branch, hd, ho, hm, Bool.and_false, Bool.false_eq_true, if_false, ne_eq, not_false_eq_true,
    if_true] at h
  exact h

/-- A branch with good targets jumps, or, where its link is beyond the budget, has not taken place. -/
theorem BranchRule.Means.jumps {gb : Group} (h : b.Means i c0 c s) (hg : (c0.begun c s b.uses).grpOf c.ag = some gb)
    (ht : b.together c s) (hb : ∀ l, ¬ b.bad c s l) : JumpsTo i c s (b.after c0 c s) := by
  have hd : c.diverges (b.target c s) = false := by simpa using mt BranchRule.not_together_iff.2 (not_not_intro ht)
  have hm : c.badTargets (c0.begun c s b.uses) (b.target c s) = 0 := by
    rw [mask_eq_zero_iff]
    intro l
    simpa using mt (b.bad_iff c0 c s l).2 (hb l)
  cases ho : overBudget c.g (b.link c ((c.now (c0.begun c s b.uses)).endUses c.active b.ends)) with
  | false =>
    simp only [BranchRule.Means, Ctx.branch, hd, ho, hm, Bool.and_false, Bool.false_eq_true, if_false, ne_eq, not_true_eq_false] at h
    exact jumpsTo_of_jump h
  | true =>
    have hs : c.settle (b.after c0 c s) = .error (some .regBudget) := by
      have : overBudget c.g (c.merged (b.after c0 c s)) = true := by
        apply overBudget_merged
        rw [BranchRule.after, mod_now _ hg, overBudget_setPcs]
        simpa [Ctx.now, hg] using ho
      simp [Ctx.settle, this]
    simp only [BranchRule.Means, Ctx.branch, hd, ho, Bool.and_false, Bool.false_eq_true, if_false, if_true] at h
    refine ⟨fun ⟨s2, h2⟩ => ?_, fun e he => ?_, fun he => ?_⟩
    · rw [hs] at h2; cases h2
    · rw [hs] at he; cases he; exact h
    · rw [hs] at he; cases he

/-- Links and last uses leave the lanes. -/
def BranchRule.Keeps (b : BranchRule) : Prop := ∀ (c : Ctx) (g : Group), g.SameThreads (b.link c g)

theorem BranchRule.after_pc (hk : b.Keeps) {g : Group} (hg : s.grpOf c.ag = some g) :
    ∃ h, (b.after c0 c s).grpOf c.ag = some h ∧ ∀ l, (h.lane l).pc =
      if (c.cl.lanes &&& g.movers).getLsbD l then b.pc c s l else (g.lane l).pc := by
  obtain ⟨gb, hgb, hs⟩ := begun_sameThreads (c0 := c0) b.uses hg
  refine ⟨_, mod_grpOf _ hgb, fun l => ?_⟩
  have hs' := (hs.trans (.endUses gb c.active b.ends)).trans (hk c _)
  have hs'' := hs'.trans (Group.SameThreads.of_lanes (h := c.swerve (b.target c s) (b.link c (gb.endUses c.active b.ends))) rfl rfl rfl)
  rw [setPcs_pc, hs''.movers, hs''.pc]

theorem branchRule_keeps {i : Instr} {b : BranchRule} (h : branchRule i = some b) : b.Keeps := by
  unfold branchRule at h
  split at h
  case h_5 gd link off =>
    cases h
    intro c g
    cases link with
    | v n => exact .setLanes64 ..
    | s n => exact .setS64 ..
    | p | special | nat | neg | fp => exact .refl g
  case h_6 => cases h
  all_goals
    cases h
    exact fun c g => .refl g

/-! ## The five branches -/

/-- A register source of a branch on a core that has no vectors. -/
theorem noVectorOnKennel_eq {o : Opnd} {c : Ctx} (h : c.g.kennel = true → ∀ n, o ≠ .v n) : noVectorOnKennel o c = true := by
  cases hk : c.g.kennel with
  | false => simp [noVectorOnKennel, hk]
  | true => cases o <;> simp_all [noVectorOnKennel, Opnd.isV]

/-- BR with a condition: the two ways to compare the source's being 0 with NZ. -/
theorem cond_target (w : Word) (z : Bool) (a : DWord) :
    (if (w = 0) = z then some a else none) = if (z = true ↔ w = 0) then some a else none := by
  by_cases h : w = 0 <;> cases z <;> simp [h]

/-- Each branch means its rule: the last uses, the link and the targets are what its meaning passes on. -/
theorem branchRule_means {i : Instr} {b : BranchRule} {c0 c : Ctx} {s : State} (h : branchRule i = some b)
    (hi : c0.IssuesUnder c s .both (.lanes b.guard) b.uses)
    (hk : c.g.kennel = true → ∀ o, b.opnd = some o → ∀ n, o ≠ .v n) : b.Means i c0 c s := by
  have hg : c0.g = c.g := by rw [hi.narrowed]
  unfold branchRule at h
  split at h
  case h_1 gd off =>
    cases h
    unfold BranchRule.Means
    simp only [exec, execBr, ← relative_eq]
    exact issue_body (sp := { core := .both, guard := .lanes gd }) hi rfl rfl rfl rfl
  case h_2 gd z x off =>
    cases h
    have he : noVectorOnKennel x.op c0 = true := noVectorOnKennel_eq fun h => hk (hg ▸ h) _ rfl
    unfold BranchRule.Means
    simp only [exec, execBr, ← relative_eq]
    rw [issue_body (sp := { core := .both, guard := .lanes gd, encOk := noVectorOnKennel x.op, uses := _ }) hi he rfl rfl rfl]
    simp only [rd_begun, cond_target]
    rfl
  case h_3 gd a =>
    cases h
    have he : noVectorOnKennel a.op c0 = true := noVectorOnKennel_eq fun h => hk (hg ▸ h) _ rfl
    unfold BranchRule.Means
    simp only [exec, execBrx, branchTo]
    rw [issue_body (sp := { core := .both, guard := .lanes gd, encOk := noVectorOnKennel a.op, uses := _ }) hi he rfl rfl rfl]
    simp only [rd64_begun]
    rfl
  case h_4 gd a =>
    cases h
    have he : noVectorOnKennel a.op c0 = true := noVectorOnKennel_eq fun h => hk (hg ▸ h) _ rfl
    unfold BranchRule.Means
    simp only [exec, execRet, branchTo]
    rw [issue_body (sp := { core := .both, guard := .lanes gd, encOk := noVectorOnKennel a.op, uses := _ }) hi he rfl rfl rfl]
    simp only [rd64_begun]
    rfl
  case h_5 gd link off =>
    cases h
    have he : noVectorOnKennel link c0 = true := noVectorOnKennel_eq fun h => hk (hg ▸ h) _ rfl
    unfold BranchRule.Means
    simp only [exec, execCall, ← relative_eq]
    exact issue_body (sp := { core := .both, guard := .lanes gd, encOk := noVectorOnKennel link, uses := _ }) hi he rfl rfl rfl
  case h_6 => cases h

/-- Settles O24: each branch means its rule, whose three outcomes are those of `Ctx.branch`. -/
theorem branches : Obligations.Branches := by
  intro i b c0 c s hb hi hk
  have hm := branchRule_means hb hi hk
  obtain ⟨g, hg, hn⟩ := IssuesUnder_group hi
  obtain ⟨gb, hgb⟩ := begun_grpOf (c0 := c0) b.uses hg
  refine ⟨fun ht hbad => ⟨hm.jumps hgb ht hbad, ?_⟩, hm.divBound, fun ht ho hbad =>
    ⟨_, hm.badTarget ht ho hbad, fun l _ => (b.bad_iff c0 c s l).symm⟩⟩
  rw [hn]
  exact BranchRule.after_pc (branchRule_keeps hb) hg

end Sys2Proof.Machine
end

section
/-! PROOFS. Last uses and ends of threads, lane by lane. -/
namespace Sys2Proof.Machine

theorem AMap.erase_eq_filter {α : Type} (m : AMap α) (n : Nat) : AMap.erase m n = m.filter (fun p => p.1 ≠ n) := by
  induction m with
  | nil => rfl
  | cons p r ih =>
    by_cases h : p.1 = n
    · rw [List.filter_cons_of_neg (by simpa using h), ← ih]
      simp [AMap.erase, h]
    · rw [List.filter_cons_of_pos (by simpa using h), ← ih]
      simp [AMap.erase, h]

theorem AMap.foldl_erase {α : Type} (ns : List Nat) (m : AMap α) : ns.foldl AMap.erase m = m.filter (fun p => p.1 ∉ ns) := by
  induction ns generalizing m with
  | nil => exact (List.filter_eq_self.2 fun _ _ => rfl).symm
  | cons n ns ih =>
    rw [List.foldl_cons, ih, AMap.erase_eq_filter, List.filter_filter]
    exact List.filter_congr fun p _ => by simp [Bool.and_comm]

namespace Group

theorem lane_freeV (g : Group) (m : Mask) (n k : Nat) : (g.freeV m n).lane k =
    if m.getLsbD k = true ∧ k < g.lanes.length then { g.lane k with regs := AMap.erase (g.lane k).regs n } else g.lane k := by
  rw [← lane_modLanes g m (fun y => { y with regs := AMap.erase y.regs n }) k]
  simp only [Group.lane, freeV_lanes]

/-- Freeing several names erases them in the lanes of the mask. -/
theorem lane_foldl_freeV (m : Mask) (k : Nat) (ns : List Nat) (g : Group) : (ns.foldl (fun g n => g.freeV m n) g).lane k =
    if m.getLsbD k = true ∧ k < g.lanes.length then { g.lane k with regs := ns.foldl AMap.erase (g.lane k).regs }
    else g.lane k := by
  induction ns generalizing g with
  | nil => simp
  | cons n ns ih =>
    rw [List.foldl_cons, ih, lane_freeV, (SameThreads.freeV g m n).len]
    split <;> rfl

theorem mem_setIns {l : List Nat} {m n : Nat} : n ∈ setIns l m ↔ n ∈ l ∨ n = m := by
  induction l with
  | nil => simp [setIns]
  | cons k r ih => grind [setIns]

theorem mem_foldl_setIns {ds l : List Nat} {n : Nat} : n ∈ ds.foldl setIns l ↔ n ∈ l ∨ n ∈ ds := by
  induction ds generalizing l with
  | nil => simp
  | cons d ds ih => rw [List.foldl_cons, ih, mem_setIns, List.mem_cons, or_assoc]

/-- Every register of a lane is bound. -/
theorem mem_boundV {g : Group} {l n : Nat} {r : Reg} (h : (n, r) ∈ (g.lane l).regs) : n ∈ g.boundV := by
  have hlive (xs : List Lane) (acc : List Nat) (hx : n ∈ acc ∨ ∃ x ∈ xs, n ∈ x.regs.map Prod.fst) :
      n ∈ xs.foldl (fun acc x => x.regs.foldl (fun a p => setIns a p.1) acc) acc := by
    induction xs generalizing acc with
    | nil => simpa using hx
    | cons x xs ih =>
      refine ih _ ?_
      dsimp only
      rw [← List.foldl_map (f := Prod.fst) (g := setIns), mem_foldl_setIns]
      rcases hx with hx | ⟨y, hy, hn⟩
      · exact .inl (.inl hx)
      · rcases List.mem_cons.1 hy with rfl | hy
        · exact .inl (.inr hn)
        · exact .inr ⟨y, hy, hn⟩
  have hops (os : List Op) (acc : List Nat) (hx : n ∈ acc) : n ∈ os.foldl (fun acc o => o.dstV.foldl setIns acc) acc := by
    induction os generalizing acc with
    | nil => exact hx
    | cons o os ih => exact ih _ (mem_foldl_setIns.2 (.inl hx))
  refine hops _ _ (hlive _ _ (.inr ⟨g.lane l, ?_, List.mem_map.2 ⟨_, h, rfl⟩⟩))
  have hl : l < g.lanes.length := by
    refine Classical.byContradiction fun hn => ?_
    rw [Group.lane, getD_of_length_le _ _ (Nat.le_of_not_lt hn)] at h
    simp [Lane.empty] at h
  rw [Group.lane, getD_of_lt _ _ hl]
  exact List.getElem_mem hl

/-- Freed lanes have no register; the others stand. -/
theorem lane_freeLanes (g : Group) (m : Mask) (k : Nat) : (g.freeLanes m).lane k =
    if m.getLsbD k = true ∧ k < g.lanes.length then { g.lane k with regs := [] } else g.lane k := by
  have h : g.boundV.foldl AMap.erase (g.lane k).regs = [] := by
    rw [AMap.foldl_erase, List.filter_eq_nil_iff]
    exact fun p hp => by simpa using mem_boundV hp
  rw [freeLanes, lane_foldl_freeV, h]

theorem freeLanes_sameThreads (g : Group) (m : Mask) : g.SameThreads (g.freeLanes m) :=
  SameThreads.foldl (fun _ _ => SameThreads.freeV ..) _ g

theorem freeV_live (g : Group) (m : Mask) (n : Nat) : (g.freeV m n).live = g.live ∧ (g.freeV m n).kennel = g.kennel := by
  have ht (x : Group) : (x.touchV n).live = x.live ∧ (x.touchV n).kennel = x.kennel := by
    unfold Group.touchV; split <;> exact ⟨rfl, rfl⟩
  unfold Group.freeV
  dsimp only
  split
  · exact ⟨rfl, rfl⟩
  · exact ht _

@[simp] theorem freeLanes_live (g : Group) (m : Mask) : (g.freeLanes m).live = g.live :=
  foldl_keeps Group.live (fun g n => (freeV_live g m n).1) _ _

@[simp] theorem freeLanes_kennel (g : Group) (m : Mask) : (g.freeLanes m).kennel = g.kennel :=
  foldl_keeps Group.kennel (fun g n => (freeV_live g m n).2) _ _

@[simp] theorem freeLanes_sregs (g : Group) (m : Mask) : (g.freeLanes m).sregs = g.sregs :=
  foldl_keeps Group.sregs (fun g n => freeV_sregs g m n) _ _

/-- Freeing every name leaves no uniform register. -/
theorem foldl_freeS_sregs {α : Type} (ns : List α) (f : α → Nat) (g : Group) (hk : g.kennel = false) :
    (ns.foldl (fun g p => g.freeS (f p)) g).sregs = (ns.map f).foldl AMap.erase g.sregs := by
  induction ns generalizing g with
  | nil => rfl
  | cons n ns ih =>
    have h : (g.freeS (f n)).sregs = AMap.erase g.sregs (f n) := by simp [Group.freeS, hk]
    have hk' : (g.freeS (f n)).kennel = false := by
      have ht : (g.touchS (f n)).kennel = g.kennel := by unfold Group.touchS; split <;> rfl
      simp [Group.freeS, hk, ht]
    rw [List.foldl_cons, ih _ hk', h]
    rfl

/-! ## The end of threads (R42, R141) -/

/-- What a group keeps where a lane that is not switched off still runs. -/
theorem dissolve_of_stays {g : Group} {k : Nat} (h : g.running.getLsbD k = true) (hs : g.svmask.getLsbD k = false) (now : Nat) :
    g.dissolve now = g := by
  unfold Group.dissolve
  rw [if_pos]
  intro h0
  have := (mask_eq_zero_iff _).1 h0 k
  have hk : k < 64 := BitVec.lt_of_getLsbD h
  simp [h, hs, hk, -BitVec.getLsbD_eq_getElem] at this

/-- A group of which no lane remains: every running lane has ended. -/
theorem dissolve_of_none {g : Group} (h : ∀ k, g.running.getLsbD k = true → g.svmask.getLsbD k = true) (now : Nat) :
    g.dissolve now =
      let g1 := (g.freeLanes g.running).modLanes g.running (fun x =>
        { x with thread := .exited, resume := none, park := none, filing := none })
      { g1.sregs.foldl (fun g p => g.freeS p.1) g1 with
        live := false, portA := none, portB := none, quietAt := now, turnEnd := if g.inTurn then now + 1 else g.turnEnd } := by
  unfold Group.dissolve
  rw [if_neg]
  rw [ne_eq, Classical.not_not, mask_eq_zero_iff]
  intro k
  cases hr : g.running.getLsbD k with
  | false => simp [hr]
  | true => simp [h k hr]

end Group

/-! ## The group once an instruction has begun -/

/-- `h` is `g` with what issuing and reading note: besides what leaving the port notes, GSTAT and the CLKHI shadow. -/
def Group.Noted (g h : Group) : Prop :=
  ∃ x y z w v p q, h = { g with colA := x, colB := y, flying := z, fpflags := w, fresh := v, gstat := p, clkhi := q }

theorem begun_noted {c0 c : Ctx} {s : State} {g : Group} (us : Ctx → List Use) (hg : s.grpOf c.ag = some g) :
    ∃ h, (c0.begun c s us).grpOf c.ag = some h ∧ g.Noted h := by
  obtain ⟨h, hh, _, _, _, _, _, rfl⟩ := presents_presented (us c0.whole) hg
  simp only [Ctx.begun, Ctx.noteReads]
  split <;> split
  · exact ⟨_, mod_grpOf _ (mod_grpOf _ hh), _, _, _, _, _, _, _, rfl⟩
  · exact ⟨_, mod_grpOf _ hh, _, _, _, _, _, _, _, rfl⟩
  · exact ⟨_, mod_grpOf _ hh, _, _, _, _, _, _, _, rfl⟩
  · exact ⟨_, hh, _, _, _, _, _, _, _, rfl⟩

end Sys2Proof.Machine
end

section
/-! PROOFS. NOP, YIELD, EXIT and REFORM (R42, R141, R143, R144, R284). -/
namespace Sys2Proof.Machine

/-! ## EXIT -/

/-- A thread that has ended. -/
def Lane.ended (x : Lane) : Lane := { x with regs := [], thread := .exited, resume := none, park := none }

/-- The group once the lanes of `m` have ended, before it is seen whether any other remains. -/
def Group.endLanes (g : Group) (m : Mask) : Group :=
  (({ g with ops := g.ops.map (fun o => { o with gone := o.gone ||| m }) } : Group).freeLanes m).modLanes m
    (fun x => { x with thread := .exited, resume := none, park := none })

theorem Group.endThreads_eq (g : Group) (m : Mask) (now : Nat) : g.endThreads m now = (g.endLanes m).dissolve now := rfl

namespace Group
variable (g : Group) (m : Mask)

theorem endLanes_length : (g.endLanes m).lanes.length = g.lanes.length := by
  simp only [endLanes, modLanes_lanes, mapLanes_length, (freeLanes_sameThreads _ m).len]

theorem lane_endLanes (k : Nat) : (g.endLanes m).lane k =
    if m.getLsbD k = true ∧ k < g.lanes.length then (g.lane k).ended else g.lane k := by
  simp only [endLanes, lane_modLanes, lane_freeLanes, (freeLanes_sameThreads _ m).len]
  split <;> rfl

theorem endLanes_sregs : (g.endLanes m).sregs = g.sregs := by simp [endLanes, modLanes]

theorem endLanes_live : (g.endLanes m).live = g.live := by simp [endLanes, modLanes]

theorem endLanes_kennel : (g.endLanes m).kennel = g.kennel := by simp [endLanes, modLanes]

theorem endLanes_svmask : (g.endLanes m).svmask = g.svmask := by
  rw [← (freeLanes_sameThreads { g with ops := g.ops.map (fun o => { o with gone := o.gone ||| m }) } m).svmask]
  rfl

theorem running_endLanes (k : Nat) :
    (g.endLanes m).running.getLsbD k = true ↔ g.running.getLsbD k = true ∧ m.getLsbD k = false := by
  simp only [getLsbD_running, endLanes_length, lane_endLanes]
  by_cases hk : k < g.lanes.length
  · cases hm : m.getLsbD k <;> simp [hk, Lane.ended]
  · simp [hk]

end Group

/-- What a dissolved group leaves of its lanes. -/
theorem Group.lane_dissolve_of_none {g : Group} (h : ∀ k, g.running.getLsbD k = true → g.svmask.getLsbD k = true) (now k : Nat) :
    (g.running.getLsbD k = true → ((g.dissolve now).lane k).thread = .exited ∧ ((g.dissolve now).lane k).regs = []) ∧
    (g.running.getLsbD k = false → (g.dissolve now).lane k = g.lane k) := by
  have hS (ns : List (Nat × Reg)) (x : Group) : (ns.foldl (fun g p => g.freeS p.1) x).lanes = x.lanes :=
    foldl_keeps Group.lanes (fun x p => by unfold Group.freeS; split <;> simp) _ _
  have hl : (g.dissolve now).lane k = ((g.freeLanes g.running).modLanes g.running (fun x =>
      { x with thread := .exited, resume := none, park := none, filing := none })).lane k := by
    rw [dissolve_of_none h]
    simp only [Group.lane, hS]
  rw [hl, lane_modLanes, lane_freeLanes, (freeLanes_sameThreads ..).len]
  refine ⟨fun hr => ?_, fun hr => by simp [hr]⟩
  have := ((getLsbD_running g k).1 hr).1
  simp [hr, this]

theorem Group.dissolve_fields {g : Group} (h : ∀ k, g.running.getLsbD k = true → g.svmask.getLsbD k = true)
    (hk : g.kennel = false) (now : Nat) :
    (g.dissolve now).live = false ∧ (g.dissolve now).sregs = [] ∧ (g.dissolve now).quietAt = now := by
  rw [dissolve_of_none h]
  refine ⟨rfl, ?_, rfl⟩
  dsimp only
  rw [foldl_freeS_sregs _ _ _ (by simp [modLanes, hk])]
  rw [AMap.foldl_erase, List.filter_eq_nil_iff]
  intro p hp
  simp only [decide_eq_true_eq, Classical.not_not]
  exact List.mem_map.2 ⟨p, hp, rfl⟩

/-- EXIT's effect on its group, lane by lane. -/
theorem endThreads_spec {g : Group} {m : Mask} (now : Nat) (hm : ∀ l, m.getLsbD l = true → l < g.lanes.length) :
    let h := g.endThreads m now
    let stays (l : Nat) : Prop := g.running.getLsbD l = true ∧ g.svmask.getLsbD l = false ∧ m.getLsbD l = false
    (∀ l, m.getLsbD l = true → (h.lane l).thread = .exited ∧ (h.lane l).regs = []) ∧
    (∀ l, m.getLsbD l = false → (g.running.getLsbD l = false ∨ ∃ k, stays k) → h.lane l = g.lane l) ∧
    ((∀ k, ¬stays k) → g.kennel = false → h.live = false ∧ h.sregs = [] ∧ h.quietAt = now ∧
      ∀ l, g.running.getLsbD l = true → (h.lane l).thread = .exited ∧ (h.lane l).regs = []) ∧
    ((∃ k, stays k) → h.live = g.live ∧ h.sregs = g.sregs) := by
  intro h stays
  have hh : h = (g.endLanes m).dissolve now := rfl
  have hon (l : Nat) (hl : m.getLsbD l = true) : (g.endLanes m).lane l = (g.lane l).ended := by
    rw [Group.lane_endLanes, if_pos ⟨hl, hm l hl⟩]
  have hoff (l : Nat) (hl : m.getLsbD l = false) : (g.endLanes m).lane l = g.lane l := by
    rw [Group.lane_endLanes, if_neg (by simp [hl])]
  have hnr (l : Nat) (hl : m.getLsbD l = true) : (g.endLanes m).running.getLsbD l = false := by
    rw [← Bool.not_eq_true, Group.running_endLanes]
    simp [hl]
  by_cases hs : ∃ k, stays k
  · have hd : h = g.endLanes m := by
      obtain ⟨k, hr, hv, hk⟩ := hs
      rw [hh]
      exact Group.dissolve_of_stays ((Group.running_endLanes ..).2 ⟨hr, hk⟩) (by rw [Group.endLanes_svmask]; exact hv) now
    rw [hd]
    refine ⟨fun l hl => by rw [hon l hl]; exact ⟨rfl, rfl⟩, fun l hl _ => hoff l hl, fun hn => absurd hs (by simpa using hn),
      fun _ => ⟨Group.endLanes_live .., Group.endLanes_sregs ..⟩⟩
  · have hn : ∀ k, (g.endLanes m).running.getLsbD k = true → (g.endLanes m).svmask.getLsbD k = true := by
      intro k hr
      obtain ⟨hr, hk⟩ := (Group.running_endLanes ..).1 hr
      rw [Group.endLanes_svmask]
      refine Classical.byContradiction fun hv => ?_
      exact hs ⟨k, hr, by simpa using hv, hk⟩
    have hl := Group.lane_dissolve_of_none hn now
    refine ⟨fun l hlm => ?_, fun l hlm ho => ?_, fun _ hk => ?_, fun h => absurd h hs⟩
    · rw [hh, (hl l).2 (hnr l hlm), hon l hlm]
      exact ⟨rfl, rfl⟩
    · have hr : g.running.getLsbD l = false := ho.resolve_right hs
      have : (g.endLanes m).running.getLsbD l = false := by
        rw [← Bool.not_eq_true, Group.running_endLanes]
        simp [hr]
      rw [hh, (hl l).2 this, hoff l hlm]
    · obtain ⟨h1, h2, h3⟩ := Group.dissolve_fields hn (by rw [Group.endLanes_kennel]; exact hk) now
      refine ⟨h1, h2, h3, fun l hr => ?_⟩
      cases hlm : m.getLsbD l with
      | true =>
        rw [hh, (hl l).2 (hnr l hlm), hon l hlm]
        exact ⟨rfl, rfl⟩
      | false => exact (hl l).1 ((Group.running_endLanes ..).2 ⟨hr, hlm⟩)

/-! ## REFORM -/

/-- Last uses in `m` leave the other lanes. -/
theorem lane_endUses_of_not {m : Mask} {l : Nat} (hl : m.getLsbD l = false) (xs : List (Src × Nat)) (g : Group) :
    (g.endUses m xs).lane l = g.lane l := by
  refine foldl_keeps (fun g : Group => g.lane l) (fun g x => ?_) xs g
  unfold Group.endUse
  split
  · split
    · exact foldl_keeps (fun g : Group => g.lane l) (fun g n => by rw [Group.lane_freeV, if_neg (by simp [hl])]) _ _
    · exact foldl_keeps (fun g : Group => g.lane l) (fun g n => by unfold Group.freeS; split <;> simp [Group.lane]) _ _
    · rfl
  · rfl

theorem lane_awaitFiling (c : Ctx) (now : Nat) (key : Nat → DWord) (g : Group) (l : Nat) :
    (c.awaitFiling now key g).lane l = if c.active.getLsbD l = true ∧ l < g.lanes.length then
      { g.lane l with resume := some { c.cl with lanes := 0 }, filing := some (key l), parkedAt := now } else g.lane l := by
  simp only [Ctx.awaitFiling, Group.lane, mapLanes_getD, Nat.zero_add]
  by_cases hl : l < g.lanes.length
  · cases hm : c.active.getLsbD l <;> simp [hl]
  · simp [hl]

/-- The lanes of ACTIVE run. -/
theorem active_running {c : Ctx} {s : State} {g : Group} (hc : s.ctx? = some c) (hg : s.grpOf c.ag = some g) {l : Nat}
    (hl : c.active.getLsbD l = true) : g.running.getLsbD l = true := by
  unfold State.ctx? at hc
  split at hc
  · cases hc
  · next g' hg' =>
    split at hc
    · cases hc
    · split at hc
      · cases hc
        obtain rfl : g' = g := Option.some.inj (hg'.symm.trans hg)
        simp only [Group.activeOf, BitVec.getLsbD_and, Bool.and_eq_true] at hl
        exact hl.1.1.2
      · cases hc

theorem exec_nop (s : State) : exec .nop s = issue { core := .both } (fun _ s => .done s) s := rfl

theorem exec_yield (s : State) : exec .yield s = issue { core := .both } (fun _ s => .done s) s := rfl

theorem exec_exit (s : State) : exec .exit s = issue { core := .both } (fun c s =>
    if c.g.limbs ≠ 0 then .trap .bindState c.active 0 else .jump (c.mod s (·.endThreads c.active s.clk))) s := rfl

/-- The keys of REFORM: a register pair, or the word after the clause. -/
def Ctx.reformKey (c : Ctx) (s : State) (tgt : Option Src) (l : Nat) : DWord :=
  match tgt with
  | some a => c.rd64 s a.op l
  | none => c.cl.succ

def reformSrcs : Option Src → List (Src × Nat)
  | some a => [(a, 2)]
  | none => []

@[simp] theorem reformKey_begun (c0 c : Ctx) (s : State) (us : Ctx → List Use) (tgt : Option Src) :
    c.reformKey (c0.begun c s us) tgt = c.reformKey s tgt := by
  funext l
  cases tgt <;> simp [Ctx.reformKey]

theorem exec_reform (tgt : Option Src) (s : State) :
    exec (.reform tgt) s = issue { uses := fun c _ => readsOf c (reformSrcs tgt) } (fun c s =>
      if c.g.limbs ≠ 0 then .trap .bindState c.active 0
      else if c.badTargets s (fun l => some (c.reformKey s tgt l)) ≠ 0 then
        .trap .badTarget (c.badTargets s (fun l => some (c.reformKey s tgt l))) 0
      else
        .jump (c.mod s (fun g => c.swerve (fun l => tgt.map (fun _ => c.reformKey s tgt l))
          (c.awaitFiling s.clk (c.reformKey s tgt) (g.endUses c.active (reformSrcs tgt)))))) s := by
  cases tgt <;> rfl

/-- The lanes that wait to be filed, and the others. -/
theorem reform_lanes {c : Ctx} {g : Group} (ha : ∀ l, c.active.getLsbD l = true → g.running.getLsbD l = true) (now : Nat)
    (key : Nat → DWord) (tgt : Nat → Option DWord) (xs : List (Src × Nat)) :
    let h := c.swerve tgt (c.awaitFiling now key (g.endUses c.active xs))
    (∀ l, c.active.getLsbD l = true → (h.lane l).filing = some (key l) ∧ (h.lane l).thread = .running ∧
      (h.lane l).resume = some { c.cl with lanes := 0 } ∧ (h.lane l).pc = (g.lane l).pc) ∧
    (∀ l, c.active.getLsbD l = false → h.lane l = g.lane l) := by
  intro h
  have hs := Group.SameThreads.endUses g c.active xs
  have hlane (l : Nat) : h.lane l = (c.awaitFiling now key (g.endUses c.active xs)).lane l := rfl
  refine ⟨fun l hl => ?_, fun l hl => ?_⟩
  · obtain ⟨hlen, -, hrun⟩ := (getLsbD_running g l).1 (ha l hl)
    rw [hlane, lane_awaitFiling, if_pos ⟨hl, by rw [hs.len]; exact hlen⟩]
    exact ⟨rfl, (hs.thread l).trans hrun, rfl, hs.pc l⟩
  · rw [hlane, lane_awaitFiling, if_neg (by simp [hl]), lane_endUses_of_not hl]

/-- The three outcomes of REFORM. -/
theorem reform_spec (tgt : Option Src) (c : Ctx) (s : State) :
    let xs := reformSrcs tgt
    let key := c.reformKey s tgt
    let bad (l : Nat) : Prop :=
      l < c.g.width ∧ c.active.getLsbD l = true ∧ s.target (s.fetcher c.ag) (key l) = false
    c.Issues s .compute (fun c => readsOf c xs) →
    (c.g.limbs ≠ 0 → TrapsTo (.reform tgt) c s .bindState c.active 0) ∧
    (c.g.limbs = 0 → (∃ l, bad l) →
      ∃ m : Mask, TrapsTo (.reform tgt) c s .badTarget m 0 ∧ ∀ l, l < 64 → (m.getLsbD l = true ↔ bad l)) ∧
    (c.g.limbs = 0 → (∀ l, ¬bad l) →
      let s' := c.begun c s (fun c => readsOf c xs)
      let g := c.now s'
      let h := c.swerve (fun l => tgt.map (fun _ => key l)) (c.awaitFiling s.clk key (g.endUses c.active xs))
      JumpsTo (.reform tgt) c s (c.put s' h) ∧
        (∀ l, c.active.getLsbD l = true → (h.lane l).filing = some (key l) ∧ (h.lane l).thread = .running ∧
          (h.lane l).resume = some { c.cl with lanes := 0 } ∧ (h.lane l).pc = (g.lane l).pc) ∧
        (∀ l, c.active.getLsbD l = false → h.lane l = g.lane l)) := by
  intro xs key bad h
  obtain ⟨g, hg, hn⟩ := IssuesUnder_group h
  obtain ⟨gb, hgb, hs⟩ := begun_sameThreads (c0 := c) (fun c => readsOf c xs) hg
  have hf := State.SlotFrame.begun c c s (fun c => readsOf c xs)
  have hnow : c.now (c.begun c s (fun c => readsOf c xs)) = gb := by simp [Ctx.now, hgb]
  have he := (exec_reform tgt s).trans (issue_body (sp := { uses := fun c _ => readsOf c (reformSrcs tgt) }) h rfl rfl rfl rfl)
  have hb (l : Nat) : (c.badTargets (c.begun c s (fun c => readsOf c xs)) (fun l => some (key l))).getLsbD l = true ↔ bad l := by
    simp only [getLsbD_badTargets, hf.fetcher, hf.target, Option.some.injEq, exists_eq_left']
    rfl
  simp only [reformKey_begun] at he
  refine ⟨fun hl => ?_, fun hl hx => ⟨_, ?_, fun l _ => hb l⟩, fun hl hx => ⟨?_, ?_⟩⟩
  · rw [if_pos hl] at he
    exact he
  · have hm : c.badTargets (c.begun c s (fun c => readsOf c xs)) (fun l => some (key l)) ≠ 0 := by
      obtain ⟨l, hx⟩ := hx
      intro h0
      simpa [h0] using (hb l).2 hx
    rw [if_neg (by simpa using hl), if_pos hm] at he
    exact he
  · have hm : c.badTargets (c.begun c s (fun c => readsOf c xs)) (fun l => some (key l)) = 0 := by
      rw [mask_eq_zero_iff]
      intro l
      simpa using mt (hb l).1 (hx l)
    rw [if_neg (by simpa using hl), if_neg (by simpa using hm)] at he
    refine jumpsTo_of_jump (he.trans ?_)
    have hclk : (c.begun c s fun c => readsOf c (reformSrcs tgt)).clk = s.clk := hf.clk
    simp only [Ctx.mod, hclk]
    rfl
  · rw [hnow]
    exact reform_lanes (fun l hl => hs.running ▸ active_running h.slot hg hl) s.clk key _ xs

/-- Settles O25: EXIT and REFORM lane by lane, over the group as issuing leaves it. -/
theorem threadControl : Obligations.ThreadControl := by
  refine ⟨fun c s h => ⟨?_, ?_⟩, fun c s h hl hk => ?_, fun tgt c s => ?_, fun c s h hl => ?_⟩
  · exact runsTo_of_done ((exec_nop s).trans (issue_body (sp := { core := .both }) h rfl rfl rfl rfl))
  · exact runsTo_of_done ((exec_yield s).trans (issue_body (sp := { core := .both }) h rfl rfl rfl rfl))
  · obtain ⟨g, hg, hn⟩ := IssuesUnder_group h
    obtain ⟨gb, hgb, hs⟩ := begun_sameThreads (c0 := c) (fun _ => []) hg
    obtain ⟨gb', hgb', _, _, _, _, _, _, _, hno⟩ := begun_noted (c0 := c) (fun _ => []) hg
    obtain rfl : gb = gb' := Option.some.inj (hgb.symm.trans hgb')
    have hnow : c.now (c.begun c s (fun _ => [])) = gb := by simp [Ctx.now, hgb]
    have hkb : gb.kennel = false := by rw [hno]; rw [hn] at hk; exact hk
    have hclk := (State.SlotFrame.begun c c s (fun _ => [])).clk
    obtain ⟨h1, h2, h3, h4⟩ := endThreads_spec (g := gb) (m := c.active) s.clk fun l hl =>
      ((getLsbD_running gb l).1 (hs.running ▸ active_running h.slot hg hl)).1
    refine ⟨?_, ?_⟩
    · have he := (exec_exit s).trans (issue_body (sp := { core := .both }) h rfl rfl rfl rfl)
      simp only [hl, ne_eq, not_true_eq_false, if_false] at he
      refine jumpsTo_of_jump (he.trans ?_)
      simp only [Ctx.mod, hclk]
    · rw [hnow]
      exact ⟨h1, h2, fun h => h3 h hkb, h4⟩
  · cases tgt with
    | none => exact reform_spec none c s
    | some a => exact reform_spec (some a) c s
  · have he := (exec_exit s).trans (issue_body (sp := { core := .both }) h rfl rfl rfl rfl)
    rw [if_pos hl] at he
    exact he

end Sys2Proof.Machine
end

section
/-! PROOFS. A state that no run reaches but every statement about all states speaks of: port B reads a group of one limb lane, as
its slice cycle's record says it stood, and writes one of three. LSHL stops shifting at 64n + 1 bits for the n it reads, its rule
does not, and the third limb shows it. -/
namespace Sys2Proof.Machine
open Wf

/-- An instruction whose next state looks otherwise than the completed effect does not run to it. -/
theorem not_runsTo {i : Instr} {c : Ctx} {s x s2 : State} {α : Type} (look : State → α) (h2 : c.settle x = .ok s2)
    (hne : look (next i s) ≠ look (c.next (c.advance s2))) : ¬ RunsTo i c s x := by
  intro h
  obtain ⟨t, ⟨s3, h3, rfl⟩, ht⟩ := h.1 ⟨s2, h2⟩
  obtain rfl : s2 = s3 := Except.ok.inj (h2.symm.trans h3)
  exact hne (by rw [next, ht])

/-- LSHL of v2:v3 by s1 to v4:v5. -/
def shiftBy128 : Instr := .lshl 4 ⟨.v 2, false, false⟩ ⟨.s 1, false, false⟩

/-- What its rule uses and does. -/
def shiftRule : LongRule := (longRule shiftBy128).getD ⟨0, [], false, fun _ _ => (0, false, false)⟩

/-- As its cycle began: one limb lane, the operand 1, the amount 128. -/
def oneLimb (g : Group) : Group := putS 1 128 (putV 2 (fun _ => 1) (putV 3 (fun _ => 0) { g with limbs := 1 }))

/-- Port B issues it in a group that now has three limb lanes. -/
def shiftBench : State :=
  let s := bench shiftBy128 (fun g => { g with limbs := 3, portA := none, portB := g.portA })
  { s with focus := .port 0 0 true, cycle := (s.group? 0 0).map (fun g => ⟨s.clk, 0, 0, oneLimb g, [], [], none, 0, 0, 0, 0⟩) }

/-- The low word of the third limb. -/
def State.thirdLimb (s : State) : Option Word := vAt s 2 4

/-- Refutes O26: 1 shifted by 128 bits is 2^65 in a group of one limb as the model has it, and its third limb 0; by the rule the
third limb is 1. -/
theorem not_longIntegerResults : ¬ Obligations.LongIntegerResults := fun h =>
  not_runsTo (s := shiftBench) (s2 := _) State.thirdLimb rfl (by decide)
    ((h.1 shiftBy128 shiftRule (Wit.ctxOf shiftBench) shiftBench rfl (Wit.issues (by decide))).2 (by decide))
end Sys2Proof.Machine
end

section
/-! PROOFS. LBIND and LFREE (R274, R276). -/
namespace Sys2Proof.Machine

theorem exec_lbind (n : BitVec 12) (s : State) : exec (.lbind n) s = execLbind n s := rfl

theorem exec_lfree (s : State) : exec .lfree s = execLfree s := rfl

/-- A mask holds every lane below `n`. -/
theorem and_below_eq_iff (m : Mask) (n : Nat) :
    m &&& Mask.below n = Mask.below n ↔ ∀ l, l < n → l < 64 → m.getLsbD l = true := by
  constructor
  · intro h l hn hl
    have := congrArg (fun x => x.getLsbD l) h
    simpa [getLsbD_below, hn, hl] using this
  · intro h
    refine BitVec.eq_of_getLsbD_eq fun l hl => ?_
    simp only [BitVec.getLsbD_and, getLsbD_below]
    by_cases hn : l < n <;> simp [hn, hl]
    exact h l hn hl

/-- LBIND binds, or raises BINDSTATE, by the group and the lanes here. -/
theorem lbind_outcome {n : BitVec 12} {c : Ctx} {s : State} (h : c.Issues s .compute (fun _ => [])) :
    let idle := Mask.below c.g.width &&& ~~~Mask.below n.toNat
    exec (.lbind n) s = c.finish s
      (if c.g.limbs = 0 ∧ n.toNat ≤ c.g.width ∧
          ∀ l, l < c.g.width → l < 64 → (c.cl.lanes &&& c.g.running &&& ~~~c.g.svmask).getLsbD l = true then
        .leave idle (c.did c s (fun _ => []) (fun g => { g with limbs := n.toNat, lcarry := 0, idle := idle }))
      else .trap .bindState c.active 0) := by
  intro idle
  refine ((exec_lbind n s).trans (issue_body (sp := {}) h rfl rfl rfl rfl)).trans (congrArg _ ?_)
  simp only [← and_below_eq_iff, Ctx.did]
  by_cases hl : c.g.limbs = 0 <;> by_cases hw : n.toNat ≤ c.g.width <;>
    by_cases hh : c.cl.lanes &&& c.g.running &&& ~~~c.g.svmask &&& Mask.below c.g.width = Mask.below c.g.width <;>
    simp [hl, hw, hh, idle]

/-- Settles O27: LBIND by the three conditions it checks, LFREE lane by lane. -/
theorem binding : Obligations.Binding := by
  refine ⟨fun n c s h => ⟨fun hn => ?_, fun hl hw hh => ?_⟩, fun c s h => ?_⟩
  · exact (lbind_outcome h).trans (by rw [if_neg hn]; rfl)
  · exact leavesTo_of_leave ((lbind_outcome h).trans (by rw [if_pos ⟨hl, hw, hh⟩]))
  · have he := (exec_lfree s).trans (issue_body (sp := {}) h rfl rfl rfl rfl)
    have hlane := (c.now (c.begun c s (fun _ => []))).lane_modLanes (c.now (c.begun c s (fun _ => []))).idle
      (fun x => { x with pc := c.cl.succ, resume := none })
    refine ⟨fun hl => runsTo_of_done ?_, fun hl => ⟨runsTo_of_done ?_, rfl, fun l hi hn => ?_, fun l hi => ?_, fun l => ?_⟩⟩
    · exact he.trans (by rw [if_pos hl])
    · exact he.trans (by rw [if_neg hl]; rfl)
    · have h1 := (hlane l).trans (if_pos ⟨hi, hn⟩)
      exact ⟨congrArg Lane.pc h1, congrArg Lane.resume h1⟩
    · exact (hlane l).trans (if_neg (by simp [hi]))
    · refine (congrArg Lane.regs (hlane l)).trans ?_
      split <;> rfl

end Sys2Proof.Machine
end

section
/-! PROOFS. Every instruction issues as its rule says (R12, R65, R71, R156),
  and what that comes to where ACTIVE is empty or the
port holds. -/
namespace Sys2Proof.Machine

/-! ## The issue of every instruction, family by family -/

/-- The instruction's meaning is an issue with these limits, guard and uses. -/
def Instr.IssuesWith (i : Instr) (sp : Spec) : Prop := ∃ body, ∀ s, exec i s = issue sp body s

theorem uniRule_issues {i : Instr} {r : RegRule} (h : uniRule i = some r) : Instr.IssuesWith i r.spec := by
  unfold uniRule at h
  split at h
  case h_1 w64 d a | h_2 w64 d a =>
    cases w64 <;> cases h <;>
      exact ⟨_, fun s => by
      simp only [exec, execSMov, execSLi, if_true, if_false, Bool.false_eq_true, uniform]
      rfl⟩
  all_goals cases h
  all_goals exact ⟨_, fun s => by
      simp only [exec, execSAdd, execSSub, execSMul, execSMulhi, execSAnd, execSOr, execSXor, execSNot, execSShl, execSShr,
        execSSra, execSMin, execSMax, execSBfe, execSBfi, execSClz, execSPopc, execSAdd64, execSSub64, execSShl64,
        uniArith, uniBits, uniWide, uniform]
      rfl⟩

theorem uniRule2_issues {i : Instr} {r : RegRule} (h : uniRule2 i = some r) : Instr.IssuesWith i r.spec := by
  unfold uniRule2 at h
  split at h <;> cases h <;>
    exact ⟨_, fun s => by
      simp only [exec, execSCmp, execSSel, execSVget]
      rfl⟩

theorem vecRule_issues {i : Instr} {r : RegRule} (h : vecRule i = some r) : Instr.IssuesWith i r.spec := by
  unfold vecRule at h
  split at h
  case h_1 w64 d a =>
    cases w64 <;> cases h <;>
      exact ⟨_, fun s => by
      simp only [exec, execVLi, if_true, if_false, Bool.false_eq_true, vector, vector64]
      rfl⟩
  all_goals cases h
  all_goals exact ⟨_, fun s => by
      simp only [exec, execVAdd, execVSub, execVMul, execVMulhi, execVMad, execVAnd, execVOr, execVXor, execVNot, execVShl,
        execVShr, execVSra, execVMin, execVMax, execVAbs, execVBfe, execVBfi, execVPopc, execVClz, execVDot4, execVReq,
        execVMadw, vArith1, vArith2, vBits2, vShift, vCount, vector, vector64]
      rfl⟩

theorem vecRule2_issues {i : Instr} {r : RegRule} (h : vecRule2 i = some r) : Instr.IssuesWith i r.spec := by
  unfold vecRule2 at h
  split at h
  case h_1 w64 d a =>
    cases w64 <;> cases h <;>
      exact ⟨_, fun s => by
      simp only [exec, execVMov, if_true, if_false, Bool.false_eq_true, vector, vector64]
      rfl⟩
  all_goals cases h
  all_goals exact ⟨_, fun s => by simp only [exec, execVSel, execVCmp, execVUnpk3]; rfl⟩

theorem laneRule_issues {i : Instr} {r : RegRule} (h : laneRule i = some r) : Instr.IssuesWith i r.spec := by
  unfold laneRule at h
  split at h <;> cases h <;>
    exact ⟨_, fun s => by
      simp only [exec, execVShfl, execVBcast, execVVote, execVRed, execVScan]
      rfl⟩

theorem fltRule_issues {i : Instr} {r : RegRule} (h : fltRule i = some r) : Instr.IssuesWith i r.spec := by
  unfold fltRule at h
  split at h <;> cases h <;>
    exact ⟨_, fun s => by
      simp only [exec, execVFadd, execVFsub, execVFmul, execVFfma, execVFmin, execVFmax, execVFclass, execVFrnd, execVFsqrt,
        execVFrcp, execVFrsq, execVFexp2, execVFlog2, execVFsin, execVFcos, execVHadd2, execVHmul2, execVHfma2,
        execVFcmp, vecF2, vecSpec, vecH, vecF]
      rfl⟩

theorem branchRule_issues {i : Instr} {b : BranchRule} (h : branchRule i = some b) :
    Instr.IssuesWith i
      { core := .both, guard := .lanes b.guard, uses := fun c _ => b.uses c,
        encOk := fun c => b.opnd.all (noVectorOnKennel · c) : Spec } := by
  unfold branchRule at h
  split at h <;> cases h <;>
    exact ⟨_, fun s => by
      simp only [exec, execBr, execBrx, execRet, execCall, branchTo]
      rfl⟩

theorem longRule_issues {i : Instr} {r : LongRule} (h : longRule i = some r) :
    Instr.IssuesWith i { uses := fun c _ => r.uses c : Spec } := by
  unfold longRule at h
  split at h <;> cases h <;>
    exact ⟨_, fun s => by
      simp only [exec, execLadd, execLsub, execLneg, execLshl, execLshr, execLmulw, longOp]
      rfl⟩

theorem spadRule_issues {i : Instr} {r : SpadRule} (h : spadRule i = some r) :
    Instr.IssuesWith i { flag := r.flag, guard := r.guard, uses := fun c _ => r.uses c : Spec } := by
  unfold spadRule at h
  split at h <;> cases h <;>
    exact ⟨_, fun s => by
      simp only [exec, execLds, execLdr, execSts, execStr, execAtoms]
      rfl⟩

theorem objRule_issues {i : Instr} {r : ObjRule} (h : objRule i = some r) :
    Instr.IssuesWith i { flag := r.flag, uses := fun c _ => r.uses c : Spec } := by
  unfold objRule at h
  split at h <;> cases h <;>
    exact ⟨_, fun s => by
      simp only [exec, execBarInit, execBarArr, execBarWait, execBarAw, execTktTake, execTktWait,
        execTktPass, execWaita]
      rfl⟩

theorem engRule_issues {i : Instr} {r : EngRule} (h : engRule i = some r) :
    Instr.IssuesWith i { flag := r.flag, hdrOk := r.hdr, uses := fun c _ => r.uses c : Spec } := by
  unfold engRule at h
  split at h <;> cases h <;>
    exact ⟨_, fun s => by
      simp only [exec, execMma, execAccZero, execAccLd, execAccSt, execAccRd, execAccWr, execAccOut,
        execMstat, engineIssue]
      rfl⟩

theorem cmdRule_issues {i : Instr} {x} (h : cmdRule i = some x) :
    Instr.IssuesWith i { flag := .may x.2.1.fs, uses := fun c _ => cmdUses c x.2.1 : Spec } := by
  unfold cmdRule at h
  split at h <;> cases h <;>
    exact ⟨_, fun s => by
      simp only [exec, execCp, execCpt, execCpg, execCpsc, execCpr, execCpx, execColl, execCpq,
        command]
      rfl⟩

theorem globRule_issues {i : Instr} {r : GRule} (h : globRule i = some r) :
    Instr.IssuesWith i { core := r.core, flag := r.flag, guard := r.guard, uses := fun c _ => r.uses c : Spec } := by
  unfold globRule at h
  split at h <;> cases h <;>
    exact ⟨_, fun s => by
      simp only [exec, execLd, execSt, execLdu, execStu, execAtom, execAtomu, execMxld, execMxacc]
      rfl⟩

theorem globSyncRule_issues {i : Instr} {r} (h : globSyncRule i = some r) :
    Instr.IssuesWith i { flag := r.flag, uses := fun c _ => r.uses c : Spec } := by
  unfold globSyncRule at h
  split at h <;> cases h <;>
    exact ⟨_, fun s => by
      simp only [exec, execTktTake, execTktWait, execTktPass, execWaita]
      rfl⟩

theorem cvtRule_issues {i : Instr} {r : RegRule} (h : cvtRule i = some r) : Instr.IssuesWith i r.spec := by
  have he (df sf : Fmt) : convElems df sf = cvtElems df sf := by simp [convElems, cvtElems, fmtWidth_eq, Nat.min_comm]
  unfold cvtRule at h
  split at h <;> cases h <;>
    exact ⟨_, fun s => by
      simp only [exec, execVCvt, execVFcvt, execVFicvt, execVMxscl, execVMxpack, convert, vecF, he,
        fmtWidth_eq]
      rfl⟩

theorem otherSpec_issues {i : Instr} {r : Spec} (h : otherSpec i = some r)  : Instr.IssuesWith i r := by
  cases i
  case ldc fs sz d m => cases h; exact ⟨_, fun s => by show execLdc fs sz d m s = _; delta execLdc; rfl⟩
  case nop | yield | exit | trap | brk | reform => 
     cases h; exact ⟨_, fun s => by simp only [exec, execNop, execYield, execExit, execTrap, execBrk, execReform]; rfl⟩
  case lbind | lfree | lcmp | lcarry | sRsr | sWsr | tdef | perf | clk | icinv | launch | wfi | iret =>
     cases h; exact ⟨_, fun s => by simp only [exec, execLbind, execLfree, execLcmp, execLcarry, execSRsr, execSWsr,
       execTdef, execPerf, execClk, execIcinv, execLaunch, execWfi, execIret]; rfl⟩
  case pref | fence | phase | waitf | fifoPush | fifoPop | mmld | mmst =>
     cases h; exact ⟨_, fun s => by simp only [exec, execPref, execFence, execPhase, execWaitf, execFifoPush,
       execFifoPop, execMmld, execMmst]; rfl⟩
  all_goals cases h

theorem regRule_issues {i : Instr} {r : RegRule} (h : regRule i = some r) : Instr.IssuesWith i r.spec := by
  simp only [regRule, Option.or_eq_some_iff] at h
  obtain h | ⟨-, h | ⟨-, h | ⟨-, h | ⟨-, h | ⟨-, h | ⟨-, h⟩⟩⟩⟩⟩⟩ := h
  · exact uniRule_issues h
  · exact uniRule2_issues h
  · exact vecRule_issues h
  · exact vecRule2_issues h
  · exact laneRule_issues h
  · exact fltRule_issues h
  · exact cvtRule_issues h

theorem issueSpec_issues {i : Instr} {sp : Spec} (h : issueSpec i = some sp) : Instr.IssuesWith i sp := by
  simp only [issueSpec, Option.or_eq_some_iff, Option.map_eq_some_iff] at h
  obtain ⟨r, h, rfl⟩ | ⟨-, ⟨r, h, rfl⟩ | ⟨-, ⟨r, h, rfl⟩ | ⟨-, ⟨r, h, rfl⟩ | ⟨-, ⟨r, h, rfl⟩ | ⟨-, ⟨r, h, rfl⟩ | ⟨-,
    ⟨r, h, rfl⟩ | ⟨-, ⟨r, h, rfl⟩ | ⟨-, ⟨r, h, rfl⟩ | ⟨-, h⟩⟩⟩⟩⟩⟩⟩⟩⟩ := h
  · exact regRule_issues h
  · exact globRule_issues h
  · exact branchRule_issues h
  · exact longRule_issues h
  · exact spadRule_issues h
  · exact objRule_issues h
  · exact globSyncRule_issues h
  · exact engRule_issues h
  · exact cmdRule_issues h
  · exact otherSpec_issues h

/-- The instructions with a rule are those with a word. -/
theorem issueSpec_isSome (i : Instr) : (issueSpec i).isSome = (encode i).isSome := by
  cases i
  case tktTake _ glob _ _ | tktPass _ glob _ _ | waita _ glob _ _ _ _ | tktWait _ glob _ _ _ => cases glob <;> rfl
  case br _ cond _ | reform cond => cases cond <;> rfl
  all_goals rfl

/-! ## The ways an issue ends before its effect -/

section Issue
variable {sp : Spec} {body : Ctx → State → Res} {s : State} {c0 : Ctx} (h0 : s.ctx? = some c0)
  (hl : sp.core.allows c0.g.kennel = true)
include h0 hl

theorem issue_illEnc (he : sp.encOk c0 = false) : issue sp body s = c0.finish s (.trap .illEnc c0.active 0) := by
  simp [issue, h0, hl, he]

section Limits
variable {c : Ctx} (he : sp.encOk c0 = true) (hc : c = { c0 with active := sp.guard.narrow c0.g c0.active })
  (hh : c.active ≠ 0 → sp.flag.ok c.cl = true ∧ sp.hdrOk c = true)
include he hc hh

theorem issue_held (h : c0.held s (sp.guard.uses c0.laneSet ++ sp.uses c0.whole s) = true) :
    issue sp body s = c.finish s .hold := by
  subst hc
  simp_all [issue]

theorem issue_collects (h : c0.held s (sp.guard.uses c0.laneSet ++ sp.uses c0.whole s) = false)
    (hs : c.short s (sp.uses c0.whole s) = true) : issue sp body s = .next (c.next (c.collect s (sp.uses c0.whole s))) := by
  subst hc
  simp_all [issue]

theorem issue_idle (h : c0.held s (sp.guard.uses c0.laneSet ++ sp.uses c0.whole s) = false)
    (hs : c.short s (sp.uses c0.whole s) = false) (ha : c.active = 0) :
    issue sp body s = .next (c.next (c.advance (c.presents s (sp.uses c0.whole s)))) := by
  subst hc
  simp_all [issue]

theorem issue_consumes (h : c0.held s (sp.guard.uses c0.laneSet ++ sp.uses c0.whole s) = false)
    (hs : c.short s (sp.uses c0.whole s) = false) (ha : c.active ≠ 0) (hf : sp.full c s = false)
    (hb : (sp.consumes && (sp.uses c s).any c.readsBad) = true) : issue sp body s = c.finish s .uce := by
  subst hc
  simp_all [issue]
end Limits
end Issue
end Sys2Proof.Machine
end

section
/-! PROOFS. Empty ACTIVE, and registers whose results have not landed or that hold an error (R12, R69, R117, R156, R222). -/
namespace Sys2Proof.Machine

/-! ## What leaving the port does to the notice of results -/

/-- FPFLAGS `x` with the flags of every result in the list. -/
def flagsOf (l : List Flight) (x : Word) : Word := l.foldl (fun x f => x ||| f.flags) x

theorem flagsOf_or (l : List Flight) (x y : Word) : flagsOf l (x ||| y) = flagsOf l x ||| y := by
  induction l generalizing x with
  | nil => rfl
  | cons f l ih =>
    have h : flagsOf (f :: l) (x ||| y) = flagsOf l ((x ||| f.flags) ||| y) := by
      rw [BitVec.or_assoc, BitVec.or_comm f.flags, ← BitVec.or_assoc]; rfl
    rw [h, ih]; rfl

/-- Taking in early the flags of the results that have landed changes nothing of what stands in the end. -/
theorem flagsOf_settled (l : List Flight) (now : Nat) (x : Word) :
    flagsOf (l.filter (fun f => now ≤ f.due)) (l.foldl (fun x f => if f.due < now then x ||| f.flags else x) x) =
      flagsOf l x := by
  induction l generalizing x with
  | nil => rfl
  | cons f l ih =>
    by_cases hf : now ≤ f.due
    · rw [List.filter_cons_of_pos (by simpa using hf), List.foldl_cons, if_neg (Nat.not_lt.2 hf)]
      show flagsOf _ (_ ||| f.flags) = flagsOf l (x ||| f.flags)
      rw [flagsOf_or, flagsOf_or, ih]
    · rw [List.filter_cons_of_neg (by simpa using hf), List.foldl_cons, if_pos (Nat.lt_of_not_le hf)]
      exact ih _

/-- What an instruction notes as it leaves its port. -/
theorem noticed_flying (c : Ctx) (now : Nat) (us : List Use) (g : Group) :
    (c.noticed now us g).drained.fpflags = g.drained.fpflags ∧ ∀ f ∈ g.flying, now ≤ f.due → f ∈ (c.noticed now us g).flying := by
  have hs : ((g.settled now).freshen now).flying = g.flying.filter (fun f => now ≤ f.due) := by
    unfold Group.freshen; split <;> rfl
  have hp : ((g.settled now).freshen now).fpflags = g.flags now := by unfold Group.freshen; split <;> rfl
  have hd := flagsOf_settled g.flying now g.fpflags
  unfold Ctx.noticed Ctx.fly
  dsimp only
  split
  · refine ⟨?_, fun f hf hn => ?_⟩
    · rw [Group.drained, hs, hp]
      exact hd
    · rw [hs]
      simp [hf, hn]
  · refine ⟨?_, fun f hf hn => ?_⟩
    · simp only [Group.drained, hs, hp, List.foldl_append, List.foldl_cons, List.foldl_nil]
      exact BitVec.or_zero.trans hd
    · simp [hs, hf, hn]

theorem Group.col_caches_flying (g : Group) (b : Bool) (cs : List Nat) (us : List Use) :
    (g.caches b cs us).flying = g.flying ∧ (g.caches b cs us).fpflags = g.fpflags := by
  cases b <;> exact ⟨rfl, rfl⟩

/-- What leaving the port changes of a compute group. -/
theorem presents_port {c : Ctx} {s : State} {n gi : Nat} {b : Bool} {g : Group} (us : List Use) (ha : c.ag = .port n gi b)
    (hg : s.group? n gi = some g) :
    ∃ x y z w v, (c.presents s us).group? n gi =
        some { g with colA := x, colB := y, flying := z, fpflags := w, fresh := v } ∧
      ({ g with flying := z, fpflags := w } : Group).drained.fpflags = g.drained.fpflags ∧
      ∀ f ∈ g.flying, s.clk ≤ f.due → f ∈ z := by
  have ho : s.grpOf c.ag = some g := by rw [ha]; exact hg
  obtain ⟨h, hh, x, y, z, w, v, rfl⟩ := presents_presented us ho
  have hn := noticed_flying c s.clk us g
  have hf : z = (c.noticed s.clk us g).flying ∧ w = (c.noticed s.clk us g).fpflags := by
    have he := Option.some.inj (hh.symm.trans (presents_grpOf us ho))
    have hz := congrArg Group.flying he
    have hw := congrArg Group.fpflags he
    split at hz
    · exact ⟨hz, by simpa [*] using hw⟩
    · refine ⟨hz.trans (Group.col_caches_flying ..).1, hw.trans ?_⟩
      rw [if_neg ‹_›]
      exact (Group.col_caches_flying ..).2
  obtain ⟨rfl, rfl⟩ := hf
  rw [ha] at hh
  exact ⟨x, y, _, _, v, hh, hn.1, hn.2⟩

/-- And of the Kennel core. -/
theorem presents_kennel {c : Ctx} {s : State} (us : List Use) (ha : c.ag = .kennel) (hk : c.g.kennel = true) :
    ∃ z w v, c.presents s us = { s with k := { s.k with grp := { s.k.grp with flying := z, fpflags := w, fresh := v } } } := by
  have hp : c.presents s us = { s with k := { s.k with grp := c.noticed s.clk us s.k.grp } } := by
    simp only [Ctx.presents, hk, if_true, Ctx.mod, Ctx.put, Ctx.now, ha]
    rfl
  have hn (now : Nat) (g : Group) : ∃ z w v, c.noticed now us g = { g with flying := z, fpflags := w, fresh := v } := by
    unfold Ctx.noticed Ctx.fly Group.freshen
    dsimp only
    split <;> split <;> exact ⟨_, _, _, rfl⟩
  obtain ⟨z, w, v, h⟩ := hn s.clk s.k.grp
  exact ⟨z, w, v, by rw [hp, h]⟩

/-- Settles O12: the outcomes of an issue whose ACTIVE is empty, and what leaving the port notes. -/
theorem emptyActiveIdles : Obligations.EmptyActiveIdles := by
  refine ⟨fun i h => by rw [issueSpec_isSome, h], fun i sp c0 c s hi h0 hl hc ha => ?_,
    fun c s us n gi b g ha hg => ⟨(State.SlotFrame.presents ..).mem, presents_k_port ha .., presents_port us ha hg⟩,
    fun c s us ha hk => presents_kennel us ha hk⟩
  obtain ⟨body, hb⟩ := issueSpec_issues hi
  have hlim (h : c.active ≠ 0) : sp.flag.ok c.cl = true ∧ sp.hdrOk c = true := absurd ha h
  refine ⟨fun he => ?_, fun he hh => ?_, fun he hh => ⟨fun hs => ?_, fun hs => ?_⟩⟩
  · exact (hb s).trans (issue_illEnc h0 hl he)
  · exact (hb s).trans (issue_held h0 hl he hc hlim hh)
  · exact (hb s).trans (issue_collects h0 hl he hc hlim hh hs)
  · exact (hb s).trans (issue_idle h0 hl he hc hlim hh hs ha)

/-! ## Registers that are pending or bad -/

/-- PREF alone consumes no error. -/
theorem issueSpec_consumes {i : Instr} {sp : Spec} (h : issueSpec i = some sp) (hp : ∀ fs l1 m pol, i ≠ .pref fs l1 m pol) :
    sp.consumes = true := by
  simp only [issueSpec, Option.or_eq_some_iff, Option.map_eq_some_iff] at h
  obtain ⟨r, -, rfl⟩ | ⟨-, ⟨r, -, rfl⟩ | ⟨-, ⟨r, -, rfl⟩ | ⟨-, ⟨r, -, rfl⟩ | ⟨-, ⟨r, -, rfl⟩ | ⟨-, ⟨r, -, rfl⟩ | ⟨-,
    ⟨r, -, rfl⟩ | ⟨-, ⟨r, -, rfl⟩ | ⟨-, ⟨r, -, rfl⟩ | ⟨-, h⟩⟩⟩⟩⟩⟩⟩⟩⟩ := h
  case inr.inr.inr.inr.inr.inr.inr.inr.inr =>
    cases i
    case pref fs l1 m pol => exact absurd rfl (hp fs l1 m pol)
    all_goals cases h <;> rfl
  all_goals rfl

/-- A use of a register, vector in a lane of ACTIVE, with an error. -/
theorem readsBad_iff (c : Ctx) (u : Use) : c.readsBad u = true ↔ u.wr = false ∧ ∃ k, k < u.n ∧
    ((∃ r l y, u.op = .v r ∧ l < c.g.width ∧ l < 64 ∧ u.lanes.getLsbD l = true ∧ c.active.getLsbD l = true ∧
        c.g.vReg l (r.toNat + k) = some y ∧ y.bad = true) ∨
      ∃ r y, u.op = .s r ∧ AMap.get? c.g.sregs (r.toNat + k) = some y ∧ y.bad = true) := by
  have hm (o : Option Reg) : (o.map Reg.bad).getD false = true ↔ ∃ y, o = some y ∧ y.bad = true := by
    cases o <;> simp
  unfold Ctx.readsBad Group.readsBad
  cases h : u.op <;> simp [hm, mem_lanes, upTo, and_assoc]

/-- Settles O13: the bad register is one the issue looks at, and the pending one holds it before it does. -/
theorem pendingRegistersHold : Obligations.PendingRegistersHold := by
  refine ⟨fun i sp c0 c s hi he hu hf hh hr hp _ hbad => ?_, fun i sp c0 c s hi h0 hl he hc hh hpend => ?_⟩
  · obtain ⟨body, hb⟩ := issueSpec_issues hi
    obtain ⟨u, hu1, hu2⟩ := hbad
    refine (hb s).trans (issue_consumes hu.slot hu.legal he hu.narrowed (fun _ => ⟨hf, hh⟩) hu.free hu.collected hu.active ?_ ?_)
    · unfold Spec.full
      split
      · simpa using hr _ ‹_›
      · rfl
    · rw [issueSpec_consumes hi hp, Bool.true_and, List.any_eq_true]
      exact ⟨u, hu1, (readsBad_iff c u).2 hu2⟩
  · obtain ⟨body, hb⟩ := issueSpec_issues hi
    obtain ⟨u, hu, hw⟩ := hpend
    refine (hb s).trans (issue_held h0 hl he hc hh ?_)
    have ha : c0.g.awaits s.clk u = true := by
      rw [Group.awaits, Bool.or_eq_true, List.any_eq_true]
      refine hw.imp_right fun ⟨f, hf, hd, v, hv, hm⟩ => ⟨f, hf, ?_⟩
      rw [Bool.and_eq_true, decide_eq_true_eq, List.any_eq_true]
      exact ⟨hd, v, hv, hm⟩
    rw [Ctx.held, List.any_append, List.any_eq_true.2 ⟨u, hu, ha⟩]
    simp

end Sys2Proof.Machine
end

section
/-! PROOFS. What a halt leaves of its group (R55 to R58). -/
namespace Sys2Proof.Machine

/-! ## A lane set that stops -/

/-- A lane of the clause `c` that stops where the clause stands. -/
def Clause.stopped (c : Clause) (now : Nat) (x : Lane) : Lane :=
  if c.pos < c.words.length then { x with resume := some { c with lanes := 0 }, park := none, parkedAt := now }
  else { x with pc := c.succ, resume := none, park := none }

theorem Clause.stopped_regs (c : Clause) (now : Nat) (x : Lane) :
    (c.stopped now x).regs = x.regs ∧ (c.stopped now x).thread = x.thread := by
  unfold Clause.stopped; split <;> exact ⟨rfl, rfl⟩

theorem lane_suspend (g : Group) (c : Clause) (now l : Nat) :
    (g.suspend c none now).lane l = if (c.lanes &&& g.movers).getLsbD l then c.stopped now (g.lane l) else g.lane l := by
  rw [Group.suspend, Group.lane_modLanes]
  by_cases hm : (c.lanes &&& g.movers).getLsbD l = true
  · have hl : l < g.lanes.length := by
      simp only [Group.movers, BitVec.getLsbD_and, Bool.and_eq_true] at hm
      obtain ⟨-, hr, -⟩ := hm
      exact ((getLsbD_running g l).1 hr).1
    simp [hm, hl, Clause.stopped]
  · simp [hm]

/-- The port `p` stops, after a trap in port `b`. -/
def Group.stopPort (g : Group) (now : Nat) (b after p : Bool) : Group :=
  match g.port p with
  | none => g
  | some c =>
    let c' := if p = b && after then { c with pos := c.pos + 1 } else c
    (if c.words.isEmpty then g else g.suspend c' none now).leavePort p now

/-- What that does to lane `l`: nothing to one outside the port's clause, or where its header has not issued. -/
def Group.stopLane (g : Group) (now : Nat) (b after p : Bool) (l : Nat) (x : Lane) : Lane :=
  match g.port p with
  | none => x
  | some c =>
    if c.words ≠ [] ∧ (c.lanes &&& g.movers).getLsbD l = true then
      (if p = b && after then { c with pos := c.pos + 1 } else c : Clause).stopped now x
    else x

theorem stopLane_regs (g : Group) (now : Nat) (b after p : Bool) (l : Nat) (x : Lane) :
    (g.stopLane now b after p l x).regs = x.regs ∧ (g.stopLane now b after p l x).thread = x.thread := by
  unfold Group.stopLane
  split
  · exact ⟨rfl, rfl⟩
  · split
    · exact Clause.stopped_regs ..
    · exact ⟨rfl, rfl⟩

/-- A stop changes the lanes and the turn, and nothing else of the group. -/
def Group.Stops (g h : Group) : Prop :=
  ∃ ls pa pb sw r te, h = { g with lanes := ls, portA := pa, portB := pb, swerved := sw, rest := r, turnEnd := te }

theorem Group.Stops.trans {g h k : Group} (a : g.Stops h) (b : h.Stops k) : g.Stops k := by
  obtain ⟨_, _, _, _, _, _, rfl⟩ := a
  obtain ⟨_, _, _, _, _, _, rfl⟩ := b
  exact ⟨_, _, _, _, _, _, rfl⟩

theorem leavePort_stops (g : Group) (p : Bool) (now : Nat) : g.Stops (g.leavePort p now) := by
  unfold Group.leavePort Group.setPort
  dsimp only
  cases p <;> simp only [if_true, if_false, Bool.false_eq_true] <;> split <;> exact ⟨_, _, _, _, _, _, rfl⟩

theorem leavePort_lanes (g : Group) (p : Bool) (now : Nat) : (g.leavePort p now).lanes = g.lanes := by
  unfold Group.leavePort Group.setPort
  dsimp only
  cases p <;> simp only [if_true, if_false, Bool.false_eq_true] <;> split <;> rfl

theorem leavePort_port (g : Group) (p q : Bool) (now : Nat) :
    (g.leavePort p now).port q = if p = q then none else g.port q := by
  unfold Group.leavePort Group.setPort
  dsimp only
  cases p <;> cases q <;> simp only [if_true, if_false, Bool.false_eq_true, reduceCtorEq] <;> split <;> rfl

theorem stopPort_stops (g : Group) (now : Nat) (b after p : Bool) : g.Stops (g.stopPort now b after p) := by
  unfold Group.stopPort
  split
  · exact ⟨_, _, _, _, _, _, rfl⟩
  · refine Group.Stops.trans ?_ (leavePort_stops ..)
    split <;> exact ⟨_, _, _, _, _, _, rfl⟩

theorem stopPort_port (g : Group) (now : Nat) (b after p q : Bool) :
    (g.stopPort now b after p).port q = if p = q then none else g.port q := by
  unfold Group.stopPort
  split
  · next h => split <;> simp_all
  · rw [leavePort_port]
    split
    · rfl
    · split <;> rfl

theorem lane_stopPort (g : Group) (now : Nat) (b after p : Bool) (l : Nat) :
    (g.stopPort now b after p).lane l = g.stopLane now b after p l (g.lane l) := by
  have hlp (h : Group) : (h.leavePort p now).lane l = h.lane l := by rw [Group.lane, leavePort_lanes]; rfl
  unfold Group.stopPort Group.stopLane
  split
  · rfl
  · next c _ =>
    rw [hlp]
    by_cases hw : c.words = []
    · simp [hw]
    · rw [if_neg (by simpa using hw), lane_suspend]
      split <;> simp_all

/-- A stop moves no thread, so the movers stand. -/
theorem running_eq_of_threads {g h : Group} (ht : ∀ l, (h.lane l).thread = (g.lane l).thread) : h.running = g.running := by
  have hr (g : Group) (l : Nat) : g.running.getLsbD l = true ↔ l < 64 ∧ (g.lane l).thread = .running := by
    rw [getLsbD_running]
    refine ⟨fun h => h.2, fun h => ⟨?_, h⟩⟩
    refine Classical.byContradiction fun hn => ?_
    rw [Group.lane, getD_of_length_le _ _ (Nat.le_of_not_lt hn)] at h
    exact absurd h.2 (by decide)
  refine BitVec.eq_of_getLsbD_eq fun l _ => Bool.eq_iff_iff.2 ?_
  rw [hr, hr, ht]

theorem stopPort_movers (g : Group) (now : Nat) (b after p : Bool) : (g.stopPort now b after p).movers = g.movers := by
  have hs : (g.stopPort now b after p).svmask = g.svmask := by
    obtain ⟨_, _, _, _, _, _, h⟩ := stopPort_stops g now b after p
    rw [h]
  rw [Group.movers, Group.movers, hs, running_eq_of_threads (g := g)]
  intro l
  rw [lane_stopPort]
  exact (stopLane_regs ..).2

theorem group?_modTeam_of {s : State} {t u gi : Nat} {f : Team → Team} (hf : ∀ x, (f x).groups = x.groups) :
    (s.modTeam u f).group? t gi = s.group? t gi := by
  simp only [State.group?, State.team?_modTeam]
  split
  · next h => subst h; cases s.team? t <;> simp [Team.group?, hf]
  · rfl

theorem group?_congr {s u : State} (h : u.teams = s.teams) (t gi : Nat) : u.group? t gi = s.group? t gi := by
  simp only [State.group?, State.team?, h]

/-! ## Giving up what a halted group's team holds -/

theorem cancelMove_group? (s : State) (t u gi : Nat) (tm : Team) : (s.cancelMove t tm).group? u gi = s.group? u gi := by
  unfold State.cancelMove
  split
  · rfl
  · exact group?_modTeam_of (by simp)

theorem dropToken_group? (s : State) (t u gi : Nat) : (s.dropToken t).group? u gi = s.group? u gi := by
  unfold State.dropToken
  split
  · dsimp only
    split
    · exact group?_modTeam_of (by simp)
    · rfl
  · rfl

/-- The group of a trap, as the halt leaves it. -/
theorem halt_group {s : State} {t gi : Nat} {tm : Team} {g : Group} (b : Bool) (h : Halt) (after : Bool) (ht : s.team? t = some tm)
    (hg : s.group? t gi = some g) :
    (s.halt t gi b h after).group? t gi =
      some { (g.stopPort s.clk b after false).stopPort s.clk b after true with halt := some h } := by
  unfold State.halt
  rw [ht, hg]
  refine (dropToken_group? ..).trans ((cancelMove_group? ..).trans ?_)
  rw [State.group?_modGroup, hg]
  rfl

theorem halt_mem (s : State) (t gi : Nat) (b : Bool) (h : Halt) (after : Bool) : (s.halt t gi b h after).mem = s.mem := by
  have hc (s : State) (tm : Team) : (s.cancelMove t tm).mem = s.mem := by unfold State.cancelMove; split <;> rfl
  have hd (s : State) : (s.dropToken t).mem = s.mem := by
    unfold State.dropToken
    split
    · dsimp only
      split <;> rfl
    · rfl
  unfold State.halt
  split
  · exact (hd _).trans (hc ..)
  · rfl

end Sys2Proof.Machine
end

section
/-! PROOFS. What a trap leaves of a compute group, and the effects that raise REGBUDGET and CKPTFULL (R37, R55 to R58, R234). -/
namespace Sys2Proof.Machine

theorem overBudget_iff {before after : Group} (hk : after.kennel = false) : overBudget before after = true ↔
    (after.vbud < after.boundV.length ∧ before.boundV.length < after.boundV.length) ∨
      (after.sbud < after.boundS.length ∧ before.boundS.length < after.boundS.length) := by
  simp [overBudget, hk]

/-- Copies beyond the slots: the team's are accounted for to fewer than it uses. -/
theorem ckptNew_ne_zero {t : Team} (h : (t.ckpt.map Checkpoint.paid).getD 0 < t.ckptUsed) : t.ckptNew ≠ 0 :=
  Nat.sub_ne_zero_of_lt h

theorem settle_ckptFull {c : Ctx} {x : State} {t gi : Nat} {b : Bool} {tm : Team} {gr : Grid} (ha : c.ag = .port t gi b)
    (ho : overBudget c.g (c.merged x) = false) (ht : (c.put x (c.merged x).spill).team? t = some tm)
    (hr : x.grid? tm.grid = some gr) (hp : (tm.ckpt.map Checkpoint.paid).getD 0 < tm.ckptUsed)
    (hs : 16 * gr.lr.nckpt < tm.ckptUsed) : c.settle x = .error (some .ckptFull) := by
  have hgr : (c.put x (c.merged x).spill).grid? tm.grid = some gr := by
    rw [State.grid?, Ctx.put_eq, State.putGrp_grids]
    exact hr
  rw [Ctx.settle]
  simp only [ho, Bool.false_eq_true, if_false]
  rw [ha]
  simp only [ht, ckptNew_ne_zero hp, if_false, State.ckptSlots, hgr, Option.map_some, Option.getD_some, hs, if_true]

/-- Where neither clause holds the lane, or its header has not issued, a stop leaves it. -/
theorem stopLane_of_out {g : Group} {now : Nat} {b after p : Bool} {l : Nat} {x : Lane}
    (h : ∀ d, g.port p = some d → d.words = [] ∨ d.lanes.getLsbD l = false) : g.stopLane now b after p l x = x := by
  unfold Group.stopLane
  split
  · rfl
  · next d hd =>
    rw [if_neg]
    rintro ⟨hw, hl⟩
    simp only [BitVec.getLsbD_and, Bool.and_eq_true] at hl
    rcases h d hd with h | h
    · exact hw h
    · rw [hl.1] at h
      cases h

theorem stopLane_of_in {g : Group} {now : Nat} {b after p : Bool} {l : Nat} {x : Lane} {d : Clause}
    (hp : g.port p = some d) (hw : d.words ≠ []) (hl : (d.lanes &&& g.movers).getLsbD l = true) :
    g.stopLane now b after p l x = (if p = b && after then { d with pos := d.pos + 1 } else d : Clause).stopped now x := by
  simp [Group.stopLane, hp, hw, hl]

/-- The two stops of a halt, lane by lane, the trapping port's first or last. -/
theorem lane_stopPorts (g : Group) (now : Nat) (b after : Bool) (l : Nat) :
    ((g.stopPort now b after false).stopPort now b after true).lane l =
      g.stopLane now b after true l (g.stopLane now b after false l (g.lane l)) := by
  rw [lane_stopPort, lane_stopPort]
  have hp := stopPort_port g now b after false true
  rw [if_neg (by decide)] at hp
  simp only [Group.stopLane, hp, stopPort_movers]

theorem stopPorts_out {g : Group} {now : Nat} {b after : Bool} {l : Nat}
    (h : ∀ p d, g.port p = some d → d.words = [] ∨ d.lanes.getLsbD l = false) :
    ((g.stopPort now b after false).stopPort now b after true).lane l = g.lane l := by
  rw [lane_stopPorts, stopLane_of_out (h false), stopLane_of_out (h true)]

/-- A lane of the clause in port `p` and of no issued clause in the other stops where its clause stands. -/
theorem stopPorts_in {g : Group} {now : Nat} {b after : Bool} {l : Nat} {p : Bool} {d : Clause}
    (hp : g.port p = some d) (hw : d.words ≠ []) (hl : (d.lanes &&& g.movers).getLsbD l = true)
    (h : ∀ e, g.port (!p) = some e → e.words = [] ∨ e.lanes.getLsbD l = false) :
    ((g.stopPort now b after false).stopPort now b after true).lane l =
      (if p = b && after then { d with pos := d.pos + 1 } else d : Clause).stopped now (g.lane l) := by
  rw [lane_stopPorts]
  cases p
  · rw [stopLane_of_in hp hw hl]
    exact stopLane_of_out h
  · rw [stopLane_of_out (p := false) h, stopLane_of_in hp hw hl]

/-- Settles O10: the halted group is the one whose two ports have stopped, the trapping one behind a BRKPT or TRAPN. -/
theorem trapHaltsGroup : Obligations.TrapHaltsGroup := by
  refine ⟨fun c x t gi b ha => ?_, fun c s n gi b tm g cause lanes num ha ht hg hp hpos _ _ _ => ?_⟩
  · intro _ exceeds hk
    refine ⟨fun he => ?_, fun he tm gr ht hr hpaid hs => settle_ckptFull ha ?_ ht hr hpaid hs⟩
    · have ho : overBudget c.g (c.merged x) = true := (overBudget_iff hk).2 he
      simp [Ctx.settle, ho]
    · exact Bool.eq_false_iff.2 fun ho => he ((overBudget_iff hk).1 ho)
  · intro after
    have hd : (decide (cause = .brkpt) || decide (cause = .trapN)) = decide after := by
      show _ = decide (cause = .brkpt ∨ cause = .trapN)
      simp
    have hw : c.cl.words ≠ [] := by rintro h; simp [h] at hpos
    have htrap : c.takeTrap s cause lanes num = s.halt n gi b (c.haltInfo cause lanes num) (decide after) := by
      simp only [Ctx.takeTrap, ha, hd]
    have hh := halt_group b (c.haltInfo cause lanes num) (decide after) ht hg
    have hlane := lane_stopPorts g s.clk b (decide after)
    obtain ⟨_, _, _, _, _, _, hst⟩ := (stopPort_stops g s.clk b (decide after) false).trans (stopPort_stops _ s.clk b (decide after) true)
    have hports (q : Bool) : ((g.stopPort s.clk b (decide after) false).stopPort s.clk b (decide after) true).port q = none := by
      rw [stopPort_port, stopPort_port]
      cases q <;> rfl
    rw [htrap]
    refine ⟨_, _, hh, rfl, rfl, rfl, rfl, rfl, rfl, rfl, hports false, hports true, fun l hl ho => ?_,
      fun d l hd hdp hl hc => ?_, fun l hc ho => ?_, fun l => ?_, ?_⟩
    · have hin := stopPorts_in (now := s.clk) (b := b) (after := decide after) hp hw hl ho
      refine ⟨fun hn => ?_, fun ha hlt => ?_, fun ha heq => ?_⟩
      · have h1 := hin.trans (by rw [decide_eq_false hn, Bool.and_false, if_neg (by decide), Clause.stopped, if_pos hpos])
        exact ⟨(congrArg Lane.resume h1).trans rfl, (congrArg Lane.pc h1).trans rfl⟩
      · have h1 := hin.trans (by
          rw [decide_eq_true ha, decide_eq_true rfl, Bool.and_true, if_pos rfl, Clause.stopped, if_pos hlt])
        exact ⟨(congrArg Lane.resume h1).trans rfl, (congrArg Lane.pc h1).trans rfl⟩
      · have h1 := hin.trans (by
          rw [decide_eq_true ha, decide_eq_true rfl, Bool.and_true, if_pos rfl, Clause.stopped, if_neg (Nat.not_lt.2 (Nat.le_of_eq heq.symm))])
        exact ⟨(congrArg Lane.resume h1).trans rfl, (congrArg Lane.pc h1).trans rfl⟩
    · have hdw : d.words ≠ [] := by rintro h; simp [h] at hdp
      have hin := stopPorts_in (now := s.clk) (b := b) (after := decide after) hd hdw hl fun e he => by
        rw [Bool.not_not, hp] at he
        exact .inr (Option.some.inj he ▸ hc)
      have h1 := hin.trans (by
        rw [decide_eq_false (by cases b <;> decide), Bool.false_and, if_neg (by decide), Clause.stopped, if_pos hdp])
      exact ⟨(congrArg Lane.resume h1).trans rfl, (congrArg Lane.pc h1).trans rfl⟩
    · refine stopPorts_out fun p d hd => ?_
      by_cases hpb : p = b
      · rw [hpb, hp] at hd
        exact .inr (Option.some.inj hd ▸ hc)
      · exact ho d (by rw [← hd]; cases p <;> cases b <;> simp_all)
    · have h1 := hlane l
      have h2 := stopLane_regs g s.clk b (decide after) false l (g.lane l)
      have h3 := stopLane_regs g s.clk b (decide after) true l (g.stopLane s.clk b (decide after) false l (g.lane l))
      exact ⟨(congrArg Lane.regs h1).trans (h3.1.trans h2.1), (congrArg Lane.thread h1).trans (h3.2.trans h2.2)⟩
    · rw [hst, halt_mem]
      exact ⟨rfl, rfl, rfl, rfl, rfl, rfl, rfl, rfl, rfl, rfl, fun _ => rfl⟩

end Sys2Proof.Machine
end

section
/-! PROOFS. What a record of the event log leaves alone, and the vectors of the Kennel core (R383, R387, R388, R392). -/
namespace Sys2Proof.Machine

/-! ## Records -/

/-- `t` is `s` with a record appended to the event log, and LOG perhaps raised. -/
def State.Logged (s t : State) : Prop :=
  ∃ l q p a w, t = { s with nvm := { s.nvm with log := l, logSeq := q },
                             k := { s.k with kipend := p, pendAt := a, pendNew := w } }

theorem log_logged (s : State) (ty sev src : Nat) (data : List Word) (under : Nat) : s.Logged (s.log ty sev src data under) := by
  unfold State.log
  dsimp only
  split <;> exact ⟨_, _, _, _, _, rfl⟩

theorem hwLog_logged (s : State) (ty : Nat) (sev : Option Nat) (src : Nat) (facts : List Nat) :
    s.Logged (s.hwLog ty sev src facts) := log_logged ..

/-! ## Vectors -/

/-- Whether an address holds a clause header in the SRAM depends on the SRAM and the cached words. -/
theorem target_kennel_congr {s t : State} (hi : t.icache = s.icache) (hm : t.k.sram = s.k.sram) (a : DWord) :
    t.target .kennel a = s.target .kennel a := by
  simp only [State.target, State.inExtent, State.extent, State.peek, State.codeWord, Fetcher.kennel, hi, hm, if_true]

/-- The locked core, its ports empty. -/
def State.stoppedCore (s : State) : State :=
  { s with k := { s.k with locked := some s.clk, ends := [], grp := { s.k.grp with portA := none, portB := none } } }

theorem lockup_logged (s : State) : s.stoppedCore.Logged s.lockup := hwLog_logged ..

/-- The core at vector `v`, before it looks at the table's word. -/
def State.atVector (s : State) (v : Nat) (kepc : DWord) : State :=
  { s with k := { s.k with kepc := kepc, vec := BitVec.ofNat 8 v, inh := true, ends := [],
                            grp := { s.k.grp with portA := none } } }

/-- The word of the vector table at KVBASE. -/
def State.vectorWord (s : State) (v : Nat) : DWord :=
  BitVec.ofNat 64 (Memory.readLE s.k.sram (s.k.kvbase.toNat / 256 * 256 + 8 * v) 8)

theorem kVector_eq {s : State} {v : Nat} {kepc : DWord} {sync : Bool} (h : (sync && s.k.inh) = false) :
    s.kVector v kepc sync = if s.target .kennel (s.vectorWord v) then (s.atVector v kepc).setKPc (s.vectorWord v)
      else (s.atVector v kepc).lockup := by
  have ht := target_kennel_congr (s := s) (t := s.atVector v kepc) rfl rfl (s.vectorWord v)
  rw [State.kVector, h, if_neg (by decide), ← ht]
  rfl

theorem kVector_locks {s : State} {v : Nat} {kepc : DWord} (h : s.k.inh = true) : s.kVector v kepc true = s.lockup := by
  simp [State.kVector, h]

theorem kPc_setKPc (s : State) (a : DWord) (h : 0 < s.k.grp.lanes.length) : (s.setKPc a).kPc = a := by
  cases hl : s.k.grp.lanes with
  | nil => simp [hl] at h
  | cons x r => simp [State.kPc, State.setKPc, Group.lane, Group.modLane, modifyAt, hl]

end Sys2Proof.Machine
end

section
/-! PROOFS. Traps of the Kennel core (R383, R387, R388). -/
namespace Sys2Proof.Machine

/-- A locked core: the registers of the exception stand. -/
theorem lockup_spec (s : State) : s.lockup.k.locked = some s.clk ∧ s.lockup.k.code = s.k.code ∧ s.lockup.k.kbad = s.k.kbad ∧
    s.lockup.k.kepc = s.k.kepc ∧ s.lockup.k.vec = s.k.vec ∧ s.lockup.k.inh = s.k.inh ∧ s.lockup.mem = s.mem ∧
    s.lockup.k.sram = s.k.sram := by
  obtain ⟨_, _, _, _, _, h⟩ := lockup_logged s
  rw [h]
  exact ⟨rfl, rfl, rfl, rfl, rfl, rfl, rfl, rfl⟩

/-- KCAUSE.CODE and KBAD set. -/
def State.caused (s : State) (c : Cause) (kbad : DWord) : State :=
  { s with k := { s.k with code := BitVec.ofNat 8 c.code, kbad := kbad } }

theorem kIllegal_eq {s : State} (h : s.k.inh = false) (c : Cause) (kbad kepc : DWord) :
    s.kIllegal c kbad kepc = (s.caused c kbad).kVector 2 kepc true := by
  simp [State.kIllegal, h, State.caused]

/-- ILLEGAL entered with INH = 0. -/
theorem kIllegal_spec {s : State} (h : s.k.inh = false) (c : Cause) (kbad kepc : DWord) :
    let t := s.kIllegal c kbad kepc
    t.k.code = BitVec.ofNat 8 c.code ∧ t.k.kbad = kbad ∧ t.k.kepc = kepc ∧ t.k.vec = 2 ∧ t.k.inh = true ∧ t.mem = s.mem ∧
      t.k.sram = s.k.sram ∧
      (s.target .kennel (s.vectorWord 2) = true → t.k.locked = s.k.locked ∧
        (0 < s.k.grp.lanes.length → t.kPc = s.vectorWord 2)) ∧
      (s.target .kennel (s.vectorWord 2) = false → t.k.locked = some s.clk) := by
  intro t
  have ht : t = if s.target .kennel (s.vectorWord 2) then ((s.caused c kbad).atVector 2 kepc).setKPc (s.vectorWord 2)
      else ((s.caused c kbad).atVector 2 kepc).lockup := by
    refine (kIllegal_eq h ..).trans ((kVector_eq (by simp [State.caused, h])).trans ?_)
    rw [target_kennel_congr (s := s) rfl rfl]
    rfl
  cases hv : s.target .kennel (s.vectorWord 2)
  · rw [hv, if_neg (by decide)] at ht
    obtain ⟨h1, h2, h3, h4, h5, h6, h7, h8⟩ := lockup_spec ((s.caused c kbad).atVector 2 kepc)
    rw [ht]
    exact ⟨h2, h3, h4, h5, h6, h7, h8, fun h => absurd h (by decide), fun _ => h1⟩
  · rw [hv, if_pos rfl] at ht
    rw [ht]
    exact ⟨rfl, rfl, rfl, rfl, rfl, rfl, rfl, fun _ => ⟨rfl, fun hl => kPc_setKPc _ _ hl⟩, fun h => absurd h (by decide)⟩

/-- Settles O11: ILLEGAL by the vector's word, and a return that goes on at KEPC or fails as a BADTARGET. -/
theorem kennelTakesTraps : Obligations.KennelTakesTraps := by
  refine ⟨fun c s cause lanes num ha _ _ _ => ?_, fun s => ⟨fun ht hl => ?_, fun ht => ?_⟩⟩
  · intro t v
    have hv : s.vectorWord 2 = v := rfl
    have htrap : t = s.kIllegal cause c.cl.word c.cl.here := by simp only [t, Ctx.takeTrap, ha]
    refine ⟨fun hi _ => ?_, fun hi hn => ?_⟩
    · rw [htrap, State.kIllegal, hi, if_pos rfl]
      exact (lockup_spec s).1
    · obtain ⟨h1, h2, h3, h4, h5, h6, h7, h8, h9⟩ := kIllegal_spec hi cause c.cl.word c.cl.here
      rw [hv] at h8 h9
      rw [htrap]
      exact ⟨h1, h2, h3, h4, h5, h6, h7, fun ht hl => ⟨(h8 ht).2 hl, (h8 ht).1.trans hn⟩, h9⟩
  · have hr : s.kReturn = ({ s with k := { s.k with inh := false } } : State).setKPc s.k.kepc := by
      rw [State.kReturn]
      exact if_pos ((target_kennel_congr rfl rfl _).trans ht)
    rw [hr]
    exact ⟨kPc_setKPc _ _ hl, rfl, rfl, rfl⟩
  · have hr : s.kReturn = ({ s with k := { s.k with inh := false } } : State).kIllegal .badTarget s.k.kepc s.k.kepc := by
      rw [State.kReturn]
      exact if_neg (Bool.eq_false_iff.1 ((target_kennel_congr (s := s) rfl rfl _).trans ht))
    obtain ⟨h1, h2, h3, -, h5, -⟩ := kIllegal_spec (s := { s with k := { s.k with inh := false } }) rfl .badTarget s.k.kepc s.k.kepc
    rw [hr]
    exact ⟨h1, h2, h3, h5⟩

end Sys2Proof.Machine
end

section
/-! PROOFS. Opcodes the map assigns to nothing, the structural check and the traps of a header (R47, R65, R66, R106). -/
namespace Sys2Proof.Machine

theorem decode_unassigned {w : DWord} (h : opAssigned (fOp w).toNat = false) : decode w = .error .illOp := by
  rw [decode, h, if_neg (by decide)]

theorem decodeFor_unassigned {w : DWord} (k : Bool) (h : opAssigned (fOp w).toNat = false) : decodeFor k w = .error .illOp := by
  unfold decodeFor
  split
  · rfl
  · exact decode_unassigned h

/-! ## The opcodes each class of clause takes -/

theorem admits_uniform {cls op : Nat} (last : Bool) (h : op ≤ 0x2F) : admits cls op last = true := by
  simp [admits, h]

/-- Of the control range only assigned opcodes are admitted. -/
theorem admits_control {cls op : Nat} (last : Bool) (h : 0x38 ≤ op) (h' : op ≤ 0x3F) : admits cls op last = false := by
  have h1 : ¬ op ≤ 0x2F := by omega
  have h2 : op ≠ 0x36 ∧ op ≠ 0x37 := by omega
  have h3 : ¬ op ≤ 0x35 := by omega
  unfold admits isEnding
  split <;> simp [h1, h2, h3] <;> omega

theorem admits_class {cls op : Nat} (last : Bool) (h : 0x40 ≤ op) (h' : op < 255) (hc : cls ≤ 6) :
    admits cls op last = true ↔ opClass op = cls := by
  have h1 : ¬ op ≤ 0x2F := by omega
  have h2 : op ≠ 0x36 ∧ op ≠ 0x37 := by omega
  have h3 : ¬ op ≤ 0x35 := by omega
  unfold opClass
  obtain rfl | rfl | rfl | rfl | rfl | rfl | rfl :
      cls = 0 ∨ cls = 1 ∨ cls = 2 ∨ cls = 3 ∨ cls = 4 ∨ cls = 5 ∨ cls = 6 := by omega
  all_goals
    simp only [admits, isEnding, h1, h2, h3, decide_false, Bool.false_or, Bool.and_false, Bool.false_and,
      Bool.and_eq_true, decide_eq_true_eq]
    (repeat' split) <;> omega

/-! ## The check of a clause's words -/

theorem fetchBody_outside {f : Fetcher} {s : State} {a : Nat} (h : s.inExtent f a = false) (cls n p : Nat) :
    fetchBody f cls (n + 1) a p s = ([], some ⟨p, 0⟩, s) := by simp [fetchBody, h]

theorem fetchBody_refused {f : Fetcher} {s : State} {cls n a : Nat} (h : s.inExtent f a = true)
    (hw : admits cls ((s.fetch f a).1.extractLsb' 56 8).toNat (n = 0) = false) (p : Nat) :
    fetchBody f cls (n + 1) a p s = ([], some ⟨p, (s.fetch f a).1⟩, (s.fetch f a).2) := by
  simp [fetchBody, h, hw, -BitVec.extractLsb'_toNat]

theorem fetchBody_admitted {f : Fetcher} {s : State} {cls n a : Nat} (h : s.inExtent f a = true)
    (hw : admits cls ((s.fetch f a).1.extractLsb' 56 8).toNat (n = 0) = true)
    (hh : ((s.fetch f a).1.extractLsb' 56 8).toNat ≠ 0xFF) (p : Nat) :
    (fetchBody f cls (n + 1) a p s).2 = (fetchBody f cls n (a + 8) (p + 1) (s.fetch f a).2).2 := by
  simp [fetchBody, h, hw, hh, -BitVec.extractLsb'_toNat]

/-! ## The check of a clause -/

section Clause
variable {f : Fetcher} {a h : DWord} {lanes : Mask} {s s1 : State} (hf : s.fetch f a.toNat = (h, s1))
include hf

theorem fetchClause_badHeader (hh : headerOk h = false) : (fetchClause f a lanes s).1 = .error ⟨0, h⟩ := by
  simp [fetchClause, hf, hh]

theorem fetchClause_badBody (hh : headerOk h = true) (hs : hSafe h = false) {e : BadClause}
    (he : (fetchBody f (hClass h) (hCount h) (a.toNat + 8) 1 s1).2.1 = some e) : (fetchClause f a lanes s).1 = .error e := by
  rw [fetchClause, hf]
  simp only [hh, hs, Bool.not_true, Bool.false_eq_true, if_false]
  split
  · next hb => simp [hb] at he
  · next hb => simpa [hb] using he

theorem fetchClause_maskOutside (hh : headerOk h = true) (hs : hSafe h = true) (hx : s1.inExtent f (a.toNat + 8) = false) :
    (fetchClause f a lanes s).1 = .error ⟨1, 0⟩ := by
  simp [fetchClause, hf, hh, hs, hx]

theorem fetchClause_badMask (hh : headerOk h = true) (hs : hSafe h = true) (hx : s1.inExtent f (a.toNat + 8) = true) {m : DWord}
    {s2 : State} (hm : s1.fetch f (a.toNat + 8) = (m, s2)) (hb : m.getLsbD 63 = true) :
    (fetchClause f a lanes s).1 = .error ⟨1, m⟩ := by
  simp [fetchClause, hf, hh, hs, hx, hm, hb]

theorem fetchClause_badSafeBody (hh : headerOk h = true) (hs : hSafe h = true) (hx : s1.inExtent f (a.toNat + 8) = true)
    {m : DWord} {s2 : State} (hm : s1.fetch f (a.toNat + 8) = (m, s2)) (hb : m.getLsbD 63 = false) {e : BadClause}
    (he : (fetchBody f (hClass h) (hCount h) (a.toNat + 16) 2 s2).2.1 = some e) : (fetchClause f a lanes s).1 = .error e := by
  rw [fetchClause, hf]
  simp only [hh, hs, hx, hm, hb, Bool.not_true, Bool.false_eq_true, if_false, if_true]
  split
  · next hb => simp [hb] at he
  · next hb => simpa [hb] using he
end Clause

/-- `t` is `s` with other words in the instruction cache. -/
def State.Fetched (s t : State) : Prop := ∃ x, t = { s with icache := x }

theorem State.Fetched.refl (s : State) : s.Fetched s := ⟨_, rfl⟩

theorem State.Fetched.trans {s t u : State} (a : s.Fetched t) (b : t.Fetched u) : s.Fetched u := by
  obtain ⟨_, rfl⟩ := a
  obtain ⟨_, rfl⟩ := b
  exact ⟨_, rfl⟩

theorem fetch_fetched (s : State) (f : Fetcher) (a : Nat) : s.Fetched (s.fetch f a).2 := by
  unfold State.fetch
  split <;> exact ⟨_, rfl⟩

theorem fetchBody_fetched (f : Fetcher) (cls n a p : Nat) (s : State) : s.Fetched (fetchBody f cls n a p s).2.2 := by
  induction n generalizing a p s with
  | zero => exact .refl s
  | succ n ih =>
    unfold fetchBody
    split
    · exact .refl s
    · dsimp only
      split
      · exact fetch_fetched ..
      · exact (fetch_fetched ..).trans (ih ..)

/-- The structural check only leaves words in the instruction cache. -/
theorem fetchClause_fetched (f : Fetcher) (a : DWord) (lanes : Mask) (s : State) : s.Fetched (fetchClause f a lanes s).2 := by
  have h1 := fetch_fetched s f a.toNat
  unfold fetchClause
  dsimp only
  split
  · exact h1
  · split
    · split
      · exact h1
      · have h2 := h1.trans (fetch_fetched (s.fetch f a.toNat).2 f (a.toNat + 8))
        split
        · exact h2
        · split
          all_goals next he => exact h2.trans ((congrArg (fun r => r.2.2) he) ▸ fetchBody_fetched ..)
    · split
      all_goals next he => exact h1.trans ((congrArg (fun r => r.2.2) he) ▸ fetchBody_fetched ..)

/-! ## The traps of a header -/

section TakeSet
variable {s : State} {t gi : Nat} {b : Bool} {f : Fetcher} {x : LaneSet} {tm : Team} {g : Group}

/-- The group of a lane set that could not start its clause. -/
def LaneSet.halted (x : LaneSet) (u s : State) (t gi : Nat) (g : Group) (cause : Cause) (w : DWord) (pos : Nat) (lanes : Mask) :
    Prop :=
  ∃ h y, u.group? t gi = some h ∧ h.halt = some y ∧ y.cause = cause ∧ y.hpc = x.pc ∧ y.lanes = lanes ∧ y.instr = w ∧
    y.pos = pos ∧ h.portA = none ∧ h.portB = none ∧ (∀ l, (h.lane l).regs = (g.lane l).regs) ∧ u.mem = s.mem

theorem haltAt_halted {s1 : State} (hf : s.Fetched s1) (ht : s.team? t = some tm) (hg : s.group? t gi = some g) (cause : Cause)
    (lanes : Mask) (w : DWord) (pos : Nat) :
    x.halted (s1.haltAt t gi x cause lanes w pos) s t gi g cause w pos lanes := by
  obtain ⟨ic, rfl⟩ := hf
  have hp (q : Bool) : ((g.stopPort s.clk false false false).stopPort s.clk false false true).port q = none := by
    rw [stopPort_port, stopPort_port]
    cases q <;> rfl
  refine ⟨_, _, halt_group (s := { s with icache := ic }) false _ false ht hg, rfl, rfl, rfl, rfl, rfl, rfl, hp false, hp true,
    fun l => ?_, halt_mem ..⟩
  have h1 := lane_stopPorts g s.clk false false l
  exact (congrArg Lane.regs h1).trans ((stopLane_regs ..).1.trans (stopLane_regs ..).1)

theorem getLsbD_safeOver (g : Group) (m : Mask) (l : Nat) :
    (g.safeOver m).getLsbD l = true ↔ m.getLsbD l = true ∧ 1024 ≤ (g.lane l).safeCnt := by
  simp only [Group.safeOver, Group.lanesWhere, BitVec.getLsbD_and, getLsbD_ofLanes, upTo, Bool.and_eq_true, decide_eq_true_eq,
    List.mem_filter, List.mem_range]
  refine and_congr_right fun hm => ⟨fun h => h.1.2, fun h => ⟨⟨?_, h⟩, BitVec.lt_of_getLsbD hm⟩⟩
  refine Classical.byContradiction fun hn => ?_
  rw [Group.lane, getD_of_length_le _ _ (Nat.le_of_not_lt hn)] at h
  exact absurd h (by decide)

section Fresh
variable (hg : s.group? t gi = some g) (hh : g.halt = none) (hr : x.resume = none)
include hg hh hr

theorem takeSet_outside (hx : s.inExtent f x.pc.toNat = false) :
    s.takeSet t gi b f x = s.haltAt t gi x .badTarget x.lanes 0 0 := by simp [State.takeSet, hg, hh, hr, hx]

theorem takeSet_illHdr (hx : s.inExtent f x.pc.toNat = true) {e : BadClause} {s1 : State}
    (hf : fetchClause f x.pc x.lanes s = (.error e, s1)) :
    s.takeSet t gi b f x = s1.haltAt t gi x .illHdr x.lanes e.word e.pos := by simp [State.takeSet, hg, hh, hr, hx, hf]

theorem takeSet_safeOver (hx : s.inExtent f x.pc.toNat = true) {cl : Clause} {s1 : State}
    (hf : fetchClause f x.pc x.lanes s = (.ok cl, s1)) (hs : hSafe cl.hdr = false) (hm : g.safeOver x.lanes ≠ 0) :
    s.takeSet t gi b f x = s1.haltAt t gi x .safeOvr (g.safeOver x.lanes) cl.hdr 0 := by
  have hc : (!hSafe cl.hdr && decide (g.safeOver x.lanes ≠ 0)) = true := by simpa [hs] using hm
  simp only [State.takeSet, hg, hh, hr, hx, hf, Option.isSome_none, Bool.not_true, Bool.false_eq_true, if_false]
  rw [if_pos hc]
end Fresh
end TakeSet

/-- Settles O4: the classes that take an opcode, the check word by word, and the trap of each header. -/
theorem unassignedOpcodes : Obligations.UnassignedOpcodes := by
  refine ⟨fun w h => decode_unassigned h, fun s c ha hc h => ?_, fun cls op last ho hlt hc => ⟨?_, ?_, ?_⟩,
    fun f cls n a p s hx hw => ?_, fun f cls n a p s => ⟨fun hx => ?_, fun hx hw hh => ?_⟩, fun f a h lanes s s1 hf => ?_,
    fun f s t gi b x tm g ht hg hh hr => ?_, fun s s1 e hx hf => ?_⟩
  · exact stepTrapsBadWords s c .illOp ha hc (decodeFor_unassigned _ h)
  · exact admits_control last
  · exact admits_uniform last
  · exact fun h => admits_class last h hlt hc
  · rw [fetchBody_refused hx hw]
  · rw [fetchBody_outside hx]
  · exact congrArg Prod.fst (fetchBody_admitted hx hw hh p)
  · exact ⟨fetchClause_badHeader hf, fun hh hs e he => fetchClause_badBody hf hh hs he, fun hh hs =>
      ⟨fetchClause_maskOutside hf hh hs, fun m s2 hx hm => ⟨fetchClause_badMask hf hh hs hx hm, fun hb e he =>
        fetchClause_badSafeBody hf hh hs hx hm hb he⟩⟩⟩
  · intro u halts
    have hfet {r : Except BadClause Clause} {s1 : State} (h : fetchClause f x.pc x.lanes s = (r, s1)) : s.Fetched s1 := by
      have hs := fetchClause_fetched f x.pc x.lanes s
      rwa [h] at hs
    refine ⟨fun hx => ?_, fun e s1 hx hf => ?_, fun cl s1 m hx hf hs hm h0 => ?_⟩
    · have h := haltAt_halted (x := x) (.refl s) ht hg .badTarget x.lanes 0 0
      rwa [← takeSet_outside (b := b) hg hh hr hx] at h
    · have h := haltAt_halted (x := x) (hfet hf) ht hg .illHdr x.lanes e.word e.pos
      rwa [← takeSet_illHdr (b := b) hg hh hr hx hf] at h
    · have hmo : m = g.safeOver x.lanes :=
        BitVec.eq_of_getLsbD_eq fun l _ => Bool.eq_iff_iff.2 ((hm l).trans (getLsbD_safeOver g x.lanes l).symm)
      subst hmo
      have h := haltAt_halted (x := x) (hfet hf) ht hg .safeOvr (g.safeOver x.lanes) cl.hdr 0
      rwa [← takeSet_safeOver (b := b) hg hh hr hx hf hs h0] at h
  · simp only [State.kBegin, hx, hf, Bool.not_true, Bool.false_eq_true, if_false]

end Sys2Proof.Machine
end

section
/-! PROOFS. What leaves the stores alone: physical memory, the host's memory in canonical form, the Kennel's SRAM, scratchpads and
accumulators. -/
namespace Sys2Proof.Machine

/-- Memory, the Kennel's SRAM, every team's scratchpad and accumulators stand, and the host's memory stays in canonical form. -/
structure State.SameStores (s t : State) : Prop where
  mem : t.mem = s.mem
  sram : t.k.sram = s.k.sram
  bus : Memory.wf s.bus = true → Memory.wf t.bus = true
  scratch : ∀ n, (t.team? n).map Team.scratch = (s.team? n).map Team.scratch
  acc : ∀ n, (t.team? n).map Team.acc = (s.team? n).map Team.acc

namespace State.SameStores
variable {s t u : State}

theorem refl (s : State) : s.SameStores s := ⟨rfl, rfl, id, fun _ => rfl, fun _ => rfl⟩

theorem trans (a : s.SameStores t) (b : t.SameStores u) : s.SameStores u :=
  ⟨b.mem.trans a.mem, b.sram.trans a.sram, b.bus ∘ a.bus, fun n => (b.scratch n).trans (a.scratch n),
    fun n => (b.acc n).trans (a.acc n)⟩

/-- A change of none of them. -/
theorem of_eq (e : (t.mem, t.k.sram, t.bus, t.teams) = (s.mem, s.k.sram, s.bus, s.teams)) : s.SameStores t := by
  obtain ⟨hm, hk, hb, ht⟩ : t.mem = s.mem ∧ t.k.sram = s.k.sram ∧ t.bus = s.bus ∧ t.teams = s.teams := by simpa using e
  exact ⟨hm, hk, fun h => hb ▸ h, fun n => by rw [State.team?, State.team?, ht], fun n => by rw [State.team?, State.team?, ht]⟩

/-- A change of a team that leaves its scratchpad and accumulators. -/
theorem modTeam (s : State) (n : Nat) {f : Team → Team} (hs : ∀ x, (f x).scratch = x.scratch)
    (ha : ∀ x, (f x).acc = x.acc) : s.SameStores (s.modTeam n f) := by
  refine ⟨rfl, rfl, id, fun m => ?_, fun m => ?_⟩ <;>
  · rw [State.team?_modTeam]
    split
    · next h => subst h; cases s.team? m <;> simp [hs, ha]
    · rfl

theorem modGroup (s : State) (n g : Nat) (f : Group → Group) : s.SameStores (s.modGroup n g f) :=
  modTeam s n (fun _ => rfl) fun _ => rfl

theorem putGrp (s : State) (a : Agent) (g : Group) : s.SameStores (s.putGrp a g) := by
  cases a with
  | kennel => exact of_eq rfl
  | port t n b => exact modGroup ..

theorem mod (c : Ctx) (s : State) (f : Group → Group) : s.SameStores (c.mod s f) := putGrp ..

theorem ctxModTeam (c : Ctx) (s : State) {f : Team → Team} (hs : ∀ x, (f x).scratch = x.scratch)
    (ha : ∀ x, (f x).acc = x.acc) : s.SameStores (c.modTeam s f) := by
  unfold Ctx.modTeam
  split
  · exact modTeam _ _ hs ha
  · exact refl s

theorem tick (s : State) (n : Nat) : s.SameStores (s.tick n) := of_eq rfl

theorem modCol (s : State) (n : Nat) (f : Column → Column) : s.SameStores (s.modCol n f) := of_eq rfl

theorem modCore (s : State) (n : Nat) (f : Core → Core) : s.SameStores (s.modCore n f) := of_eq rfl

theorem setSched (s : State) (x : Sched) : s.SameStores { s with sched := x } := of_eq rfl

theorem event (s : State) (ty : EvType) (cause core slot : Nat) (grid : Word) (team : Nat) :
    s.SameStores (s.event ty cause core slot grid team) :=
  ⟨rfl, rfl, fun h => Ring.wf_put _ _ _ _ h, fun _ => rfl, fun _ => rfl⟩

theorem logged (h : s.Logged t) : s.SameStores t := by
  obtain ⟨_, _, _, _, _, rfl⟩ := h
  exact of_eq rfl

theorem of_slotFrame (h : s.SlotFrame t) : s.SameStores t := by
  obtain ⟨g, hk⟩ := h.kennel
  have hb {α : Type} (f : Team → α) (hf : ∀ x, f x.bare = f x) (n : Nat) : (t.team? n).map f = (s.team? n).map f := by
    have := congrArg (Option.map f) (h.teams n)
    simpa only [Option.map_map, Function.comp_def, hf] using this
  exact ⟨h.mem, by rw [hk], fun hw => h.bus ▸ hw, hb _ fun _ => rfl, hb _ fun _ => rfl⟩

/-! ## The end of a slot -/

theorem cancelMove (s : State) (t : Nat) (tm : Team) : s.SameStores (s.cancelMove t tm) := by
  unfold State.cancelMove
  split
  · exact refl s
  · exact (modTeam s t (by exact fun _ => rfl) (by exact fun _ => rfl)).trans (modCol ..)

theorem dropToken (s : State) (t : Nat) : s.SameStores (s.dropToken t) := by
  unfold State.dropToken
  split
  · dsimp only
    split
    · exact (setSched s _).trans (modTeam _ _ (fun _ => rfl) fun _ => rfl)
    · exact setSched ..
  · exact refl s

theorem halt (s : State) (t gi : Nat) (b : Bool) (h : Halt) (after : Bool) : s.SameStores (s.halt t gi b h after) := by
  unfold State.halt
  split
  · exact (((modGroup ..).trans (cancelMove ..)).trans (dropToken ..)).trans (event ..)
  · exact refl s

theorem lockup (s : State) : s.SameStores s.lockup :=
  (of_eq rfl : s.SameStores s.stoppedCore).trans (logged (lockup_logged s))

theorem setKPc (s : State) (a : DWord) : s.SameStores (s.setKPc a) := of_eq rfl

theorem kVector (s : State) (v : Nat) (a : DWord) (b : Bool) : s.SameStores (s.kVector v a b) := by
  unfold State.kVector
  dsimp only
  split
  · exact lockup s
  · split
    · exact of_eq rfl
    · exact (of_eq rfl : s.SameStores (s.atVector v a)).trans (lockup _)

theorem kIllegal (s : State) (e : Cause) (x y : DWord) : s.SameStores (s.kIllegal e x y) := by
  unfold State.kIllegal
  split
  · exact lockup s
  · exact (of_eq rfl : s.SameStores (s.caused e x)).trans (kVector ..)

theorem kBusErr (s : State) (a : DWord) (u : Bool) (e : DWord) : s.SameStores (s.kBusErr a u e) := by
  unfold State.kBusErr
  split
  · exact lockup s
  · exact .trans (t := { s with k := _ }) (of_eq (by rfl)) (kVector ..)

theorem kReturn (s : State) : s.SameStores s.kReturn := by
  unfold State.kReturn
  dsimp only
  split
  · exact of_eq rfl
  · exact (of_eq rfl : s.SameStores { s with k := { s.k with inh := false } }).trans (kIllegal ..)

theorem takeTrap (c : Ctx) (s : State) (e : Cause) (m : Mask) (n : Word) : s.SameStores (c.takeTrap s e m n) := by
  unfold Ctx.takeTrap
  split
  · exact kIllegal ..
  · exact halt ..

theorem kEnds (es : List ClauseEnd) (a : DWord) (s : State) : s.SameStores (kEnds es a s) := by
  induction es generalizing s with
  | nil => exact refl s
  | cons e r ih =>
    unfold Machine.kEnds
    split
    · exact refl s
    · cases e with
      | trap => exact (kVector ..).trans (ih _)
      | brk => exact (kVector ..).trans (ih _)
      | iret => exact (kReturn _).trans (ih _)

theorem slot (c : Ctx) (s : State) : s.SameStores (c.slot s) := by
  unfold Ctx.slot
  dsimp only
  split
  · exact (mod ..).trans (modCore ..)
  · exact mod ..

theorem endClause (c : Ctx) (s : State) : s.SameStores (c.endClause s) := by
  unfold Ctx.endClause
  dsimp only
  split
  · exact (mod c s (fun g => g.leavePort c.ag.isB s.clk)).trans (.trans (t := { c.mod s _ with k := _ }) (of_eq (by rfl)) (kEnds ..))
  · exact mod ..

theorem advance (c : Ctx) (s : State) : s.SameStores (c.advance s) := by
  unfold Ctx.advance
  dsimp only
  split
  · exact (slot ..).trans (mod ..)
  · exact ((slot ..).trans (mod ..)).trans (endClause ..)

theorem next (c : Ctx) (s : State) : s.SameStores (c.next s) := by
  unfold Ctx.next Ctx.passTo
  dsimp only
  split
  · exact of_eq rfl
  · split <;> exact of_eq rfl

theorem payCkpt (s : State) (t : Nat) : s.SameStores (s.payCkpt t) := by
  have hc (j u n : Nat) : s.SameStores (s.charge j u n) := by
    unfold State.charge
    split
    · exact refl s
    · exact of_eq rfl
  unfold State.payCkpt
  split
  · split
    · exact refl s
    · exact (hc ..).trans (modTeam _ _ (fun _ => rfl) fun _ => rfl)
  · exact refl s

theorem settle {c : Ctx} {x s2 : State} (h : c.settle x = .ok s2) : x.SameStores s2 := by
  have hp : x.SameStores (c.put x (c.merged x).spill) := putGrp ..
  unfold Ctx.settle at h
  dsimp only at h
  split at h
  · cases h
  · split at h
    · cases h; exact refl _
    · split at h
      · split at h
        · cases h; exact hp
        · split at h
          · cases h
          · split at h
            · cases h; exact hp.trans (payCkpt ..)
            · cases h
      · cases h; exact hp

theorem unsettled (c : Ctx) (s : State) (e : Option Cause) : s.SameStores (c.unsettled s e) := by
  cases e with
  | some x => exact (takeTrap ..).trans (tick ..)
  | none => exact next ..
end State.SameStores

/-- The state an effect leaves, before it is judged. -/
def Res.left : Res → Option State
  | .done x | .jump x | .leave _ x | .park x _ => some x
  | .hold | .uce | .trap .. | .busErr .. => none

/-- An effect that settles, or does not and leaves the state as it was. -/
theorem settled_stores {c : Ctx} {s x t : State} {f : State → State} (hf : ∀ s2 : State, s2.SameStores (f s2))
    (h : (match c.settle x with
      | .ok s2 => (.next (f s2) : Host.Outcome State Fault Refusal)
      | .error e => .next (c.unsettled s e)) = .next t) : s.SameStores t ∨ x.SameStores t := by
  cases hs : c.settle x with
  | error e =>
    rw [hs] at h
    exact .inl (Host.Outcome.next.inj h ▸ .unsettled ..)
  | ok s2 =>
    rw [hs] at h
    exact .inr (Host.Outcome.next.inj h ▸ (State.SameStores.settle hs).trans (hf s2))

/-- What an answer comes to leaves the stores as they were, or as the effect left them. -/
theorem finish_stores {c : Ctx} {s t : State} {r : Res} (h : c.finish s r = .next t) :
    s.SameStores t ∨ ∃ x, r.left = some x ∧ x.SameStores t := by
  open State.SameStores in
  cases r with
  | done x => exact (settled_stores (fun _ => (advance ..).trans (next ..)) h).imp_right fun h => ⟨x, rfl, h⟩
  | jump x => exact (settled_stores (fun _ => ((slot ..).trans (endClause ..)).trans (next ..)) h).imp_right fun h => ⟨x, rfl, h⟩
  | leave m x => exact (settled_stores (fun _ => ((advance ..).trans (mod ..)).trans (next ..)) h).imp_right fun h => ⟨x, rfl, h⟩
  | park x p => exact (settled_stores (fun _ => (mod ..).trans (next ..)) h).imp_right fun h => ⟨x, rfl, h⟩
  | hold => exact .inl (Host.Outcome.next.inj h ▸ next ..)
  | uce => exact .inl (Host.Outcome.next.inj h ▸ (ctxModTeam c s (by exact fun _ => rfl) (by exact fun _ => rfl)).trans (tick ..))
  | trap e m n => exact .inl (Host.Outcome.next.inj h ▸ (takeTrap ..).trans (tick ..))
  | busErr a u => exact .inl (Host.Outcome.next.inj h ▸ (kBusErr ..).trans (tick ..))

theorem State.SameStores.collect (c : Ctx) (s : State) (us : List Use) : s.SameStores (c.collect s us) := by
  have ho : s.SameStores { c.openHalf s [] (min (c.offer s) (c.need s us)) with conflict := none } := by
    unfold Ctx.openHalf
    split <;> exact .of_eq rfl
  unfold Ctx.collect
  exact ho.trans (State.SameStores.mod c _ _)

/-- An issued instruction leaves the stores as they were, or as its effect left them. -/
theorem issue_stores {sp : Spec} {body : Ctx → State → Res} {s t : State} (h : issue sp body s = .next t) :
    s.SameStores t ∨ ∃ c0 c x, s.ctx? = some c0 ∧ c = { c0 with active := sp.guard.narrow c0.g c0.active } ∧
      (body c (c0.begun c s (sp.uses · s))).left = some x ∧ x.SameStores t := by
  unfold issue at h
  split at h
  · cases h; exact .inl (.refl s)
  · next c0 h0 =>
    dsimp only at h
    split at h
    · exact (finish_stores h).imp_right fun ⟨_, h, _⟩ => nomatch h
    · split at h
      · exact (finish_stores h).imp_right fun ⟨_, h, _⟩ => nomatch h
      · split at h
        · exact (finish_stores h).imp_right fun ⟨_, h, _⟩ => nomatch h
        · split at h
          · exact (finish_stores h).imp_right fun ⟨_, h, _⟩ => nomatch h
          · split at h
            · cases h; exact .inl ((State.SameStores.collect ..).trans (.next ..))
            · split at h
              · cases h
                exact .inl (((State.SameStores.of_slotFrame (.presents ..)).trans (.advance ..)).trans (.next ..))
              · split at h
                · exact (finish_stores h).imp_right fun ⟨_, h, _⟩ => nomatch h
                · split at h
                  · exact (finish_stores h).imp_right fun ⟨_, h, _⟩ => nomatch h
                  · refine (finish_stores h).imp_right fun ⟨x, hx, ht⟩ => ⟨c0, _, x, h0, rfl, ?_, ht⟩
                    rw [← hx]
                    congr 1

end Sys2Proof.Machine
end

section
/-! PROOFS. The group once an instruction has completed: settling, the end of the slot and what follows leave its registers, its
predicates and its status registers. -/
namespace Sys2Proof.Machine

/-- `h` is `g` with its lanes' places, its ports and turn, what it retains for the checkpoint and its counters changed. -/
structure Group.Stood (g h : Group) : Prop where
  eq : ∃ ls pa pb rt n sw re te, h = { g with
    lanes := ls, portA := pa, portB := pb, retained := rt, instrs := n, swerved := sw, rest := re, turnEnd := te }
  lane : ∀ l, (h.lane l).regs = (g.lane l).regs ∧ (h.lane l).thread = (g.lane l).thread ∧ (h.lane l).tid = (g.lane l).tid

namespace Group.Stood
variable {g h k : Group}

theorem refl (g : Group) : g.Stood g := ⟨⟨_, _, _, _, _, _, _, _, rfl⟩, fun _ => ⟨rfl, rfl, rfl⟩⟩

theorem trans (a : g.Stood h) (b : h.Stood k) : g.Stood k := by
  obtain ⟨⟨_, _, _, _, _, _, _, _, rfl⟩, ha⟩ := a
  obtain ⟨⟨_, _, _, _, _, _, _, _, rfl⟩, hb⟩ := b
  refine ⟨⟨_, _, _, _, _, _, _, _, rfl⟩, fun l => ?_⟩
  obtain ⟨h1, h2, h3⟩ := ha l
  obtain ⟨k1, k2, k3⟩ := hb l
  exact ⟨k1.trans h1, k2.trans h2, k3.trans h3⟩

theorem vReg (a : g.Stood h) (l n : Nat) : h.vReg l n = g.vReg l n := by
  rw [Group.vReg, Group.vReg, (a.lane l).1]

theorem spill (g : Group) : g.Stood g.spill := by
  unfold Group.spill
  split
  · exact refl g
  · exact ⟨⟨_, _, _, _, _, _, _, _, rfl⟩, fun _ => ⟨rfl, rfl, rfl⟩⟩

theorem countSlot (g : Group) : g.Stood g.countSlot := ⟨⟨_, _, _, _, _, _, _, _, rfl⟩, fun _ => ⟨rfl, rfl, rfl⟩⟩

theorem setPort (g : Group) (b : Bool) (x : Option Clause) : g.Stood (g.setPort b x) := by
  cases b <;> exact ⟨⟨_, _, _, _, _, _, _, _, rfl⟩, fun _ => ⟨rfl, rfl, rfl⟩⟩

theorem leavePort (g : Group) (b : Bool) (now : Nat) : g.Stood (g.leavePort b now) := by
  refine (setPort g b none).trans ?_
  unfold Group.leavePort
  dsimp only
  split
  · exact refl _
  · exact ⟨⟨_, _, _, _, _, _, _, _, rfl⟩, fun _ => ⟨rfl, rfl, rfl⟩⟩

/-- Lanes that move keep their registers and threads. -/
theorem modLanes (g : Group) (m : Mask) {f : Lane → Lane}
    (hf : ∀ x, (f x).regs = x.regs ∧ (f x).thread = x.thread ∧ (f x).tid = x.tid) : g.Stood (g.modLanes m f) := by
  refine ⟨⟨_, _, _, _, _, _, _, _, rfl⟩, fun l => ?_⟩
  rw [Group.lane_modLanes]
  split
  · exact hf _
  · exact ⟨rfl, rfl, rfl⟩

theorem modLane (g : Group) (n : Nat) {f : Lane → Lane}
    (hf : ∀ x, (f x).regs = x.regs ∧ (f x).thread = x.thread ∧ (f x).tid = x.tid) : g.Stood (g.modLane n f) := by
  refine ⟨⟨_, _, _, _, _, _, _, _, rfl⟩, fun l => ?_⟩
  rw [Group.lane_modLane]
  split
  · exact hf _
  · exact ⟨rfl, rfl, rfl⟩

end Group.Stood

/-! ## The Kennel core's group at the end of a clause -/

theorem Logged_grp {s t : State} (h : s.Logged t) : t.k.grp = s.k.grp := by
  obtain ⟨_, _, _, _, _, rfl⟩ := h
  rfl

theorem lockup_stood (s : State) : s.k.grp.Stood s.lockup.k.grp := by
  rw [Logged_grp (lockup_logged s)]
  exact (Group.Stood.setPort _ false none).trans (.setPort _ true none)

theorem setKPc_stood (s : State) (a : DWord) : s.k.grp.Stood (s.setKPc a).k.grp :=
  .modLane _ _ fun _ => ⟨rfl, rfl, rfl⟩

theorem kVector_stood (s : State) (v : Nat) (a : DWord) (b : Bool) : s.k.grp.Stood (s.kVector v a b).k.grp := by
  cases hb : b && s.k.inh with
  | true => rw [State.kVector, hb, if_pos rfl]; exact lockup_stood s
  | false =>
    have h1 : s.k.grp.Stood (s.atVector v a).k.grp := .setPort _ false none
    rw [kVector_eq hb]
    split
    · exact h1.trans (setKPc_stood ..)
    · exact h1.trans (lockup_stood _)

theorem kIllegal_stood (s : State) (e : Cause) (x y : DWord) : s.k.grp.Stood (s.kIllegal e x y).k.grp := by
  unfold State.kIllegal
  split
  · exact lockup_stood s
  · exact kVector_stood (s.caused e x) 2 y true

theorem kReturn_stood (s : State) : s.k.grp.Stood s.kReturn.k.grp := by
  unfold State.kReturn
  extract_lets _ s1
  split
  · exact setKPc_stood s1 _
  · exact kIllegal_stood s1 ..

theorem kEnds_stood (es : List ClauseEnd) (a : DWord) (s : State) : s.k.grp.Stood (kEnds es a s).k.grp := by
  induction es generalizing s with
  | nil => exact .refl _
  | cons e r ih =>
    unfold kEnds
    split
    · exact .refl _
    · cases e with
      | trap => exact (kVector_stood ..).trans (ih _)
      | brk => exact (kVector_stood ..).trans (ih _)
      | iret => exact (kReturn_stood _).trans (ih _)

/-! ## The course of a slot -/

variable {c : Ctx} {s : State} {g : Group}

theorem slot_stood (hg : s.grpOf c.ag = some g) : ∃ h, (c.slot s).grpOf c.ag = some h ∧ g.Stood h := by
  unfold Ctx.slot
  dsimp only
  split
  · exact ⟨_, (State.grpOf_congr rfl rfl _).trans (mod_grpOf _ hg), .countSlot g⟩
  · exact ⟨_, mod_grpOf _ hg, .countSlot g⟩

theorem endClause_stood (hg : s.grpOf c.ag = some g) : ∃ h, (c.endClause s).grpOf c.ag = some h ∧ g.Stood h := by
  have hl := mod_grpOf (fun g => g.leavePort c.ag.isB s.clk) hg
  unfold Ctx.endClause
  dsimp only
  split
  · next ha =>
    have hk : (c.mod s (fun g => g.leavePort c.ag.isB s.clk)).k.grp = g.leavePort c.ag.isB s.clk :=
      Option.some.inj (((congrArg _ ha).symm).trans hl)
    rw [ha]
    refine ⟨_, rfl, .trans ?_ (kEnds_stood ..)⟩
    rw [ha] at hk
    exact hk ▸ Group.Stood.leavePort ..
  · exact ⟨_, hl, .leavePort ..⟩

theorem advance_stood (hg : s.grpOf c.ag = some g) : ∃ h, (c.advance s).grpOf c.ag = some h ∧ g.Stood h := by
  obtain ⟨h, hh, hs⟩ := slot_stood hg
  unfold Ctx.advance
  dsimp only
  split
  · exact ⟨_, mod_grpOf _ hh, hs.trans (.setPort ..)⟩
  · obtain ⟨k, hk, ht⟩ := endClause_stood (mod_grpOf (fun g => g.modLanes (c.cl.lanes &&& g.movers) (fun x =>
      { x with pc := c.cl.succ, resume := none })) hh)
    exact ⟨k, hk, (hs.trans (.modLanes h _ (by exact fun _ => ⟨rfl, rfl, rfl⟩))).trans ht⟩

theorem next_grpOf (c : Ctx) (s : State) (a : Agent) : (c.next s).grpOf a = s.grpOf a := by
  unfold Ctx.next Ctx.passTo
  dsimp only
  split
  · exact State.grpOf_congr rfl rfl a
  · split <;> exact State.grpOf_congr rfl rfl a

theorem payCkpt_grpOf (s : State) (t : Nat) (a : Agent) : (s.payCkpt t).grpOf a = s.grpOf a := by
  have hc (j u n : Nat) : (s.charge j u n).grpOf a = s.grpOf a := by
    unfold State.charge
    split
    · rfl
    · exact State.grpOf_congr rfl rfl a
  unfold State.payCkpt
  split
  · split
    · rfl
    · next tm _ _ =>
      refine Eq.trans ?_ (hc 4 (colOf tm.core) (2048 * tm.ckptNew))
      cases a with
      | kennel => rfl
      | port n gi b => exact group?_modTeam_of fun _ => rfl
  · rfl

theorem settle_stood {x s2 : State} (hg : x.grpOf c.ag = some g) (h : c.settle x = .ok s2) :
    ∃ h, s2.grpOf c.ag = some h ∧ (c.merged x).Stood h := by
  have hp : (c.put x (c.merged x).spill).grpOf c.ag = some (c.merged x).spill := State.grpOf_putGrp _ _ _ _ hg
  unfold Ctx.settle at h
  dsimp only at h
  split at h
  · cases h
  · split at h
    · next ha =>
      cases h
      refine ⟨g, hg, ?_⟩
      rw [Ctx.merged, Ctx.now, hg, ha]
      exact .refl g
    · split at h
      · split at h
        · cases h; exact ⟨_, hp, .spill _⟩
        · split at h
          · cases h
          · split at h
            · cases h; exact ⟨_, (payCkpt_grpOf ..).trans hp, .spill _⟩
            · cases h
      · cases h; exact ⟨_, hp, .spill _⟩

/-- The group once an effect has completed is what stood after it, moved on. -/
theorem Ctx.Completes.group {x t : State} (h : c.Completes x t) (hg : x.grpOf c.ag = some g) :
    ∃ h, t.grpOf c.ag = some h ∧ (c.merged x).Stood h := by
  obtain ⟨s2, h2, rfl⟩ := h
  obtain ⟨k, hk, hs⟩ := settle_stood hg h2
  obtain ⟨h, hh, ht⟩ := advance_stood hk
  exact ⟨h, (next_grpOf ..).trans hh, hs.trans ht⟩

theorem Ctx.Completes.stores {x t : State} (h : c.Completes x t) : x.SameStores t := by
  obtain ⟨s2, h2, rfl⟩ := h
  exact ((State.SameStores.settle h2).trans (.advance ..)).trans (.next ..)

end Sys2Proof.Machine
end

section
/-! PROOFS. The frame of the register instructions (R35, R118, R181): each step from the group before an instruction to the one
after it keeps what the frame names. -/
namespace Sys2Proof.Machine

/-! ## Bits that stay set -/

theorem and_not_or_self {w : Nat} (x y : BitVec w) : x &&& ~~~(x ||| y) = 0 := by
  ext k hk
  simp only [BitVec.getElem_and, BitVec.getElem_not, BitVec.getElem_or, BitVec.ofNat_eq_ofNat, BitVec.getElem_zero]
  cases x[k] <;> simp

theorem and_not_trans {w : Nat} {x y z : BitVec w} (a : x &&& ~~~y = 0) (b : y &&& ~~~z = 0) : x &&& ~~~z = 0 := by
  refine BitVec.eq_of_getLsbD_eq fun k hk => ?_
  have ha := congrArg (BitVec.getLsbD · k) a
  have hb := congrArg (BitVec.getLsbD · k) b
  simp only [BitVec.getLsbD_and, BitVec.getLsbD_not, hk, decide_true, Bool.true_and, BitVec.ofNat_eq_ofNat,
    BitVec.getLsbD_zero] at ha hb ⊢
  cases hx : x.getLsbD k with
  | false => rfl
  | true =>
    rw [hx, Bool.true_and, Bool.not_eq_false'] at ha
    rw [ha, Bool.true_and] at hb
    rw [Bool.true_and, hb]

/-! ## Steps of the frame -/

namespace RegFrame
variable {i : Instr} {c : Ctx} {us : List Use} {g h k : Group}

theorem refl (g : Group) : RegFrame i c us g g :=
  ⟨fun _ _ _ => rfl, fun _ _ => rfl, fun _ _ _ => rfl, rfl, ⟨rfl, rfl, rfl⟩, ⟨rfl, rfl, rfl⟩,
    ⟨BitVec.and_not_self _, BitVec.and_not_self _, BitVec.and_not_self _⟩, fun _ _ _ => rfl, fun _ => rfl, rfl, rfl, fun _ => ⟨rfl, rfl⟩⟩

theorem trans (a : RegFrame i c us g h) (b : RegFrame i c us h k) : RegFrame i c us g k where
  vregs l n hn := (b.vregs l n hn).trans (a.vregs l n hn)
  sregs n hn := (b.sregs n hn).trans (a.sregs n hn)
  preds p l hp := (b.preds p l hp).trans (a.preds p l hp)
  tiles := b.tiles.trans a.tiles
  limbs := ⟨b.limbs.1.trans a.limbs.1, b.limbs.2.1.trans a.limbs.2.1, b.limbs.2.2.trans a.limbs.2.2⟩
  control := ⟨b.control.1.trans a.control.1, b.control.2.1.trans a.control.2.1, b.control.2.2.trans a.control.2.2⟩
  sticky := ⟨and_not_trans a.sticky.1 b.sticky.1, and_not_trans a.sticky.2.1 b.sticky.2.1,
    and_not_trans a.sticky.2.2 b.sticky.2.2⟩
  flags h1 h2 h3 := (b.flags h1 h2 h3).trans (a.flags h1 h2 h3)
  trits h1 := (b.trits h1).trans (a.trits h1)
  gstat := b.gstat.trans a.gstat
  ops := b.ops.trans a.ops
  threads l := ⟨(b.threads l).1.trans (a.threads l).1, (b.threads l).2.trans (a.threads l).2⟩

/-- A change of registers, and of what nothing in the frame speaks of. -/
theorem of_regs {ls : List Lane} {sr : AMap Reg} {rt : Retained} (he : h = { g with lanes := ls, sregs := sr, retained := rt })
    (hv : ∀ l n, (n ∉ us.flatMap Use.vNames ∨ c.active.getLsbD l = false) → h.vReg l n = g.vReg l n)
    (hs : ∀ n, n ∉ us.flatMap Use.sNames → AMap.get? h.sregs n = AMap.get? g.sregs n)
    (ht : g.SameThreads h) : RegFrame i c us g h := by
  have hr := refl (i := i) (c := c) (us := us) g
  subst he
  exact { hr with vregs := hv, sregs := hs, threads := fun l => ⟨ht.thread l, ht.tid l⟩ }

theorem touchV (g : Group) (n : Nat) : ∃ rt, g.touchV n = { g with retained := rt } := by
  unfold Group.touchV; split <;> exact ⟨_, rfl⟩

theorem touchS (g : Group) (n : Nat) : ∃ rt, g.touchS n = { g with retained := rt } := by
  unfold Group.touchS; split <;> exact ⟨_, rfl⟩

theorem setS {n : Nat} (hn : n ∈ us.flatMap Use.sNames) (x : Word) : RegFrame i c us g (g.setS n x) := by
  obtain ⟨rt, ht⟩ := touchS g n
  refine of_regs (ls := g.lanes) (sr := AMap.set g.sregs n ⟨x, false⟩) (rt := rt) ?_ (fun l m _ => g.setS_vReg ..)
    (fun m hm => ?_) (.setS g n x)
  · rw [Group.setS, ht]
  · rw [Group.sregs_setS, if_neg (by rintro rfl; exact hm hn)]

theorem setS64 {n : Nat} (hn : n ∈ us.flatMap Use.sNames) (hm : n + 1 ∈ us.flatMap Use.sNames) (x : DWord) :
    RegFrame i c us g (g.setS64 n x) := (setS hn _).trans (setS hm _)

theorem setLanes {n : Nat} {m : Mask} (hn : n ∈ us.flatMap Use.vNames)
    (hm : ∀ l, c.active.getLsbD l = false → m.getLsbD l = false) (f : Nat → Word) :
    RegFrame i c us g (g.setLanes m n f) := by
  obtain ⟨rt, ht⟩ := touchV g n
  refine of_regs (ls := (g.setLanes m n f).lanes) (sr := g.sregs) (rt := rt) ?_ (fun l k hk => ?_)
    (fun k _ => by rw [Group.setLanes_sregs]) (.setLanes g m n f)
  · rw [Group.setLanes, ht]
  · rw [Group.vReg_setLanes, if_neg]
    rintro ⟨hl, rfl, -⟩
    exact hk.elim (· hn) fun hl' => by simp [hm l hl'] at hl

theorem setLanes64 {n : Nat} (hn : n ∈ us.flatMap Use.vNames) (hn1 : n + 1 ∈ us.flatMap Use.vNames) (f : Nat → DWord) :
    RegFrame i c us g (g.setLanes64 c.active n f) := (setLanes hn (fun _ => id) _).trans (setLanes hn1 (fun _ => id) _)

theorem setPred {p : Nat} (hp : p ∈ predDst i) (x : Mask) : RegFrame i c us g (g.setPred p c.active x) := by
  have hb : ∀ q l, (q ∉ predDst i ∨ c.active.getLsbD l = false) →
      ((g.setPred p c.active x).predMask q).getLsbD l = (g.predMask q).getLsbD l := by
    intro q l hq
    rw [Group.predMask_setPred]
    split
    · next he =>
      rcases hq with hq | hq
      · exact absurd (he.1 ▸ hp) hq
      · simp only [BitVec.getLsbD_or, BitVec.getLsbD_and, BitVec.getLsbD_not, hq, Bool.and_false, Bool.or_false,
          Bool.not_false, Bool.and_true]
        cases hl : (g.predMask q).getLsbD l with
        | false => rfl
        | true => simp [BitVec.lt_of_getLsbD hl]
    · rfl
  have hr := refl (i := i) (c := c) (us := us) g
  obtain ⟨ps, he⟩ : ∃ ps, g.setPred p c.active x = { g with preds := ps } := by
    unfold Group.setPred; split <;> exact ⟨_, rfl⟩
  rw [he] at hb ⊢
  exact { hr with preds := hb }

/-- Flags of a float instruction travel with its result. -/
theorem of_sticky (hi : laneRule i ≠ none ∨ fltRule i ≠ none ∨ cvtRule i ≠ none) (x : FFlags) :
    RegFrame i c us g (g.sticky x) := by
  have hf : g.drained.fpflags &&& ~~~(g.sticky x).drained.fpflags = 0 := by
    have hl : ∀ (l : List Flight) (n : Nat) (w : Word), flagsOf l w &&&
        ~~~flagsOf (modifyAt l n (fun y => { y with flags := y.flags ||| x.word })) w = 0 := by
      intro l
      induction l with
      | nil => intro n w; simp [modifyAt, BitVec.and_not_self]
      | cons f l ih =>
        intro n w
        cases n with
        | zero =>
          show flagsOf l (w ||| f.flags) &&& ~~~flagsOf l (w ||| (f.flags ||| x.word)) = 0
          rw [← BitVec.or_assoc, flagsOf_or l (w ||| f.flags) x.word]
          exact and_not_or_self ..
        | succ n => exact ih n (w ||| f.flags)
    exact hl g.flying (g.flying.length - 1) g.fpflags
  have hr := refl (i := i) (c := c) (us := us) g
  exact { hr with
    sticky := ⟨hf, hr.sticky.2⟩
    flags := fun h1 h2 h3 => absurd hi (by simp [h1, h2, h3]) }

/-- Bits of GSTAT that a register instruction can set. -/
theorem orGstat {x : Word} (hx : x &&& ~~~3#32 = 0) : RegFrame i c us g (g.orGstat x) := by
  have hr := refl (i := i) (c := c) (us := us) g
  refine { hr with sticky := ⟨hr.sticky.1, hr.sticky.2.1, and_not_or_self ..⟩, gstat := ?_ }
  show (g.gstat ||| x) &&& ~~~3#32 = g.gstat &&& ~~~3#32
  rw [BitVec.and_or_distrib_right, hx]
  exact BitVec.or_zero

theorem orTern (hi : ∃ b p d a, i = .vUnpk3 b p d a) (x : Mask) : RegFrame i c us g (g.orTern x) := by
  have hr := refl (i := i) (c := c) (us := us) g
  have h1 : RegFrame i c us g { g with ternbad := g.ternbad ||| x, fresh := { g.fresh with tern := g.fresh.tern ||| x } } :=
    { hr with
      sticky := ⟨hr.sticky.1, and_not_or_self .., hr.sticky.2.2⟩
      trits := fun hn => by obtain ⟨b, p, d, a, rfl⟩ := hi; exact absurd rfl (hn b p d a) }
  exact h1.trans (orGstat (by decide))

/-- Last uses of names the frame excepts (R35). -/
theorem endUse {x : Src} {n : Nat} (hv : x.lu = true → ∀ m ∈ Use.vNames ⟨x.op, n, c.active, true⟩, m ∈ us.flatMap Use.vNames)
    (hs : x.lu = true → ∀ m ∈ Use.sNames ⟨x.op, n, c.active, true⟩, m ∈ us.flatMap Use.sNames) :
    RegFrame i c us g (g.endUse c.active x n) := by
  have hfold {f : Group → Nat → Group} (l : List Nat) (hf : ∀ (g : Group), ∀ k ∈ l, RegFrame i c us g (f g k)) :
      ∀ g : Group, RegFrame i c us g (l.foldl f g) := by
    induction l with
    | nil => exact refl
    | cons a l ih =>
      exact fun g => (hf g a (List.mem_cons_self ..)).trans (ih (fun g k hk => hf g k (List.mem_cons_of_mem _ hk)) _)
  unfold Group.endUse
  split
  · next hlu =>
    split
    · next r hr =>
      refine hfold _ (fun g k hk => ?_) g
      have hm : r.toNat + k ∈ us.flatMap Use.vNames := hv hlu _ (by
        simp only [Use.vNames, hr, List.mem_map]; exact ⟨k, hk, rfl⟩)
      obtain ⟨rt, he⟩ : ∃ rt, g.freeV c.active (r.toNat + k) = { g with
          lanes := (g.modLanes c.active (fun y => { y with regs := AMap.erase y.regs (r.toNat + k) })).lanes, retained := rt } := by
        unfold Group.freeV
        dsimp only
        split
        · exact ⟨_, rfl⟩
        · obtain ⟨rt, ht⟩ := touchV (g.modLanes c.active (fun y => { y with regs := AMap.erase y.regs (r.toNat + k) })) (r.toNat + k)
          exact ⟨rt, by rw [ht]; rfl⟩
      refine of_regs (ls := (g.modLanes c.active (fun y => { y with regs := AMap.erase y.regs (r.toNat + k) })).lanes)
        (sr := g.sregs) (rt := rt) he (fun l m hn => ?_) (fun m _ => by rw [Group.freeV_sregs]) (.freeV ..)
      rw [Group.vReg_freeV, if_neg]
      rintro ⟨hl, rfl, -⟩
      exact hn.elim (· hm) fun hl' => by simp [hl'] at hl
    · next r hr =>
      refine hfold _ (fun g k hk => ?_) g
      have hm : r.toNat + k ∈ us.flatMap Use.sNames := hs hlu _ (by
        simp only [Use.sNames, hr, List.mem_map]; exact ⟨k, hk, rfl⟩)
      obtain ⟨sr, rt, he⟩ : ∃ sr rt, g.freeS (r.toNat + k) = { g with lanes := g.lanes, sregs := sr, retained := rt } := by
        unfold Group.freeS
        split
        · exact ⟨_, _, rfl⟩
        · obtain ⟨rt, ht⟩ := touchS g (r.toNat + k)
          exact ⟨_, rt, by rw [ht]⟩
      refine of_regs he (fun l m _ => g.freeS_vReg ..) (fun m hn => ?_) (.freeS ..)
      rw [Group.sregs_freeS, if_neg]
      rintro ⟨-, rfl⟩
      exact hn hm
    · exact refl g
  · exact refl g

/-- What a rule ends, it names. -/
theorem endUses {r : RegRule} {s : State} (g : Group) : RegFrame i c (r.changed c s) g (g.endUses c.active r.ends) := by
  have hx {x : Src × Nat} (hx : x ∈ r.ends) (hl : x.1.lu = true) :
      (⟨x.1.op, x.2, c.active, true⟩ : Use) ∈ r.changed c s :=
    List.mem_append_right _ (List.mem_map.mpr ⟨x, List.mem_filter.mpr ⟨hx, hl⟩, rfl⟩)
  have key : ∀ xs : List (Src × Nat), (∀ x ∈ xs, x ∈ r.ends) → ∀ g : Group,
      RegFrame i c (r.changed c s) g (g.endUses c.active xs) := by
    intro xs
    induction xs with
    | nil => exact fun _ g => refl g
    | cons x xs ih =>
      intro hm g
      have h1 := hm x (List.mem_cons_self ..)
      refine trans (endUse (fun hl m hn => List.mem_flatMap.mpr ⟨_, hx h1 hl, hn⟩) fun hl m hn =>
        List.mem_flatMap.mpr ⟨_, hx h1 hl, hn⟩) (ih (fun y hy => hm y (List.mem_cons_of_mem _ hy)) _)
  exact key r.ends (fun _ => id) g

/-- What issuing leaves of the group. -/
theorem of_noticed {x y : Collect} {now : Nat} {vs : List Use} {v : Fresh} : RegFrame i c us g { g with
    colA := x, colB := y, flying := (c.noticed now vs g).flying, fpflags := (c.noticed now vs g).fpflags, fresh := v } := by
  have hr := refl (i := i) (c := c) (us := us) g
  have hd := (noticed_flying c now vs g).1
  exact { hr with
    sticky := ⟨(hd ▸ BitVec.and_not_self _ : g.drained.fpflags &&& ~~~(c.noticed now vs g).drained.fpflags = 0), hr.sticky.2⟩
    flags := fun _ _ _ => hd }

theorem stood (a : g.Stood h) : RegFrame i c us g h := by
  have hr := refl (i := i) (c := c) (us := us) g
  have hv := a.vReg
  have ht := a.lane
  obtain ⟨⟨_, _, _, _, _, _, _, _, rfl⟩, -⟩ := a
  exact { hr with vregs := fun l n _ => hv l n, threads := fun l => (ht l).2 }

end RegFrame

/-! ## Issuing and settling -/

variable {i : Instr} {c0 c : Ctx} {s : State} {us : List Use} {g : Group}

theorem noteReads_regFrame (vs : List Use) (hg : s.grpOf c.ag = some g) :
    ∃ h, (c.noteReads s vs).grpOf c.ag = some h ∧ RegFrame i c us g h := by
  unfold Ctx.noteReads
  dsimp only
  have hp (g : Group) : RegFrame i c us g (g.orGstat gPoisonRd) := .orGstat (by decide)
  have hc (g : Group) : RegFrame i c us g { g with clkhi := s.clkLo.extractLsb' 32 32 } := { RegFrame.refl g with }
  split <;> split
  · exact ⟨_, mod_grpOf _ (mod_grpOf _ hg), (hp g).trans (hc _)⟩
  · exact ⟨_, mod_grpOf _ hg, hc g⟩
  · exact ⟨_, mod_grpOf _ hg, hp g⟩
  · exact ⟨_, hg, .refl g⟩

theorem presents_regFrame (vs : List Use) (hg : s.grpOf c.ag = some g) :
    ∃ h, (c.presents s vs).grpOf c.ag = some h ∧ RegFrame i c us g h := by
  obtain ⟨x, y, z, w, v, he⟩ := c.presented_noticed s.clk vs g
  have h0 : RegFrame i c us g (c.noticed s.clk vs g) := by
    have hn := RegFrame.of_noticed (i := i) (us := us) (g := g) (c := c) (x := x) (y := y) (now := s.clk) (vs := vs) (v := v)
    rw [he] at hn ⊢
    exact hn
  refine ⟨_, presents_grpOf vs hg, ?_⟩
  split
  · exact h0
  · refine h0.trans ?_
    have hf := Group.col_caches_flying (c.noticed s.clk vs g) c.ag.isB (keptCodes c.opcode c.cl.word) vs
    obtain ⟨x, y, z, w, v, he⟩ := (c.noticed s.clk vs g).presented_caches c.ag.isB (keptCodes c.opcode c.cl.word) vs
    rw [he] at hf ⊢
    obtain ⟨rfl, rfl⟩ := hf
    exact { RegFrame.refl _ with }

theorem begun_regFrame (vs : Ctx → List Use) (hg : s.grpOf c.ag = some g) :
    ∃ h, (c0.begun c s vs).grpOf c.ag = some h ∧ RegFrame i c us g h := by
  obtain ⟨h, hh, h1⟩ := presents_regFrame (vs c0.whole) hg
  obtain ⟨k, hk, h2⟩ := noteReads_regFrame (vs c) hh
  exact ⟨k, hk, h1.trans h2⟩

end Sys2Proof.Machine
end

section
/-! PROOFS. The frame of the register instructions, instruction by instruction. -/
namespace Sys2Proof.Machine

/-! ## Port A's writes put back -/

/-- Issuing leaves the cycle that port A opened for the issuing port. -/
theorem begun_pair? (c0 c : Ctx) (s : State) (us : Ctx → List Use) : (c0.begun c s us).pair? c.ag = s.pair? c.ag := by
  have hn (x : State) (vs : List Use) : (c.noteReads x vs).pair? c.ag = x.pair? c.ag := by
    unfold Ctx.noteReads
    dsimp only
    split <;> split <;> simp only [pair?_mod]
  have ho (vs : List Use) (n : Nat) : ({ c.openHalf s vs n with conflict := none } : State).pair? c.ag = s.pair? c.ag := by
    unfold Ctx.openHalf
    split
    · next ha => rw [ha]; rfl
    · cases ha : c.ag with
      | kennel => rfl
      | port t gi b => cases b <;> rfl
  have hm (x : State) (f : Slice → Slice) : (c.modSlice x f).pair? c.ag = x.pair? c.ag := by
    unfold Ctx.modSlice
    split <;> cases ha : c.ag with
      | kennel => rfl
      | port t gi b => cases b <;> rfl
  rw [Ctx.begun, hn]
  unfold Ctx.presents
  dsimp only
  split
  · exact pair?_mod ..
  · split
    · rw [hm, pair?_mod, ho]
    · rw [pair?_mod, ho]

/-- Maps that agree at a name still do once port A's writes are put back over both. -/
theorem get?_kept {m k : AMap Reg} {n : Nat} (h : AMap.get? m n = AMap.get? k n) (l : List (Nat × Option Reg)) :
    AMap.get? (l.foldl keptReg m) n = AMap.get? (l.foldl keptReg k) n := by
  induction l generalizing m k with
  | nil => exact h
  | cons p l ih =>
    refine ih ?_
    obtain ⟨j, _ | r⟩ := p
    · exact h
    · simp only [keptReg, AMap.get?_set, h]

/-- An instruction that writes no status register keeps its frame over port A's writes. -/
theorem RegFrame.merged {i : Instr} {c : Ctx} {us : List Use} {g h : Group} {s x : State} (hw : c.statWritten = none)
    (hp : x.pair? c.ag = s.pair? c.ag) (hg : s.grpOf c.ag = some g) (hh : x.grpOf c.ag = some h)
    (hf : RegFrame i c us g h) : RegFrame i c us (c.merged s) (c.merged x) := by
  have hn : c.now s = g ∧ c.now x = h := by simp [Ctx.now, hg, hh]
  have hr (k : Half) (g : Group) : k.restore none g = { g with sregs := k.kept.foldl keptReg g.sregs } :=
    Group.foldl_keep k.kept g
  unfold Ctx.merged
  rw [hp, hn.1, hn.2, hw]
  split
  · next k _ =>
    rw [hr, hr]
    exact { hf with sregs := fun n hm => get?_kept (hf.sregs n hm) _ }
  · exact hf

/-! ## Which instructions write no status register -/

/-- Neither S.WSR, TDEF nor LCARRY is a register instruction of these rules. -/
theorem regRule_statWritten {i : Instr} {r : RegRule} {c : Ctx} (hw : i.wf = true) (he : encode i = some c.cl.word)
    (hr : regRule i = some r) : c.statWritten = none := by
  have hd := decodeFields_encode hw he
  have hop : (fOp c.cl.word).toNat = c.opcode := rfl
  unfold Ctx.statWritten
  repeat' split
  · next h1 =>
    simp only [decodeFields, hop, h1, decodeU] at hd
    obtain ⟨a, -, rfl⟩ := Option.map_eq_some_iff.mp hd
    cases hr
  · next h2 =>
    simp only [decodeFields, hop, h2, decodeXA] at hd
    cases hd
    cases hr
  · next h3 =>
    rw [Bool.and_eq_true, decide_eq_true_eq] at h3
    simp only [decodeFields, hop, h3.1, decodeLY] at hd
    obtain ⟨a, -, rfl⟩ := Option.map_eq_some_iff.mp hd
    cases hr
  · rfl

/-! ## The destinations a rule names -/

namespace RegRule
variable {r : RegRule} {c : Ctx} {s : State} {u : Use} {n : Nat}

theorem vName (hu : u ∈ r.uses c s) (hw : u.wr = true) (hn : n ∈ u.vNames) : n ∈ (r.changed c s).flatMap Use.vNames :=
  List.mem_flatMap.mpr ⟨u, List.mem_append_left _ (List.mem_filter.mpr ⟨hu, hw⟩), hn⟩

theorem sName (hu : u ∈ r.uses c s) (hw : u.wr = true) (hn : n ∈ u.sNames) : n ∈ (r.changed c s).flatMap Use.sNames :=
  List.mem_flatMap.mpr ⟨u, List.mem_append_left _ (List.mem_filter.mpr ⟨hu, hw⟩), hn⟩

/-- What the rule leaves keeps its frame. -/
def Frames (r : RegRule) (i : Instr) : Prop := ∀ c s g, RegFrame i c (r.changed c s) g (r.res c s g)

end RegRule

theorem mem_vNames {d : BitVec 8} {n k : Nat} {m : Mask} {w : Bool} (h : k < n) :
    d.toNat + k ∈ Use.vNames ⟨.v d, n, m, w⟩ := List.mem_map.mpr ⟨k, List.mem_range.mpr h, rfl⟩

theorem mem_sNames {d : BitVec 9} {n k : Nat} {m : Mask} {w : Bool} (h : k < n) :
    d.toNat + k ∈ Use.sNames ⟨.s d, n, m, w⟩ := List.mem_map.mpr ⟨k, List.mem_range.mpr h, rfl⟩

theorem getLsbD_maskOf_of_not {m : Mask} {w l : Nat} {f : Nat → Bool} (h : m.getLsbD l = false) :
    (maskOf m w f).getLsbD l = false := by
  rw [← Bool.not_eq_true, maskOf, getLsbD_ofLanes, Bool.and_eq_true, decide_eq_true_eq, List.mem_filter]
  rintro ⟨⟨hm, -⟩, -⟩
  simp [(mem_lanes.mp hm).2.2] at h

/-! ## Frames, by the shape of the rule -/

variable {i : Instr}

theorem vRule_frames (d : BitVec 8) (xs : List Src) (f : (Opnd → Word) → Word) : (vRule d xs f).Frames i := fun _ _ _ =>
  .setLanes (RegRule.vName (List.mem_cons_self ..) rfl (mem_vNames Nat.one_pos)) (fun _ => id) _

theorem vRule64_frames (d : BitVec 8) (xs : List (Src × Nat)) (f : (Opnd → Word) → (Opnd → DWord) → DWord) :
    (vRule64 d xs f).Frames i := fun _ _ _ =>
  .setLanes64 (RegRule.vName (List.mem_cons_self ..) rfl (mem_vNames Nat.two_pos))
    (RegRule.vName (List.mem_cons_self ..) rfl (mem_vNames Nat.one_lt_two)) _

theorem fRule_frames (hi : laneRule i ≠ none ∨ fltRule i ≠ none ∨ cvtRule i ≠ none) (d : BitVec 8) (xs : List Src)
    (f : Ctx → State → Nat → Nat × FFlags) : (fRule d xs f).Frames i := fun _ _ _ =>
  (RegFrame.of_sticky hi _).trans
    (.setLanes (RegRule.vName (List.mem_cons_self ..) rfl (mem_vNames Nat.one_pos)) (fun _ => id) _)

theorem cRule_frames (hi : laneRule i ≠ none ∨ fltRule i ≠ none ∨ cvtRule i ≠ none) (e sw dw : Nat) (d : BitVec 8) (a : Src)
    (ys : List (Src × Nat)) (f : Ctx → State → Nat → Nat → Nat × FFlags) : (cRule e sw dw d a ys f).Frames i := by
  intro c s g
  have hl : ∀ (l : List Nat) (F : Nat → Nat → Word) (g : Group), (∀ j ∈ l, j < spanRegs e dw) →
      RegFrame i c ((cRule e sw dw d a ys f).changed c s) g (l.foldl (fun g j => g.setLanes c.active (d.toNat + j) (F j)) g) := by
    intro l F
    induction l with
    | nil => exact fun g _ => .refl g
    | cons j l ih =>
      intro g hj
      exact (RegFrame.setLanes (RegRule.vName (List.mem_cons_self ..) rfl (mem_vNames (hj j (List.mem_cons_self ..))))
        (fun _ => id) _).trans (ih _ fun k hk => hj k (List.mem_cons_of_mem _ hk))
  exact (RegFrame.of_sticky hi _).trans (hl _ _ _ fun j => List.mem_range.mp)

/-! ## Frames, family by family -/

variable {r : RegRule}

theorem vecRule_frames (h : vecRule i = some r) : r.Frames i := by
  unfold vecRule at h
  split at h
  case h_1 x d imm =>
    cases x <;> cases h
    · rw [if_neg Bool.false_ne_true]
      exact vRule_frames _ _ _
    · rw [if_pos rfl]
      exact vRule64_frames _ _ _
  all_goals cases h
  case h_7 => exact vRule64_frames _ _ _
  all_goals exact vRule_frames _ _ _

theorem vecRule2_frames (h : vecRule2 i = some r) : r.Frames i := by
  unfold vecRule2 at h
  split at h
  case h_1 w64 d a =>
    cases h
    cases w64
    · exact fun _ _ _ => .setLanes (RegRule.vName (List.mem_cons_self ..) rfl (mem_vNames Nat.one_pos)) (fun _ => id) _
    · exact fun _ _ _ => .setLanes64 (RegRule.vName (List.mem_cons_self ..) rfl (mem_vNames Nat.two_pos))
        (RegRule.vName (List.mem_cons_self ..) rfl (mem_vNames Nat.one_lt_two)) _
  case h_2 gd w64 d a b x =>
    cases h
    cases w64
    · exact fun _ _ _ => .setLanes (RegRule.vName (List.mem_cons_self ..) rfl (mem_vNames Nat.one_pos)) (fun _ => id) _
    · exact fun _ _ _ => .setLanes64 (RegRule.vName (List.mem_cons_self ..) rfl (mem_vNames Nat.two_pos))
        (RegRule.vName (List.mem_cons_self ..) rfl (mem_vNames Nat.one_lt_two)) _
  case h_3 cc t d a b =>
    cases h
    intro c s g
    cases d with
    | p i => exact .setPred (List.mem_singleton.mpr rfl) _
    | v n => exact .setLanes (RegRule.vName (List.mem_cons_self ..) rfl (mem_vNames Nat.one_pos)) (fun _ => id) _
    | s | special | nat | neg | fp => exact .refl g
  case h_4 byte pd d a =>
    intro c s g
    have hu : wrV c d 2 ∈ r.uses c s := by
      cases h
      exact List.mem_cons_self ..
    have h1 (f : Nat → DWord) (x : Mask) : RegFrame (.vUnpk3 byte pd d a) c (r.changed c s) g
        ((g.setLanes64 c.active d.toNat f).setPred pd.toNat c.active x) :=
      (RegFrame.setLanes64 (RegRule.vName hu rfl (mem_vNames Nat.two_pos))
        (RegRule.vName hu rfl (mem_vNames Nat.one_lt_two)) f).trans (.setPred (List.mem_singleton.mpr rfl) x)
    cases h
    dsimp only
    split
    · exact h1 ..
    · exact (h1 ..).trans (.orTern ⟨_, _, _, _, rfl⟩ _)
  case h_5 => cases h

theorem laneRule_frames (h : laneRule i = some r) : r.Frames i := by
  have hi : laneRule i ≠ none := by simp [h]
  unfold laneRule at h
  split at h
  case h_1 mode seg d a k off =>
    cases h
    exact fun _ _ _ => .setLanes (RegRule.vName (List.mem_cons_self ..) rfl (mem_vNames Nat.one_pos)) (fun _ => id) _
  case h_2 w64 seg d a i =>
    cases h
    cases w64
    · exact fun _ _ _ => .setLanes (RegRule.vName (List.mem_cons_self ..) rfl (mem_vNames Nat.one_pos)) (fun _ => id) _
    · exact fun _ _ _ => .setLanes64 (RegRule.vName (List.mem_cons_self ..) rfl (mem_vNames Nat.two_pos))
        (RegRule.vName (List.mem_cons_self ..) rfl (mem_vNames Nat.one_lt_two)) _
  case h_3 o d a =>
    intro c s g
    have hu : (⟨d, if o = .ballot then 2 else 1, c.active, true⟩ : Use) ∈ r.uses c s := by
      cases h
      exact List.mem_cons_self ..
    have hv {n : BitVec 8} (hd : d = .v n) (k : Nat) (hk : k < if o = .ballot then 2 else 1) :
        n.toNat + k ∈ (r.changed c s).flatMap Use.vNames := RegRule.vName hu rfl (hd ▸ mem_vNames hk)
    have hs {n : BitVec 9} (hd : d = .s n) (k : Nat) (hk : k < if o = .ballot then 2 else 1) :
        n.toNat + k ∈ (r.changed c s).flatMap Use.sNames := RegRule.sName hu rfl (hd ▸ mem_sNames hk)
    have h1 : 0 < if o = .ballot then 2 else 1 := by split <;> decide
    have h2 (ho : o = .ballot) : 1 < if o = .ballot then 2 else 1 := by rw [if_pos ho]; decide
    generalize r.changed c s = us at hv hs ⊢
    cases h
    cases d with
    | p i => exact .setPred (List.mem_singleton.mpr rfl) _
    | v n =>
      dsimp only
      split
      · next ho => exact .setLanes64 (hv rfl 0 h1) (hv rfl 1 (h2 ho)) _
      · exact .setLanes (hv rfl 0 h1) (fun _ => id) _
    | s n =>
      dsimp only
      split
      · next ho => exact .setS64 (hs rfl 0 h1) (hs rfl 1 (h2 ho)) _
      · exact .setS (hs rfl 0 h1) _
    | special | nat | neg | fp => exact .refl g
  case h_4 o d a =>
    cases h
    intro c s g
    refine (RegFrame.of_sticky (.inl hi) (c.reduce s o a).2).trans ?_
    cases d with
    | v n => exact .setLanes (RegRule.vName (List.mem_cons_self ..) rfl (mem_vNames Nat.one_pos)) (fun _ => id) _
    | s n => exact .setS (RegRule.sName (List.mem_cons_self ..) rfl (mem_sNames Nat.one_pos)) _
    | p | special | nat | neg | fp => exact .refl _
  case h_5 excl o d a =>
    cases h
    exact fun _ _ _ => (RegFrame.of_sticky (.inl hi) _).trans
      (.setLanes (RegRule.vName (List.mem_cons_self ..) rfl (mem_vNames Nat.one_pos)) (fun _ => id) _)
  case h_6 => cases h

theorem fltRule_frames (h : fltRule i = some r) : r.Frames i := by
  have hi : laneRule i ≠ none ∨ fltRule i ≠ none ∨ cvtRule i ≠ none := .inr (.inl (by simp [h]))
  unfold fltRule at h
  split at h
  all_goals cases h
  case h_19 cc ty d a b =>
    intro c s g
    cases d with
    | p i => exact (RegFrame.of_sticky hi _).trans (.setPred (List.mem_singleton.mpr rfl) _)
    | v n =>
      exact (RegFrame.of_sticky hi _).trans
        (.setLanes (RegRule.vName (List.mem_cons_self ..) rfl (mem_vNames Nat.one_pos)) (fun _ => id) _)
    | s | special | nat | neg | fp => exact .of_sticky hi _
  all_goals exact fRule_frames hi _ _ _

theorem cvtRule_frames (h : cvtRule i = some r) : r.Frames i := by
  have hi : laneRule i ≠ none ∨ fltRule i ≠ none ∨ cvtRule i ≠ none := .inr (.inr (by simp [h]))
  unfold cvtRule at h
  split at h
  all_goals cases h
  case h_4 => exact fRule_frames hi _ _ _
  case h_5 mf r d a sc rb =>
    refine fun c s g => (RegFrame.of_sticky hi _).trans (.setLanes
      (RegRule.vName (List.mem_cons_self ..) rfl (mem_vNames Nat.one_pos)) (fun l hl => getLsbD_maskOf_of_not hl) _)
  all_goals exact cRule_frames hi _ _ _ _ _ _ _

/-! ## The effect of each, within its frame -/

/-- Where the instruction issues and the rule's effect settles, it completes with an effect within the rule's frame. -/
def RegRule.StaysIn (r : RegRule) (i : Instr) : Prop :=
  ∀ (c0 c : Ctx) (s : State), c0.IssuesUnder c s r.core r.guard (r.uses · s) →
    c.Settles (c0.did c s (r.uses · s) (r.eff c s)) →
    ∃ f t, c.Completes (c0.did c s (r.uses · s) f) t ∧ exec i s = .next t ∧ ∀ g, RegFrame i c (r.changed c s) g (f g)

theorem RegRule.staysIn_of_completes (hc : r.completes i) (hf : r.Frames i) : r.StaysIn i := by
  intro c0 c s h hs
  obtain ⟨t, ht, he⟩ := (hc c0 c s h).1 hs
  exact ⟨_, t, ht, he, fun g => (RegFrame.endUses g).trans (hf c s _)⟩

/-- The same for an effect that binds what the rule's does. -/
theorem RegRule.staysIn_of {body : Ctx → State → Res} (hi : ∀ s, exec i s = issue r.spec body s)
    (hb : ∀ c s, ∃ f : Group → Group, body c s = c.retire s r.ends f ∧
      ∀ s' g, (f g).SameBindings (r.res c s' g) ∧ RegFrame i c (r.changed c s') g (f g)) : r.StaysIn i := by
  intro c0 c s h hs
  obtain ⟨f, hf, hk⟩ := hb c (c0.begun c s (r.uses · s))
  have he : exec i s = c.finish s (.done (c0.did c s (r.uses · s) fun g => f (g.endUses c.active r.ends))) := by
    rw [hi, issue_body (sp := r.spec) h rfl rfl rfl rfl]
    exact congrArg _ hf
  obtain ⟨g, hg, -⟩ := IssuesUnder_group h
  obtain ⟨gb, hgb⟩ := begun_grpOf (c0 := c0) (r.uses · s) hg
  obtain ⟨s2, h2⟩ := settles_of_sameBindings (f := fun g => f (g.endUses c.active r.ends)) hgb (hk s _).1 hs
  exact ⟨_, _, ⟨s2, h2, rfl⟩, he.trans (finish_done h2), fun g => (RegFrame.endUses g).trans (hk s _).2⟩

theorem uRule_staysIn {d : BitVec 9} {xs : List Src} {f : (Opnd → Word) → Word}
    (hi : ∃ F, ∀ s, exec i s = uniform d 1 (xs.map (fun x => (x, 1))) F s) : (uRule d xs f).StaysIn i := by
  obtain ⟨F, hi⟩ := hi
  exact RegRule.staysIn_of hi fun c s => ⟨_, rfl, fun s' g => ⟨(Group.SameBindings.refl g).setS ..,
    .setS (RegRule.sName (List.mem_cons_self ..) rfl (mem_sNames Nat.one_pos)) _⟩⟩

theorem uRule64_staysIn {d : BitVec 9} {xs : List Src} {f : (Opnd → DWord) → DWord}
    (hi : ∃ F, ∀ s, exec i s = uniform d 2 (xs.map (fun x => (x, 2))) F s) : (uRule64 d xs f).StaysIn i := by
  obtain ⟨F, hi⟩ := hi
  exact RegRule.staysIn_of hi fun c s => ⟨_, rfl, fun s' g => ⟨(Group.SameBindings.refl g).setS64 ..,
    .setS64 (RegRule.sName (List.mem_cons_self ..) rfl (mem_sNames Nat.two_pos))
      (RegRule.sName (List.mem_cons_self ..) rfl (mem_sNames Nat.one_lt_two)) _⟩⟩

theorem uniRule_staysIn (h : uniRule i = some r) : r.StaysIn i := by
  unfold uniRule at h
  split at h
  case h_1 w64 d a =>
    cases w64 <;> cases h
    · rw [if_neg Bool.false_ne_true]
      refine uRule_staysIn ?_
      exact ⟨_, fun s => by simp only [exec, execSMov, Bool.false_eq_true, if_false]; rfl⟩
    · rw [if_pos rfl]
      refine uRule64_staysIn ?_
      exact ⟨_, fun s => by simp only [exec, execSMov, if_true]; rfl⟩
  case h_2 x d imm =>
    cases x <;> cases h
    · rw [if_neg Bool.false_ne_true]
      refine uRule_staysIn ?_
      exact ⟨_, fun s => by simp only [exec, execSLi, Bool.false_eq_true, if_false]; rfl⟩
    · rw [if_pos rfl]
      refine uRule64_staysIn ?_
      exact ⟨_, fun s => by simp only [exec, execSLi, if_true]; rfl⟩
  all_goals cases h
  -- S.ADD64, S.SUB64 and S.SHL64
  case h_16 | h_17 | h_18 =>
    refine uRule64_staysIn ?_
    exact ⟨_, fun s => by simp only [exec, execSAdd64, execSSub64, execSShl64, uniWide]; rfl⟩
  all_goals
    refine uRule_staysIn ?_
    exact ⟨_, fun s => by
      simp only [exec, execSAdd, execSSub, execSMul, execSMulhi, execSAnd, execSOr, execSXor, execSNot, execSShl, execSShr,
        execSSra, execSMin, execSMax, execSBfe, execSBfi, execSClz, execSPopc, uniArith, uniBits]
      rfl⟩

theorem uniRule2_staysIn (hw : i.wf = true) (h : uniRule2 i = some r) : r.StaysIn i := by
  unfold uniRule2 at h
  split at h
  case h_1 cc t d a b =>
    cases h
    refine RegRule.staysIn_of (fun s => by simp only [exec, execSCmp]; rfl) fun c s => ⟨_, rfl, fun s' g => ?_⟩
    simp only [Instr.wf, Bool.and_eq_true] at hw
    obtain ⟨⟨⟨-, hd⟩, -⟩, -⟩ := hw
    cases d with
    | p i => exact ⟨(Group.SameBindings.refl g).setPred .., .setPred (List.mem_singleton.mpr rfl) _⟩
    | s n =>
      exact ⟨(Group.SameBindings.refl g).setS ..,
        .setS (RegRule.sName (List.mem_cons_self ..) rfl (mem_sNames Nat.one_pos)) _⟩
    | v | special | nat | neg | fp => simp [Opnd.isS, Opnd.isP] at hd
  case h_2 gd w64 d a b x =>
    cases h
    refine RegRule.staysIn_of (fun s => by simp only [exec, execSSel]; rfl) fun c s => ⟨_, rfl, fun s' g => ?_⟩
    cases w64
    · exact ⟨(Group.SameBindings.refl g).setS ..,
        .setS (RegRule.sName (List.mem_cons_self ..) rfl (mem_sNames Nat.one_pos)) _⟩
    · exact ⟨(Group.SameBindings.refl g).setS64 .., .setS64 (RegRule.sName (List.mem_cons_self ..) rfl
        (mem_sNames Nat.two_pos)) (RegRule.sName (List.mem_cons_self ..) rfl (mem_sNames Nat.one_lt_two)) _⟩
  case h_3 w64 d a i =>
    cases h
    refine RegRule.staysIn_of (fun s => by simp only [exec, execSVget]; rfl) fun c s => ⟨_, rfl, fun s' g => ?_⟩
    cases w64
    · exact ⟨(Group.SameBindings.refl g).setS ..,
        .setS (RegRule.sName (List.mem_cons_self ..) rfl (mem_sNames Nat.one_pos)) _⟩
    · exact ⟨(Group.SameBindings.refl g).setS64 .., .setS64 (RegRule.sName (List.mem_cons_self ..) rfl
        (mem_sNames Nat.two_pos)) (RegRule.sName (List.mem_cons_self ..) rfl (mem_sNames Nat.one_lt_two)) _⟩
  case h_4 => cases h

theorem regRule_staysIn (hw : i.wf = true) (h : regRule i = some r) : r.StaysIn i := by
  simp only [regRule, Option.or_eq_some_iff] at h
  rcases h with h | ⟨-, h | ⟨-, h | ⟨-, h | ⟨-, h | ⟨-, h | ⟨-, h⟩⟩⟩⟩⟩⟩
  · exact uniRule_staysIn h
  · exact uniRule2_staysIn hw h
  · exact RegRule.staysIn_of_completes (vectorIntegerResults i r hw (.inl h)) (vecRule_frames h)
  · exact RegRule.staysIn_of_completes (vectorIntegerResults i r hw (.inr h)) (vecRule2_frames h)
  · exact RegRule.staysIn_of_completes (crossLaneResults i r hw h) (laneRule_frames h)
  · exact RegRule.staysIn_of_completes (floatResults i r hw h) (fltRule_frames h)
  · exact RegRule.staysIn_of_completes (conversionResults i r hw h) (cvtRule_frames h)

/-- Settles O21: the frame of what issuing notes, of the effect and of the end of the slot, one after the other, with port A's
writes put back over both groups. -/
theorem registerFrame : Obligations.RegisterFrame := by
  unfold Obligations.RegisterFrame
  intro i r c0 c s hw he hr h hs
  obtain ⟨f, t, ht, hx, hf⟩ := regRule_staysIn hw hr c0 c s h hs
  obtain ⟨g, hg, -⟩ := IssuesUnder_group h
  obtain ⟨gb, hgb, hbf⟩ := begun_regFrame (i := i) (c0 := c0) (us := r.changed c s) (r.uses · s) hg
  have hd : (c0.did c s (r.uses · s) f).grpOf c.ag = some (f gb) := mod_grpOf f hgb
  obtain ⟨k, hk, hst⟩ := ht.group hd
  have hstores := ((State.SameStores.of_slotFrame (.begun c0 c s (r.uses · s))).trans (.mod c _ f)).trans ht.stores
  have hcl : c.cl = c0.cl := by rw [h.narrowed]
  have hm : RegFrame i c (r.changed c s) (c.merged s) k :=
    (RegFrame.merged (regRule_statWritten hw (hcl ▸ he) hr) ((pair?_mod ..).trans (begun_pair? ..)) hg hd
      (hbf.trans (hf gb))).trans (.stood hst)
  refine ⟨t, k, hx, hk, hstores.mem, hstores.sram, fun _ _ => hm, fun ha _ => ?_⟩
  have hg' : c.merged s = s.k.grp := by simp [Ctx.merged, Ctx.now, State.pair?, State.grpOf, ha]
  exact hg' ▸ hm

end Sys2Proof.Machine
end

section
/-! PROOFS. A slot that no run reaches but every statement about all slots speaks of: CLK issued in a slot whose word is a
V.LI's. The latency of a result is read from the slot's word, so CLK sees a result of its own on its way and holds. -/
namespace Sys2Proof.Machine
open Wf

/-- A slot with a V.LI, whose result takes two cycles. -/
def clkBench : State := bench (.vLi false 2 7)

/-- How many instructions the group has issued. -/
def State.benchInstrs (s : State) : Option Nat := (s.group? 0 0).map Group.instrs

/-- Refutes O48: with every flag clear and no result on its way CLK should complete in this slot, and count as issued; it
holds. -/
theorem not_countersAndCaches : ¬ Obligations.CountersAndCaches := fun h =>
  not_runsTo (s := clkBench) (s2 := _) State.benchInstrs rfl (by decide)
    ((h.2.1 2 (Wit.ctxOf clkBench) clkBench (Wit.issues (by decide))).1 (by decide) (by decide))
end Sys2Proof.Machine
end

section
/-! PROOFS. TRAP, BRK, WFI and IRET (R356, R383, R387, R388). -/
namespace Sys2Proof.Machine

/-! ## The Kennel core's slot -/

variable {c : Ctx} {s : State}

/-- The Kennel core's own group, noted, and nothing else of its registers. -/
theorem begun_kennel {core : CoreSet} {us : Ctx → List Use} (h : c.Issues s core us) (ha : c.ag = .kennel) :
    ∃ g, s.k.grp.Noted g ∧ (c.begun c s us).k = { s.k with grp := g } ∧ c.g = s.k.grp := by
  obtain ⟨g, hg, -, hc⟩ := slot_group h.slot
  obtain ⟨gb, hgb, hno⟩ := begun_noted (c0 := c) us hg
  obtain ⟨x, hx⟩ := (State.SlotFrame.begun c c s us).kennel
  rw [ha] at hg hgb hc
  cases hg
  refine ⟨gb, hno, ?_, hc⟩
  have hxg : x = gb := by simpa [State.grpOf, hx] using hgb
  rw [hx, hxg]

/-- An effect that leaves the core's group, but for what issuing notes, settles as it stands. -/
theorem settle_kennel_noted {x : State} (ha : c.ag = .kennel) (hn : c.g.Noted x.k.grp) : c.settle x = .ok x := by
  have hm : c.merged x = x.k.grp := by simp [Ctx.merged, Ctx.now, State.pair?, State.grpOf, ha]
  have ho : overBudget c.g x.k.grp = false := by
    obtain ⟨_, _, _, _, _, _, _, hg⟩ := hn
    simp [hg, overBudget, Group.boundV, Group.boundS]
  unfold Ctx.settle
  simp [ha, hm, ho]

/-! ## The last word of a Kennel clause -/

theorem mod_kennel (ha : c.ag = .kennel) (x : State) (f : Group → Group) :
    c.mod x f = { x with k := { x.k with grp := f x.k.grp } } := by
  simp [Ctx.mod, Ctx.put, Ctx.now, State.grpOf, State.putGrp, ha]

/-- The core's group once it has left its clause. -/
def Ctx.kLeft (c : Ctx) (x : State) : Group :=
  ((x.k.grp.countSlot).modLanes (c.cl.lanes &&& x.k.grp.countSlot.movers) (fun y =>
    { y with pc := c.cl.succ, resume := none })).leavePort false x.clk

theorem kLeft_length (c : Ctx) (x : State) : (c.kLeft x).lanes.length = x.k.grp.lanes.length := by
  rw [Ctx.kLeft, leavePort_lanes]
  exact mapLanes_length ..

/-- At the last word of its clause the core takes what the clause has left for its end. -/
theorem kennel_lastWord (x : State) (ha : c.ag = .kennel) (hp : c.cl.pos + 1 = c.cl.words.length) :
    c.next (c.advance x) =
      { (kEnds x.k.ends c.cl.succ { x with k := { x.k with ends := [], grp := c.kLeft x } }).tick 1 with
        focus := .kennel } := by
  have hslot : c.slot x = { x with k := { x.k with grp := x.k.grp.countSlot } } := by
    rw [Ctx.slot, mod_kennel ha]
    simp [Ctx.team?, ha, Agent.team]
  unfold Ctx.next Ctx.advance Ctx.endClause
  simp only [hslot, mod_kennel ha, ha, hp, Nat.lt_irrefl, if_false]
  rfl

/-- TRAP's or BRK's vector is taken there (R387). -/
theorem kennel_takes {x : State} {e : ClauseEnd} {k : Nat} (ha : c.ag = .kennel) (hp : c.cl.pos + 1 = c.cl.words.length)
    (he : x.k.ends = [e]) (hk : (k = 0 ∧ e = .trap) ∨ (k = 1 ∧ e = .brk)) (hl : x.k.locked = none) (hi : x.k.inh = false)
    (hn : 0 < x.k.grp.lanes.length) (ht : x.target .kennel (x.vectorWord k) = true) :
    let t := c.next (c.advance x)
    t.k.vec = BitVec.ofNat 8 k ∧ t.k.kepc = c.cl.succ ∧ t.k.inh = true ∧ t.kPc = x.vectorWord k ∧
        t.k.ends = [] ∧ t.mem = x.mem ∧ t.k.sram = x.k.sram := by
  intro t
  obtain ⟨y, hy⟩ : ∃ y : State, y = { x with k := { x.k with ends := [], grp := c.kLeft x } } := ⟨_, rfl⟩
  have hv : y.kVector k c.cl.succ true = (y.atVector k c.cl.succ).setKPc (x.vectorWord k) := by
    have hw : y.vectorWord k = x.vectorWord k := by rw [hy]; rfl
    have ht' : y.target .kennel (x.vectorWord k) = true := by
      rw [← ht]
      exact target_kennel_congr (by rw [hy]) (by rw [hy]) _
    rw [kVector_eq (by simp [hy, hi]), hw, if_pos ht']
  have hend : kEnds x.k.ends c.cl.succ y = (y.atVector k c.cl.succ).setKPc (x.vectorWord k) := by
    have hyl : y.k.locked.isSome = false := by simp [hy, hl]
    rw [he, kEnds.eq_def]
    simp only [hyl, Bool.false_eq_true, if_false, ← hv]
    rcases hk with ⟨rfl, rfl⟩ | ⟨rfl, rfl⟩ <;> rfl
  have hte : t = { ((y.atVector k c.cl.succ).setKPc (x.vectorWord k)).tick 1 with focus := .kennel } := by
    rw [← hend, hy]
    exact kennel_lastWord x ha hp
  have hpc : t.kPc = x.vectorWord k := by
    rw [hte]
    refine kPc_setKPc _ _ ?_
    rw [hy]
    exact (kLeft_length c x).symm ▸ hn
  rw [hte, hy] at *
  exact ⟨rfl, rfl, rfl, hpc, rfl, rfl, rfl⟩

/-! ## The instructions -/

theorem exec_trap (n : Word) (s : State) : exec (.trap n) s = issue { core := .both } (fun c s =>
    match c.ag with
    | .kennel => .done (s.atEnd .trap)
    | .port _ _ _ => .trap .trapN c.active n) s := rfl

theorem exec_brk (n : Word) (s : State) : exec (.brk n) s = issue { core := .both } (fun c s =>
    match c.ag with
    | .kennel => .done (s.atEnd .brk)
    | .port _ _ _ => if c.noBrk s then .done s else .trap .brkpt c.active n) s := rfl

theorem exec_wfi (s : State) : exec .wfi s =
    issue { core := .kennel } (fun _ s => if s.kPending = 0#32 then .hold else .done s) s := rfl

theorem exec_iret (s : State) : exec .iret s = issue { core := .kennel } (fun c s =>
    if s.k.inh then .done (s.atEnd (.iret c.cl.word)) else .trap .illOp c.active 0) s := rfl

/-- What an instruction that uses no register answers. -/
theorem issue_plain {core : CoreSet} {body : Ctx → State → Res} (h : c.Issues s core (fun _ => [])) :
    issue { core := core } body s = c.finish s (body c (c.begun c s (fun _ => []))) :=
  issue_body (sp := { core := core }) h rfl rfl rfl rfl

/-- The record that NOBRK stands in is not changed by issuing. -/
theorem noBrk_begun {t gi : Nat} {b : Bool} (ha : c.ag = .port t gi b) (us : Ctx → List Use) :
    c.noBrk (c.begun c s us) = (((s.team? t).bind (fun tm => s.grid? tm.grid)).map (fun g => g.lr.nobrk)).getD false := by
  have hf := State.SlotFrame.begun c c s us
  have ht := hf.teams t
  have hg (n : Word) : (c.begun c s us).grid? n = s.grid? n := by rw [State.grid?, hf.grids]; rfl
  simp only [Ctx.noBrk, Ctx.team?, ha, Agent.team, Option.bind_some, hg]
  cases h1 : (c.begun c s us).team? t <;> cases h2 : s.team? t <;> simp [h1, h2, Team.bare] at ht ⊢
  simp [ht]

/-- Settles O47: on a compute group both answer a trap; on the Kennel core both leave their vector, which the last word of the
clause takes. -/
theorem trapAndBreak : Obligations.TrapAndBreak := by
  unfold Obligations.TrapAndBreak
  refine ⟨fun n c s t gi b h ha => ⟨?_, fun hn => ?_, fun tm g ht hg hb => ?_⟩, fun n c s h ha => ?_⟩
  · rw [TrapsTo, exec_trap, issue_plain h, ha]
    rfl
  · have hb : c.noBrk (c.begun c s (fun _ => [])) = false := by
      rw [noBrk_begun ha]
      cases ht : s.team? t with
      | none => rfl
      | some tm =>
        cases hg : s.grid? tm.grid with
        | none => simp [hg]
        | some g => simp [hg, hn tm g ht hg]
    rw [TrapsTo, exec_brk, issue_plain h, hb, ha]
    rfl
  · have hb : c.noBrk (c.begun c s (fun _ => [])) = true := by
      rw [noBrk_begun ha]
      simp [ht, hg, hb]
    refine runsTo_of_done ?_
    rw [exec_brk, issue_plain h, hb, ha]
    rfl
  · intro s'
    have htrap : exec (.trap n) s = c.finish s (.done (s'.atEnd .trap)) := by rw [exec_trap, issue_plain h, ha]
    have hbrk : exec (.brk n) s = c.finish s (.done (s'.atEnd .brk)) := by rw [exec_brk, issue_plain h, ha]
    refine ⟨runsTo_of_done htrap, runsTo_of_done hbrk, fun k i hk he hi hl hp hn => ?_⟩
    intro v hv
    obtain ⟨g, hno, hbk, hcg⟩ := begun_kennel h ha
    have hf := State.SlotFrame.begun c c s (fun _ => [])
    have hlen : g.lanes.length = s.k.grp.lanes.length := by obtain ⟨_, _, _, _, _, _, _, rfl⟩ := hno; rfl
    have takes (e : ClauseEnd) (hke : (k = 0 ∧ e = .trap) ∨ (k = 1 ∧ e = .brk))
        (hx : exec i s = c.finish s (.done (s'.atEnd e))) :
        ∃ t, exec i s = .next t ∧ t.k.vec = BitVec.ofNat 8 k ∧ t.k.kepc = c.cl.succ ∧ t.k.inh = true ∧ t.kPc = v ∧
          t.k.ends = [] ∧ t.mem = s.mem ∧ t.k.sram = s.k.sram := by
      have hsk : (s'.atEnd e).k = { s.k with grp := g, ends := [e] } := by
        show { s'.k with ends := s'.k.ends ++ [e] } = _
        rw [hbk]
        simp [he]
      have hvw : (s'.atEnd e).vectorWord k = v := by rw [State.vectorWord, hsk]
      have hst := settle_kennel_noted (x := s'.atEnd e) ha (by rw [hsk, hcg]; exact hno)
      have := kennel_takes (x := s'.atEnd e) ha hp (by rw [hsk]) hke (by rw [hsk]; exact hl) (by rw [hsk]; exact hi)
        (by rw [hsk]; rwa [hcg, ← hlen] at hn) (by
          rw [hvw, ← hv]
          exact target_kennel_congr hf.icache (State.SameStores.of_slotFrame hf).sram _)
      rw [hvw, hsk] at this
      exact ⟨_, hx.trans (finish_done hst), this.1, this.2.1, this.2.2.1, this.2.2.2.1, this.2.2.2.2.1,
        this.2.2.2.2.2.1.trans hf.mem, this.2.2.2.2.2.2⟩
    rcases hk with ⟨hk, rfl⟩ | ⟨hk, rfl⟩
    · exact takes .trap (.inl ⟨hk, rfl⟩) htrap
    · exact takes .brk (.inr ⟨hk, rfl⟩) hbrk

/-- Settles O50: both answer by what is pending and by INH; the return is taken at the last word of the clause. -/
theorem waitAndReturn : Obligations.WaitAndReturn := by
  unfold Obligations.WaitAndReturn
  refine ⟨fun c s h => ?_, fun c s h ha hi he hl hp hn ht => ?_⟩
  · intro s'
    obtain ⟨g, hk⟩ := (State.SlotFrame.begun c c s (fun _ => [])).kennel
    have hw : exec .wfi s = c.finish s (if s'.kPending = 0 then .hold else .done s') := by
      rw [exec_wfi, issue_plain h]
      rfl
    have hr : exec .iret s = c.finish s (if s'.k.inh then .done (s'.atEnd (.iret c.cl.word)) else .trap .illOp c.active 0) := by
      rw [exec_iret, issue_plain h]
    have hp : s'.kPending = s.k.kipend &&& s.k.kien := by rw [State.kPending, hk]
    have hinh : s'.k.inh = s.k.inh := by rw [hk]
    rw [hp] at hw
    rw [hinh] at hr
    refine ⟨fun h0 => ?_, fun h0 => ?_, fun h0 => ?_, fun h0 => ?_⟩
    · rw [if_neg h0] at hw
      exact runsTo_of_done hw
    · rw [if_pos h0] at hw
      exact hw
    · rw [if_pos h0] at hr
      exact runsTo_of_done hr
    · rw [h0, if_neg Bool.false_ne_true] at hr
      exact hr
  · obtain ⟨g, hno, hbk, hcg⟩ := begun_kennel h ha
    obtain ⟨s', hs'⟩ : ∃ s', s' = c.begun c s (fun _ => []) := ⟨_, rfl⟩
    have hf := State.SlotFrame.begun c c s (fun _ => [])
    rw [← hs'] at hbk hf
    have hlen : g.lanes.length = s.k.grp.lanes.length := by obtain ⟨_, _, _, _, _, _, _, rfl⟩ := hno; rfl
    have hx : exec .iret s = c.finish s (.done (s'.atEnd (.iret c.cl.word))) := by
      rw [exec_iret, issue_plain h, ← hs', hbk, hi, if_pos rfl]
    obtain ⟨x, hxs⟩ : ∃ x, x = s'.atEnd (.iret c.cl.word) := ⟨_, rfl⟩
    have hsk : x.k = { s.k with grp := g, ends := [ClauseEnd.iret c.cl.word] } := by
      rw [hxs]
      show { s'.k with ends := s'.k.ends ++ [ClauseEnd.iret c.cl.word] } = _
      rw [hbk]
      simp [he]
    have hst := settle_kennel_noted (x := x) ha (by rw [hsk, hcg]; exact hno)
    obtain ⟨y, hy⟩ : ∃ y : State, y = { x with k := { x.k with ends := [], grp := c.kLeft x } } := ⟨_, rfl⟩
    have hyk : y.k.kepc = s.k.kepc ∧ y.k.locked = none ∧ y.k.ends = [] := by rw [hy, hsk]; exact ⟨rfl, hl, rfl⟩
    have hend : kEnds x.k.ends c.cl.succ y = ({ y with k := { y.k with inh := false } } : State).setKPc s.k.kepc := by
      have hret : y.kReturn = ({ y with k := { y.k with inh := false } } : State).setKPc y.k.kepc := by
        rw [State.kReturn]
        refine if_pos ((target_kennel_congr (s := s) ?_ ?_ _).trans ?_)
        · rw [hy, hxs]; exact hf.icache
        · rw [hy, hsk]
        · rw [hyk.1, ht]
      rw [hsk, kEnds, hyk.2.1]
      exact hret.trans (by rw [hyk.1])
    have hte := kennel_lastWord x ha hp
    rw [← hy, hend] at hte
    refine ⟨_, (hx.trans (hxs ▸ finish_done hst)).trans (congrArg _ hte), rfl, ?_, hyk.1, hyk.2.2⟩
    refine kPc_setKPc _ _ ?_
    rw [hy]
    show 0 < (c.kLeft x).lanes.length
    rwa [kLeft_length, hsk, hlen, ← hcg]

end Sys2Proof.Machine
end

section
/-! PROOFS. Long-latency instructions that issue unhindered, and what they leave in flight (R67, R69). -/
namespace Sys2Proof.Machine

/-- A long-latency instruction that passes the checks of issue answers what its body answers. -/
theorem issueLong_body {sp : Spec} {body : Ctx → State → Res} {s : State} {c0 c : Ctx}
    (h : c0.IssuesLong c s sp.core sp.flag sp.guard (sp.uses · s) sp.consumes) (he : sp.encOk c0 = true)
    (hd : sp.hdrOk c = true) : issue sp body s = c.finish s (body c (c0.begun c s (sp.uses · s))) := by
  have hcl : c.cl = c0.cl := by rw [h.base.narrowed]
  refine issue_body h.base he (hcl ▸ h.field) hd ?_
  have hr := h.room
  rw [← hcl] at hr
  unfold Spec.full
  split
  · next f hf => simpa using hr f hf
  · rfl

/-- An access that switches no lane off leaves its operation in flight. -/
theorem spadDone_done (c : Ctx) (s : State) (f : FlagUse) (xs : List (Src × Nat)) (lands : List Land) (dV dS : List Nat) :
    c.spadDone s f xs 0 lands dV dS = .done (c.flies s f xs lands dV dS) := by
  have ho : ({ c.op f (.land lands) with dstV := dV, dstS := dS, lanes := c.active &&& ~~~(0 : Mask) } : Op) =
      { c.op f (.land lands) with dstV := dV, dstS := dS } := by
    simp only [Ctx.op, BitVec.not_zero, BitVec.ofNat_eq_ofNat, BitVec.and_allOnes]
  simp only [Ctx.spadDone, ho, Group.switchOff, if_true]
  rfl

theorem landWords_one (l : Option Nat) (d : Nat) (x : Word) : landWords l d [x] = [⟨l, d, x, false⟩] := rfl

/-- Issuing leaves the operations in flight. -/
theorem begun_ops {c0 c : Ctx} {s : State} {core : CoreSet} {gd : GuardUse} {vs : Ctx → List Use} {b : Bool}
    (h : c0.IssuesUnder c s core gd vs b) (us : Ctx → List Use) : (c.now (c0.begun c s us)).ops = (c.now s).ops := by
  obtain ⟨g, hg, hn⟩ := IssuesUnder_group h
  obtain ⟨k, hk, _, _, _, _, _, _, _, rfl⟩ := begun_noted (c0 := c0) us hg
  rw [hn, Ctx.now, hk]
  rfl

/-- What an access waits for depends on the operations in flight. -/
theorem mustWait_congr {g h : Group} (he : g.ops = h.ops) (a b : Bool) : g.mustWait a b = h.mustWait a b := by
  simp only [Group.mustWait, Group.acquireOpen, Group.releaseOpen, Group.earlierOpen, he]

end Sys2Proof.Machine
end

section
/-! PROOFS. LAUNCH (R345). -/
namespace Sys2Proof.Machine

/-- LAUNCH on the Kennel core. -/
theorem exec_launch_kennel {fs : Bool} {d : BitVec 9} {q a : Src} {c : Ctx} {s : State}
    (h : c.IssuesLong c s .both (.must fs) .all (fun c => wrS c d 1 :: readsOf c [(q, 1), (a, 2)])) (ha : c.ag = .kennel) :
    let s' := c.begun c s (fun c => wrS c d 1 :: readsOf c [(q, 1), (a, 2)])
    let code := s'.launchCode (c.rd s q.op 0).toNat (c.rd64 s a.op 0)
    exec (.launch fs d q a) s = c.finish s (.done (c.mod
      (if code = 0 then s'.enqueue (c.rd s q.op 0).toNat ⟨c.rd64 s a.op 0, none⟩ else s')
      (landAll [⟨none, d.toNat, BitVec.ofNat 32 code, false⟩] 0))) := by
  intro s' code
  show execLaunch fs d q a s = _
  unfold execLaunch
  refine (issueLong_body (sp := { core := .both, flag := .must fs, uses := fun c _ => wrS c d 1 :: readsOf c [(q, 1), (a, 2)] })
    h rfl rfl).trans ?_
  simp only [ha, rdU_begun, rdU64_begun]
  rfl

/-- A result for a uniform register of a live group. -/
theorem landAll_uniform {g : Group} (h : g.live = true) (n : Nat) (x : Word) : landAll [⟨none, n, x, false⟩] 0 g = g.setS n x := by
  simp [landAll, h]

theorem launch_kennel {fs : Bool} {d : BitVec 9} {q a : Src} {c : Ctx} {s : State}
    (h : c.IssuesLong c s .both (.must fs) .all (fun c => wrS c d 1 :: readsOf c [(q, 1), (a, 2)])) (ha : c.ag = .kennel)
    (hl : c.g.live = true) :
    let s' := c.begun c s (fun c => wrS c d 1 :: readsOf c [(q, 1), (a, 2)])
    let code := s'.launchCode (c.rd s q.op 0).toNat (c.rd64 s a.op 0)
    RunsTo (.launch fs d q a) c s (c.mod
      (if code = 0 then s'.enqueue (c.rd s q.op 0).toNat ⟨c.rd64 s a.op 0, none⟩ else s')
      (fun g => g.setS d.toNat (BitVec.ofNat 32 code))) := by
  intro s' code
  have hx : ∀ x : State, x.k.grp = s'.k.grp → c.mod x (landAll [⟨none, d.toNat, BitVec.ofNat 32 code, false⟩] 0) =
      c.mod x (fun g => g.setS d.toNat (BitVec.ofNat 32 code)) := by
    intro x hxg
    obtain ⟨g, hno, hk, hcg⟩ := begun_kennel h.base ha
    have hlv : x.k.grp.live = true := by
      obtain ⟨_, _, _, _, _, _, _, rfl⟩ := hno
      rw [hxg]
      show (c.begun c s _).k.grp.live = true
      rw [hk]
      exact hcg ▸ hl
    rw [mod_kennel ha, mod_kennel ha, landAll_uniform hlv]
  refine runsTo_of_done ((exec_launch_kennel h ha).trans ?_)
  rw [← hx]
  split <;> rfl

/-- LAUNCH on a compute core. -/
theorem launch_port {fs : Bool} {d : BitVec 9} {q a : Src} {c : Ctx} {s : State}
    (h : c.IssuesLong c s .both (.must fs) .all (fun c => wrS c d 1 :: readsOf c [(q, 1), (a, 2)]))
    (t gi : Nat) (b : Bool) (tm : Team) (g : Grid) (ha : c.ag = .port t gi b) :
    let us (c : Ctx) := wrS c d 1 :: readsOf c [(q, 1), (a, 2)]
    let s' := c.begun c s us
    let qn := (c.rd s q.op 0).toNat
    let ad := c.rd64 s a.op 0
    let code := s'.launchCode qn ad
    s'.team? t = some tm → s'.grid? tm.grid = some g → (c.now s).mustWait true true = false →
      RunsTo (.launch fs d q a) c s (c.flies
        ((if code = 0 then s'.enqueue qn ⟨ad, some (g.lr.root, g.lr.asid)⟩ else s').modTeam t (fun x =>
          { x with since := { x.since with launch := true } }))
        (.must fs) [(q, 1), (a, 2)] [⟨none, d.toNat, BitVec.ofNat 32 code, false⟩] [] [d.toNat]) := by
  intro us s' qn ad code ht hg hw
  refine runsTo_of_done ?_
  show execLaunch fs d q a s = _
  unfold execLaunch
  refine (issueLong_body
    (sp := { core := .both, flag := .must fs, uses := fun c _ => wrS c d 1 :: readsOf c [(q, 1), (a, 2)] }) h rfl rfl).trans ?_
  have hw' : (c.now s').mustWait true true = false := (mustWait_congr (begun_ops h.base us) ..).trans hw
  have ht' : (s'.team? t).bind (fun tm => s'.grid? tm.grid) = some g := by simp [ht, hg]
  simp only [ha, rdU_begun, rdU64_begun]
  rw [if_neg (by rw [hw']; decide), ht']
  exact congrArg _ (spadDone_done ..)

/-- Settles O49: the tests in their order; on the Kennel core the answer is written at once, else it is in flight. -/
theorem launchPushes : Obligations.LaunchPushes := by
  unfold Obligations.LaunchPushes
  refine ⟨fun s q a => ⟨fun h => ?_, fun h h1 => ?_, fun h h1 h2 => ?_, fun h h1 h2 h3 => ?_, fun h h1 h2 h3 => ?_⟩,
    fun fs d q a c s => ?_⟩
  rotate_left 5
  · intro us s' qn ad code h
    exact ⟨launch_kennel h, launch_port h⟩
  · simp [State.launchCode, h]
  · simp [State.launchCode, Nat.not_lt.2 h, h1]
  · simp [State.launchCode, Nat.not_lt.2 h, h1, h2]
  · simp [State.launchCode, Nat.not_lt.2 h, h1, h2, h3]
  · simp [State.launchCode, Nat.not_lt.2 h, h1, h2, Nat.not_le.2 h3]

end Sys2Proof.Machine
end

section
/-! PROOFS. The pieces of an access (R198, R204). -/
namespace Sys2Proof.Machine

/-! ## The next edge -/

/-- No line and no declared range begins or ends between an address and its next edge. -/
theorem nextEdge_spec (t : Team) (a : Nat) : a < t.nextEdge a ∧ t.nextEdge a ≤ (a / 128 + 1) * 128 ∧
    ∀ x ∈ t.ranges, (a < x.start → t.nextEdge a ≤ x.start) ∧ (a < x.start + x.len → t.nextEdge a ≤ x.start + x.len) := by
  have key : ∀ (xs : List Extent) (e : Nat), a < e →
      let r := xs.foldl (fun e x =>
        let e1 := if a < x.start then min e x.start else e
        if a < x.start + x.len then min e1 (x.start + x.len) else e1) e
      a < r ∧ r ≤ e ∧ ∀ x ∈ xs, (a < x.start → r ≤ x.start) ∧ (a < x.start + x.len → r ≤ x.start + x.len) := by
    intro xs
    induction xs with
    | nil => exact fun e he => ⟨he, Nat.le_refl _, fun x hx => by simp at hx⟩
    | cons x xs ih =>
      intro e he
      obtain ⟨e2, he2⟩ : ∃ e2, e2 = (if a < x.start + x.len then
        min (if a < x.start then min e x.start else e) (x.start + x.len) else if a < x.start then min e x.start else e) :=
        ⟨_, rfl⟩
      have h2 : a < e2 ∧ e2 ≤ e ∧ (a < x.start → e2 ≤ x.start) ∧ (a < x.start + x.len → e2 ≤ x.start + x.len) := by
        rw [he2]; (repeat' split) <;> omega
      obtain ⟨h3, h4, h5⟩ := ih e2 h2.1
      simp only [List.foldl_cons, ← he2]
      refine ⟨h3, Nat.le_trans h4 h2.2.1, fun y hy => ?_⟩
      rcases List.mem_cons.mp hy with rfl | hy
      · exact ⟨fun h => Nat.le_trans h4 (h2.2.2.1 h), fun h => Nat.le_trans h4 (h2.2.2.2 h)⟩
      · exact h5 y hy
  exact key t.ranges _ (by omega)

/-- Up to its next edge every address lies in the range that an address lies in. -/
theorem rangeAt_eq {t : Team} {a b : Nat} (h1 : a ≤ b) (h2 : b < t.nextEdge a) : t.rangeAt b = t.rangeAt a := by
  obtain ⟨-, -, he⟩ := nextEdge_spec t a
  have hhas : ∀ x ∈ t.ranges, x.has b = x.has a := by
    intro x hx
    obtain ⟨hs, hl⟩ := he x hx
    simp only [Extent.has, Bool.and_eq_decide, decide_eq_decide, decide_eq_true_eq]
    constructor
    · intro h
      exact ⟨by refine Classical.byContradiction fun hc => ?_; have := hs (by omega); omega, by omega⟩
    · intro h
      have := hl h.2
      omega
  have hfind (c : RClass) : t.ranges.find? (fun x => x.cls = c && x.has b) = t.ranges.find? (fun x => x.cls = c && x.has a) := by
    have key : ∀ xs : List Extent, (∀ x ∈ xs, x.has b = x.has a) →
        xs.find? (fun x => x.cls = c && x.has b) = xs.find? (fun x => x.cls = c && x.has a) := by
      intro xs
      induction xs with
      | nil => exact fun _ => rfl
      | cons x xs ih =>
        intro hx
        simp only [List.find?_cons, hx x (List.mem_cons_self ..), ih fun y hy => hx y (List.mem_cons_of_mem _ hy)]
    exact key _ hhas
  simp only [Team.rangeAt, hfind]

/-! ## The pieces -/

/-- What is true of one piece of an access to the bytes from `a` to `stop`. -/
structure MPiece.Of (p : MPiece) (t : Team) (a stop : Nat) : Prop where
  pos : 0 < p.len
  lo : a ≤ p.va
  hi : p.va + p.len ≤ stop
  line : p.va / 128 = (p.va + p.len - 1) / 128
  range : p.range = t.rangeAt p.va
  edge : p.va + p.len ≤ t.nextEdge p.va

theorem piecesFrom_cons {t : Team} {fuel a stop : Nat} (h : a < stop) : t.piecesFrom (fuel + 1) a stop =
    ⟨a, min (t.nextEdge a) stop - a, t.rangeAt a⟩ :: t.piecesFrom fuel (min (t.nextEdge a) stop) stop := by
  rw [Team.piecesFrom, if_neg (Nat.not_le.2 h)]

/-- An access to no byte has no piece. -/
theorem piecesFrom_nil {t : Team} {fuel a stop : Nat} (h : stop ≤ a) : t.piecesFrom fuel a stop = [] := by
  cases fuel with
  | zero => rfl
  | succ n => rw [Team.piecesFrom, if_pos h]

theorem piecesFrom_of {t : Team} : ∀ {fuel a stop : Nat}, ∀ p ∈ t.piecesFrom fuel a stop, p.Of t a stop
  | 0, _, _, p, hp => by simp [Team.piecesFrom] at hp
  | fuel + 1, a, stop, p, hp => by
    by_cases h : a < stop
    · obtain ⟨h1, h2, -⟩ := nextEdge_spec t a
      rw [piecesFrom_cons h, List.mem_cons] at hp
      rcases hp with rfl | hp
      · exact ⟨by dsimp only; omega, Nat.le_refl _, by dsimp only; omega, by dsimp only; omega, rfl, by dsimp only; omega⟩
      · obtain ⟨k1, k2, k3, k4, k5, k6⟩ := piecesFrom_of p hp
        exact ⟨k1, by omega, k3, k4, k5, k6⟩
    · rw [piecesFrom_nil (Nat.not_lt.1 h)] at hp
      simp at hp

/-- The pieces cover the bytes, as long as the fuel lasts. -/
theorem piecesFrom_sum {t : Team} : ∀ {fuel a stop : Nat}, a ≤ stop → stop ≤ a + fuel →
    ((t.piecesFrom fuel a stop).map MPiece.len).sum = stop - a
  | 0, a, stop, h1, h2 => by simp [Team.piecesFrom]; omega
  | fuel + 1, a, stop, h1, h2 => by
    by_cases h : a < stop
    · obtain ⟨h3, -, -⟩ := nextEdge_spec t a
      rw [piecesFrom_cons h, List.map_cons, List.sum_cons, piecesFrom_sum (by omega) (by omega)]
      dsimp only
      omega
    · rw [piecesFrom_nil (Nat.not_lt.1 h)]
      simp
      omega

theorem piecesFrom_pairwise {t : Team} : ∀ {fuel a stop : Nat},
    (t.piecesFrom fuel a stop).Pairwise (fun p q => p.va + p.len ≤ q.va)
  | 0, _, _ => .nil
  | fuel + 1, a, stop => by
    by_cases h : a < stop
    · obtain ⟨h1, -, -⟩ := nextEdge_spec t a
      rw [piecesFrom_cons h]
      refine List.Pairwise.cons (fun q hq => ?_) piecesFrom_pairwise
      have := (piecesFrom_of q hq).lo
      dsimp only
      omega
    · rw [piecesFrom_nil (Nat.not_lt.1 h)]
      exact .nil

/-- Settles O29: by recursion over the edges; no declared range begins or ends inside a piece. -/
theorem piecesPartition : Obligations.PiecesPartition := by
  unfold Obligations.PiecesPartition
  intro tm a n hn ps
  refine ⟨?_, ?_, fun p hp => ?_, piecesFrom_pairwise⟩
  · obtain ⟨m, rfl⟩ := Nat.exists_eq_succ_of_ne_zero (Nat.ne_of_gt hn)
    show (tm.piecesFrom (m + 1) a _).head?.map MPiece.va = some a
    rw [piecesFrom_cons (by omega)]
    rfl
  · exact (piecesFrom_sum (by omega) (Nat.le_refl _)).trans (by omega)
  · obtain ⟨h1, h2, h3, h4, h5, h6⟩ := piecesFrom_of p hp
    exact ⟨h1, h2, h3, h4, h5, fun k hk => by rw [h5, rangeAt_eq (Nat.le_add_right ..) (by omega)]⟩

end Sys2Proof.Machine
end

section
/-! PROOFS. Loads and stores of a piece (R204, R205, R222, R230). -/
namespace Sys2Proof.Machine

/-! ## Bytes -/

theorem Memory.readN_length (m : Memory) (a n : Nat) : (Memory.readN m a n).length = n := by
  induction n generalizing a with
  | zero => rfl
  | succ n ih => simp [Memory.readN, ih]

theorem Memory.readN_getD (m : Memory) (a n k : Nat) (h : k < n) : (Memory.readN m a n).getD k 0 = Memory.read m (a + k) := by
  induction n generalizing a k with
  | zero => omega
  | succ n ih =>
    cases k with
    | zero => rfl
    | succ k =>
      rw [Memory.readN, List.getD_cons_succ, ih (a + 1) k (by omega)]
      congr 1
      omega

theorem overlay_length (st : List Host.Cell) (b : List Byte) (pa : Nat) : (overlay st pa b).length = b.length := by
  induction b generalizing pa with
  | nil => rfl
  | cons x r ih => simp [overlay, ih]

/-- The team's staged bytes lie over the others. -/
theorem overlay_getD (st : List Host.Cell) (b : List Byte) (pa k : Nat) (h : k < b.length) :
    (overlay st pa b).getD k 0 = AMap.getD st (pa + k) (b.getD k 0) := by
  induction b generalizing pa k with
  | nil => simp at h
  | cons x r ih =>
    cases k with
    | zero => rfl
    | succ k =>
      rw [overlay, List.getD_cons_succ, List.getD_cons_succ, ih (pa + 1) k (by simpa using h)]
      congr 1
      omega

/-- Where a byte is staged, what lies beneath it does not matter. -/
theorem overlay_staged {st : List Host.Cell} {pa k : Nat} (h : (AMap.get? st (pa + k)).isSome = true) (x y : Byte) :
    AMap.getD st (pa + k) x = AMap.getD st (pa + k) y := by
  obtain ⟨z, hz⟩ := Option.isSome_iff_exists.mp h
  simp [AMap.getD, hz]

theorem allStaged_iff {st : List Host.Cell} {pa n : Nat} :
    allStaged st pa n = true ↔ ∀ k, k < n → (AMap.get? st (pa + k)).isSome = true := by
  simp [allStaged, upTo, AMap.has]

/-- The bytes written one after the other from `pa` on. -/
def stageBytes (st : List Host.Cell) (pa : Nat) (b : List Byte) : List Host.Cell :=
  (b.foldl (fun (acc : List Host.Cell × Nat) y => (AMap.set acc.1 acc.2 y, acc.2 + 1)) (st, pa)).1

theorem stageBytes_cons (st : List Host.Cell) (pa : Nat) (x : Byte) (b : List Byte) :
    stageBytes st pa (x :: b) = stageBytes (AMap.set st pa x) (pa + 1) b := rfl

theorem get?_stageBytes_ne (b : List Byte) : ∀ (st : List Host.Cell) (pa a : Nat), (a < pa ∨ pa + b.length ≤ a) →
    AMap.get? (stageBytes st pa b) a = AMap.get? st a := by
  induction b with
  | nil => exact fun _ _ _ _ => rfl
  | cons x r ih =>
    intro st pa a h
    rw [List.length_cons] at h
    rw [stageBytes_cons, ih _ _ _ (by omega), AMap.get?_set_ne _ _ (by omega)]

theorem get?_stageBytes (b : List Byte) : ∀ (st : List Host.Cell) (pa k : Nat), k < b.length →
    AMap.get? (stageBytes st pa b) (pa + k) = some (b.getD k 0) := by
  induction b with
  | nil => intro _ _ _ h; simp at h
  | cons x r ih =>
    intro st pa k h
    rw [stageBytes_cons]
    cases k with
    | zero => rw [get?_stageBytes_ne _ _ _ _ (by omega), Nat.add_zero, AMap.get?_set_self]; rfl
    | succ k => rw [show pa + (k + 1) = pa + 1 + k by omega, ih _ _ _ (by simpa using h)]; rfl

/-! ## Loads -/

/-- What a piece finds in its column's line. -/
theorem l1Find_spec {c : Column} {line : Nat} {cls : Option RClass} {t : Nat} {y : L1Line} (h : c.l1Find line cls t = some y) :
    y.line = line ∧ y.cwin = false ∧ y.cls = cls ∧ (cls ≠ some .rd → y.team = t) := by
  have := List.find?_some h
  simp only [Bool.and_eq_true, decide_eq_true_eq, Bool.not_eq_true', Bool.or_eq_true] at this
  obtain ⟨⟨⟨h1, h2⟩, h3⟩, h4⟩ := this
  exact ⟨h1, h2, h3, fun hn => h4.resolve_left hn⟩

variable {s : State} {t : Nat} {tm : Team} {pol : Word} {p : MPiece} {pa : Nat}

theorem loadAt_home (h : atHome (p.range.map Extent.cls) = true) :
    (s.loadAt t tm pol p pa).1 = if s.poisoned pa p.len then none else some (Memory.readN s.mem pa p.len) := by
  unfold State.loadAt
  simp only [h, if_true]
  split <;> rfl

theorem loadAt_line (h : atHome (p.range.map Extent.cls) = false) {y : L1Line}
    (hy : (s.col (colOf tm.core)).l1Find (pa / 128) (p.range.map Extent.cls) t = some y) :
    (s.loadAt t tm pol p pa).1 = some (overlay tm.staged pa ((y.data.drop (pa % 128)).take p.len)) := by
  unfold State.loadAt
  simp only [h, Bool.false_eq_true, if_false, hy]

theorem loadAt_memory (h : atHome (p.range.map Extent.cls) = false)
    (hy : (s.col (colOf tm.core)).l1Find (pa / 128) (p.range.map Extent.cls) t = none) :
    (s.loadAt t tm pol p pa).1 =
      if allStaged tm.staged pa p.len then some (overlay tm.staged pa (List.replicate p.len 0))
      else if s.poisoned pa p.len then none else some (overlay tm.staged pa (Memory.readN s.mem pa p.len)) := by
  unfold State.loadAt
  simp only [h, Bool.false_eq_true, if_false, hy]
  split
  · rfl
  · split <;> rfl

/-- Settles O30: by the class of the piece, the line its column holds and what is staged. -/
theorem loadsRead : Obligations.LoadsRead := by
  unfold Obligations.LoadsRead
  intro s t tm pol x p pa hx
  have hcls : p.range.map Extent.cls = some x.cls := by rw [hx]; rfl
  refine ⟨fun hc => ?_, fun hc => ?_⟩
  · have hh : atHome (p.range.map Extent.cls) = true := by
      rw [hcls]
      rcases hc with h | h <;> rw [h] <;> rfl
    exact ⟨fun hp => by rw [loadAt_home hh, hp]; rfl, fun hp => by rw [loadAt_home hh, hp]; rfl⟩
  · have hh : atHome (p.range.map Extent.cls) = false := by
      rw [hcls]
      rcases hc with h | h <;> rw [h] <;> rfl
    intro staged
    refine ⟨fun hy => ⟨fun hs => ?_, fun hp hs => ?_⟩, fun y hy => ?_⟩
    · rw [loadAt_memory hh (by rw [hcls]; exact hy)]
      split
      · next ha =>
        refine ⟨_, rfl, by rw [overlay_length, List.length_replicate], fun k hk => ?_⟩
        rw [overlay_getD _ _ _ _ (by rwa [List.length_replicate]), overlay_staged (allStaged_iff.mp ha k hk)]
      · next ha =>
        have hp : s.poisoned pa p.len = false := hs.resolve_right fun h => ha (allStaged_iff.mpr h)
        rw [hp, if_neg Bool.false_ne_true]
        refine ⟨_, rfl, by rw [overlay_length, Memory.readN_length], fun k hk => ?_⟩
        rw [overlay_getD _ _ _ _ (by rwa [Memory.readN_length]), Memory.readN_getD _ _ _ _ hk]
    · rw [loadAt_memory hh (by rw [hcls]; exact hy), if_neg fun ha => hs (allStaged_iff.mp ha), hp, if_pos rfl]
    · obtain ⟨h1, h2, h3, h4⟩ := l1Find_spec hy
      refine ⟨h1, h2, h3, fun hw => h4 (by rw [hw]; decide), fun hl => ?_⟩
      rw [loadAt_line hh (by rw [hcls]; exact hy)]
      have hlen : ((y.data.drop (pa % 128)).take p.len).length = p.len := by
        rw [List.length_take, List.length_drop]; omega
      refine ⟨_, rfl, by rw [overlay_length, hlen], fun k hk => ?_⟩
      rw [overlay_getD _ _ _ _ (by rwa [hlen])]
      congr 1
      simp [List.getD_eq_getElem?_getD, hk, List.getElem?_drop]

/-! ## Stores -/

theorem storeAt_home (h : p.range.map Extent.cls = some .shr ∨ p.range.map Extent.cls = some .acc) (b : List Byte) :
    s.storeAt t p pa b = (s.noteSig t p pa true).memWrite pa b := by
  unfold State.storeAt
  rcases h with h | h <;> rw [h]

theorem storeAt_staged (h1 : p.range.map Extent.cls ≠ some .shr) (h2 : p.range.map Extent.cls ≠ some .acc) (b : List Byte) :
    s.storeAt t p pa b = (s.noteSig t p pa true).modTeam t (fun x => { x with staged := stageBytes x.staged pa b }) := by
  unfold State.storeAt
  dsimp only
  split
  · next h => exact absurd h h1
  · next h => exact absurd h h2
  · rfl

/-- Noting a piece in the signatures leaves what the team has staged. -/
theorem noteSig_team (ht : s.team? t = some tm) (w : Bool) :
    ∃ tm', (s.noteSig t p pa w).team? t = some tm' ∧ tm'.staged = tm.staged := by
  refine ⟨_, by rw [State.noteSig, State.team?_modTeam, if_pos rfl, ht]; rfl, ?_⟩
  dsimp only
  (repeat' split) <;> rfl

/-- Settles O31: by the class of the piece. -/
theorem storesStage : Obligations.StoresStage := by
  unfold Obligations.StoresStage
  intro s t tm p pa b ht
  refine ⟨fun hc => ?_, fun h1 h2 => ?_⟩
  · rw [storeAt_home hc]
    exact ⟨fun k hk => Memory.read_writeN _ _ _ _ hk, fun a ha => Memory.read_writeN_ne _ _ _ _ ha⟩
  · obtain ⟨tm', ht', hst⟩ := noteSig_team (p := p) (pa := pa) ht true
    rw [storeAt_staged h1 h2]
    refine ⟨rfl, { tm' with staged := stageBytes tm'.staged pa b }, ?_, fun k hk => ?_, fun a ha => ?_⟩
    · rw [State.team?_modTeam, if_pos rfl, ht']
      rfl
    · exact get?_stageBytes _ _ _ _ hk
    · exact (get?_stageBytes_ne _ _ _ _ ha).trans (by rw [hst])

end Sys2Proof.Machine
end

section
/-! PROOFS. Atomics (R239 to R241, Table 10-5) and barrier arrivals (R246). -/
namespace Sys2Proof.Machine

/-! ## Little-endian numbers -/

theorem leBytes_length (n x : Nat) : (leBytes n x).length = n := by
  induction n generalizing x with
  | zero => rfl
  | succ n ih => simp [leBytes, ih]

theorem leNat_leBytes (n x : Nat) : leNat (leBytes n x) = x % 256 ^ n := by
  induction n generalizing x with
  | zero => simp [leBytes, leNat, Nat.mod_one]
  | succ n ih =>
    rw [leBytes, leNat, ih, Nat.pow_succ', Nat.mod_mul]
    simp

theorem Memory.readN_writeN (m : Memory) (a : Nat) (b : List Byte) :
    Memory.readN (Memory.writeN m a b) a b.length = b := by
  refine List.ext_getElem (Memory.readN_length ..) fun k h1 h2 => ?_
  have h := Memory.readN_getD (Memory.writeN m a b) a b.length k h2
  rw [Memory.read_writeN _ _ _ _ h2] at h
  simpa [List.getD_eq_getElem?_getD, h1, h2] using h

/-- A number written reads back. -/
theorem Memory.readLE_writeN (m : Memory) (a n : Nat) {x : Nat} (h : x < 2 ^ (8 * n)) :
    Memory.readLE (Memory.writeN m a (leBytes n x)) a n = x := by
  have hr := Memory.readN_writeN m a (leBytes n x)
  rw [leBytes_length] at hr
  rw [Memory.readLE, hr, leNat_leBytes, show 256 ^ n = 2 ^ (8 * n) by rw [Nat.pow_mul], Nat.mod_eq_of_lt h]

/-! ## The new value of each operation -/

theorem toInt_ofNat32 {n : Nat} (h : n < 2 ^ 32) :
    (BitVec.ofNat 32 n).toInt = if n < 2 ^ 31 then (n : Int) else (n : Int) - 2 ^ 32 := by
  rw [BitVec.toInt_eq_toNat_cond, BitVec.toNat_ofNat, Nat.mod_eq_of_lt h]
  (repeat' split) <;> omega

/-- As signed numbers 32-bit operands are ordered as their values are, and equal where those are. -/
theorem signed_min_max {old x : Nat} (h1 : old < 2 ^ 32) (h2 : x < 2 ^ 32) (swp : Nat) :
    let i (n : Nat) : Int := if n < 2 ^ 31 then n else (n : Int) - 2 ^ 32
    (i old ≤ i x → AtomOp.apply .minS old x swp = old ∧ AtomOp.apply .maxS old x swp = x) ∧
      (i x ≤ i old → AtomOp.apply .minS old x swp = x ∧ AtomOp.apply .maxS old x swp = old) := by
  intro i
  simp only [AtomOp.apply, toInt_ofNat32 h1, toInt_ofNat32 h2]
  change (i old ≤ i x → (if i x < i old then x else old) = old ∧ (if i old < i x then x else old) = x) ∧
    (i x ≤ i old → (if i x < i old then x else old) = x ∧ (if i old < i x then x else old) = old)
  have he : i old = i x → old = x := by
    intro h
    simp only [i] at h
    (repeat' split at h) <;> omega
  refine ⟨fun h => ⟨if_neg (by omega), ?_⟩, fun h => ⟨?_, if_neg (by omega)⟩⟩ <;>
  · repeat' split
    · rfl
    · exact he (by omega)

/-! ### The FP32 sum -/

/-- The FP32 sum to nearest even, without FTZ. -/
theorem apply_addF (old x swp : Nat) :
    AtomOp.apply .addF old x swp = (fF32.deliver .rne 0 (addVal .rne (fF32.val old) (fF32.val x)).1).1 := by
  simp [AtomOp.apply, fAdd, finishF, ftzIn, ftzOut]

/-- An exact sum rounded. -/
theorem deliver_fval (d : Dy) (z : Bool) :
    (fF32.deliver .rne 0 (d.fval z)).1 =
      if d.n = 0 then fF32.signed z 0 else (fF32.round .rne 0 (decide (d.n < 0)) d.n.natAbs d.e).1 := by
  show (fF32.round .rne 0 (if d.n = 0 then z else decide (d.n < 0)) d.n.natAbs d.e).1 = _
  by_cases h : d.n = 0
  · simp [h, FFmt.round]
  · rw [if_neg h, if_neg h]

theorem ofFin_n (n : Bool) (m : Nat) (e : Int) : (Dy.ofFin n m e).n = 0 ↔ m = 0 := by
  cases n <;> simp [Dy.ofFin]

/-- A finite number stands for its sign and magnitude. -/
theorem round_ofFin {n : Bool} {m : Nat} {e : Int} (h : m ≠ 0) :
    (fF32.round .rne 0 (decide ((Dy.ofFin n m e).n < 0)) (Dy.ofFin n m e).n.natAbs (Dy.ofFin n m e).e).1 =
      (fF32.round .rne 0 n m e).1 := by
  have hp : (0 : Int) < m := by omega
  cases n
  · have hd : decide ((m : Int) < 0) = false := decide_eq_false (by omega)
    simp [Dy.ofFin, hd]
  · simp [Dy.ofFin, Nat.pos_of_ne_zero h]

theorem addF_fin {old x : Nat} (swp : Nat) {n1 n2 : Bool} {m1 m2 : Nat} {e1 e2 : Int} (ha : fF32.val old = .fin n1 m1 e1)
    (hb : fF32.val x = .fin n2 m2 e2) :
    let sum : Nat := AtomOp.apply .addF old x swp
    let e := min e1 e2
    let z : Int := (if n1 then -(m1 : Int) else m1) * 2 ^ (e1 - e).toNat + (if n2 then -(m2 : Int) else m2) * 2 ^ (e2 - e).toNat
    (m1 ≠ 0 → m2 ≠ 0 → z ≠ 0 → sum = (fF32.round .rne 0 (decide (z < 0)) z.natAbs e).1) ∧
      (m1 ≠ 0 → m2 ≠ 0 → z = 0 → sum = 0) ∧
      (m1 = 0 → m2 ≠ 0 → sum = (fF32.round .rne 0 n2 m2 e2).1) ∧ (m1 ≠ 0 → m2 = 0 → sum = (fF32.round .rne 0 n1 m1 e1).1) ∧
      (m1 = 0 → m2 = 0 → sum = if n1 && n2 then 2 ^ 31 else 0) := by
  intro sum e z
  have hs : sum = (fF32.deliver .rne 0 ((Dy.add (Dy.ofFin n1 m1 e1) (Dy.ofFin n2 m2 e2)).fval (zeroSign .rne n1 n2))).1 := by
    refine (apply_addF old x swp).trans ?_
    rw [ha, hb]
    rfl
  rw [deliver_fval] at hs
  have hadd (h1 : m1 ≠ 0) (h2 : m2 ≠ 0) : Dy.add (Dy.ofFin n1 m1 e1) (Dy.ofFin n2 m2 e2) = ⟨z, e⟩ := by
    rw [Dy.add, if_neg (by rwa [ofFin_n]), if_neg (by rwa [ofFin_n])]
    rfl
  refine ⟨fun h1 h2 hz => ?_, fun h1 h2 hz => ?_, fun h1 h2 => ?_, fun h1 h2 => ?_, fun h1 h2 => ?_⟩
  · rw [hadd h1 h2] at hs
    exact hs.trans (if_neg hz)
  · rw [hadd h1 h2, if_pos hz] at hs
    have hne : n1 ≠ n2 := by
      rintro rfl
      have hp (m k : Nat) (h : m ≠ 0) : (0 : Int) < m * 2 ^ k := Int.mul_pos (by omega) (Int.pow_pos (by decide))
      have hp1 := hp m1 (e1 - e).toNat h1
      have hp2 := hp m2 (e2 - e).toNat h2
      simp only [z] at hz
      cases n1 <;> simp only [reduceIte, Bool.false_eq_true, Int.neg_mul] at hz <;> omega
    rw [hs, zeroSign, if_neg hne]
    rfl
  · have ha : Dy.add (Dy.ofFin n1 m1 e1) (Dy.ofFin n2 m2 e2) = Dy.ofFin n2 m2 e2 := by
      rw [Dy.add, if_pos (by rwa [ofFin_n])]
    rw [ha, if_neg (by rwa [ofFin_n])] at hs
    exact hs.trans (round_ofFin h2)
  · have ha : Dy.add (Dy.ofFin n1 m1 e1) (Dy.ofFin n2 m2 e2) = Dy.ofFin n1 m1 e1 := by
      rw [Dy.add, if_neg (by rwa [ofFin_n]), if_pos (by rwa [ofFin_n])]
    rw [ha, if_neg (by rwa [ofFin_n])] at hs
    exact hs.trans (round_ofFin h1)
  · have ha : Dy.add (Dy.ofFin n1 m1 e1) (Dy.ofFin n2 m2 e2) = Dy.ofFin n2 m2 e2 := by
      rw [Dy.add, if_pos (by rwa [ofFin_n])]
    rw [ha, if_pos (by rwa [ofFin_n])] at hs
    rw [hs]
    cases n1 <;> cases n2 <;> rfl

theorem addF_inf (old x swp : Nat) :
    let sum : Nat := AtomOp.apply .addF old x swp
    let a := fF32.val old
    let b := fF32.val x
    (∀ n, a = .inf n → (b = .inf n ∨ ∃ n2 m2 e2, b = .fin n2 m2 e2) → sum = if n then 0xFF800000 else 0x7F800000) ∧
    (∀ n, b = .inf n → (∃ n1 m1 e1, a = .fin n1 m1 e1) → sum = if n then 0xFF800000 else 0x7F800000) ∧
    (((∃ z, a = .nan z) ∨ (∃ z, b = .nan z) ∨ ∃ n, a = .inf n ∧ b = .inf (!n)) → sum = 0x7FC00000) := by
  intro sum a b
  have hs : sum = (fF32.deliver .rne 0 (addVal .rne a b).1).1 := apply_addF ..
  have hinf (n : Bool) : (fF32.deliver .rne 0 (.inf n)).1 = if n then 0xFF800000 else 0x7F800000 := by cases n <;> rfl
  refine ⟨fun n ha hb => ?_, fun n hb ⟨n1, m1, e1, ha⟩ => ?_, fun h => ?_⟩
  · rw [hs, ha]
    rcases hb with hb | ⟨n2, m2, e2, hb⟩ <;> rw [hb]
    · simp [addVal, hinf]
    · exact hinf n
  · rw [hs, ha, hb]
    exact hinf n
  · rw [hs]
    rcases h with ⟨z, h⟩ | ⟨z, h⟩ | ⟨n, h1, h2⟩
    · rw [h]; rfl
    · rw [h]; cases a <;> rfl
    · rw [h1, h2]; cases n <;> rfl

/-! ## One lane's atomic -/

theorem noteSig_mem (s : State) (t : Nat) (p : MPiece) (pa : Nat) (w : Bool) : (s.noteSig t p pa w).mem = s.mem := rfl

/-- An atomic that writes where its object's range places it, and meets no poison. -/
theorem gAtomic_writes {s : State} {t va off n : Nat} {tm : Team} {pa x : Nat} {w : Bool} {f : Nat → Option Nat}
    {out : Nat → LaneOut} {cov : List (Nat × Nat)} (ht : s.team? t = some tm) {s1 : State}
    (hp : s.place? tm ⟨va, n, tm.rangeAt va⟩ w = (.ok pa, s1)) (hb : s1.poisoned (pa + off) n = false)
    (hf : f (Memory.readLE s1.mem (pa + off) n) = some x) :
    let r := s.gAtomic t va off n w f out cov
    r.faults = (out (Memory.readLE s1.mem (pa + off) n)).faults ∧ r.lands = (out (Memory.readLE s1.mem (pa + off) n)).lands ∧
      r.s.mem = Memory.writeN s1.mem (pa + off) (leBytes n x) := by
  intro r
  have hr : r = s.gAtomic t va off n w f out cov := rfl
  unfold State.gAtomic at hr
  simp only [ht, hp, hb, Bool.false_eq_true, if_false, hf] at hr
  rw [hr]
  refine ⟨rfl, rfl, ?_⟩
  split <;> rfl

/-- Settles O34: the operations one by one, the FP32 sum by the kinds of its operands, and the object by the translation of its
range. -/
theorem atomicsReadModifyWrite : Obligations.AtomicsReadModifyWrite := by
  unfold Obligations.AtomicsReadModifyWrite
  refine ⟨fun old x swp => ?_, fun old x swp => ?_, fun s t va tm x pg op y swp out cov ht hx hpg hb => ?_⟩
  · refine ⟨rfl, rfl, fun h1 h2 => signed_min_max h1 h2 swp, ?_, ?_, fun k => ⟨Nat.testBit_and .., Nat.testBit_or ..,
      Nat.testBit_xor ..⟩, rfl, rfl, fun h => ⟨if_pos h, if_pos h⟩, fun h => ⟨if_neg h, if_neg h⟩, fun h => if_pos h,
      fun h => if_neg (Nat.not_le.2 h)⟩
    · simp only [AtomOp.apply]; split <;> omega
    · simp only [AtomOp.apply]; split <;> omega
  · exact ⟨fun n1 m1 e1 n2 m2 e2 ha hb => addF_fin swp ha hb, addF_inf old x swp⟩
  · intro n old r
    have hp : s.place? tm ⟨va, n, tm.rangeAt va⟩ true = (.ok (pg.at va), s) := by simp [State.place?, hx, hpg]
    obtain ⟨h1, h2, h3⟩ := gAtomic_writes (off := 0) (f := fun o => some (AtomOp.apply op o y swp)) (out := out) (cov := cov)
      ht hp hb rfl
    refine ⟨h1, h2, fun hlt => ?_, fun a ha => ?_⟩
    · rw [h3]
      exact Memory.readLE_writeN _ _ _ hlt
    · rw [h3]
      exact Memory.read_writeN_ne _ _ _ _ (by rw [leBytes_length]; exact ha)

/-! ## Barriers -/

/-- Settles O42: by the group's bit and the count. -/
theorem barrierArrival : Obligations.BarrierArrival := by
  unfold Obligations.BarrierArrival
  intro b g n e
  have he : b.expected n = e := by simp [Barrier.expected, e]
  refine ⟨fun h d => by simp [Barrier.arrive, h], fun h hc => by simp [Barrier.arrive, h, he, hc], fun h hc => ?_, fun h => ?_⟩
  · have ha : b.arrive g n false = { b with count := b.count + 1, arr := b.arr ||| 2 ^ g } := by
      simp [Barrier.arrive, h, he, Nat.not_le.2 hc]
    rw [ha]
    exact ⟨rfl, rfl, rfl, fun k => by rw [Nat.testBit_or, Nat.testBit_two_pow]; simp [eq_comm]⟩
  · simp only [Barrier.arrive, h, he, Bool.false_eq_true, if_false, if_true]

end Sys2Proof.Machine
end

section
/-! PROOFS. LDU and STU of the Kennel core (R213, R323, R384). -/
namespace Sys2Proof.Machine

/-! ## The operands of an access -/

@[simp] theorem span_begun (c0 c : Ctx) (s : State) (us : Ctx → List Use) (o : Opnd) (n l : Nat) :
    c.span (c0.begun c s us) o n l = c.span s o n l := by cases o <;> simp [Ctx.span]

@[simp] theorem vals_begun (c0 c : Ctx) (s : State) (us : Ctx → List Use) (m : MAddr) (ls : List Nat) (x : Option (Src × Nat)) :
    c.vals (c0.begun c s us) m ls x = c.vals s m ls x := by
  have h : c.rdU64 s m.base.op = c.rd64 s m.base.op 0 := rfl
  cases x <;> simp [Ctx.vals, h]

@[simp] theorem offset_begun (c0 c : Ctx) (s : State) (us : Ctx → List Use) (m : MAddr) (l : Nat) :
    c.offset (c0.begun c s us) m l = c.offset s m l := by
  have h : c.rdU s m.base.op = c.rd s m.base.op 0 := rfl
  simp [Ctx.offset, h]

/-- The address of a uniform access. -/
theorem va_uniform (c : Ctx) (s : State) (m : MAddr) (x : Option (Src × Nat)) :
    (c.vals s m [0] x).va 0 = ((c.rd64 s m.base.op 0).toNat + ((c.rd s m.offs.op 0).signExtend 64).toNat) % 2 ^ 64 :=
  BitVec.toNat_add ..

/-! ## Uses that depend on the group alone -/

theorem Ctx.IssuesLong.congr {c0 c : Ctx} {s : State} {core : CoreSet} {f : FlagUse} {gd : GuardUse} {us vs : Ctx → List Use}
    {b : Bool} (h : c0.IssuesLong c s core f gd us b) (he : ∀ x : Ctx, x.g = c0.g → vs x = us x) :
    c0.IssuesLong c s core f gd vs b := by
  have hc : vs c = us c := he c (by rw [h.base.narrowed])
  have hw : vs c0.whole = us c0.whole := he _ rfl
  obtain ⟨⟨h1, h2, h3, h4, h5, h6, h7⟩, hf, hr⟩ := h
  exact ⟨⟨h1, h2, h3, h4, hw ▸ h5, hw ▸ h6, hc ▸ h7⟩, hf, hr⟩

theorem begun_congr {c0 c : Ctx} {s : State} {us vs : Ctx → List Use} (hg : c.g = c0.g) (he : ∀ x : Ctx, x.g = c0.g → vs x = us x) :
    c0.begun c s vs = c0.begun c s us := by
  rw [Ctx.begun, Ctx.begun, he c hg, he c0.whole rfl]

theorem polUse_kennel {c : Ctx} (h : c.g.kennel = true) (pol : BitVec 9) : polUse c pol = [] := by simp [polUse, h]

/-! ## Results at once -/

theorem setS_live (g : Group) (n : Nat) (x : Word) (b : Bool) : (g.setS n x b).live = g.live := by
  simp only [Group.setS, Group.touchS]
  split <;> rfl

theorem zipIdx_eq_upTo (ws : List Word) : ws.zipIdx = (upTo ws.length).map (fun i => (ws.getD i 0, i)) := by
  refine List.ext_getElem (by simp [upTo]) fun i h1 h2 => ?_
  have : i < ws.length := by simpa using h1
  simp [upTo, this]

/-- Words for consecutive uniform registers of a live group. -/
theorem landAll_words {g : Group} (h : g.live = true) (d : Nat) (ws : List Word) :
    landAll (landWords none d ws) 0 g = ws.zipIdx.foldl (fun g w => g.setS (d + w.2) w.1) g := by
  rw [zipIdx_eq_upTo, landAll, landWords, List.foldl_map, List.foldl_map]
  generalize upTo ws.length = is
  induction is generalizing g with
  | nil => rfl
  | cons i is ih =>
    simp only [List.foldl_cons, h]
    exact ih ((setS_live ..).trans h)

theorem kCharge_grp (s : State) (a n : Nat) : (s.kCharge a n).k.grp = s.k.grp := by
  unfold State.kCharge State.charge
  split
  · split <;> rfl
  · rfl

/-! ## The two instructions -/

variable {c0 c : Ctx} {s : State} {fs : Bool} {sz : MSize} {m : MAddr} {pol : BitVec 9}

theorem exec_ldu_kennel {d : BitVec 9}
    (h : c.IssuesLong c s .both (.must fs) .all (fun c => wrS c d (MSize.regs sz) :: readsOf c (MAddr.srcs m 2)))
    (hk : c.g.kennel = true) :
    let s' := c.begun c s (fun c => wrS c d (MSize.regs sz) :: readsOf c (MAddr.srcs m 2))
    let va := ((c.rd64 s m.base.op 0).toNat + ((c.rd s m.offs.op 0).signExtend 64).toNat) % 2 ^ 64
    exec (.ldu fs sz d m pol) s = c.finish s
      (if s'.kHeld va (MSize.bytes sz) then .hold
       else
         match s'.kLoad va (MSize.bytes sz) with
         | .error u => .busErr (BitVec.ofNat 64 va) u
         | .ok b => .done (c.mod (s'.kCharge va (MSize.bytes sz)) (landAll (landWords none d.toNat (MSize.load sz b)) 0))) := by
  intro s' va
  have he : ∀ x : Ctx, x.g = c.g → (wrS x d (MSize.regs sz) :: readsOf x (MAddr.srcs m 2) ++ polUse x pol) =
      wrS x d (MSize.regs sz) :: readsOf x (MAddr.srcs m 2) := fun x hx => by
    rw [polUse_kennel (hx ▸ hk), List.append_nil]
  show execLdu fs sz d m pol s = _
  unfold execLdu
  refine (issueLong_body
    (sp := { core := .both, flag := .must fs,
             uses := fun c _ => wrS c d (MSize.regs sz) :: readsOf c (MAddr.srcs m 2) ++ polUse c pol })
    (h.congr he) rfl rfl).trans ?_
  dsimp only
  rw [begun_congr rfl he, if_pos hk, vals_begun, va_uniform] <;> rfl

theorem exec_stu_kennel {gd : Guard} {x : Src}
    (h : c0.IssuesLong c s .both (.may fs) (.whole gd) (fun c => readsOf c ((x, MSize.regs sz) :: MAddr.srcs m 2)))
    (hk : c.g.kennel = true) :
    let s' := c0.begun c s (fun c => readsOf c ((x, MSize.regs sz) :: MAddr.srcs m 2))
    let va := ((c.rd64 s m.base.op 0).toNat + ((c.rd s m.offs.op 0).signExtend 64).toNat) % 2 ^ 64
    exec (.stu gd fs sz x m pol) s = c.finish s
      (if s'.kHeld va (MSize.bytes sz) then .hold
       else
         match s'.kStore va (wordBytes (MSize.bytes sz) (c.span s x.op (MSize.regs sz) 0)) with
         | none => .busErr (BitVec.ofNat 64 va) false
         | some y => .done (y.kCharge va (MSize.bytes sz))) := by
  intro s' va
  have hg : c.g = c0.g := by rw [h.base.narrowed]
  have he : ∀ z : Ctx, z.g = c0.g → (readsOf z ((x, MSize.regs sz) :: MAddr.srcs m 2) ++ polUse z pol) =
      readsOf z ((x, MSize.regs sz) :: MAddr.srcs m 2) := fun z hz => by
    rw [polUse_kennel (by rw [hz, ← hg, hk]), List.append_nil]
  show execStu gd fs sz x m pol s = _
  unfold execStu
  refine (issueLong_body
    (sp := { core := .both, flag := .may fs, guard := .whole gd,
             uses := fun c _ => readsOf c ((x, MSize.regs sz) :: MAddr.srcs m 2) ++ polUse c pol })
    (h.congr he) rfl rfl).trans ?_
  dsimp only
  rw [begun_congr hg he, if_pos hk, vals_begun, va_uniform]
  rfl

/-! ## The Kennel's address space -/

theorem kPlace_sram {a n : Nat} (h : a % n = 0 ∧ a + n ≤ 0x80000) : kPlace a n = .sram a := by simp [kPlace, h.1, h.2]

theorem kPlace_mem {a n : Nat} (h : a % n = 0 ∧ 2 ^ 48 ≤ a ∧ a + n ≤ 2 ^ 48 + 768000000000) : kPlace a n = .mem (a - 2 ^ 48) := by
  obtain ⟨h1, h2, h3⟩ := h
  have hd : a / 2 ^ 48 = 1 := by omega
  have hb : a - 2 ^ 48 + n ≤ 768000000000 := by omega
  have hm : a % 2 ^ 48 = a - 2 ^ 48 := by omega
  have hp : Config.physEnd = 768000000000 := rfl
  rw [kPlace, if_neg (by omega), if_neg (by omega), hd, hm, hp, if_pos (by simpa using hb)]

theorem kPlace_none {a n : Nat} (h1 : ¬(a % n = 0 ∧ a + n ≤ 0x80000))
    (h2 : ¬(a % n = 0 ∧ 2 ^ 48 ≤ a ∧ a + n ≤ 2 ^ 48 + 768000000000)) : kPlace a n = .none := by
  unfold kPlace
  split
  · rfl
  · next ha =>
    rw [if_neg (by omega), if_neg]
    have hp : Config.physEnd = 768000000000 := rfl
    simp only [hp, Bool.and_eq_true, decide_eq_true_eq]
    omega

/-- A write of at most a line's length less one covers no line whole. -/
theorem wholeLines_small {a n : Nat} (h : n ≤ 16) : wholeLines a n = [] := by
  have : (a + n) / 128 - cdiv a 128 = 0 := by unfold cdiv; omega
  simp [wholeLines, this, upTo]

/-- Settles O37: both instructions by the place of their address. -/
theorem kennelMemory : Obligations.KennelMemory := by
  unfold Obligations.KennelMemory
  refine ⟨?_, ?_, ?_⟩
  · intro fs sz d m pol c s ha hk hl h s' va n
    have hx := exec_ldu_kennel (pol := pol) h hk
    refine ⟨fun hh => ?_, fun b hh hb => ?_, fun u hh hu => ?_⟩
    · exact hx.trans (by rw [if_pos hh]; rfl)
    · have hlv : (s'.kCharge va n).k.grp.live = true := by
        obtain ⟨g, hno, hg, hcg⟩ := begun_kennel h.base ha
        obtain ⟨_, _, _, _, _, _, _, rfl⟩ := hno
        rw [kCharge_grp]
        show (c.begun c s _).k.grp.live = true
        rw [hg]
        exact hcg ▸ hl
      refine runsTo_of_done (hx.trans ?_)
      rw [if_neg (by rw [hh]; decide), hb]
      simp only [mod_kennel ha]
      rw [landAll_words hlv]
    · refine hx.trans ?_
      rw [if_neg (by rw [hh]; decide), hu]
      rfl
  · intro s a n hn hn16 sram win
    refine ⟨fun h => ?_, fun h => ?_, fun h1 h2 => ?_⟩
    · have hp := kPlace_sram h
      refine ⟨by simp [State.kHeld, kInMem, hp], fun hb => by simp [State.kLoad, hp, hb], fun hb => by simp [State.kLoad, hp, hb],
        fun b hb => ?_⟩
      subst hb
      rw [State.kStore, hp]
      refine ⟨_, rfl, rfl, fun k hk => Memory.read_writeN _ _ _ _ hk,
        fun x hx => Memory.read_writeN_ne _ _ _ _ hx⟩
    · have hp := kPlace_mem h
      have hl : s.kLoad a n = if s.poisoned (a - 2 ^ 48) n then .error true else .ok (Memory.readN s.mem (a - 2 ^ 48) n) := by
        rw [State.kLoad, hp]
      refine ⟨fun hb => hl.trans (if_neg (by rw [hb]; decide)), fun hb => hl.trans (if_pos hb), fun b hb => ?_⟩
      subst hb
      rw [State.kStore, hp]
      refine ⟨_, rfl, rfl, ?_, fun k hk => Memory.read_writeN _ _ _ _ hk,
        fun x hx => Memory.read_writeN_ne _ _ _ _ hx⟩
      have hw := wholeLines_small (a := a - 2 ^ 48) hn16
      simp only [State.memWrite, hw, List.contains_nil, Bool.not_false, filter_const_true]
    · have hp := kPlace_none h1 h2
      exact ⟨by simp [State.kHeld, kInMem, hp], by simp [State.kLoad, hp], fun b hb => by rw [State.kStore, hb, hp]⟩
  · intro gd fs sz x m pol c0 c s ha hk h s' va n b
    have hx := exec_stu_kennel (pol := pol) h hk
    refine ⟨fun hh => hx.trans (by rw [if_pos hh]; rfl), fun y hh hy => runsTo_of_done (hx.trans ?_), fun hh hy => hx.trans ?_⟩
    · rw [if_neg (by rw [hh]; decide), hy]
    · rw [if_neg (by rw [hh]; decide), hy]
      rfl

end Sys2Proof.Machine
end

section
/-! PROOFS. What an access to global memory leaves: memory, but for the bytes it stores; the teams, but for what they have staged
and noted; the groups and the Kennel whole. -/
namespace Sys2Proof.Machine

/-! ## The frame of an access -/

/-- A team without what its accesses stage and note. -/
def Team.base (t : Team) : Team :=
  { t with staged := [], rs := ⟨0, 0, 0, 0⟩, ws := ⟨0, 0, 0, 0⟩, since := ⟨false, false, false, false, false, false, false⟩ }

/-- `t` differs from `s` in the bytes of memory in `W`, poison, caches, translations, and what its teams have staged and
noted. -/
structure State.Touches (W : Nat → Prop) (s t : State) : Prop where
  eq : ∃ m p c l u, t = { s with mem := m, poison := p, cols := c, stlb := l, teams := u }
  teams : ∀ n, (t.team? n).map Team.base = (s.team? n).map Team.base
  wf : Memory.wf s.mem = true → Memory.wf t.mem = true
  frame : ∀ a, ¬W a → Memory.read t.mem a = Memory.read s.mem a
  same : (∀ a, ¬W a) → t.mem = s.mem

namespace State.Touches
variable {W : Nat → Prop} {s t u : State}

theorem refl (s : State) : s.Touches W s := ⟨⟨_, _, _, _, _, rfl⟩, fun _ => rfl, id, fun _ _ => rfl, fun _ => rfl⟩

theorem trans (a : s.Touches W t) (b : t.Touches W u) : s.Touches W u := by
  obtain ⟨⟨_, _, _, _, _, rfl⟩, ht, hw, hf, hs⟩ := a
  obtain ⟨⟨_, _, _, _, _, rfl⟩, ht', hw', hf', hs'⟩ := b
  exact ⟨⟨_, _, _, _, _, rfl⟩, fun n => (ht' n).trans (ht n), hw' ∘ hw, fun a h => (hf' a h).trans (hf a h),
    fun h => (hs' h).trans (hs h)⟩

theorem mono {V : Nat → Prop} (h : ∀ a, V a → W a) (a : s.Touches V t) : s.Touches W t :=
  ⟨a.eq, a.teams, a.wf, fun x hx => a.frame x (fun hv => hx (h x hv)), fun hx => a.same fun x hv => hx x (h x hv)⟩

/-- What leaves memory alone. -/
theorem of_teams {p c l v} (h : ∀ n, (({ s with poison := p, cols := c, stlb := l, teams := v } : State).team? n).map Team.base =
    (s.team? n).map Team.base) : s.Touches W { s with poison := p, cols := c, stlb := l, teams := v } :=
  ⟨⟨_, _, _, _, _, rfl⟩, h, id, fun _ _ => rfl, fun _ => rfl⟩

theorem modCol (s : State) (n : Nat) (f : Column → Column) : s.Touches W (s.modCol n f) := of_teams fun _ => rfl

theorem modTeam (s : State) (n : Nat) {f : Team → Team} (hf : ∀ x, (f x).base = x.base) : s.Touches W (s.modTeam n f) := by
  refine of_teams fun m => ?_
  show ((s.modTeam n f).team? m).map Team.base = _
  rw [State.team?_modTeam]
  split
  · next e => subst e; cases s.team? m <;> simp [hf]
  · rfl

theorem noteSig (s : State) (n : Nat) (p : MPiece) (pa : Nat) (w : Bool) : s.Touches W (s.noteSig n p pa w) := by
  refine modTeam _ _ fun x => ?_
  split
  · rfl
  · split <;> rfl

theorem memWrite (s : State) (pa : Nat) (b : List Byte) (h : ∀ a, pa ≤ a → a < pa + b.length → W a) :
    s.Touches W (s.memWrite pa b) := by
  refine ⟨⟨_, _, _, _, _, rfl⟩, fun _ => rfl, Memory.wf_writeN _ _ _, fun a ha => ?_, fun hn => ?_⟩
  · refine Memory.read_writeN_ne _ _ _ _ ?_
    refine Classical.byContradiction fun hc => ?_
    exact ha (h a (by omega) (by omega))
  · cases b with
    | nil => rfl
    | cons x r => exact absurd (h pa (Nat.le_refl _) (by simp)) (hn pa)

theorem fold {α : Type} {xs : List α} {f : State → α → State} (h : ∀ u : State, ∀ x ∈ xs, u.Touches W (f u x)) (s : State) :
    s.Touches W (xs.foldl f s) :=
  List.foldlRecOn xs f (refl s) fun u hu x hx => hu.trans (h u x hx)

/-! What the frame keeps. -/

section
variable (h : s.Touches W t)
include h

theorem team_map {α : Type} (f : Team → α) (n : Nat) (hf : ∀ x : Team, f x.base = f x) :
    (t.team? n).map f = (s.team? n).map f := by
  have := congrArg (Option.map f) (h.teams n)
  simpa only [Option.map_map, Function.comp_def, hf] using this

/-- A team that stands after the access stood before it, with the same ranges on the same core. -/
theorem team {n : Nat} {x : Team} (hx : s.team? n = some x) : ∃ y, t.team? n = some y ∧ y.base = x.base := by
  have := h.teams n
  rw [hx] at this
  simpa using this

theorem group (n gi : Nat) : t.group? n gi = s.group? n gi := by
  have := h.team_map Team.groups n fun _ => rfl
  unfold State.group?
  cases hs : s.team? n <;> cases ht : t.team? n <;> simp_all [Team.group?]

theorem kennel : t.k = s.k := by obtain ⟨⟨_, _, _, _, _, rfl⟩, -⟩ := h; rfl
theorem grids : t.grids = s.grids := by obtain ⟨⟨_, _, _, _, _, rfl⟩, -⟩ := h; rfl
theorem clk : t.clk = s.clk := by obtain ⟨⟨_, _, _, _, _, rfl⟩, -⟩ := h; rfl
theorem bus : t.bus = s.bus := by obtain ⟨⟨_, _, _, _, _, rfl⟩, -⟩ := h; rfl

theorem grpOf (a : Agent) : t.grpOf a = s.grpOf a := by
  cases a with
  | kennel => exact congrArg (fun k : Kennel => some k.grp) h.kennel
  | port n gi b => exact h.group n gi

theorem pair? (a : Agent) : t.pair? a = s.pair? a := by
  obtain ⟨⟨_, _, _, _, _, rfl⟩, -⟩ := h
  cases a with
  | kennel => rfl
  | port t n b => cases b <;> rfl

end

/-- Where no byte of memory is stored, every store stands. -/
theorem sameStores (h : s.Touches (fun _ => False) t) : s.SameStores t :=
  ⟨h.same fun _ => id, by rw [h.kennel], fun hb => h.bus ▸ hb, fun n => h.team_map Team.scratch n fun _ => rfl,
    fun n => h.team_map Team.acc n fun _ => rfl⟩

end State.Touches

/-! ## Translation -/

theorem xlate_touches {W : Nat → Prop} (s : State) (col root asid va : Nat) (w : Bool) :
    s.Touches W (s.xlate col root asid va w).2 := by
  unfold State.xlate
  dsimp only
  split
  · exact .refl s
  · split
    · dsimp only; exact .modCol ..
    · split
      · exact .refl s
      · split
        · exact .refl s
        · exact .of_teams fun _ => rfl

theorem place_touches {W : Nat → Prop} (s : State) (tm : Team) (p : MPiece) (w : Bool) : s.Touches W (s.place? tm p w).2 := by
  unfold State.place?
  split
  · split <;> exact .refl s
  · exact xlate_touches ..

/-- A piece in a declared range is where its translation places it. -/
theorem place_declared {s : State} {tm : Team} {p : MPiece} {w : Bool} {x : Extent} {pa : Nat} (hx : p.range = some x)
    (h : (s.place? tm p w).1 = .ok pa) : ∃ pg, pageOf x.pages p.va = some pg ∧ pa = pg.at p.va := by
  unfold State.place? at h
  simp only [hx] at h
  split at h
  · next pg hp => exact ⟨pg, hp, (Except.ok.inj h).symm⟩
  · simp at h

/-! ## Pieces -/

theorem rangeAt_congr {x y : Team} (h : x.ranges = y.ranges) (a : Nat) : x.rangeAt a = y.rangeAt a := by
  simp only [Team.rangeAt, h]

theorem pieces_congr {x y : Team} (h : x.ranges = y.ranges) (a n : Nat) : x.pieces a n = y.pieces a n := by
  have key : ∀ fuel a stop, x.piecesFrom fuel a stop = y.piecesFrom fuel a stop := by
    intro fuel
    induction fuel with
    | zero => exact fun _ _ => rfl
    | succ fuel ih =>
      intro a stop
      have he : x.nextEdge a = y.nextEdge a := by simp only [Team.nextEdge, h]
      simp only [Team.piecesFrom, rangeAt_congr h, he, ih]
  exact key ..

/-- A piece of a shorter access begins a piece of the longer. -/
theorem pieces_prefix {tm : Team} {a n m : Nat} (h : n ≤ m) {p : MPiece} (hp : p ∈ tm.pieces a n) :
    ∃ q ∈ tm.pieces a m, q.va = p.va ∧ q.range = p.range ∧ p.len ≤ q.len := by
  have key : ∀ (f f' a stop stop' : Nat), stop ≤ stop' → stop' ≤ a + f' → p ∈ tm.piecesFrom f a stop →
      ∃ q ∈ tm.piecesFrom f' a stop', q.va = p.va ∧ q.range = p.range ∧ p.len ≤ q.len := by
    intro f
    induction f with
    | zero => intro _ _ _ _ _ _ hp; simp [Team.piecesFrom] at hp
    | succ f ih =>
      intro f' a stop stop' hs hf hp
      have ha : a < stop := by
        refine Classical.byContradiction fun hc => ?_
        rw [piecesFrom_nil (Nat.not_lt.1 hc)] at hp
        simp at hp
      obtain ⟨f', rfl⟩ : ∃ k, f' = k + 1 := ⟨f' - 1, by omega⟩
      obtain ⟨he, -, -⟩ := nextEdge_spec tm a
      rw [piecesFrom_cons ha, List.mem_cons] at hp
      rw [piecesFrom_cons (by omega : a < stop')]
      rcases hp with rfl | hp
      · exact ⟨_, List.mem_cons_self, rfl, rfl, by dsimp only; omega⟩
      · by_cases hc : tm.nextEdge a ≤ stop
        · rw [Nat.min_eq_left hc] at hp
          rw [Nat.min_eq_left (Nat.le_trans hc hs)]
          obtain ⟨q, hq, h1⟩ := ih f' _ _ _ hs (by omega) hp
          exact ⟨q, List.mem_cons_of_mem _ hq, h1⟩
        · rw [Nat.min_eq_right (by omega), piecesFrom_nil (Nat.le_refl _)] at hp
          simp at hp
  exact key _ _ _ _ _ (by omega) (Nat.le_refl _) hp

/-! ## Loads -/

theorem loadAt_touches {W : Nat → Prop} (s : State) (t : Nat) (tm : Team) (pol : Word) (p : MPiece) (pa : Nat) :
    s.Touches W (s.loadAt t tm pol p pa).2 := by
  unfold State.loadAt
  dsimp only
  split
  · split
    · exact .refl s
    · exact .noteSig ..
  · split
    · exact .noteSig ..
    · split
      · exact .noteSig ..
      · split
        · exact .refl s
        · split
          · exact .noteSig ..
          · dsimp only; exact (State.Touches.noteSig ..).trans (.modCol ..)

theorem gload_touches {W : Nat → Prop} (s : State) (t : Nat) (pol : Word) (a n : Nat) : s.Touches W (s.gload t pol a n).s := by
  unfold State.gload
  split
  · exact .refl s
  · next tm _ =>
    refine List.foldlRecOn (motive := fun r : LaneAcc => s.Touches W r.s) _ _ (.refl s) fun r hs p _ => ?_
    have hp := place_touches (W := W) r.s tm p false
    split
    · next h => rw [h] at hp; exact hs.trans hp
    · next pa s1 h =>
      rw [h] at hp
      have hl := loadAt_touches (W := W) s1 t tm pol p pa
      split <;>
      · next h => rw [h] at hl; exact (hs.trans hp).trans hl

/-! ## Stores -/

/-- The bytes of memory that pieces of an access place in declared ranges that stores act on. -/
def Team.storesTo (tm : Team) (va n a : Nat) : Prop :=
  ∃ p ∈ tm.pieces va n, ∃ x pg, p.range = some x ∧ (x.cls = .shr ∨ x.cls = .acc) ∧ pageOf x.pages p.va = some pg ∧
    pg.at p.va ≤ a ∧ a < pg.at p.va + p.len

theorem storesTo_mono {tm : Team} {va n m a : Nat} (h : n ≤ m) (ha : tm.storesTo va n a) : tm.storesTo va m a := by
  obtain ⟨p, hp, x, pg, hx, hc, hg, h1, h2⟩ := ha
  obtain ⟨q, hq, hv, hr, hl⟩ := pieces_prefix h hp
  exact ⟨q, hq, x, pg, hr.trans hx, hc, hv ▸ hg, hv ▸ h1, hv ▸ (by omega)⟩

theorem storeAt_touches {W : Nat → Prop} (s : State) (t : Nat) (p : MPiece) (pa : Nat) (b : List Byte)
    (h : p.range.map Extent.cls = some .shr ∨ p.range.map Extent.cls = some .acc → ∀ a, pa ≤ a → a < pa + b.length → W a) :
    s.Touches W (s.storeAt t p pa b) := by
  unfold State.storeAt
  split
  · next hc => exact (State.Touches.noteSig ..).trans (.memWrite _ _ _ (h (.inl hc)))
  · next hc => exact (State.Touches.noteSig ..).trans (.memWrite _ _ _ (h (.inr hc)))
  · exact (State.Touches.noteSig ..).trans (.modTeam _ _ fun _ => rfl)

theorem healLine_touches {W : Nat → Prop} (s : State) (cov : List (Nat × Nat)) (l : Nat) : s.Touches W (s.healLine cov l) := by
  unfold State.healLine
  split
  · exact .of_teams fun _ => rfl
  · exact .refl s

/-- The bytes a lane may still store are bytes of its piece. -/
theorem freeBytes_mem {cov : List (Nat × Nat)} {home : Bool} {lane : Nat} {b : List Byte} {a : Nat} {x : Nat × Byte}
    (h : x ∈ freeBytes cov home lane a b) : a ≤ x.1 ∧ x.1 < a + b.length := by
  induction b generalizing a with
  | nil => simp [freeBytes] at h
  | cons y r ih =>
    rw [List.length_cons]
    unfold freeBytes at h
    split at h
    · have := ih h; omega
    · rcases List.mem_cons.1 h with rfl | h
      · dsimp only; omega
      · have := ih h; omega

theorem gstore_touches (s : State) (t lane a : Nat) (b : List Byte) (cov : List (Nat × Nat)) :
    s.Touches (fun x => ∃ tm, s.team? t = some tm ∧ tm.storesTo a b.length x) (s.gstore t lane a b cov).1.s := by
  unfold State.gstore
  split
  · exact .refl s
  · next tm htm =>
    refine .mono (V := tm.storesTo a b.length) (fun x hx => ⟨tm, htm, hx⟩) ?_
    refine List.foldlRecOn (motive := fun r : LaneAcc × List (Nat × Nat) => s.Touches (tm.storesTo a b.length) r.1.s) _ _
      (.refl s) fun r hs p hpm => ?_
    have hp := place_touches (W := tm.storesTo a b.length) r.1.s tm p true
    have hok : ∀ pa, (r.1.s.place? tm p true).1 = .ok pa →
        p.range.map Extent.cls = some .shr ∨ p.range.map Extent.cls = some .acc →
        ∀ x, pa ≤ x → x < pa + p.len → tm.storesTo a b.length x := by
      intro pa h hc x h1 h2
      obtain ⟨e, he, hcls⟩ : ∃ e, p.range = some e ∧ (e.cls = .shr ∨ e.cls = .acc) := by
        cases he : p.range <;> simp_all
      obtain ⟨pg, hpg, rfl⟩ := place_declared he h
      exact ⟨p, hpm, e, pg, he, hcls, hpg, h1, h2⟩
    split
    · next h => rw [h] at hp; exact hs.trans hp
    · next pa s1 h =>
      rw [h] at hp hok
      have hlen : ((b.drop (p.va - a)).take p.len).length ≤ p.len := List.length_take_le ..
      refine (hs.trans hp).trans (State.Touches.trans ?_ (healLine_touches ..))
      split
      · exact storeAt_touches _ _ _ _ _ fun hc x h1 h2 => hok pa rfl hc x h1 (by omega)
      · refine .fold (fun u x hx => storeAt_touches _ _ _ _ _ fun hc y h1 h2 => ?_) _
        have := freeBytes_mem hx
        simp only [List.length_singleton] at h2
        exact hok pa rfl hc y (by omega) (by omega)

end Sys2Proof.Machine
end

section
/-! PROOFS. The instructions that access global memory, by their rules (R199, R229, R260). -/
namespace Sys2Proof.Machine

/-! ## Lanes one after the other -/

/-- What the lanes of an access leave is within what each of them leaves. -/
theorem runLanes_touches {a : GAcc} {t : Nat} {v : OpVals} {W : Nat → Prop} {ls : List Nat} {r : RunOut}
    (h : ∀ l ∈ ls, ∀ cov u, r.s.Touches W u → u.Touches W (a.run t v l cov u).s) : r.s.Touches W (a.runLanes t v ls r).s := by
  induction ls generalizing r with
  | nil => exact .refl _
  | cons l ls ih =>
    have h1 := h l List.mem_cons_self r.cov r.s (.refl _)
    rw [GAcc.runLanes]
    refine h1.trans (ih (r := ⟨_, _, _, _, _, _, _⟩) ?_)
    exact fun k hk cov u hu => h k (List.mem_cons_of_mem _ hk) cov u (h1.trans hu)

/-- The bytes of the object of an atomic, where its translation places it. -/
def State.objectAt (s : State) (t va off n : Nat) (w : Bool) (a : Nat) : Prop :=
  ∃ tm pa, s.team? t = some tm ∧ (s.place? tm ⟨va, n, tm.rangeAt va⟩ w).1 = .ok pa ∧ pa + off ≤ a ∧ a < pa + off + n

theorem discardStaged_touches {W : Nat → Prop} (s : State) (t : Nat) (tm : Team) (pa n : Nat) :
    s.Touches W (s.discardStaged t tm pa n) := by
  unfold State.discardStaged
  refine State.Touches.trans (.modTeam s t ?_) (.modCol ..)
  exact fun _ => rfl

/-- An atomic that writes nothing stores nothing; one that writes stores to its object alone. -/
theorem gAtomic_touches (s : State) (t va off n : Nat) (w : Bool) (f : Nat → Option Nat) (out : Nat → LaneOut)
    (cov : List (Nat × Nat)) : s.Touches (fun a => (∃ o, f o ≠ none) ∧ s.objectAt t va off n w a) (s.gAtomic t va off n w f out cov).s := by
  unfold State.gAtomic
  dsimp only
  split
  · exact .refl s
  · next tm htm =>
    have hp := place_touches (W := fun a => (∃ o, f o ≠ none) ∧ s.objectAt t va off n w a) s tm ⟨va, n, tm.rangeAt va⟩ w
    have hok : ∀ pa, (s.place? tm ⟨va, n, tm.rangeAt va⟩ w).1 = .ok pa → ∀ a, pa + off ≤ a → a < pa + off + n →
        s.objectAt t va off n w a := fun pa h a h1 h2 => ⟨tm, pa, htm, h, h1, h2⟩
    split
    · next h => rw [h] at hp; exact hp
    · next pa s1 h =>
      rw [h] at hp hok
      split
      · exact hp
      · split
        · exact hp.trans (.noteSig ..)
        · next x hx =>
          have h2 := (hp.trans (.noteSig s1 t ⟨va, n, tm.rangeAt va⟩ (pa + off) false)).trans
            (.noteSig _ t ⟨va, n, tm.rangeAt va⟩ (pa + off) true)
          refine h2.trans (State.Touches.trans ?_ (.modTeam _ _ ?_))
          rotate_left
          · exact fun _ => rfl
          have hw : ∀ a, pa + off ≤ a → a < pa + off + (leBytes n x).length → (∃ o, f o ≠ none) ∧ s.objectAt t va off n w a :=
            fun a h1 h2 => ⟨⟨_, by rw [hx]; simp⟩, hok pa rfl a h1 (by rwa [leBytes_length] at h2)⟩
          split
          · exact .memWrite _ _ _ hw
          · exact (discardStaged_touches ..).trans (.memWrite _ _ _ hw)

/-! ## The accesses of one lane -/

theorem mxaccAcc_touches {W : Nat → Prop} (tf sf : MxFmt) (t : Nat) (v : OpVals) (l : Nat) (cov : List (Nat × Nat)) (s : State) :
    s.Touches W ((mxaccAcc tf sf).run t v l cov s).s := by
  unfold mxaccAcc
  dsimp only
  split
  · exact .refl s
  · next tm _ =>
    have hp := place_touches (W := W) s tm ⟨v.va l, MxFmt.granule tf, tm.rangeAt (v.va l)⟩ true
    split <;>
    · next h => rw [h] at hp; exact hp

theorem mxldAcc_touches {W : Nat → Prop} (tf : MxFmt) (d t : Nat) (v : OpVals) (l : Nat) (cov : List (Nat × Nat)) (s : State) :
    s.Touches W ((mxldAcc tf d).run t v l cov s).s := by
  unfold mxldAcc
  dsimp only
  split
  · exact .refl s
  · next tm _ =>
    have hp := place_touches (W := W) s tm ⟨v.va l, MxFmt.granule tf, tm.rangeAt (v.va l)⟩ false
    split
    · next h => rw [h] at hp; exact hp
    · next h =>
      rw [h] at hp
      split
      · exact hp
      · exact hp.trans (.noteSig ..)

/-- Whatever a lane of an access does, groups and the Kennel stand. -/
theorem globRule_touches {i : Instr} {r : GRule} (h : globRule i = some r) (c : Ctx) (t : Nat) (v : OpVals) (l : Nat)
    (cov : List (Nat × Nat)) (s : State) : s.Touches (fun _ => True) (((r.acc c).run t v l cov s).s) := by
  unfold globRule at h
  split at h <;> cases h
  case h_1 | h_3 => exact gload_touches ..
  case h_2 | h_4 => exact (gstore_touches ..).mono fun _ _ => trivial
  case h_5 | h_6 => exact (gAtomic_touches ..).mono fun _ _ => trivial
  case h_7 => exact mxldAcc_touches ..
  case h_8 => exact mxaccAcc_touches ..

theorem GRule.run_touches {i : Instr} {r : GRule} (h : globRule i = some r) (c : Ctx) (s : State) (t : Nat) :
    s.Touches (fun _ => True) (r.run c s t).s :=
  runLanes_touches (r := c.noLanes s) fun l _ cov u _ => globRule_touches h c t _ l cov u

/-! ## Blocks of lanes -/

theorem getLsbD_foldl_or {α : Type} (xs : List α) (f : Mask → α → Mask) (p : α → Nat → Bool)
    (hf : ∀ m x l, (f m x).getLsbD l = (m.getLsbD l || p x l)) (m : Mask) (l : Nat) :
    (xs.foldl f m).getLsbD l = (m.getLsbD l || xs.any (fun x => p x l)) := by
  induction xs generalizing m with
  | nil => simp
  | cons x xs ih => rw [List.foldl_cons, ih, hf, List.any_cons, Bool.or_assoc]

theorem mask_eq_zero {m : Mask} (h : ∀ l, l < 64 → m.getLsbD l = false) : m = 0 :=
  BitVec.eq_of_getLsbD_eq fun l hl => by rw [h l hl]; simp

/-- Lane `l` lies in a block of `k` lanes that is partly in ACTIVE. -/
def Ctx.inPart (c : Ctx) (k l : Nat) : Prop :=
  l < c.g.width / k * k ∧ (∃ j, j / k = l / k ∧ c.active.getLsbD j = true) ∧ ∃ j, j / k = l / k ∧ c.active.getLsbD j = false

/-- Lane `l` lies in a block whose lead lane is in ACTIVE with an address that is no multiple of `al`. -/
def Ctx.inMis (c : Ctx) (k al : Nat) (v : OpVals) (l : Nat) : Prop :=
  ∃ j, j < c.g.width ∧ c.active.getLsbD j = true ∧ j % k = 0 ∧ v.va j % al ≠ 0 ∧ j ≤ l ∧ l < j + k

section
variable {c : Ctx} {k : Nat} (hk : k = 4 ∨ k = 8)
include hk

/-- A block's lanes of ACTIVE, moved down. -/
theorem getLsbD_block (i j : Nat) :
    ((c.active >>> (k * i)) &&& Mask.below k).getLsbD j = (c.active.getLsbD (k * i + j) && decide (j < k)) := by
  rw [BitVec.getLsbD_and, BitVec.getLsbD_ushiftRight, getLsbD_below]
  rcases hk with rfl | rfl <;> cases h : c.active.getLsbD (_ * i + j) <;> simp <;> omega

theorem block_ne_zero (i : Nat) : (c.active >>> (k * i)) &&& Mask.below k ≠ 0 ↔ ∃ j, j / k = i ∧ c.active.getLsbD j = true := by
  have hk0 : 0 < k := by omega
  constructor
  · intro h
    refine Classical.byContradiction fun hc => ?_
    refine h (mask_eq_zero fun j _ => ?_)
    rw [getLsbD_block hk, Bool.and_eq_false_iff]
    by_cases hj : j < k
    · refine .inl (Bool.eq_false_iff.2 fun ha => hc ⟨k * i + j, ?_, ha⟩)
      rw [Nat.mul_add_div hk0, Nat.div_eq_of_lt hj, Nat.add_zero]
    · exact .inr (by simpa using hj)
  · rintro ⟨j, rfl, ha⟩ hz
    have := getLsbD_block (c := c) hk (j / k) (j % k)
    rw [hz, Nat.div_add_mod, ha] at this
    simp [Nat.mod_lt _ hk0] at this

theorem block_ne_full (i : Nat) :
    (c.active >>> (k * i)) &&& Mask.below k ≠ Mask.below k ↔ ∃ j, j / k = i ∧ c.active.getLsbD j = false := by
  have hk0 : 0 < k := by omega
  constructor
  · intro h
    refine Classical.byContradiction fun hc => ?_
    refine h (BitVec.eq_of_getLsbD_eq fun j hj64 => ?_)
    rw [getLsbD_block hk, getLsbD_below]
    by_cases hj : j < k
    · have : c.active.getLsbD (k * i + j) = true := by
        refine Classical.byContradiction fun ha => ?_
        refine hc ⟨k * i + j, ?_, by simpa using ha⟩
        rw [Nat.mul_add_div hk0, Nat.div_eq_of_lt hj, Nat.add_zero]
      simp [this, hj, hj64]
    · simp [hj]
  · rintro ⟨j, rfl, ha⟩ hz
    have := getLsbD_block (c := c) hk (j / k) (j % k)
    have hm := Nat.mod_lt j hk0
    rw [hz, Nat.div_add_mod, ha, getLsbD_below] at this
    simp [hm] at this
    omega

theorem getLsbD_partBlocks (l : Nat) : (c.partBlocks k).getLsbD l = true ↔ l < 64 ∧ c.inPart k l := by
  have hk0 : 0 < k := by omega
  unfold Ctx.partBlocks
  dsimp only
  rw [getLsbD_foldl_or _ _ (fun i l => decide (((c.active >>> (k * i)) &&& Mask.below k ≠ 0 ∧
    (c.active >>> (k * i)) &&& Mask.below k ≠ Mask.below k) ∧ l < 64 ∧ l / k = i))]
  · have hw : l / k < c.g.width / k ↔ l < c.g.width / k * k := Nat.div_lt_iff_lt_mul hk0
    simp only [BitVec.ofNat_eq_ofNat, BitVec.getLsbD_zero, Bool.false_or, upTo, List.any_eq_true, List.mem_range, decide_eq_true_eq]
    constructor
    · rintro ⟨i, hi, ⟨h1, h2⟩, h3, rfl⟩
      exact ⟨h3, hw.1 hi, (block_ne_zero hk _).1 h1, (block_ne_full hk _).1 h2⟩
    · rintro ⟨h3, h4, h1, h2⟩
      exact ⟨l / k, hw.2 h4, ⟨(block_ne_zero hk _).2 h1, (block_ne_full hk _).2 h2⟩, h3, rfl⟩
  · intro m i l
    split
    · next h =>
      rw [BitVec.getLsbD_or, BitVec.getLsbD_shiftLeft, getLsbD_below]
      congr 1
      simp only [ne_eq, Bool.and_eq_true, decide_eq_true_eq] at h
      simp only [ne_eq, h, not_false_eq_true, and_self, true_and]
      rw [Bool.eq_iff_iff]
      simp only [Bool.and_eq_true, Bool.not_eq_true', decide_eq_true_eq, decide_eq_false_iff_not]
      constructor
      · rintro ⟨⟨h1, h2⟩, h3, h4⟩
        exact ⟨h1, by rw [Nat.div_eq_iff hk0]; rw [Nat.mul_comm] at h2 h3; omega⟩
      · rintro ⟨h1, h2⟩
        rw [Nat.div_eq_iff hk0, Nat.mul_comm] at h2
        omega
    · next h =>
      simp only [ne_eq, Bool.and_eq_true, decide_eq_true_eq] at h
      simp only [ne_eq, h, false_and, decide_false, Bool.or_false]

/-- Some block is partly in ACTIVE. -/
theorem partBlocks_ne_zero : c.partBlocks k ≠ 0 ↔ ∃ l, c.inPart k l := by
  constructor
  · intro h
    refine Classical.byContradiction fun hc => ?_
    refine h (mask_eq_zero fun l _ => Bool.eq_false_iff.2 fun ht => hc ⟨l, ((getLsbD_partBlocks hk l).1 ht).2⟩)
  · rintro ⟨l, hp⟩ hz
    obtain ⟨j, hj, ha⟩ := hp.2.1
    have hj64 : j < 64 := BitVec.lt_of_getLsbD ha
    have hl : l < 64 := by
      rcases hk with rfl | rfl <;> omega
    have := (getLsbD_partBlocks hk l).2 ⟨hl, hp⟩
    rw [hz] at this
    simp at this

theorem getLsbD_misBlocks (al : Nat) (v : OpVals) (l : Nat) :
    (c.misBlocks k al v.va).getLsbD l = true ↔ l < 64 ∧ c.inMis k al v l := by
  unfold Ctx.misBlocks
  rw [getLsbD_foldl_or _ _ (fun j l => decide (v.va j % al ≠ 0 ∧ l < 64 ∧ j ≤ l ∧ l < j + k))]
  · simp only [BitVec.ofNat_eq_ofNat, BitVec.getLsbD_zero, Bool.false_or, List.any_eq_true, decide_eq_true_eq, Ctx.leads,
      List.mem_filter, mem_lanes]
    constructor
    · rintro ⟨j, ⟨⟨h1, h2, h3⟩, h4⟩, h5, h6, h7, h8⟩
      exact ⟨h6, j, h1, h3, h4, h5, h7, h8⟩
    · rintro ⟨h6, j, h1, h3, h4, h5, h7, h8⟩
      exact ⟨j, ⟨⟨h1, BitVec.lt_of_getLsbD h3, h3⟩, h4⟩, h5, h6, h7, h8⟩
  · intro m j l
    split
    · next h =>
      rw [BitVec.getLsbD_or, BitVec.getLsbD_shiftLeft, getLsbD_below]
      congr 1
      simp only [h, ne_eq, not_false_eq_true, true_and]
      rw [Bool.eq_iff_iff]
      simp only [Bool.and_eq_true, Bool.not_eq_true', decide_eq_true_eq, decide_eq_false_iff_not]
      rcases hk with rfl | rfl <;> omega
    · next h => simp [h]

/-- Some lead lane's address is not aligned. -/
theorem misBlocks_ne_zero (al : Nat) (v : OpVals) : c.misBlocks k al v.va ≠ 0 ↔ ∃ l, c.inMis k al v l := by
  constructor
  · intro h
    refine Classical.byContradiction fun hc => ?_
    refine h (mask_eq_zero fun l _ => Bool.eq_false_iff.2 fun ht => hc ⟨l, ((getLsbD_misBlocks hk al v l).1 ht).2⟩)
  · rintro ⟨l, j, h1, h2, h3, h4, h5, h6⟩ hz
    have := (getLsbD_misBlocks hk al v j).2 ⟨BitVec.lt_of_getLsbD h2, j, h1, h2, h3, h4, Nat.le_refl _, by omega⟩
    rw [hz] at this
    simp at this

/-- The blocks are in order where none is partly in ACTIVE and no lead lane's address is off. -/
theorem blocksOk_iff (al : Nat) (v : OpVals) :
    c.blocksOk k al v ↔ (∀ l, ¬c.inPart k l) ∧ ∀ l, ¬c.inMis k al v l := by
  have hk0 : 0 < k := by omega
  constructor
  · rintro ⟨h1, h2⟩
    refine ⟨?_, fun l ⟨j, h3, h4, h5, h6, _⟩ => h6 (h2 j h3 h4 h5)⟩
    rintro l ⟨hl, ⟨j, hj, ha⟩, m, hm, hb⟩
    have hw : l / k < c.g.width / k := (Nat.div_lt_iff_lt_mul hk0).2 hl
    have h3 := h1 j ((Nat.div_lt_iff_lt_mul hk0).1 (by rw [hj]; exact hw))
    have h4 := h1 m ((Nat.div_lt_iff_lt_mul hk0).1 (by rw [hm]; exact hw))
    rw [hj] at h3
    rw [hm] at h4
    rw [h3, ← h4, hb] at ha
    cases ha
  · rintro ⟨h1, h2⟩
    refine ⟨fun l hl => ?_, fun l h3 h4 h5 => ?_⟩
    · have hd : l / k * k / k = l / k := Nat.mul_div_cancel _ hk0
      refine Classical.byContradiction fun hne => ?_
      cases ha : c.active.getLsbD l <;> cases hb : c.active.getLsbD (l / k * k)
      · exact hne (ha.trans hb.symm)
      · exact h1 l ⟨hl, ⟨_, hd, hb⟩, l, rfl, ha⟩
      · exact h1 l ⟨hl, ⟨l, rfl, ha⟩, _, hd, hb⟩
      · exact hne (ha.trans hb.symm)
    · refine Classical.byContradiction fun hne => ?_
      exact h2 l ⟨l, h3, h4, h5, hne, Nat.le_refl _, by omega⟩

end

end Sys2Proof.Machine
end

section
/-! PROOFS. Global loads, stores, atomics and MX accesses at issue (R37, R222, R229, R260, R265). -/
namespace Sys2Proof.Machine

/-! ## What their instructions come to -/

/-- What the instruction issues with. -/
def GRule.spec (r : GRule) : Spec := { core := r.core, flag := r.flag, guard := r.guard, uses := fun c _ => r.uses c }

/-- The access of the rule at issue. -/
def GRule.body (r : GRule) (c : Ctx) (s : State) : Res :=
  c.globalOp s r.flag (r.acc c) (r.vals c s) r.ends r.dV r.dS r.acq r.rel

/-- MXLD's pair does not fit its budget. -/
def Instr.Exceeds (i : Instr) (r : GRule) (c : Ctx) (s : State) : Prop :=
  (∃ fs tf d m, i = .mxld fs tf d m) ∧
    overBudget c.g (((c.now s).endUses c.active r.ends).addOp { c.op r.flag .idle with dstV := r.dV }) = true

/-- The formats of an MX access: lanes of a block, and the granule its addresses are multiples of. -/
def Instr.MxBlocks (i : Instr) (k al : Nat) : Prop :=
  (∃ gd fs tf sf x m lu sc, i = .mxacc gd fs tf sf x m lu sc ∧ k = MxFmt.lanes sf ∧ al = MxFmt.granule tf) ∨
    ∃ fs tf d m, i = .mxld fs tf d m ∧ k = MxFmt.lanes tf ∧ al = MxFmt.granule tf

theorem mxLanes (f : MxFmt) : MxFmt.lanes f = 4 ∨ MxFmt.lanes f = 8 := by
  unfold MxFmt.lanes
  split
  · exact .inl rfl
  · exact .inr rfl

/-- What an instruction of a compute group does once it issues: REGBUDGET, MXMASK and MXALIGN in this order, else its access. -/
structure GRule.Means (r : GRule) (i : Instr) (body : Ctx → State → Res) (c : Ctx) (s : State) : Prop where
  exceeds : Instr.Exceeds i r c s → body c s = .trap .regBudget c.active 0
  part : ¬Instr.Exceeds i r c s → ∀ k al, Instr.MxBlocks i k al → c.partBlocks k ≠ 0 → body c s = .trap .mxMask (c.partBlocks k) 0
  mis : ¬Instr.Exceeds i r c s → ∀ k al, Instr.MxBlocks i k al → c.partBlocks k = 0 → c.misBlocks k al (r.vals c s).va ≠ 0 →
    body c s = .trap .mxAlign (c.misBlocks k al (r.vals c s).va) 0
  access : ¬Instr.Exceeds i r c s → r.ok c s → body c s = r.body c s
  left : (body c s).left = none ∨ body c s = r.body c s

/-- An instruction that does its access whatever its lanes are. -/
theorem GRule.Means.plain {r : GRule} {i : Instr} {body : Ctx → State → Res} {c : Ctx} {s : State}
    (hx : ∀ fs tf d m, i ≠ .mxld fs tf d m) (ha : ∀ gd fs tf sf x m lu sc, i ≠ .mxacc gd fs tf sf x m lu sc)
    (h : body c s = r.body c s) : r.Means i body c s := by
  have hb : ∀ k al, ¬Instr.MxBlocks i k al := by
    rintro k al (⟨_, _, _, _, _, _, _, _, he, _⟩ | ⟨_, _, _, _, he, _⟩)
    · exact ha _ _ _ _ _ _ _ _ he
    · exact hx _ _ _ _ he
  exact ⟨fun ⟨⟨_, _, _, _, he⟩, _⟩ => absurd he (hx _ _ _ _), fun _ k al h => absurd h (hb k al),
    fun _ k al h => absurd h (hb k al), fun _ _ => h, .inr h⟩

theorem mxacc_means {gd : Guard} {fs : Bool} {tf sf : MxFmt} {x : Src} {m : MAddr} {lu : Bool} {sc : BitVec 8} {r : GRule}
    (h : globRule (.mxacc gd fs tf sf x m lu sc) = some r) : ∃ body,
      (∀ s, exec (.mxacc gd fs tf sf x m lu sc) s = issue r.spec body s) ∧
      ∀ c s, r.Means (.mxacc gd fs tf sf x m lu sc) body c s := by
  cases h
  refine ⟨_, fun s => by show execMxacc _ _ _ _ _ _ _ _ s = _; delta execMxacc; rfl, fun c s => ?_⟩
  have hk := mxLanes sf
  have hb : ∀ k al, Instr.MxBlocks (.mxacc gd fs tf sf x m lu sc) k al → k = MxFmt.lanes sf ∧ al = MxFmt.granule tf := by
    rintro k al (⟨_, _, _, _, _, _, _, _, he, h1, h2⟩ | ⟨_, _, _, _, he, _⟩)
    · cases he; exact ⟨h1, h2⟩
    · cases he
  refine ⟨fun ⟨⟨_, _, _, _, he⟩, _⟩ => (by cases he), fun _ k al h hp => ?_, fun _ k al h hp hm => ?_, fun _ hok => ?_, ?_⟩
  · obtain ⟨rfl, rfl⟩ := hb k al h
    exact if_pos hp
  · obtain ⟨rfl, rfl⟩ := hb k al h
    exact (if_neg (not_not_intro hp)).trans (if_pos hm)
  · obtain ⟨h1, h2⟩ := (blocksOk_iff hk _ _).1 hok
    have hp : c.partBlocks (MxFmt.lanes sf) = 0 := by
      refine Classical.byContradiction fun hc => ?_
      exact (not_exists.2 h1) ((partBlocks_ne_zero hk).1 hc)
    have hm := fun hc => (not_exists.2 h2) ((misBlocks_ne_zero hk _ _).1 hc)
    exact (if_neg (not_not_intro hp)).trans (if_neg hm)
  · dsimp only
    split
    · exact .inl rfl
    · split
      · exact .inl rfl
      · exact .inr rfl

theorem mxld_means {fs : Bool} {tf : MxFmt} {d : BitVec 8} {m : MAddr} {r : GRule}
    (h : globRule (.mxld fs tf d m) = some r) : ∃ body, (∀ s, exec (.mxld fs tf d m) s = issue r.spec body s) ∧
      ∀ c s, r.Means (.mxld fs tf d m) body c s := by
  cases h
  refine ⟨_, fun s => by show execMxld _ _ _ _ s = _; delta execMxld; rfl, fun c s => ?_⟩
  have hk := mxLanes tf
  have hb : ∀ k al, Instr.MxBlocks (.mxld fs tf d m) k al → k = MxFmt.lanes tf ∧ al = MxFmt.granule tf := by
    rintro k al (⟨_, _, _, _, _, _, _, _, he, h1, h2⟩ | ⟨_, _, _, _, he, h1, h2⟩)
    · cases he
    · cases he; exact ⟨h1, h2⟩
  refine ⟨fun ⟨_, ho⟩ => if_pos ho, fun hx k al h hp => ?_, fun hx k al h hp hm => ?_, fun hx hok => ?_, ?_⟩
  · obtain ⟨rfl, rfl⟩ := hb k al h
    exact (if_neg fun ho => hx ⟨⟨_, _, _, _, rfl⟩, ho⟩).trans (if_pos hp)
  · obtain ⟨rfl, rfl⟩ := hb k al h
    exact (if_neg fun ho => hx ⟨⟨_, _, _, _, rfl⟩, ho⟩).trans ((if_neg (not_not_intro hp)).trans (if_pos hm))
  · obtain ⟨h1, h2⟩ := (blocksOk_iff hk _ _).1 hok
    have hp : c.partBlocks (MxFmt.lanes tf) = 0 := by
      refine Classical.byContradiction fun hc => ?_
      exact (not_exists.2 h1) ((partBlocks_ne_zero hk).1 hc)
    have hm := fun hc => (not_exists.2 h2) ((misBlocks_ne_zero hk _ _).1 hc)
    exact (if_neg fun ho => hx ⟨⟨_, _, _, _, rfl⟩, ho⟩).trans ((if_neg (not_not_intro hp)).trans (if_neg hm))
  · dsimp only
    split
    · exact .inl rfl
    · split
      · exact .inl rfl
      · split
        · exact .inl rfl
        · exact .inr rfl

/-- An access to global memory runs as its rule says on a compute core. -/
theorem exec_globRule {i : Instr} {r : GRule} (h : globRule i = some r) : ∃ body, (∀ s, exec i s = issue r.spec body s) ∧
    ∀ c s, c.g.kennel = false → r.Means i body c s := by
  have h0 := h
  unfold globRule at h
  split at h
  case h_9 => cases h
  case h_8 => obtain ⟨b, h1, h2⟩ := mxacc_means h0; exact ⟨b, h1, fun c s _ => h2 c s⟩
  case h_7 => obtain ⟨b, h1, h2⟩ := mxld_means h0; exact ⟨b, h1, fun c s _ => h2 c s⟩
  case h_3 =>
    cases h
    refine ⟨_, fun s => by show execLdu _ _ _ _ _ s = _; delta execLdu; rfl, fun c s hk => .plain (by simp) (by simp) ?_⟩
    exact if_neg (by rw [hk]; decide)
  case h_4 =>
    cases h
    refine ⟨_, fun s => by show execStu _ _ _ _ _ _ s = _; delta execStu; rfl, fun c s hk => .plain (by simp) (by simp) ?_⟩
    exact if_neg (by rw [hk]; decide)
  case h_1 =>
    cases h
    exact ⟨_, fun s => by show execLd _ _ _ _ _ s = _; delta execLd; rfl, fun c s _ => .plain (by simp) (by simp) rfl⟩
  case h_2 =>
    cases h
    exact ⟨_, fun s => by show execSt _ _ _ _ _ _ s = _; delta execSt; rfl, fun c s _ => .plain (by simp) (by simp) rfl⟩
  case h_5 gd fs op sc o ret x m =>
    cases h
    refine ⟨_, fun s => by show execAtom _ _ _ sc _ _ _ _ s = _; delta execAtom; rfl,
      fun c s _ => .plain (by simp) (by simp) ?_⟩
    cases o <;> rfl
  case h_6 gd fs op sc o ret x m =>
    cases h
    refine ⟨_, fun s => by show execAtomu _ _ _ sc _ _ _ _ s = _; delta execAtomu; rfl,
      fun c s _ => .plain (by simp) (by simp) ?_⟩
    cases o <;> rfl

/-! ## At issue -/

/-- A group that binds the same names within the same budgets. -/
theorem overBudget_congr {b g h : Group} (hk : g.kennel = h.kennel) (hv : g.vbud = h.vbud) (hs : g.sbud = h.sbud)
    (hl : g.lanes = h.lanes) (hr : g.sregs = h.sregs) (hd : g.ops.map Op.dstV = h.ops.map Op.dstV)
    (he : g.ops.map Op.dstS = h.ops.map Op.dstS) : overBudget b g = overBudget b h := by
  have h1 (x : Group) : x.boundV = (x.ops.map Op.dstV).foldl (fun acc ns => ns.foldl setIns acc)
      (x.lanes.foldl (fun acc x => x.regs.foldl (fun a p => setIns a p.1) acc) []) := by simp only [Group.boundV, List.foldl_map]
  have h2 (x : Group) : x.boundS = (x.ops.map Op.dstS).foldl (fun acc ns => ns.foldl setIns acc) (x.sregs.map Prod.fst) := by
    simp only [Group.boundS, List.foldl_map]
  simp only [overBudget, h1, h2, hk, hv, hs, hl, hr, hd, he]

theorem touchV_eq (g : Group) (n : Nat) : ∃ r, g.touchV n = { g with retained := r } := by
  unfold Group.touchV; split <;> exact ⟨_, rfl⟩

theorem touchS_eq (g : Group) (n : Nat) : ∃ r, g.touchS n = { g with retained := r } := by
  unfold Group.touchS; split <;> exact ⟨_, rfl⟩

theorem bindDst_eq (g : Group) (o : Op) : ∃ r, g.bindDst o = { g with retained := r } := by
  unfold Group.bindDst
  refine List.foldlRecOn (motive := fun x : Group => ∃ r, x = { g with retained := r }) _ _ ?_ fun x ⟨_, hx⟩ n _ => ?_
  · refine List.foldlRecOn (motive := fun x : Group => ∃ r, x = { g with retained := r }) _ _ ⟨_, rfl⟩ fun x ⟨_, hx⟩ n _ => ?_
    obtain ⟨r, hr⟩ := touchV_eq x n
    exact ⟨r, by rw [hr, hx]⟩
  · obtain ⟨r, hr⟩ := touchS_eq x n
    exact ⟨r, by rw [hr, hx]⟩

/-- Two operations that bind the same names leave the same to judge. -/
theorem overBudget_addWork {b g : Group} {o o' : Op} (he : o.empty = false) (hv : o.dstV = o'.dstV) (hs : o.dstS = o'.dstS)
    (isB : Bool) (turn : Nat) (bs : List StoreByte) :
    overBudget b ((g.addWork o).notesLater isB turn bs) = overBudget b (g.addOp o') := by
  obtain ⟨r, hr⟩ := bindDst_eq g o
  have hw : (g.addWork o).notesLater isB turn bs = (({ g with retained := r } : Group).addOp o).notesLater isB turn bs := by
    rw [Group.addWork, if_neg (by rw [he]; decide), hr]
  rw [hw]
  refine overBudget_congr ?_ ?_ ?_ ?_ ?_ ?_ ?_ <;> unfold Group.notesLater <;> split <;> simp [Group.addOp, hv, hs]

theorem settle_overBudget {c : Ctx} {x : State} (h : overBudget c.g (c.now x) = true) :
    c.settle x = .error (some .regBudget) := by
  unfold Ctx.settle
  dsimp only
  rw [if_pos (overBudget_merged h)]

section
variable {i : Instr} {r : GRule} {c0 c : Ctx} {s : State} {t gi : Nat} {b : Bool}

/-- An access that waits for nothing, overtakes nothing and reads no poison does what its rule says. -/
theorem body_free (ha : c.ag = .port t gi b) (h : r.Free c s t) : r.body c s = .done (r.after c s t) := by
  obtain ⟨ag, g, cl, m⟩ := c
  obtain rfl : ag = _ := ha
  unfold GRule.body Ctx.globalOp
  dsimp only
  rw [if_neg (by rw [h.order]; decide)]
  refine (if_neg ?_).trans ((if_neg ?_).trans rfl)
  · exact fun hc => Bool.false_ne_true (h.sound.symm.trans hc)
  · exact fun hc => Bool.false_ne_true (h.lane.symm.trans hc)

theorem body_poison (ha : c.ag = .port t gi b)
    (hw : (r.acc c).waits s t (c.now s) (r.vals c s) ((r.acc c).lanes c.active c.g.width) r.rel = false)
    (hu : (r.run c s t).uce = true) : r.body c s = .uce := by
  obtain ⟨ag, g, cl, m⟩ := c
  obtain rfl : ag = _ := ha
  unfold GRule.body Ctx.globalOp
  dsimp only
  rw [if_neg (by rw [hw]; decide)]
  exact if_pos hu

theorem grpOf_run (h : globRule i = some r) (c : Ctx) (s : State) (t : Nat) (a : Agent) :
    (r.run c s t).s.grpOf a = s.grpOf a := (r.run_touches h c s t).grpOf a

/-- The group an access leaves. -/
theorem now_after (h : globRule i = some r) {g : Group} (hg : s.grpOf c.ag = some g) :
    c.now (r.after c s t) =
      ((g.endUses c.active r.ends).addWork (r.op c s (r.run c s t))).notesLater c.ag.isB (c.g.lastIssue.getD 0)
        (coverBytes (r.run c s t).cov) :=
  mod_now _ ((grpOf_run h c s t _).trans hg)

/-- MXLD whose pair does not fit leaves an effect that does not either. -/
theorem exceeds_after (h : globRule i = some r) {g : Group} (hg : s.grpOf c.ag = some g) (hf : r.flag.ok c.cl = true)
    (hx : Instr.Exceeds i r c s) : c.settle (r.after c s t) = .error (some .regBudget) := by
  obtain ⟨⟨fs, tf, d, m, rfl⟩, ho⟩ := hx
  refine settle_overBudget ?_
  rw [now_after h hg]
  have hn : c.now s = g := by rw [Ctx.now, hg]; rfl
  rw [hn] at ho
  have hr : r.flag = .must fs ∧ r.dS = [] := by cases h; exact ⟨rfl, rfl⟩
  have he : (r.op c s (r.run c s t)).empty = false := by
    simp only [hr.1, FlagUse.ok, decide_eq_true_eq] at hf
    simp [GRule.op, Op.empty, Ctx.op, FlagUse.flag, hr.1, hf]
  exact (overBudget_addWork (o' := { c.op r.flag .idle with dstV := r.dV }) he rfl hr.2 ..).trans ho

end

/-- Settles O28: by what the instruction comes to in its body. -/
theorem globalAccessCompletes : Obligations.GlobalAccessCompletes := by
  unfold Obligations.GlobalAccessCompletes
  intro i r c0 c s t gi b h hk hi ha s' exceeds
  obtain ⟨body, he, hm⟩ := exec_globRule h
  have hx : exec i s = c.finish s (body c s') := (he s).trans (issueLong_body (sp := r.spec) hi rfl rfl)
  obtain ⟨g, hg, -⟩ := IssuesUnder_group hi.base
  obtain ⟨g', hg', -⟩ := begun_noted (c0 := c0) r.uses hg
  have hf : r.flag.ok c.cl = true := by rw [show c.cl = c0.cl by rw [hi.base.narrowed]]; exact hi.field
  obtain ⟨m1, m2, m3, m4, -⟩ := hm c s' hk
  refine ⟨fun hr => ?_, fun hn hok hw hu => ?_, fun hn => ?_, fun k al hb hn => ?_⟩
  · by_cases hn : exceeds
    · have hs := exceeds_after (t := t) h hg' hf hn
      refine ⟨fun ⟨s2, h2⟩ => (nomatch hs.symm.trans h2), fun e he => ?_, fun he => (nomatch hs.symm.trans he)⟩
      obtain rfl : e = .regBudget := by simpa using (hs.symm.trans he).symm
      exact hx.trans (by rw [m1 hn]; rfl)
    · exact runsTo_of_done (hx.trans (by rw [m4 hn hr.ok, body_free ha hr]))
  · exact consumesAt_of_uce (hx.trans (by rw [m4 hn hok, body_poison ha hw hu]))
  · exact hx.trans (by rw [m1 hn]; rfl)
  · have hk8 : k = 4 ∨ k = 8 := by
      rcases hb with ⟨_, _, _, _, _, _, _, _, _, rfl, _⟩ | ⟨_, _, _, _, _, rfl, _⟩ <;> exact mxLanes _
    intro part mis
    refine ⟨fun hp => ⟨_, hx.trans (by rw [m2 hn k al hb ((partBlocks_ne_zero hk8).2 hp)]; rfl), fun l hl => ?_⟩,
      fun hp hq => ?_⟩
    · exact (getLsbD_partBlocks hk8 l).trans (and_iff_right hl)
    · have hp0 : c.partBlocks k = 0 := by
        refine Classical.byContradiction fun hc => ?_
        exact (not_exists.2 hp) ((partBlocks_ne_zero hk8).1 hc)
      refine ⟨_, hx.trans (by rw [m3 hn k al hb hp0 ((misBlocks_ne_zero hk8 ..).2 hq)]; rfl), fun l hl => ?_⟩
      exact (getLsbD_misBlocks hk8 ..).trans (and_iff_right hl)

end Sys2Proof.Machine
end

section
/-! PROOFS. Stores and atomics change no byte of memory but those they store to (R199, R205, R239, R248, R249, R261). -/
namespace Sys2Proof.Machine

/-! ## Teams that place an access alike -/

/-- The two teams have the same ranges, grid and core: pieces and translations are the same. -/
structure Team.Places (x y : Team) : Prop where
  ranges : y.ranges = x.ranges
  grid : y.grid = x.grid
  core : y.core = x.core

theorem Team.Places.trans {x y z : Team} (a : x.Places y) (b : y.Places z) : x.Places z :=
  ⟨b.ranges.trans a.ranges, b.grid.trans a.grid, b.core.trans a.core⟩

theorem Team.Places.place {x y : Team} (h : x.Places y) (s : State) (p : MPiece) (w : Bool) : s.place? y p w = s.place? x p w := by
  simp only [State.place?, h.grid, h.core]

theorem Team.Places.storesTo {x y : Team} (h : x.Places y) (va n a : Nat) : y.storesTo va n a ↔ x.storesTo va n a := by
  simp only [Team.storesTo, pieces_congr h.ranges]

theorem State.Touches.places {W : Nat → Prop} {s t : State} (h : s.Touches W t) {n : Nat} {x y : Team} (hx : s.team? n = some x)
    (hy : t.team? n = some y) : x.Places y := by
  obtain ⟨z, hz, hb⟩ := h.team hx
  obtain rfl : z = y := Option.some.inj (hz.symm.trans hy)
  have h1 : z.base.ranges = x.base.ranges := by rw [hb]
  have h2 : z.base.grid = x.base.grid := by rw [hb]
  have h3 : z.base.core = x.base.core := by rw [hb]
  exact ⟨h1, h2, h3⟩

theorem State.SlotFrame.places {s t : State} (h : s.SlotFrame t) {n : Nat} {x y : Team} (hx : s.team? n = some x)
    (hy : t.team? n = some y) : x.Places y := by
  have hb := h.teams n
  rw [hx, hy] at hb
  have hb : y.bare = x.bare := by simpa using hb
  have h1 : y.bare.ranges = x.bare.ranges := by rw [hb]
  have h2 : y.bare.grid = x.bare.grid := by rw [hb]
  have h3 : y.bare.core = x.bare.core := by rw [hb]
  exact ⟨h1, h2, h3⟩

theorem State.SlotFrame.team_some {s t : State} (h : s.SlotFrame t) {n : Nat} {x : Team} (hx : s.team? n = some x) :
    ∃ y, t.team? n = some y := by
  have hb := h.teams n
  rw [hx] at hb
  cases ht : t.team? n <;> simp_all

/-! ## The memory an instruction leaves -/

/-- Issuing leaves the values of the operands. -/
theorem GRule.vals_begun {i : Instr} {r : GRule} (h : globRule i = some r) (c0 c : Ctx) (s : State) (us : Ctx → List Use) :
    r.vals c (c0.begun c s us) = r.vals c s := by
  unfold globRule at h
  split at h <;> cases h <;> dsimp only <;> simp only [Machine.vals_begun, rd_begun]

section
variable {i : Instr} {r : GRule} {c : Ctx} {s x : State} {t gi : Nat} {b : Bool}

/-- Where an access has an effect, it is the rule's. -/
theorem body_left (ha : c.ag = .port t gi b) (h : (r.body c s).left = some x) : x = r.after c s t := by
  obtain ⟨ag, g, cl, m⟩ := c
  obtain rfl : ag = _ := ha
  unfold GRule.body Ctx.globalOp at h
  dsimp only at h
  split at h
  · cases h
  · split at h
    · cases h
    · split at h
      · cases h
      · exact (Option.some.inj h).symm

theorem after_mem : (r.after c s t).mem = (r.run c s t).s.mem := (State.SlotFrame.mod ..).mem

/-- An access to global memory leaves the memory as it was, or as its lanes leave it. -/
theorem globRule_mem (h : globRule i = some r) {c0 : Ctx} {u : State} (hk : c0.g.kennel = false) (hc : s.ctx? = some c0)
    (hn : c = { c0 with active := r.guard.narrow c0.g c0.active }) (ha : c.ag = .port t gi b) (he : exec i s = .next u) :
    u.mem = s.mem ∨ u.mem = (r.run c (c0.begun c s r.uses) t).s.mem := by
  obtain ⟨body, hb, hm⟩ := exec_globRule h
  rcases issue_stores ((hb s).symm.trans he) with hs | ⟨c1, c', x, h1, h2, hx, hs⟩
  · exact .inl hs.mem
  · obtain rfl : c0 = c1 := Option.some.inj (hc.symm.trans h1)
    obtain rfl : c = c' := hn.trans h2.symm
    have hk' : c.g.kennel = false := by rw [hn]; exact hk
    obtain ⟨-, -, -, -, hl⟩ := hm c (c0.begun c s r.uses) hk'
    rcases hl with hl | hl
    · rw [show (body c (c0.begun c s r.uses)).left = some x from hx] at hl
      cases hl
    · have : (r.body c (c0.begun c s r.uses)).left = some x := hl ▸ hx
      exact .inr (by rw [hs.mem, body_left ha this, after_mem])

end

/-! ## Lanes one after the other, each from where the one before left off -/

/-- What an access of lanes leaves where each lane, from the state the lanes before it leave, is within bounds. -/
theorem runLanes_touches_at {a : GAcc} {t : Nat} {v : OpVals} {W : Nat → Prop} {ls : List Nat} {r : RunOut}
    (h : ∀ k l, ls[k]? = some l →
      (a.runLanes t v (ls.take k) r).s.Touches W
        (a.run t v l (a.runLanes t v (ls.take k) r).cov (a.runLanes t v (ls.take k) r).s).s) :
    r.s.Touches W (a.runLanes t v ls r).s := by
  induction ls generalizing r with
  | nil => exact .refl _
  | cons l ls ih =>
    have h1 := h 0 l rfl
    rw [GAcc.runLanes]
    refine State.Touches.trans (show r.s.Touches W (a.run t v l r.cov r.s).s from h1) (ih (r := ⟨_, _, _, _, _, _, _⟩) ?_)
    intro k m hm
    exact h (k + 1) m hm

/-! ## Stores -/

theorem wordBytes_length_le (n : Nat) (ws : List Word) : (wordBytes n ws).length ≤ n := List.length_take_le ..

/-- A lane's store. -/
theorem storeAcc_touches (one : Bool) (sz : MSize) (t : Nat) (v : OpVals) (l : Nat) (cov : List (Nat × Nat)) (u : State) :
    u.Touches (fun a => ∃ tm, u.team? t = some tm ∧ tm.storesTo (v.va l) (MSize.bytes sz) a)
      ((storeAcc one sz).run t v l cov u).s :=
  (gstore_touches ..).mono fun _ ⟨tm, htm, ha⟩ => ⟨tm, htm, storesTo_mono (wordBytes_length_le ..) ha⟩

/-- Settles O32: by the bytes each lane's pieces may be stored to. -/
theorem storeFrame : Obligations.StoreFrame := by
  unfold Obligations.StoreFrame
  intro i r c0 c s t n gi b tm a hi h hk hc hn ha ht he hout
  rcases globRule_mem h hk hc hn ha he with hm | hm
  · rw [hm]
  · have hacc : ∃ one sz, ∀ c, r.acc c = storeAcc one sz := by
      obtain ⟨g, f, sz, x, m, p, rfl | rfl⟩ := hi <;> cases h <;> exact ⟨_, _, fun _ => rfl⟩
    have hv := GRule.vals_begun h c0 c s r.uses
    obtain ⟨one, sz, hacc⟩ := hacc
    have hsf := State.SlotFrame.begun c0 c s r.uses
    obtain ⟨tm', ht'⟩ := hsf.team_some ht
    have hp := hsf.places ht ht'
    rw [hm]
    refine (State.Touches.frame (W := fun a => ∃ l ∈ (r.acc c).lanes c.active c.g.width,
      tm.storesTo ((r.vals c s).va l) (MSize.bytes sz) a) (runLanes_touches (r := c.noLanes _) ?_) a ?_).trans
      (by rw [← hsf.mem]; rfl)
    · intro l hl cov u hu
      have := storeAcc_touches one sz n (r.vals c s) l cov u
      rw [← hacc c] at this
      rw [hv]
      refine this.mono fun x ⟨y, hy, hx⟩ => ⟨l, hl, ?_⟩
      exact ((hp.trans (hu.places ht' hy)).storesTo ..).1 hx
    · rintro ⟨l, hl, p, hpm, x, pg, hx, hcl, hpg, h1, h2⟩
      exact hout l hl p (by rw [hacc]; exact hpm) x pg hx hcl hpg ⟨h1, h2⟩

end Sys2Proof.Machine
end

section
/-! PROOFS. Atomics, global synchronisation objects and MXACC's blocks change their objects alone (R239 to R241, R248, R249,
R261). -/
namespace Sys2Proof.Machine

/-- Translation finds the same place for teams that place alike. -/
theorem objectAt_of_places {s : State} {t va off n : Nat} {w : Bool} {a : Nat} {tm : Team} (hp : ∀ y, s.team? t = some y → tm.Places y)
    (h : s.objectAt t va off n w a) :
    ∃ pa, (s.place? tm ⟨va, n, tm.rangeAt va⟩ w).1 = .ok pa ∧ pa + off ≤ a ∧ a < pa + off + n := by
  obtain ⟨y, pa, hy, hpa, h1, h2⟩ := h
  have := hp y hy
  rw [this.place, rangeAt_congr this.ranges] at hpa
  exact ⟨pa, hpa, h1, h2⟩

/-- A lane's atomic. -/
theorem atomAcc_touches (one : Bool) (op : AtomOp) (d : Option Nat) (t : Nat) (v : OpVals) (l : Nat) (cov : List (Nat × Nat))
    (u : State) : u.Touches (u.objectAt t ((atomAcc one op d).addr v l) 0 (AtomOp.bytes op) true) ((atomAcc one op d).run t v l cov u).s :=
  (gAtomic_touches ..).mono fun _ h => h.2

section
variable {i : Instr} {r : GRule} {c0 c : Ctx} {s : State} {n : Nat}

/-- The rule of an atomic. -/
theorem atomRule_acc (hi : ∃ g f op sc o ret x m, i = .atom g f op sc o ret x m ∨ i = .atomu g f op sc o ret x m)
    (h : globRule i = some r) : ∃ one op d, ∀ c, r.acc c = atomAcc one op d := by
  obtain ⟨g, f, op, sc, o, ret, x, m, rfl | rfl⟩ := hi <;> cases h <;> exact ⟨_, _, _, fun _ => rfl⟩

/-- The Kennel core issues no atomic. -/
theorem atomRule_core (hi : ∃ g f op sc o ret x m, i = .atom g f op sc o ret x m ∨ i = .atomu g f op sc o ret x m)
    (h : globRule i = some r) : r.core = .compute := by
  obtain ⟨g, f, op, sc, o, ret, x, m, rfl | rfl⟩ := hi <;> cases h <;> rfl

end

/-- An instruction that the core may not issue leaves the stores as they were. -/
theorem issue_illegal {sp : Spec} {body : Ctx → State → Res} {s t : State} {c0 : Ctx} (hc : s.ctx? = some c0)
    (hl : sp.core.allows c0.g.kennel = false) (h : issue sp body s = .next t) : s.SameStores t := by
  unfold issue at h
  simp only [hc, hl, Bool.not_false, if_true] at h
  exact (finish_stores h).elim id fun ⟨_, hx, _⟩ => nomatch hx

/-- An atomic leaves the memory as it was, or as its lanes leave it. -/
theorem atom_mem {i : Instr} {r : GRule} {c0 c : Ctx} {s u : State} {t gi : Nat} {b : Bool}
    (hi : ∃ g f op sc o ret x m, i = .atom g f op sc o ret x m ∨ i = .atomu g f op sc o ret x m)
    (h : globRule i = some r) (hc : s.ctx? = some c0) (hn : c = { c0 with active := r.guard.narrow c0.g c0.active })
    (ha : c.ag = .port t gi b) (he : exec i s = .next u) :
    u.mem = s.mem ∨ u.mem = (r.run c (c0.begun c s r.uses) t).s.mem := by
  cases hk : c0.g.kennel with
  | false => exact globRule_mem h hk hc hn ha he
  | true =>
    obtain ⟨body, hb, -⟩ := exec_globRule h
    have hl : r.spec.core.allows c0.g.kennel = false := by
      rw [show r.spec.core = .compute from atomRule_core hi h, hk]; rfl
    exact .inl (issue_illegal hc hl ((hb s).symm.trans he)).mem

theorem atom_declared (i : Instr) (r : GRule) (c0 c : Ctx) (s t : State) (n gi : Nat) (b : Bool) (tm : Team) (a : Nat)
    (hi : ∃ g f op sc o ret x m, i = .atom g f op sc o ret x m ∨ i = .atomu g f op sc o ret x m) (h : globRule i = some r)
    (hc : s.ctx? = some c0) (hn : c = { c0 with active := r.guard.narrow c0.g c0.active }) (ha : c.ag = .port n gi b)
    (ht : s.team? n = some tm) (he : exec i s = .next t)
    (hout : ∀ l ∈ (r.acc c).lanes c.active c.g.width, ∃ x, tm.rangeAt ((r.acc c).addr (r.vals c s) l) = some x ∧ ∀ pg,
      pageOf x.pages ((r.acc c).addr (r.vals c s) l) = some pg →
      ¬(pg.at ((r.acc c).addr (r.vals c s) l) ≤ a ∧ a < pg.at ((r.acc c).addr (r.vals c s) l) + (r.acc c).len)) :
    Memory.read t.mem a = Memory.read s.mem a := by
  rcases atom_mem hi h hc hn ha he with hm | hm
  · rw [hm]
  · obtain ⟨one, op, d, hacc⟩ := atomRule_acc hi h
    have hv := GRule.vals_begun h c0 c s r.uses
    have hsf := State.SlotFrame.begun c0 c s r.uses
    obtain ⟨tm', ht'⟩ := hsf.team_some ht
    have hp := hsf.places ht ht'
    rw [hm]
    refine (State.Touches.frame (W := fun x => ¬x = a) (runLanes_touches (r := c.noLanes _) ?_) a (by simp)).trans
      (by rw [← hsf.mem]; rfl)
    intro l hl cov u hu
    have hs := atomAcc_touches one op d n (r.vals c s) l cov u
    rw [← hacc c] at hs
    rw [hv]
    refine hs.mono fun x hx => ?_
    rintro rfl
    obtain ⟨pa, hpa, h1, h2⟩ := objectAt_of_places (fun y hy => hp.trans (hu.places ht' hy)) hx
    obtain ⟨e, he, hno⟩ := hout l hl
    obtain ⟨pg, hpg, rfl⟩ := place_declared he hpa
    refine hno pg hpg ⟨h1, ?_⟩
    rw [hacc c] at h2 ⊢
    exact h2

theorem atom_anywhere (i : Instr) (r : GRule) (c0 c : Ctx) (s t : State) (n gi : Nat) (b : Bool) (tm : Team) (a : Nat)
    (hi : ∃ g f op sc o ret x m, i = .atom g f op sc o ret x m ∨ i = .atomu g f op sc o ret x m) (h : globRule i = some r)
    (hc : s.ctx? = some c0) (hn : c = { c0 with active := r.guard.narrow c0.g c0.active }) (ha : c.ag = .port n gi b)
    (ht : s.team? n = some tm) (he : exec i s = .next t) :
    let s' := c0.begun c s r.uses
    let ls := (r.acc c).lanes c.active c.g.width
    let before (k : Nat) : State := ((r.acc c).runLanes n (r.vals c s') (ls.take k) (c.noLanes s')).s
    (∀ k l pa, ls[k]? = some l →
      let va := (r.acc c).addr (r.vals c s') l
      ((before k).place? tm ⟨va, (r.acc c).len, tm.rangeAt va⟩ true).1 = .ok pa → ¬(pa ≤ a ∧ a < pa + (r.acc c).len)) →
    Memory.read t.mem a = Memory.read s.mem a := by
  intro s' ls before hout
  rcases atom_mem hi h hc hn ha he with hm | hm
  · rw [hm]
  · obtain ⟨one, op, d, hacc⟩ := atomRule_acc hi h
    have hsf := State.SlotFrame.begun c0 c s r.uses
    obtain ⟨tm', ht'⟩ := hsf.team_some ht
    have hp := hsf.places ht ht'
    rw [hm]
    refine (State.Touches.frame (W := fun x => ¬x = a) (runLanes_touches_at (r := c.noLanes _) ?_) a (by simp)).trans
      (by rw [← hsf.mem]; rfl)
    intro k l hl
    have hu : s'.Touches (fun _ => True) (before k) :=
      runLanes_touches (r := c.noLanes s') fun l _ cov u _ => globRule_touches h c n _ l cov u
    have hs := atomAcc_touches one op d n (r.vals c s') l
      ((r.acc c).runLanes n (r.vals c s') (ls.take k) (c.noLanes s')).cov (before k)
    rw [← hacc c] at hs
    refine hs.mono fun x hx => ?_
    rintro rfl
    obtain ⟨pa, hpa, h1, h2⟩ := objectAt_of_places (fun y hy => hp.trans (hu.places ht' hy)) hx
    have hlen : (r.acc c).len = AtomOp.bytes op := by rw [hacc c]; rfl
    exact hout k l pa hl (by rw [hlen]; exact hpa) ⟨h1, by rw [hlen]; exact h2⟩

/-! ## Global synchronisation objects -/

section
variable {i : Instr} {r : GlobSyncRule} {c : Ctx} {s x : State} {t gi : Nat} {b : Bool}

/-- Where in its object the instruction acts: TKT.PASS on the serving number. -/
def wordOffset : Instr → Nat
  | .tktPass _ true _ _ => 4
  | _ => 0

/-- What the instruction issues with. -/
def GlobSyncRule.spec (r : GlobSyncRule) : Spec := { flag := r.flag, uses := fun c _ => r.uses c }

def GlobSyncRule.body (r : GlobSyncRule) (c : Ctx) (s : State) : Res :=
  c.globSync s r.flag r.acc (r.vals c s) r.ends r.dS r.acq r.rel

/-- An instruction on a global object runs as its rule says. -/
theorem exec_globSyncRule (h : globSyncRule i = some r) (s : State) : exec i s = issue r.spec (fun c s => r.body c s) s := by
  unfold globSyncRule at h
  split at h <;> cases h
  case h_1 => show execTktTake _ _ _ _ s = _; delta execTktTake; rfl
  case h_2 fs sc m x => show execTktWait _ _ sc _ _ s = _; delta execTktWait; rfl
  case h_3 fs sc m => show execTktPass _ _ sc _ s = _; delta execTktPass; rfl
  case h_4 fs sc cc m x => show execWaita _ _ sc _ _ _ s = _; delta execWaita; rfl

/-- Whatever it comes to, the memory it leaves is as it was, or as its access leaves it. -/
theorem globSync_left (ha : c.ag = .port t gi b) (h : (r.body c s).left = some x) : x.mem = s.mem ∨ x.mem = (r.run c s t).s.mem := by
  obtain ⟨ag, g, cl, m⟩ := c
  obtain rfl : ag = _ := ha
  unfold GlobSyncRule.body Ctx.globSync at h
  dsimp only at h
  split at h
  · cases h
  · split at h
    · cases h
    · split at h
      · cases h
      · split at h
        · cases h
          exact .inr (State.SlotFrame.putGrp ..).mem
        · split at h
          · split at h
            · split at h
              · cases h; exact .inl rfl
              · cases h
            · cases h
          · rw [spadDone_done] at h
            cases h
            exact .inr (State.SlotFrame.mem (.mod ..))

theorem globSync_mem (h : globSyncRule i = some r) {u : State} (hc : s.ctx? = some c) (ha : c.ag = .port t gi b)
    (he : exec i s = .next u) : u.mem = s.mem ∨ u.mem = (r.run c (c.begun c s r.uses) t).s.mem := by
  rcases issue_stores ((exec_globSyncRule h s).symm.trans he) with hs | ⟨c1, c', x, h1, h2, hx, hs⟩
  · exact .inl hs.mem
  · obtain rfl : c = c1 := Option.some.inj (hc.symm.trans h1)
    obtain rfl : c' = c := h2
    rcases globSync_left ha hx with hm | hm
    · exact .inl (hs.mem.trans (hm.trans (State.SlotFrame.begun c' c' s r.uses).mem))
    · exact .inr (hs.mem.trans hm)

/-- The word its access acts on, where it writes one. -/
theorem globSync_touches (h : globSyncRule i = some r) (t : Nat) (v : OpVals) (cov : List (Nat × Nat)) (u : State) :
    u.Touches (fun a => (∀ f sc m x, i ≠ .tktWait f true sc m x) ∧ (∀ f sc cc m x, i ≠ .waita f true sc cc m x) ∧
      u.objectAt t (r.acc.addr v 0) (wordOffset i) 4 true a) (r.acc.run t v 0 cov u).s := by
  unfold globSyncRule at h
  split at h <;> cases h
  case h_1 | h_3 => exact (gAtomic_touches ..).mono fun _ h => ⟨by simp, by simp, h.2⟩
  case h_2 | h_4 => exact (gAtomic_touches ..).mono fun _ h => absurd rfl h.1.choose_spec

end

theorem globSync_object (i : Instr) (r : GlobSyncRule) (c : Ctx) (s t : State) (n gi : Nat) (b : Bool) (tm : Team) (a : Nat)
    (h : globSyncRule i = some r) (hc : s.ctx? = some c) (ha : c.ag = .port n gi b) (ht : s.team? n = some tm)
    (he : exec i s = .next t) :
    let s' := c.begun c s r.uses
    let va := r.acc.addr (r.vals c s') 0
    ((∃ f sc m x, i = .tktWait f true sc m x) ∨ (∃ f sc cc m x, i = .waita f true sc cc m x) ∨
      ∀ pa, (s'.place? tm ⟨va, 4, tm.rangeAt va⟩ true).1 = .ok pa →
        ¬(pa + wordOffset i ≤ a ∧ a < pa + wordOffset i + 4)) →
    Memory.read t.mem a = Memory.read s.mem a := by
  intro s' va hout
  rcases globSync_mem h hc ha he with hm | hm
  · rw [hm]
  · have hsf := State.SlotFrame.begun c c s r.uses
    rw [hm]
    refine ((globSync_touches h n (r.vals c s') [] s').frame a ?_).trans (by rw [← hsf.mem])
    rintro ⟨h1, h2, hx⟩
    rcases hout with ⟨f, sc, m, x, rfl⟩ | ⟨f, sc, cc, m, x, rfl⟩ | hout
    · exact h1 _ _ _ _ rfl
    · exact h2 _ _ _ _ _ rfl
    · obtain ⟨pa, hpa, h3, h4⟩ := objectAt_of_places (fun y hy => hsf.places ht hy) hx
      exact hout pa hpa ⟨h3, h4⟩

/-! ## Blocks of an MXACC -/

theorem blockCodes_length (f : FFmt) (sc : BScale) (vs : List FVal) : (blockCodes f sc vs).1.length = vs.length := by
  unfold blockCodes
  split
  · simp
  · dsimp only
    induction vs with
    | nil => rfl
    | cons v vs ih =>
      rw [List.foldr_cons]
      split
      · rw [List.length_cons, List.length_cons, ih]
      · rw [List.length_cons, List.length_cons, ih]

theorem pack_length (f : MxFmt) (cs : List Nat) :
    (MxFmt.pack f cs).length = if MxFmt.fp4 f then (cs.length + 1) / 2 else cs.length := by
  induction cs using MxFmt.pack.induct f with
  | case1 a b r h ih => 
    rw [MxFmt.pack, if_pos h, List.length_cons, ih, if_pos h, if_pos h]
    simp only [List.length_cons]
    omega
  | case2 a b r h ih => rw [MxFmt.pack, if_neg h, List.length_cons, List.length_cons, ih, if_neg h, if_neg h]; rfl
  | case3 a => simp [MxFmt.pack]
  | case4 => simp [MxFmt.pack]

theorem unpack_length (f : MxFmt) (b : List Byte) :
    (MxFmt.unpack f b).length = if MxFmt.fp4 f then 2 * b.length else b.length := by
  unfold MxFmt.unpack
  split
  · simp [List.length_flatMap, List.map_const', List.sum_replicate_nat, Nat.mul_comm]
  · rfl

/-- The bytes of the indivisible step lie in the granule. -/
theorem mxStep_length (tf sf : MxFmt) (g elems : List Byte) (scale : Nat) : (mxStep tf sf g elems scale).length ≤ MxFmt.granule tf := by
  unfold mxStep
  simp only [List.length_append, leBytes_length, pack_length, blockCodes_length, List.length_zipWith, unpack_length,
    List.length_take, MxFmt.elemBytes, MxFmt.granule]
  split <;> omega

theorem mxPerform_touches {s u : State} {t : Nat} {x : MxBlk} (h : s.mxPerform t x = some u) :
    s.Touches (fun a => x.pa ≤ a ∧ a < x.pa + MxFmt.granule x.tf) u := by
  unfold State.mxPerform at h
  split at h
  · cases h
  · split at h
    · cases h; exact .refl s
    · next tm _ =>
      cases h
      have hw (v : State) (bs : List Byte) (hb : bs.length ≤ MxFmt.granule x.tf) :
          v.Touches (fun a => x.pa ≤ a ∧ a < x.pa + MxFmt.granule x.tf) (v.memWrite x.pa bs) :=
        .memWrite _ _ _ fun a h1 h2 => ⟨h1, by omega⟩
      refine State.Touches.trans ?_ (.modTeam _ _ ?_)
      · refine (State.Touches.noteSig s t ⟨x.va, MxFmt.granule x.tf, tm.rangeAt x.va⟩ x.pa true).trans ?_
        split
        · exact hw _ _ (mxStep_length ..)
        · exact (discardStaged_touches ..).trans (hw _ _ (mxStep_length ..))
      · exact fun _ => rfl

theorem mxaccBlock_granule (s t : State) (u gi id : Nat) (g : Group) (o : Op) (x : MxBlk) (r : List MxBlk) (a : Nat)
    (hg : s.group? u gi = some g) (ho : g.op? id = some o) (hx : o.act = .mx (x :: r))
    (he : exec (.mxaccBlock u gi id) s = .next t) (hout : ¬(x.pa ≤ a ∧ a < x.pa + MxFmt.granule x.tf)) :
    Memory.read t.mem a = Memory.read s.mem a := by
  have hop : (s.group? u gi).bind (fun g => g.ops.find? (fun o => o.id = id)) = some o := by rw [hg]; exact ho
  have he : execMxaccBlock u gi id s = .next t := he
  unfold execMxaccBlock at he
  simp only [hop, hx] at he
  split at he
  · cases he; rfl
  · split at he
    · cases he; rfl
    · next v hv =>
      cases he
      exact (mxPerform_touches hv).frame a hout

/-- Settles O33: each by the objects of its accesses. -/
theorem atomicFrame : Obligations.AtomicFrame :=
  ⟨atom_declared, atom_anywhere, globSync_object, mxaccBlock_granule⟩

end Sys2Proof.Machine
end

section
/-! PROOFS. What a global access leaves of its group at issue (R35, R67, R69, R118). -/
namespace Sys2Proof.Machine

/-- The opcodes of the accesses to global memory. -/
theorem globRule_opcode {i : Instr} {r : GRule} {w : DWord} (h : globRule i = some r) (he : encode i = some w) :
    0x90 ≤ (fOp w).toNat ∧ (fOp w).toNat < 0xB0 := by
  unfold globRule at h
  split at h
  case h_9 => cases h
  case h_5 sc _ _ _ _ | h_6 sc _ _ _ _ =>
    obtain rfl := Option.some.inj he
    rw [eM, fOp_packM]
    cases sc <;> decide
  all_goals
    obtain rfl := Option.some.inj he
    rw [eM, fOp_packM]
    decide

/-- None of them writes a status register. -/
theorem globRule_statWritten {i : Instr} {r : GRule} {c : Ctx} (h : globRule i = some r) (he : encode i = some c.cl.word) :
    c.statWritten = none := by
  have ho : 0x90 ≤ c.opcode ∧ c.opcode < 0xB0 := globRule_opcode h he
  unfold Ctx.statWritten
  rw [if_neg (by omega), if_neg (by omega), if_neg]
  intro hc
  simp only [Bool.and_eq_true, decide_eq_true_eq] at hc
  omega

/-! ## GSTAT -/

/-- Last uses change registers and what is retained of them. -/
theorem endUses_eq (g : Group) (m : Mask) (xs : List (Src × Nat)) :
    ∃ ls sr rt, g.endUses m xs = { g with lanes := ls, sregs := sr, retained := rt } := by
  have key {α : Type} {f : Group → α → Group} (hf : ∀ h a, ∃ ls sr rt, f h a = { h with lanes := ls, sregs := sr, retained := rt })
      (l : List α) (g : Group) : ∃ ls sr rt, l.foldl f g = { g with lanes := ls, sregs := sr, retained := rt } := by
    refine List.foldlRecOn (motive := fun h : Group => ∃ ls sr rt, h = { g with lanes := ls, sregs := sr, retained := rt }) l f
      ⟨_, _, _, rfl⟩ fun h ⟨_, _, _, hh⟩ a _ => ?_
    obtain ⟨_, _, _, ha⟩ := hf h a
    exact ⟨_, _, _, ha.trans (by rw [hh])⟩
  refine key (fun h x => ?_) xs g
  unfold Group.endUse
  split
  · split
    · next r _ =>
      refine key (fun h k => ?_) _ h
      unfold Group.freeV
      dsimp only
      split
      · exact ⟨_, _, _, rfl⟩
      · obtain ⟨_, hr⟩ := touchV_eq (h.modLanes m fun y => { y with regs := AMap.erase y.regs (r.toNat + k) }) (r.toNat + k)
        exact ⟨_, _, _, hr⟩
    · next r _ =>
      refine key (fun h k => ?_) _ h
      unfold Group.freeS
      split
      · exact ⟨_, _, _, rfl⟩
      · obtain ⟨_, hr⟩ := touchS_eq h (r.toNat + k)
        exact ⟨_, _, _, by rw [hr]⟩
    · exact ⟨_, _, _, rfl⟩
  · exact ⟨_, _, _, rfl⟩

/-- Issuing sets POISONRD at most. -/
theorem begun_stands {c0 c : Ctx} {s : State} {g : Group} (us : Ctx → List Use) (hg : s.grpOf c.ag = some g) :
    ∃ h, (c0.begun c s us).grpOf c.ag = some h ∧ h.gstat &&& ~~~1#32 = g.gstat &&& ~~~1#32 ∧ h.preds = g.preds := by
  obtain ⟨h, hh, _, _, _, _, _, rfl⟩ := presents_presented (us c0.whole) hg
  have ho (x : Word) : (x ||| gPoisonRd) &&& ~~~1#32 = x &&& ~~~1#32 := by
    rw [BitVec.and_or_distrib_right, show gPoisonRd &&& ~~~1#32 = 0#32 by decide]
    exact BitVec.or_zero
  simp only [Ctx.begun, Ctx.noteReads]
  split <;> split
  · exact ⟨_, mod_grpOf _ (mod_grpOf _ hh), ho _, rfl⟩
  · exact ⟨_, mod_grpOf _ hh, rfl, rfl⟩
  · exact ⟨_, mod_grpOf _ hh, ho _, rfl⟩
  · exact ⟨_, hh, rfl, rfl⟩

/-! ## The operation in flight -/

/-- An operation in flight changes nothing a register instruction could read, but for what is pending. -/
theorem addWork_eq (g : Group) (o : Op) : ∃ r os n, g.addWork o = { g with retained := r, ops := os, nextOp := n } := by
  unfold Group.addWork
  split
  · exact ⟨_, _, _, rfl⟩
  · obtain ⟨r, hr⟩ := bindDst_eq g o
    rw [hr]
    exact ⟨_, _, _, rfl⟩

theorem notesLater_eq (g : Group) (b : Bool) (n : Nat) (bs : List StoreByte) : ∃ l, g.notesLater b n bs = { g with later := l } := by
  unfold Group.notesLater
  split <;> exact ⟨_, rfl⟩

/-- Port A's writes put back over a group that differs in its operations alone. -/
theorem restore_ops (k : Half) (g : Group) (r : Retained) (os : List Op) (n : Nat) (l : List (Nat × StoreByte)) :
    k.restore none { g with retained := r, ops := os, nextOp := n, later := l } =
      { k.restore none g with retained := r, ops := os, nextOp := n, later := l } := by
  have hr (g : Group) : k.restore none g = { g with sregs := k.kept.foldl keptReg g.sregs } := Group.foldl_keep k.kept g
  rw [hr, hr]

/-- What is on its way to a group, and what stands in it, over port A's writes. -/
theorem merged_stands (c : Ctx) (s : State) :
    (c.merged s).gstat = (c.now s).gstat ∧ (c.merged s).preds = (c.now s).preds := by
  unfold Ctx.merged
  split
  · next k _ => obtain ⟨_, _, _, he⟩ := k.restore_eq c.statWritten (c.now s); rw [he]; exact ⟨rfl, rfl⟩
  · exact ⟨rfl, rfl⟩

theorem merged_ops {c : Ctx} {x y : State} {g : Group} {r : Retained} {os : List Op} {n : Nat} {l : List (Nat × StoreByte)}
    (hw : c.statWritten = none) (hp : y.pair? c.ag = x.pair? c.ag) (hx : c.now x = g)
    (hy : c.now y = { g with retained := r, ops := os, nextOp := n, later := l }) :
    c.merged y = { c.merged x with retained := r, ops := os, nextOp := n, later := l } := by
  unfold Ctx.merged
  rw [hp, hw, hx, hy]
  split
  · exact restore_ops ..
  · rfl

/-- Settles O36: the last uses end, by the frame of the register instructions; then the operation joins those in flight. -/
theorem accessFrame : Obligations.AccessFrame := by
  unfold Obligations.AccessFrame
  intro i r c0 c s t gi b h hk he hi ha s' hf hs g
  have hcl : c.cl = c0.cl := by rw [hi.base.narrowed]
  have hw : c.statWritten = none := globRule_statWritten h (hcl ▸ he)
  obtain ⟨hruns, -, -⟩ := globalAccessCompletes i r c0 c s t gi b h hk hi ha
  obtain ⟨u, hu, hx⟩ := (hruns hf).1 hs
  let rr : RegRule := { uses := fun _ _ => [], ends := r.ends, res := fun _ _ g => g }
  obtain ⟨g0, hg0, -⟩ := IssuesUnder_group hi.base
  obtain ⟨g1, hg1, hr1⟩ := begun_regFrame (i := i) (c0 := c0) (us := rr.changed c s) r.uses hg0
  obtain ⟨g1', hg1', hst, hpr⟩ := begun_stands (c0 := c0) r.uses hg0
  obtain rfl : g1 = g1' := Option.some.inj (hg1.symm.trans hg1')
  have hto := r.run_touches h c s' t
  have hg2 : (r.run c s' t).s.grpOf c.ag = some g1 := (hto.grpOf _).trans hg1
  -- the state in which only the last uses have ended
  have hg3 := mod_grpOf (fun g => g.endUses c.active r.ends) hg2
  have hpair : (c.mod (r.run c s' t).s (fun g => g.endUses c.active r.ends)).pair? c.ag = s.pair? c.ag :=
    (pair?_mod ..).trans ((hto.pair? _).trans (begun_pair? ..))
  have hm : RegFrame i c (rr.changed c s) (c.merged s) (c.merged (c.mod (r.run c s' t).s (fun g => g.endUses c.active r.ends))) :=
    .merged hw hpair hg0 hg3 (hr1.trans (.endUses (r := rr) g1))
  obtain ⟨rt, os, nx, hw1⟩ := addWork_eq (g1.endUses c.active r.ends) (r.op c s' (r.run c s' t))
  obtain ⟨lt, hw2⟩ := notesLater_eq ((g1.endUses c.active r.ends).addWork (r.op c s' (r.run c s' t))) c.ag.isB
    (c.g.lastIssue.getD 0) (coverBytes (r.run c s' t).cov)
  have hg4 : (r.after c s' t).grpOf c.ag = some { g1.endUses c.active r.ends with
      retained := rt, ops := os, nextOp := nx, later := lt } :=
    (mod_grpOf _ hg2).trans (by rw [hw2, hw1])
  have hm4 := merged_ops (x := c.mod (r.run c s' t).s (fun g => g.endUses c.active r.ends)) (y := r.after c s' t) hw
    ((pair?_mod ..).trans (pair?_mod ..).symm) (mod_now _ hg2) (by rw [Ctx.now, hg4]; rfl)
  obtain ⟨k, hk, hsd⟩ := hu.group hg4
  obtain ⟨ls, sr, rt0, he0⟩ := endUses_eq g1 c.active r.ends
  have hnow : c.now (r.after c s' t) = { g1 with lanes := ls, sregs := sr, retained := rt, ops := os, nextOp := nx, later := lt } := by
    rw [Ctx.now, hg4, he0]; rfl
  obtain ⟨hs1, hp1⟩ := merged_stands c (r.after c s' t)
  obtain ⟨hs0, hp0⟩ := merged_stands c s
  rw [hnow] at hs1 hp1
  rw [show c.now s = g0 by rw [Ctx.now, hg0]; rfl] at hs0 hp0
  have hvn : (r.ends.filter (fun x => x.1.lu)).flatMap (fun x => Use.vNames ⟨x.1.op, x.2, 0, true⟩) =
      (rr.changed c s).flatMap Use.vNames := by
    simp only [RegRule.changed, List.filter_nil, List.nil_append, List.flatMap_map, rr]
    rfl
  have hsn : (r.ends.filter (fun x => x.1.lu)).flatMap (fun x => Use.sNames ⟨x.1.op, x.2, 0, true⟩) =
      (rr.changed c s).flatMap Use.sNames := by
    simp only [RegRule.changed, List.filter_nil, List.nil_append, List.flatMap_map, rr]
    rfl
  have hl : laneRule i = none ∧ fltRule i = none ∧ cvtRule i = none := by
    unfold globRule at h
    split at h <;> cases h <;> exact ⟨rfl, rfl, rfl⟩
  obtain ⟨⟨_, _, _, _, _, _, _, _, hke⟩, -⟩ := id hsd
  refine ⟨u, k, hx, by rw [← hk, ha]; rfl, fun l n hn => (hsd.vReg l n).trans ?_, fun n hn => ?_, ?_⟩
  · rw [hm4]; exact hm.vregs l n (hvn ▸ hn)
  · rw [hke, hm4]; exact hm.sregs n (hsn ▸ hn)
  · refine ⟨?_, ?_, ?_, ?_, ?_, ?_, ?_, ?_⟩
    · rw [hke]; exact hp1.trans (hpr.trans hp0.symm)
    · rw [hke, hm4]; exact hm.tiles
    · rw [hke, hm4]; exact hm.limbs.1
    · rw [hke, hm4]; exact hm.limbs.2.1
    · rw [hke, hm4]; exact hm.control.1
    · rw [hke, hm4]; exact hm.flags hl.1 hl.2.1 hl.2.2
    · rw [hke, hm4]; exact hm.control.2.1
    · rw [hke]
      show (c.merged (r.after c s' t)).gstat &&& ~~~1#32 = g.gstat &&& ~~~1#32
      rw [hs1, show g.gstat = g0.gstat from hs0]
      exact hst

end Sys2Proof.Machine
end

section
/-! PROOFS. What an access to scratchpads leaves: the scratchpads with their errors, copies and FIFO controls, and what port B's
stores note in their group, apart, every team, and all else (R199, R202, R234). -/
namespace Sys2Proof.Machine

/-- A group without what port B's stores have noted. -/
def Group.unnoted (g : Group) : Group := { g with later := [] }

/-- A team without its scratchpad, the copies of it, its FIFO controls and the notes of its groups. -/
def Team.unspad (t : Team) : Team :=
  { t with scratch := [], scratchBad := [], fifos := [], ckpt := none, groups := t.groups.map Group.unnoted }

/-- `t` differs from `s` in the scratchpads of its teams, their errors, copies and FIFO controls, and what the stores of its
groups' ports note. -/
structure State.Spads (s t : State) : Prop where
  eq : ∃ u, t = { s with teams := u }
  teams : ∀ n, (t.team? n).map Team.unspad = (s.team? n).map Team.unspad
  wf : s.scratchWf → t.scratchWf

namespace State.Spads
variable {s t u : State}

theorem refl (s : State) : s.Spads s := ⟨⟨_, rfl⟩, fun _ => rfl, id⟩

theorem trans (a : s.Spads t) (b : t.Spads u) : s.Spads u := by
  obtain ⟨⟨_, rfl⟩, ht, hw⟩ := a
  obtain ⟨⟨_, rfl⟩, ht', hw'⟩ := b
  exact ⟨⟨_, rfl⟩, fun n => (ht' n).trans (ht n), hw' ∘ hw⟩

theorem modTeam (s : State) (n : Nat) {f : Team → Team} (hf : ∀ x, s.team? n = some x → (f x).unspad = x.unspad)
    (hw : ∀ x : Team, Memory.wf x.scratch = true → Memory.wf (f x).scratch = true) : s.Spads (s.modTeam n f) := by
  refine ⟨⟨_, rfl⟩, fun m => ?_, fun h => State.scratchWf_modTeam s n f h hw⟩
  rw [State.team?_modTeam]
  split
  · next e =>
    subst e
    cases hx : s.team? m with
    | none => rfl
    | some x => simp [hf x hx]
  · rfl

theorem fold {α : Type} {xs : List α} {f : State → α → State} (h : ∀ u : State, ∀ x ∈ xs, u.Spads (f u x)) (s : State) :
    s.Spads (xs.foldl f s) :=
  List.foldlRecOn xs f (refl s) fun u hu x hx => hu.trans (h u x hx)

/-! What the frame keeps. -/

section
variable (h : s.Spads t)
include h

theorem team_map {α : Type} (f : Team → α) (n : Nat) (hf : ∀ x : Team, f x.unspad = f x) :
    (t.team? n).map f = (s.team? n).map f := by
  have := congrArg (Option.map f) (h.teams n)
  simpa only [Option.map_map, Function.comp_def, hf] using this

theorem mem : t.mem = s.mem := by obtain ⟨⟨_, rfl⟩, -⟩ := h; rfl
theorem kennel : t.k = s.k := by obtain ⟨⟨_, rfl⟩, -⟩ := h; rfl
theorem bus : t.bus = s.bus := by obtain ⟨⟨_, rfl⟩, -⟩ := h; rfl
theorem clk : t.clk = s.clk := by obtain ⟨⟨_, rfl⟩, -⟩ := h; rfl
theorem grids : t.grids = s.grids := by obtain ⟨⟨_, rfl⟩, -⟩ := h; rfl

theorem isSome (n : Nat) : (t.team? n).isSome = (s.team? n).isSome := by
  simpa using congrArg Option.isSome (h.team_map (fun _ => ()) n fun _ => rfl)

theorem group (n gi : Nat) : (t.group? n gi).map Group.unnoted = (s.group? n gi).map Group.unnoted := by
  have := h.team_map (fun x => x.groups.map Group.unnoted) n
    (fun x => by simp [Team.unspad, Group.unnoted, Function.comp_def])
  unfold State.group?
  cases hs : s.team? n <;> cases ht : t.team? n <;> simp_all [Team.group?, ← List.getElem?_map]

/-- A group stands, but for what port B's stores note. -/
theorem grpOf (a : Agent) : (t.grpOf a).map Group.unnoted = (s.grpOf a).map Group.unnoted := by
  cases a with
  | kennel => exact congrArg (fun k : Kennel => some k.grp.unnoted) h.kennel
  | port n gi b => exact h.group n gi

theorem now (c : Ctx) {g : Group} (hg : s.grpOf c.ag = some g) : ∃ h, t.grpOf c.ag = some h ∧ h.unnoted = g.unnoted := by
  have := h.grpOf c.ag
  rw [hg] at this
  simpa using this

end

end State.Spads

/-! ## The accesses -/

@[simp] theorem Team.copyBlocks_unspad (x : Team) (nscr o n : Nat) : (x.copyBlocks nscr o n).unspad = x.unspad := by
  unfold Team.copyBlocks
  split
  · rfl
  · split
    · rfl
    · rfl

theorem spadStore_spads (s : State) (t o : Nat) (b : List Byte) : s.Spads (s.spadStore t o b) :=
  .modTeam _ _ (fun x _ => Team.copyBlocks_unspad x _ _ _) fun x h => by simpa using Memory.wf_writeN _ _ _ h

theorem spadPut_spads (s : State) (t u o : Nat) (b : List Byte) : s.Spads (s.spadPut t u o b) := by
  unfold State.spadPut
  split
  · exact spadStore_spads ..
  · exact .modTeam _ _ (fun _ _ => rfl) fun _ h => Memory.wf_writeN _ _ _ h

theorem spadLane_spads (c : Ctx) (s : State) (t u o : Nat) (b : List Byte) : s.Spads (c.spadLane s t u o b) := by
  unfold Ctx.spadLane
  dsimp only
  split
  · refine .fold (fun v i _ => ?_) s
    split
    · exact .refl v
    · exact spadPut_spads ..
  · exact spadPut_spads ..

/-- Changing one place to what agrees with it there keeps the list's image. -/
theorem map_modifyAt_self {α β : Type} (f : α → β) (l : List α) (i : Nat) (h : α → α) (hh : ∀ b, l[i]? = some b → f (h b) = f b) :
    (modifyAt l i h).map f = l.map f := by
  refine List.ext_getElem? fun j => ?_
  simp only [modifyAt, List.getElem?_map, List.getElem?_modify]
  split
  · next e =>
    subst e
    cases hb : l[i]? with
    | none => rfl
    | some b => simp [hh b hb]
  · simp

/-- A change of the group's notes alone. -/
theorem mod_spads (c : Ctx) (s : State) {f : Group → Group} (hf : ∀ g, (f g).unnoted = g.unnoted)
    (hk : c.ag = .kennel → ∀ g, f g = g) : s.Spads (c.mod s f) := by
  unfold Ctx.mod Ctx.put Ctx.now
  cases ha : c.ag with
  | kennel =>
    rw [show f ((s.grpOf .kennel).getD c.g) = s.k.grp from hk ha _]
    exact .refl s
  | port t n b =>
    refine .modTeam _ _ (fun x hx => ?_) fun _ h => h
    simp only [Team.unspad, Team.modGroup]
    rw [map_modifyAt_self]
    intro g hg
    simp [State.grpOf, State.group?, hx, Team.group?, hg, hf]

theorem notesLater_unnoted (g : Group) (b : Bool) (n : Nat) (bs : List StoreByte) :
    (g.notesLater b n bs).unnoted = g.unnoted := by
  obtain ⟨l, h⟩ := notesLater_eq g b n bs
  rw [h]
  rfl

theorem spadLanes_spads (c : Ctx) (s : State) (t u n : Nat) (at_ : Nat → Nat) (b : Nat → List Byte) (good : List Nat) :
    s.Spads (c.spadLanes s t u n at_ b good) := by
  unfold Ctx.spadLanes
  refine ((State.Spads.fold (fun v l _ => ?_) s).trans (.modTeam _ _ (f := fun x => x.spadHeal _) (fun _ _ => rfl) fun _ h => h)).trans
    (mod_spads c _ (fun g => notesLater_unnoted g ..) fun ha g => ?_)
  · exact spadLane_spads ..
  · rw [ha]; rfl

theorem spadAtomic_spads (s : State) (t u o : Nat) (op : AtomOp) (ws : List Word) : s.Spads (s.spadAtomic t u o op ws).2 := by
  unfold State.spadAtomic
  split
  · exact .refl s
  · exact spadPut_spads ..

theorem spadAtomics_spads (c : Ctx) (s0 : State) (t u : Nat) (op : AtomOp) (x : Src) (at_ : Nat → Nat) (d : Option Nat)
    (ls : List Nat) (acc : List Land) (s : State) : s.Spads (c.spadAtomics s0 t u op x at_ d ls acc s).2 := by
  induction ls generalizing acc s with
  | nil => exact .refl s
  | cons l r ih => exact (spadAtomic_spads ..).trans (ih ..)

end Sys2Proof.Machine
end

section
/-! PROOFS. LDS, STS, LDR, STR and ATOMS (R202, R203, R213, R222, R239, R285). -/
namespace Sys2Proof.Machine

/-! ## What the instructions come to -/

namespace SpadRule

/-- What the instruction issues with. -/
def spec (r : SpadRule) : Spec := { flag := r.flag, guard := r.guard, uses := fun c _ => r.uses c }

/-- Some lane would read a granule with an uncorrectable error. -/
def bad (r : SpadRule) (c : Ctx) (s : State) : Bool :=
  r.reads && ((r.own c s).bind s.team?).any (fun tm => (r.good c s).any (fun l => tm.spadBad (r.addr c s l).toNat r.len))

/-- The access of the rule at issue. -/
def body (r : SpadRule) (c : Ctx) (s : State) : Res :=
  if (c.now s).mustWait r.store r.rel || r.remote && s.moving (r.own c s) then .hold
  else if r.bad c s then .uce
  else c.spadDone (r.run c s).2 r.flag r.ends (r.viol c s) (r.run c s).1 (if (r.good c s).isEmpty then [] else r.names) []

variable {r : SpadRule} {c : Ctx} {s : State}

/-- Where there is no such team, every lane violates. -/
theorem good_none (h : (r.own c s).bind s.team? = none) : r.good c s = [] := by
  refine List.eq_nil_iff_forall_not_mem.2 fun l hl => ?_
  obtain ⟨h1, h2, h3⟩ := mem_lanes.1 hl
  simp only [BitVec.getLsbD_and, BitVec.getLsbD_not, Bool.and_eq_true, Bool.not_eq_true'] at h3
  obtain ⟨ha, -, hv⟩ := h3
  have hm : l ∈ Mask.lanes c.active c.g.width := mem_lanes.2 ⟨h1, h2, ha⟩
  simp only [viol, h, filter_const_true, getLsbD_ofLanes, hm, h2, decide_true, Bool.and_true] at hv
  cases hv

theorem violators_eq (r : SpadRule) (c : Ctx) (s : State) :
    c.violators s ((r.own c s).bind s.team?) (r.addr c s) r.len = r.viol c s := by
  unfold Ctx.violators maskOf viol
  congr 1

theorem run_none (h : (r.own c s).bind s.team? = none) (he : ∀ t u, r.eff c s t u [] = ([], s)) : r.run c s = ([], s) := by
  unfold run
  rw [good_none h]
  split
  · exact he ..
  · rfl

end SpadRule

section
variable (c : Ctx) (s : State)

/-- A load from the scratchpad of the rule's team. -/
theorem spadLoad_eq {r : SpadRule} {fs : Bool} {sz : MSize} {d : BitVec 8} {m : MAddr}
    (h : r = { spadLoadRule fs sz d m with own := r.own, remote := r.remote })
    (ht : (r.own c s).isSome = true → c.ag.team.isSome = true) (hr : (r.remote && s.moving (r.own c s)) = false) :
    c.spadLoad s fs sz d.toNat m (r.own c s) = r.body c s := by
  have hv := r.violators_eq c s
  have hg : Mask.lanes (c.active &&& ~~~r.viol c s) c.g.width = r.good c s := rfl
  have hl : r.len = MSize.bytes sz := by rw [h]; rfl
  have ha : r.addr c s = c.offset s m := by rw [h]; rfl
  have hb : r.bad c s = ((r.own c s).bind s.team?).any (fun tm => (r.good c s).any fun l => tm.spadBad (c.offset s m l).toNat
      (MSize.bytes sz)) := by
    rw [← hl, ← ha, SpadRule.bad, show r.reads = true by rw [h]; rfl, Bool.true_and]
  rw [hl, ha] at hv
  unfold SpadRule.body Ctx.spadLoad
  dsimp only
  rw [hr, Bool.or_false, hv, hg, hb, show r.store = false by rw [h]; rfl, show r.rel = false by rw [h]; rfl,
    show r.flag = .must fs by rw [h]; rfl, show r.ends = MAddr.srcs m 1 by rw [h]; rfl,
    show r.names = namesOf d.toNat (MSize.regs sz) by rw [h]; rfl]
  refine ite_congr_iff Iff.rfl rfl ?_
  have he : r.eff = (spadLoadRule fs sz d m).eff := by rw [h]
  cases htm : (r.own c s).bind s.team? with
  | none =>
    rw [SpadRule.run_none htm (fun t u => by rw [he]; rfl), SpadRule.good_none htm]
    rfl
  | some tm =>
    obtain ⟨u, hu, hut⟩ := Option.bind_eq_some_iff.mp htm
    obtain ⟨t, hta⟩ := Option.isSome_iff_exists.mp (ht (by rw [hu]; rfl))
    refine ite_congr_iff Iff.rfl rfl ?_
    rw [SpadRule.run, hta, hu]
    dsimp only
    rw [he]
    simp only [spadLoadRule, Ctx.spadWords, hut, Option.map_some, Option.getD_some]

/-- A store to the scratchpad of the rule's team. -/
theorem spadStoreOp_eq {r : SpadRule} {gd : Guard} {fs : Bool} {sz : MSize} {x : Src} {m : MAddr}
    (h : r = { spadStoreRule gd fs sz x m with own := r.own, remote := r.remote })
    (hr : (r.remote && s.moving (r.own c s)) = false) : c.spadStoreOp s fs sz x m (r.own c s) = r.body c s := by
  have hv := r.violators_eq c s
  have hg : Mask.lanes (c.active &&& ~~~r.viol c s) c.g.width = r.good c s := rfl
  have hl : r.len = MSize.bytes sz := by rw [h]; rfl
  have ha : r.addr c s = c.offset s m := by rw [h]; rfl
  have he : r.eff = (spadStoreRule gd fs sz x m).eff := by rw [h]
  rw [hl, ha] at hv
  unfold SpadRule.body Ctx.spadStoreOp
  dsimp only
  rw [hr, Bool.or_false, hv, hg, show r.bad c s = false by rw [h]; rfl, show r.store = true by rw [h]; rfl,
    show r.rel = false by rw [h]; rfl, show r.flag = .may fs by rw [h]; rfl,
    show r.ends = (x, MSize.regs sz) :: MAddr.srcs m 1 by rw [h]; rfl, show r.names = [] by rw [h]; rfl, ite_self]
  refine ite_congr_iff Iff.rfl rfl ?_
  rw [SpadRule.run]
  cases c.ag.team with
  | none => rfl
  | some t =>
    cases hu : r.own c s with
    | none => rfl
    | some u =>
      dsimp only
      rw [he]
      rfl

end

theorem Ctx.member_isSome {c : Ctx} {s : State} {k : BitVec 2} (h : (c.member s k).isSome = true) : c.ag.team.isSome = true := by
  unfold Ctx.member at h
  cases hc : c.ag.team <;> simp_all

/-- The scratchpad whose bytes an ATOMS names. -/
def Ctx.atomsOwn (c : Ctx) (s : State) (pk : Option (BitVec 2)) : Option Nat :=
  match pk with
  | none => c.ag.team
  | some k => c.member s k

theorem Ctx.atomsOwn_isSome {c : Ctx} {s : State} {pk : Option (BitVec 2)} (h : (c.atomsOwn s pk).isSome = true) :
    c.ag.team.isSome = true := by
  cases pk with
  | none => exact h
  | some k => exact Ctx.member_isSome h

/-- The rule of ATOMS. -/
def atomsRule (gd : Guard) (fs : Bool) (op : AtomOp) (o : Order) (ret : Bool) (pk : Option (BitVec 2)) (x : Src) (m : MAddr) :
    SpadRule :=
  let n := AtomOp.bytes op
  let at_ (c : Ctx) (s : State) (l : Nat) : Int := c.offset s m l / n * n
  { flag := atomFlag fs ret, guard := .lanes gd, uses := fun c => atomUses c op ret x m 1,
    ends := (x, AtomOp.regs op) :: MAddr.srcs m 1, own := fun c s => c.atomsOwn s pk, remote := pk.isSome, len := n,
    addr := at_, store := true, rel := Order.rel o,
    eff := fun c s t u good => c.spadAtomics s t u op x (fun l => (at_ c s l).toNat)
      (if ret then some (Opnd.reg x.op) else none) good [] s,
    names := if ret then namesOf (Opnd.reg x.op) (n / 4) else [] }

theorem spadRule_atoms (gd : Guard) (fs : Bool) (op : AtomOp) (sc : Scope) (o : Order) (ret : Bool) (pk : Option (BitVec 2))
    (x : Src) (m : MAddr) : spadRule (.atoms gd fs op sc o ret pk x m) = some (atomsRule gd fs op o ret pk x m) := by
  have ho : (decide (o = .rel) || decide (o = .ar)) = Order.rel o := by cases o <;> rfl
  simp only [spadRule, atomsRule, ho]
  cases pk <;> rfl

/-- ATOMS on the scratchpad of `own?`, once nothing holds it. -/
def Ctx.atomsEnd (c : Ctx) (s : State) (r : SpadRule) (ret : Bool) (names : List Nat) (own? : Option Nat) : Res :=
  let viol := c.violators s (own?.bind s.team?) (r.addr c s) r.len
  let good := Mask.lanes (c.active &&& ~~~viol) c.g.width
  match c.ag.team, own?, own?.bind s.team? with
  | some t, some u, some tm =>
    if good.any (fun l => tm.spadBad (r.addr c s l).toNat r.len) then .uce
    else
      c.spadDone (r.eff c s t u good).2 r.flag r.ends viol (r.eff c s t u good).1 (if ret && !good.isEmpty then names else []) []
  | _, _, _ => c.spadDone s r.flag r.ends viol [] [] []

theorem atomsEnd_eq (c : Ctx) (s : State) {r : SpadRule} {ret : Bool} {names : List Nat}
    (hn : r.names = if ret then names else []) (hr : r.reads = true) (he : ∀ t u, r.eff c s t u [] = ([], s))
    (ht : (r.own c s).isSome = true → c.ag.team.isSome = true) :
    c.atomsEnd s r ret names (r.own c s) = if r.bad c s then .uce else
      c.spadDone (r.run c s).2 r.flag r.ends (r.viol c s) (r.run c s).1 (if (r.good c s).isEmpty then [] else r.names) [] := by
  have hg : Mask.lanes (c.active &&& ~~~r.viol c s) c.g.width = r.good c s := rfl
  unfold Ctx.atomsEnd
  dsimp only
  rw [r.violators_eq c s, hg, SpadRule.bad, hr, Bool.true_and]
  cases htm : (r.own c s).bind s.team? with
  | none =>
    rw [SpadRule.run_none htm he, SpadRule.good_none htm]
    cases c.ag.team <;> cases r.own c s <;> rfl
  | some tm =>
    obtain ⟨u, hu, -⟩ := Option.bind_eq_some_iff.mp htm
    obtain ⟨t, hta⟩ := Option.isSome_iff_exists.mp (ht (by rw [hu]; rfl))
    have hi : (if ret && !(r.good c s).isEmpty then names else []) = if (r.good c s).isEmpty then [] else r.names := by
      rw [hn]
      cases ret <;> cases (r.good c s).isEmpty <;> rfl
    rw [SpadRule.run, hta, hu, hi]
    rfl

theorem atomsRule_body (gd : Guard) (fs : Bool) (op : AtomOp) (sc : Scope) (o : Order) (ret : Bool) (pk : Option (BitVec 2))
    (x : Src) (m : MAddr) : ∃ body, (∀ s, exec (.atoms gd fs op sc o ret pk x m) s =
      issue (atomsRule gd fs op o ret pk x m).spec body s) ∧ ∀ c s, body c s = (atomsRule gd fs op o ret pk x m).body c s := by
  refine ⟨fun c s => if (c.now s).mustWait true (Order.rel o) || s.moving (if pk.isSome then c.atomsOwn s pk else none) then .hold
    else c.atomsEnd s (atomsRule gd fs op o ret pk x m) ret (namesOf (Opnd.reg x.op) (AtomOp.bytes op / 4)) (c.atomsOwn s pk),
    fun s => rfl, fun c s => ?_⟩
  have hm : s.moving (if pk.isSome then c.atomsOwn s pk else none) = (pk.isSome && s.moving (c.atomsOwn s pk)) := by
    cases pk <;> rfl
  exact ite_congr_iff (by rw [hm]; rfl) rfl (atomsEnd_eq c s rfl rfl (fun _ _ => rfl) Ctx.atomsOwn_isSome)

/-- An access to scratchpads runs as its rule says. -/
theorem exec_spadRule {i : Instr} {r : SpadRule} (h : spadRule i = some r) :
    ∃ body, (∀ s, exec i s = issue r.spec body s) ∧ ∀ c s, body c s = r.body c s := by
  unfold spadRule at h
  split at h
  case h_1 =>
    cases h
    exact ⟨_, fun s => by show execLds _ _ _ _ s = _; delta execLds; rfl, fun c s => spadLoad_eq c s rfl id rfl⟩
  case h_2 =>
    cases h
    refine ⟨_, fun s => by show execLdr _ _ _ _ _ s = _; delta execLdr; rfl, fun c s => ?_⟩
    dsimp only
    split
    · next hm =>
      exact (if_pos (by rw [Bool.or_eq_true]; exact .inr hm)).symm
    · next hm =>
      exact spadLoad_eq c s (r := { spadLoadRule _ _ _ _ with own := fun c s => c.member s _, remote := true }) rfl
        Ctx.member_isSome (by simpa using hm)
  case h_3 =>
    cases h
    exact ⟨_, fun s => by show execSts _ _ _ _ _ s = _; delta execSts; rfl, fun c s => spadStoreOp_eq c s rfl rfl⟩
  case h_4 =>
    cases h
    refine ⟨_, fun s => by show execStr _ _ _ _ _ _ s = _; delta execStr; rfl, fun c s => ?_⟩
    dsimp only
    split
    · next hm =>
      exact (if_pos (by rw [Bool.or_eq_true]; exact .inr hm)).symm
    · next hm =>
      exact spadStoreOp_eq c s (r := { spadStoreRule _ _ _ _ _ with own := fun c s => c.member s _, remote := true }) rfl
        (by simpa using hm)
  case h_5 gd fs op sc o ret pk x m =>
    have hr : atomsRule gd fs op o ret pk x m = r := Option.some.inj ((spadRule_atoms gd fs op sc o ret pk x m).symm.trans h)
    rw [← hr]
    exact atomsRule_body ..
  case h_6 => cases h

/-- What the lanes of an access do changes scratchpads alone. -/
theorem spadRule_spads {i : Instr} {r : SpadRule} (h : spadRule i = some r) (c : Ctx) (s : State) : s.Spads (r.run c s).2 := by
  unfold SpadRule.run
  split
  case h_2 => exact .refl s
  case h_1 t u _ _ =>
    unfold spadRule at h
    split at h <;> cases h
    case h_1 | h_2 => exact .refl s
    case h_3 | h_4 => exact spadLanes_spads ..
    case h_5 => exact spadAtomics_spads ..

/-! ## At issue -/

namespace SpadRule
variable {r : SpadRule} {c : Ctx} {s : State}

/-- Nothing holds the access, and it reads no error. -/
theorem body_free (h : r.Free c s) : r.body c s = c.spadDone (r.run c s).2 r.flag r.ends (r.viol c s) (r.run c s).1
    (if (r.good c s).isEmpty then [] else r.names) [] := by
  have hm : (r.remote && s.moving (r.own c s)) = false := Bool.and_eq_false_imp.2 h.still
  have hb : r.bad c s = false := by
    refine Bool.and_eq_false_imp.2 fun hr => Bool.eq_false_iff.2 fun ha => ?_
    obtain ⟨tm, htm, ht⟩ := (Option.any_eq_true ..).1 ha
    obtain ⟨l, hl, hx⟩ := List.any_eq_true.1 ht
    rw [h.sound hr l hl tm htm] at hx
    cases hx
  rw [body, h.order, hm, hb]
  rfl

/-- An access that reads an error. -/
theorem body_bad {tm : Team} (ho : (c.now s).mustWait r.store r.rel = false)
    (hm : r.remote = true → s.moving (r.own c s) = false) (hr : r.reads = true) (htm : (r.own c s).bind s.team? = some tm)
    (hb : ∃ l ∈ r.good c s, tm.spadBad (r.addr c s l).toNat r.len = true) : r.body c s = .uce := by
  have hb : r.bad c s = true := by
    rw [bad, hr, htm]
    exact List.any_eq_true.2 hb
  rw [body, ho, Bool.and_eq_false_imp.2 hm, hb]
  rfl

end SpadRule

/-- An access without violation completes with what its rule leaves. -/
theorem spadDone_after {r : SpadRule} {c : Ctx} {s : State} (hv : r.viol c s = 0) :
    c.spadDone (r.run c s).2 r.flag r.ends (r.viol c s) (r.run c s).1 (if (r.good c s).isEmpty then [] else r.names) [] =
      .done (r.after c s) := if_pos hv

/-- An access with a violation leaves what its rule says, with the idle lanes of a binding that ends. -/
theorem spadDone_leaves {i : Instr} {r : SpadRule} {c : Ctx} {s : State} {g : Group} (h : spadRule i = some r)
    (hg : s.grpOf c.ag = some g) (hv : r.viol c s ≠ 0) :
    c.spadDone (r.run c s).2 r.flag r.ends (r.viol c s) (r.run c s).1 (if (r.good c s).isEmpty then [] else r.names) [] =
      .leave (if (c.now s).limbs ≠ 0 ∧ (c.now (r.after c s)).limbs = 0 then (c.now s).idle else 0) (r.after c s) := by
  obtain ⟨g', hg', he⟩ := (spadRule_spads h c s).now c hg
  have hn : c.now s = g := by rw [Ctx.now, hg]; rfl
  have hn' : c.now (r.run c s).2 = g' := by rw [Ctx.now, hg']; rfl
  have hl : g'.limbs = g.limbs := (congrArg Group.limbs he :)
  have hi : g'.idle = g.idle := (congrArg Group.idle he :)
  have hw (o : Op) : ((g'.endUses c.active r.ends).addWork o).limbs = g'.limbs ∧
      ((g'.endUses c.active r.ends).addWork o).idle = g'.idle := by
    obtain ⟨_, _, _, h1⟩ := endUses_eq g' c.active r.ends
    rw [h1]
    obtain ⟨_, _, _, h2⟩ := addWork_eq { g' with lanes := _, sregs := _, retained := _ } o
    rw [h2]
    exact ⟨rfl, rfl⟩
  unfold Ctx.spadDone
  dsimp only
  rw [if_neg hv, hn', (hw _).1, (hw _).2, hl, hi, hn, SpadRule.after, mod_now _ hg']
  refine congr (congrArg Res.leave ?_) (by rw [Ctx.mod, hn']; rfl)
  simp only [Bool.and_eq_true, decide_eq_true_eq]
  rfl

/-- Settles O38. -/
theorem scratchpadAccess : Obligations.ScratchpadAccess := by
  unfold Obligations.ScratchpadAccess
  intro i r c0 c s h hi s'
  obtain ⟨body, he, hb⟩ := exec_spadRule h
  have hx : exec i s = c.finish s (r.body c s') :=
    ((he s).trans (issueLong_body (sp := r.spec) hi rfl rfl)).trans (congrArg _ (hb c s'))
  obtain ⟨g, hg, -⟩ := IssuesUnder_group hi.base
  obtain ⟨g', hg', -⟩ := begun_noted (c0 := c0) r.uses hg
  refine ⟨fun hf => ⟨fun hv => ?_, fun hv => ?_⟩, fun tm ho hm hr _ ht hbad => ?_⟩
  · exact runsTo_of_done (hx.trans (by rw [SpadRule.body_free hf, spadDone_after hv]))
  · exact leavesTo_of_leave (hx.trans (by rw [SpadRule.body_free hf, spadDone_leaves h hg' hv]))
  · exact consumesAt_of_uce (hx.trans (by rw [SpadRule.body_bad ho hm hr ht hbad]))

end Sys2Proof.Machine
end

section
/-! PROOFS. LDC, PREF, FENCE and PHASE (R213, R215, R216, R222, R230, R238). -/
namespace Sys2Proof.Machine

theorem reg_eq (d : Opnd) : (match d with | .v r => r.toNat | .s r => r.toNat | _ => 0 : Nat) = Opnd.reg d := by
  cases d <;> rfl

/-- Outside the window every byte reads 0. -/
theorem cRead_outside (s : State) (t : Nat) (tm : Team) (g : Grid) {o : Int} {n : Nat}
    (h : o + n ≤ 0 ∨ (g.lr.cwlen : Int) ≤ o) : (s.cRead t tm g o n).1 = some (List.replicate n 0) := by
  have hz : (min (o + n) g.lr.cwlen).toNat - (max o 0).toNat = 0 := by omega
  have hp (a : Nat) : linePieces a 0 = [] := rfl
  unfold State.cRead
  dsimp only
  rw [hz, hp]
  exact congrArg Prod.fst (if_pos (Nat.sub_eq_zero_iff_le.1 hz))

/-! ## Prefetch -/

/-- A prefetch changes no memory, no poison, nothing staged and no scratchpad. -/
structure State.Fetches (s t : State) : Prop where
  mem : t.mem = s.mem
  poison : t.poison = s.poison
  scratch : ∀ n, (t.team? n).map Team.scratch = (s.team? n).map Team.scratch
  staged : ∀ n, (t.team? n).map Team.staged = (s.team? n).map Team.staged

namespace State.Fetches
variable {s t u : State}

theorem refl (s : State) : s.Fetches s := ⟨rfl, rfl, fun _ => rfl, fun _ => rfl⟩

theorem trans (a : s.Fetches t) (b : t.Fetches u) : s.Fetches u :=
  ⟨b.mem.trans a.mem, b.poison.trans a.poison, fun n => (b.scratch n).trans (a.scratch n),
    fun n => (b.staged n).trans (a.staged n)⟩

theorem fold {α : Type} {xs : List α} {f : State → α → State} (h : ∀ u : State, ∀ x ∈ xs, u.Fetches (f u x)) (s : State) :
    s.Fetches (xs.foldl f s) :=
  List.foldlRecOn xs f (refl s) fun u hu x hx => hu.trans (h u x hx)

theorem modCol (s : State) (n : Nat) (f : Column → Column) : s.Fetches (s.modCol n f) :=
  ⟨rfl, rfl, fun _ => rfl, fun _ => rfl⟩

theorem noteSig (s : State) (n : Nat) (p : MPiece) (pa : Nat) (w : Bool) : s.Fetches (s.noteSig n p pa w) := by
  refine ⟨rfl, rfl, fun m => ?_, fun m => ?_⟩ <;>
  · rw [State.noteSig, State.team?_modTeam]
    split
    · next e =>
      subst e
      cases s.team? m with
      | none => rfl
      | some x =>
        dsimp only [Option.map_some]
        split
        · rfl
        · split <;> rfl
    · rfl

theorem xlate (s : State) (col root asid va : Nat) (w : Bool) : s.Fetches (s.xlate col root asid va w).2 := by
  unfold State.xlate
  dsimp only
  split
  · exact refl s
  · split
    · exact ⟨rfl, rfl, fun _ => rfl, fun _ => rfl⟩
    · split
      · exact refl s
      · split
        · exact refl s
        · exact ⟨rfl, rfl, fun _ => rfl, fun _ => rfl⟩

theorem place (s : State) (tm : Team) (p : MPiece) (w : Bool) : s.Fetches (s.place? tm p w).2 := by
  unfold State.place?
  split
  · split <;> exact refl s
  · exact xlate ..

theorem prefetch (s : State) (t : Nat) (l1 : Bool) (pol : Word) (va : Nat) : s.Fetches (s.prefetch t l1 pol va) := by
  unfold State.prefetch
  split
  · exact refl s
  · next tm _ =>
    have hp := place s tm ⟨va, 1, tm.rangeAt va⟩ false
    dsimp only
    split
    · next h => rw [h] at hp; exact hp
    · next pa s1 h =>
      rw [h] at hp
      have hf (ps : List MPiece) (a : MPiece → Nat) : s1.Fetches (ps.foldl (fun s q => s.noteSig t q (a q) false) s1) :=
        fold (fun u q _ => noteSig ..) s1
      split
      · exact hp
      · split
        · exact (hp.trans (hf ..)).trans (modCol ..)
        · exact hp.trans (hf ..)

end State.Fetches

/-! ## At issue -/

theorem orderAcq (o : Order) : Order.acq o = (decide (o = .acq) || decide (o = .ar)) := by cases o <;> rfl
theorem orderRel (o : Order) : Order.rel o = (decide (o = .rel) || decide (o = .ar)) := by cases o <;> rfl

/-- Settles O39. -/
theorem otherMemory : Obligations.OtherMemory := by
  unfold Obligations.OtherMemory
  refine ⟨fun fs sz d m c s t tm g => ?_, fun s t tm g o n _ => cRead_outside s t tm g,
    fun fs l1 m pol c s t gi b tm => ?_, fun fs sc o c s => ?_, fun fs c s h => ?_⟩
  · intro n us v ls s' h hw ha ht hg out
    have hw' : (c.now s').mustWait false false = false := (mustWait_congr (begun_ops h.base us) ..).trans hw
    have hx := show execLdc fs sz d m s = _ from issueLong_body h rfl rfl
    dsimp only at hx
    rw [hw', ha, Option.bind_some, ht, Option.bind_some, hg, show c.offset s' m = c.offset s m from funext fun l => offset_begun .., if_neg Bool.false_ne_true]
      at hx
    have hx : exec (.ldc fs sz d m) s = c.finish s (match out with
      | (none, _) => .uce
      | (some lands, s1) => c.spadDone s1 (.must fs) (MAddr.srcs m 1) 0 lands (if v then namesOf (Opnd.reg d) n else [])
          (if v then [] else namesOf (Opnd.reg d) n)) := hx
    refine ⟨fun lands s1 ho => runsTo_of_done (hx.trans ?_), fun s1 ho => consumesAt_of_uce (hx.trans ?_)⟩
    · rw [ho]
      exact congrArg (c.finish s) (spadDone_done ..)
    · rw [ho]
  · intro h ha htm hw hl s' ls x
    have hsf : s.SlotFrame s' := .begun ..
    have hss := State.SameStores.of_slotFrame hsf
    have hf : s'.Fetches x := .fold (fun u l _ => .prefetch ..) s'
    have hst : (s'.team? t).map Team.staged = (s.team? t).map Team.staged := by
      have hb : Team.staged ∘ Team.bare = Team.staged := rfl
      have := congrArg (Option.map Team.staged) (hsf.teams t)
      rwa [Option.map_map, Option.map_map, hb] at this
    refine ⟨runsTo_of_done ?_, hf.mem.trans hsf.mem, hf.poison.trans hsf.poison, ?_, ?_⟩
    · have hw' : (c.now s').mustWait false false = false := (mustWait_congr (begun_ops h.base _) ..).trans hw
      have ho : (c.now s').olog = 0 := by
        rw [← hl]
        exact congrArg (fun os : List Op => (os.filter fun o => o.entry.isSome).length) (begun_ops h.base _)
      have hx := show execPref fs l1 m pol s = _ from issueLong_body h rfl rfl
      obtain ⟨ag, g, cl, k⟩ := c
      obtain rfl : ag = .port t gi b := ha
      dsimp only at hx
      rw [hw', ho, vals_begun, spadDone_done] at hx
      exact hx
    · rw [hf.scratch, hss.scratch, htm]; rfl
    · rw [hf.staged, hst, htm]; rfl
  · intro h s' open_
    have ho : (c.now s').ops = (c.now s).ops := begun_ops h.base _
    have hx := show execFence fs sc o s = _ from issueLong_body h rfl rfl
    dsimp only at hx
    rw [ho, orderAcq, orderRel] at hx
    refine ⟨fun hk => runsTo_of_done (hx.trans (by rw [if_pos hk])), fun hk hu hf => runsTo_of_done (hx.trans ?_),
      fun hk hu hf => runsTo_of_done (hx.trans ?_), fun hk hu => runsTo_of_done (hx.trans ?_)⟩ <;>
      rw [if_neg (by rw [hk]; exact Bool.false_ne_true)]
    · rw [show (c.now s).ops.any Op.unperformed = false from hu, Bool.false_or]
      refine congrArg _ (if_neg ?_)
      rw [show ∀ a, (c.op (.may fs) a).flag = none from fun _ => hf]
      exact Bool.false_ne_true
    · rw [show (c.now s).ops.any Op.unperformed = false from hu, Bool.false_or]
      refine congrArg _ (if_pos ?_)
      exact Option.isSome_iff_ne_none.2 hf
    · rw [show (c.now s).ops.any Op.unperformed = true from hu]
      rfl
  · exact parksTo_of_park (show execPhase fs s = _ from issueLong_body h rfl rfl)

end Sys2Proof.Machine
end

section
/-! PROOFS. Barriers, and tickets and WAITA on scratchpad objects (R203, R222, R242 to R249). -/
namespace Sys2Proof.Machine

/-! ## What the instructions come to -/

/-- What the instruction issues with. -/
def ObjRule.spec (r : ObjRule) : Spec := { flag := r.flag, uses := fun c _ => r.uses c }

/-- BAR.AW may take a mark on the object at `o` in phase `ph` (R247). -/
def Group.hasRoom (g : Group) (o : Nat) (ph : Word) : Bool :=
  decide (g.marks.length < 4) || g.marks.any (fun k => k.off = o && k.phase = ph)

/-- What an instruction on the object at `o` does whose condition fails. -/
def Ctx.objParks (c : Ctx) (s : State) (t : Nat) (tm : Team) (o : Nat) : Instr → Res
  | .barWait _ _ => c.parkOn s (.scratch (o + 8) 12)
  | .tktWait .. => c.parkOn s (.scratch (o + 4) 4)
  | .waita .. => c.parkOn s (.scratch o 4)
  | .barAw _ _ drop =>
    let ph : Word := BitVec.ofNat 32 (Memory.readLE tm.scratch o 4)
    if (c.marksOn s o).isEmpty && (c.now s).hasRoom o ph then
      c.parkOn (c.mod (c.arriveAt s t tm o drop) (c.addMark o ph)) (.scratch o 20)
    else c.parkOn s (.scratch o 20)
  | _ => .hold

/-- What an instruction does on its object at `o`. -/
def ObjRule.acts (r : ObjRule) (i : Instr) (c : Ctx) (s : State) (t : Nat) (tm : Team) (o : Nat) : Res :=
  if r.ready c s tm o then .done (c.flies (r.eff c s t tm o) r.flag r.ends (r.lands c s tm o) [] r.dS) else c.objParks s t tm o i

theorem objRule_al {i : Instr} {r : ObjRule} (h : objRule i = some r) : 0 < r.al := by
  unfold objRule at h
  split at h <;> cases h <;> exact Nat.zero_lt_succ _

theorem barAw_acts {fs : Bool} {m : MAddr} {drop : Bool} {r : ObjRule} (h : objRule (.barAw fs m drop) = some r) (c : Ctx) (s : State)
    (t : Nat) (tm : Team) (o : Nat) :
    (let b := Barrier.read tm.scratch o
     let ph : Word := BitVec.ofNat 32 b.phase
     let ms := c.marksOn s o
     if !ms.isEmpty then
       if ms.all (fun k => k.phase ≠ ph) then
         c.spadDone (c.mod s (c.clearMarks o)) (.may fs) (MAddr.srcs m 1) 0 [] [] []
       else c.parkOn s (.scratch o 20)
     else if 4 ≤ (c.now s).marks.length && !((c.now s).marks.any (fun k => k.off = o && k.phase = ph)) then
       c.parkOn s (.scratch o 20)
     else
       let s1 := c.arriveAt s t tm o drop
       let flipped := !b.arr.testBit c.g.grp && b.expected tm.groups.length ≤ b.count + 1
       if flipped then c.spadDone s1 (.may fs) (MAddr.srcs m 1) 0 [] [] []
       else c.parkOn (c.mod s1 (c.addMark o ph)) (.scratch o 20)) = r.acts (.barAw fs m drop) c s t tm o := by
  obtain ⟨ph, hph⟩ : ∃ ph : Word, ph = BitVec.ofNat 32 (Barrier.read tm.scratch o).phase := ⟨_, rfl⟩
  have hready : r.ready c s tm o = if (c.marksOn s o).isEmpty then (c.now s).hasRoom o ph && !(Barrier.read tm.scratch o).arr.testBit c.g.grp &&
      (Barrier.read tm.scratch o).expected tm.groups.length ≤ (Barrier.read tm.scratch o).count + 1
    else (c.marksOn s o).all (fun k => k.phase ≠ ph) := by cases h; rw [hph]; rfl
  have heff : r.eff c s t tm o =
    if (c.marksOn s o).isEmpty then c.arriveAt s t tm o drop else c.mod s (c.clearMarks o) := by cases h; rfl
  have hf : c.flies (r.eff c s t tm o) r.flag r.ends (r.lands c s tm o) [] r.dS =
    c.flies (r.eff c s t tm o) (.may fs) (MAddr.srcs m 1) [] [] [] := by cases h; rfl
  have hr : (4 ≤ (c.now s).marks.length && !((c.now s).marks.any (fun k => k.off = o && k.phase = ph))) =
      !(c.now s).hasRoom o ph := by
    have h4 : decide (4 ≤ (c.now s).marks.length) = !decide ((c.now s).marks.length < 4) := by
      rw [← decide_not]
      exact decide_eq_decide.2 Nat.not_lt.symm
    rw [Group.hasRoom, Bool.not_or, h4]
  dsimp only
  rw [ObjRule.acts, hready, hf, heff, spadDone_done, spadDone_done, ← hph, hr]
  dsimp only [Ctx.objParks]
  rw [show BitVec.ofNat 32 (tm.scratch.readLE o 4) = ph from hph.symm]
  cases hm : (c.marksOn s o).isEmpty with
  | false => rfl
  | true =>
    cases hroom : (c.now s).hasRoom o ph with
    | false => rfl
    | true => simp only [Bool.not_true, Bool.false_eq_true, if_true, if_false, Bool.true_and, Bool.and_true]

/-- An instruction on a scratchpad object runs as its rule says. -/
theorem exec_objRule {i : Instr} {r : ObjRule} (h : objRule i = some r) : ∃ body, (∀ s, exec i s = issue r.spec body s) ∧
    ∀ c s, body c s = c.onObject s r.flag r.m r.ends r.al r.rd r.store r.rel (r.acts i c s) := by
  have h0 := h
  unfold objRule at h
  split at h
  case h_1 =>
    cases h
    refine ⟨_, fun s => by show execBarInit _ _ _ s = _; delta execBarInit; rfl, fun c s => ?_⟩
    simp only [spadDone_done]
    rfl
  case h_2 =>
    cases h
    refine ⟨_, fun s => by show execBarArr _ _ _ s = _; delta execBarArr; rfl, fun c s => ?_⟩
    simp only [spadDone_done]
    rfl
  case h_3 =>
    cases h
    refine ⟨_, fun s => by show execBarWait _ _ s = _; delta execBarWait; rfl, fun c s => ?_⟩
    refine congrArg _ (funext fun t => funext fun tm => funext fun o => ?_)
    dsimp only [ObjRule.acts, Ctx.objParks]
    rw [spadDone_done]
    by_cases hb : (Barrier.read tm.scratch o).arr.testBit c.g.grp = true <;> simp [hb]
  case h_4 fs m drop =>
    exact ⟨_, fun s => by cases h; show execBarAw _ _ _ s = _; delta execBarAw; rfl, fun c s => by
      cases h
      exact congrArg _ (funext fun t => funext fun tm => funext fun o => barAw_acts h0 c s t tm o)⟩
  case h_5 =>
    cases h
    refine ⟨_, fun s => by show execTktTake _ _ _ _ s = _; delta execTktTake; rfl, fun c s => ?_⟩
    simp only [spadDone_done]
    rfl
  case h_6 sc m x =>
    cases h
    refine ⟨_, fun s => by show execTktWait _ _ sc _ _ s = _; delta execTktWait; rfl, fun c s => ?_⟩
    refine (if_neg Bool.false_ne_true).trans (congrArg _ (funext fun t => funext fun tm => funext fun o => ?_))
    dsimp only [ObjRule.acts, Ctx.objParks]
    rw [spadDone_done]
    exact ite_congr_iff decide_eq_true_iff.symm rfl rfl
  case h_7 sc m =>
    cases h
    refine ⟨_, fun s => by show execTktPass _ _ sc _ s = _; delta execTktPass; rfl, fun c s => ?_⟩
    simp only [spadDone_done]
    rfl
  case h_8 sc cc m x =>
    cases h
    refine ⟨_, fun s => by show execWaita _ _ sc _ _ _ s = _; delta execWaita; rfl, fun c s => ?_⟩
    refine (if_neg Bool.false_ne_true).trans (congrArg _ (funext fun t => funext fun tm => funext fun o => ?_))
    dsimp only [ObjRule.acts, Ctx.objParks]
    rw [spadDone_done]
    rfl
  case h_9 => cases h

/-! ## On the object -/

section
variable {r : ObjRule} {c : Ctx} {s : State} {t : Nat} {tm : Team} {k : Nat → Team → Nat → Res}

/-- The object lies in the scratchpad. -/
theorem spadOk_objOff (hal : 0 < r.al) :
    s.spadOk tm (c.objOff s r.m r.al) r.al = true ↔ 0 ≤ c.offset s r.m 0 ∧ r.off c s + r.al ≤ s.spadSize tm := by
  have hz : (0 : Int) < r.al := by exact_mod_cast hal
  have h0 : 0 ≤ c.objOff s r.m r.al ↔ 0 ≤ c.offset s r.m 0 := by
    rw [Ctx.objOff, Int.mul_nonneg_iff_of_pos_right hz, Int.ediv_nonneg_iff_of_pos hz]
  have ho : r.off c s = (c.objOff s r.m r.al).toNat := rfl
  simp only [State.spadOk, Bool.and_eq_true, decide_eq_true_eq, h0, ho]
  refine and_congr_right fun h => ?_
  have := h0.2 h
  omega

theorem onObject_free (hal : 0 < r.al) (h : r.Free c s t tm) :
    c.onObject s r.flag r.m r.ends r.al r.rd r.store r.rel k = k t tm (r.off c s) := by
  unfold Ctx.onObject
  have hb : (r.rd.2 ≠ 0 && tm.spadBad ((c.objOff s r.m r.al).toNat + r.rd.1) r.rd.2) = false :=
    Bool.and_eq_false_imp.2 fun hr => h.sound (of_decide_eq_true hr)
  rw [h.order, h.own, Option.bind_some, h.team]
  simp only [(spadOk_objOff hal).2 ⟨h.low, h.high⟩, hb, Bool.not_true, Bool.false_eq_true, if_false]
  rfl

theorem onObject_bad (hal : 0 < r.al) (ho : (c.now s).mustWait r.store r.rel = false) (ha : c.ag.team = some t)
    (ht : s.team? t = some tm) (hl : 0 ≤ c.offset s r.m 0) (hh : r.off c s + r.al ≤ s.spadSize tm) (hr : r.rd.2 ≠ 0)
    (hb : tm.spadBad (r.off c s + r.rd.1) r.rd.2 = true) :
    c.onObject s r.flag r.m r.ends r.al r.rd r.store r.rel k = .uce := by
  unfold Ctx.onObject
  have hb : (r.rd.2 ≠ 0 && tm.spadBad ((c.objOff s r.m r.al).toNat + r.rd.1) r.rd.2) = true :=
    Bool.and_eq_true_iff.2 ⟨decide_eq_true hr, hb⟩
  rw [ho, ha, Option.bind_some, ht]
  simp only [(spadOk_objOff hal).2 ⟨hl, hh⟩, hb, Bool.not_true, Bool.false_eq_true, if_false, if_true]

theorem onObject_outside (hal : 0 < r.al) (ho : (c.now s).mustWait r.store r.rel = false) (ha : c.ag.team = some t)
    (ht : s.team? t = some tm) (hb : c.offset s r.m 0 < 0 ∨ s.spadSize tm < r.off c s + r.al) :
    c.onObject s r.flag r.m r.ends r.al r.rd r.store r.rel k = c.spadDone s r.flag r.ends c.active [] [] [] := by
  unfold Ctx.onObject
  have hx : s.spadOk tm (c.objOff s r.m r.al) r.al = false := by
    refine Bool.eq_false_iff.2 fun hk => ?_
    obtain ⟨h1, h2⟩ := (spadOk_objOff hal).1 hk
    omega
  rw [ho, ha, Option.bind_some, ht]
  simp only [hx, Bool.not_false, Bool.false_eq_true, if_false, if_true]

/-- An operation in flight leaves the binding. -/
theorem addWork_endUses_binding (g : Group) (m : Mask) (xs : List (Src × Nat)) (o : Op) :
    ((g.endUses m xs).addWork o).limbs = g.limbs ∧ ((g.endUses m xs).addWork o).idle = g.idle := by
  obtain ⟨_, _, _, h1⟩ := endUses_eq g m xs
  rw [h1]
  obtain ⟨_, _, _, h2⟩ := addWork_eq { g with lanes := _, sregs := _, retained := _ } o
  rw [h2]
  exact ⟨rfl, rfl⟩

/-- An instruction none of whose lanes does anything switches them off. -/
theorem spadDone_off (c : Ctx) (s : State) (f : FlagUse) (xs : List (Src × Nat)) (ha : c.active ≠ 0) :
    let h := (((c.now s).endUses c.active xs).addWork { c.op f (.land []) with lanes := 0 }).switchOff c.active c.cl.succ
    c.spadDone s f xs c.active [] [] [] =
      .leave (if (c.now s).limbs ≠ 0 ∧ h.limbs = 0 then (c.now s).idle else 0) (c.put s h) := by
  intro h
  have hl : c.active &&& ~~~c.active = 0 := by simp
  have ho : ({ c.op f (.land []) with dstV := [], dstS := [], lanes := c.active &&& ~~~c.active } : Op) =
      { c.op f (.land []) with lanes := 0 } := by rw [hl]; rfl
  unfold Ctx.spadDone
  dsimp only
  rw [if_neg ha, ho, (addWork_endUses_binding ..).1, (addWork_endUses_binding ..).2]
  refine congrArg (Res.leave · _) ?_
  simp only [Bool.and_eq_true, decide_eq_true_eq]
  rfl

/-- Parking on bytes of the scratchpad. -/
theorem parkOn_scratch (ha : c.ag.team = some t) (ht : s.team? t = some tm) (o n : Nat) :
    c.parkOn s (.scratch o n) = .park s (.sync (.scratch o n) (Memory.readN tm.scratch o n)) := by
  simp only [Ctx.parkOn, ha, State.objBytes, ht, Option.map_some, Option.getD_some]

end

theorem issue_objRule {i : Instr} {r : ObjRule} {c : Ctx} {s : State} (h : objRule i = some r)
    (hi : c.IssuesLong c s .compute r.flag .all r.uses) :
    exec i s = c.finish s (c.onObject (c.begun c s r.uses) r.flag r.m r.ends r.al r.rd r.store r.rel
      (r.acts i c (c.begun c s r.uses))) := by
  obtain ⟨body, he, hb⟩ := exec_objRule h
  exact ((he s).trans (issueLong_body (sp := r.spec) hi rfl rfl)).trans (congrArg _ (hb c _))

/-- Settles O40. -/
theorem objectsComplete : Obligations.ObjectsComplete := by
  unfold Obligations.ObjectsComplete
  intro i r c s t tm h hi s'
  have hx := issue_objRule h hi
  have hal := objRule_al h
  refine ⟨fun hf hr => runsTo_of_done (hx.trans ?_), fun ho ha ht => ⟨fun hb => ⟨_, ?_, rfl⟩, fun hl hh hr hb => ?_⟩⟩
  · rw [onObject_free hal hf, ObjRule.acts, if_pos hr]
    rfl
  · exact leavesTo_of_leave (hx.trans (by rw [onObject_outside hal ho ha ht hb, spadDone_off c _ _ _ hi.base.active]))
  · exact consumesAt_of_uce (hx.trans (by rw [onObject_bad hal ho ha ht hl hh hr hb]))

theorem arriveAt_spads (c : Ctx) (s : State) (t : Nat) (tm : Team) (o : Nat) (drop : Bool) :
    s.Spads (c.arriveAt s t tm o drop) := by
  unfold Ctx.arriveAt
  dsimp only
  split
  · exact .refl s
  · exact (spadStore_spads ..).trans (spadStore_spads ..)

theorem hasRoom_iff {g : Group} {o : Nat} {ph : Word} :
    g.hasRoom o ph = true ↔ g.marks.length < 4 ∨ ∃ k ∈ g.marks, k.off = o ∧ k.phase = ph := by
  simp [Group.hasRoom]

/-- A team that stood before a change of a group stands after it. -/
theorem team_mod {c : Ctx} {s : State} {f : Group → Group} {n : Nat} (h : (s.team? n).isSome = true) :
    ((c.mod s f).team? n).isSome = true := by
  have := congrArg Option.isSome ((State.SlotFrame.mod c s f).teams n)
  rw [Option.isSome_map, Option.isSome_map] at this
  rwa [this]

/-- Settles O41. -/
theorem objectsPark : Obligations.ObjectsPark := by
  unfold Obligations.ObjectsPark
  refine ⟨?_, ?_⟩
  · intro i r c s t tm o n h hi hl s' hf hr
    refine parksTo_of_park ((issue_objRule h hl).trans ?_)
    rw [onObject_free (objRule_al h) hf, ObjRule.acts, if_neg (ne_true_of_eq_false hr), ← parkOn_scratch hf.own hf.team]
    obtain ⟨_, _, rfl, rfl, rfl⟩ | ⟨_, _, _, _, rfl, rfl, rfl⟩ | ⟨_, _, _, _, _, rfl, rfl, rfl⟩ := hi <;> rfl
  · intro fs drop m r c s t tm i h hl s' o now hf hr roomy
    have hx := (issue_objRule h hl).trans (congrArg _ (onObject_free (objRule_al h) hf))
    rw [ObjRule.acts, if_neg (ne_true_of_eq_false hr)] at hx
    have hroom : (c.now s').hasRoom o now = true ↔ roomy := hasRoom_iff
    have hx : exec i s = c.finish s (if (c.marksOn s' o).isEmpty && (c.now s').hasRoom o now then
      c.parkOn (c.mod (c.arriveAt s' t tm o drop) (c.addMark o now)) (.scratch o 20) else c.parkOn s' (.scratch o 20)) := hx
    refine ⟨fun hm => parksTo_of_park (hx.trans ?_), fun hm hn => ?_⟩
    · rw [if_neg, parkOn_scratch hf.own hf.team]
      rw [Bool.and_eq_true, List.isEmpty_iff]
      exact fun ⟨h1, h2⟩ => hm.elim (· h1) (· (hroom.1 h2))
    · intro x
      have hs : (x.team? t).isSome = true := team_mod (by rw [(arriveAt_spads ..).isSome, hf.team]; rfl)
      obtain ⟨y, hy⟩ := Option.isSome_iff_exists.1 hs
      refine ⟨Memory.readN y.scratch o 20, by rw [hy]; rfl, parksTo_of_park (hx.trans ?_)⟩
      rw [if_pos (Bool.and_eq_true_iff.2 ⟨List.isEmpty_iff.2 hm, hroom.2 hn⟩)]
      exact congrArg _ (parkOn_scratch hf.own hy ..)

end Sys2Proof.Machine
end

section
/-! PROOFS. Tickets and WAITA on objects in global memory (R59, R222, R242, R243, R248, R249). -/
namespace Sys2Proof.Machine

/-- The test has failed: the lanes park on the bytes it read. -/
def GlobSyncRule.parks (r : GlobSyncRule) (c : Ctx) (s : State) (t : Nat) : Res :=
  match s.team? t with
  | some tm =>
    (match (s.place? tm ⟨r.acc.addr (r.vals c s) 0, r.acc.len, tm.rangeAt (r.acc.addr (r.vals c s) 0)⟩ false).1 with
     | .ok pa => c.parkOn s (.glob pa r.acc.len)
     | .error _ => .hold)
  | none => .hold

theorem GlobSyncRule.body_port {r : GlobSyncRule} {c : Ctx} {s : State} {t gi : Nat} {b : Bool} (ha : c.ag = .port t gi b) :
    r.body c s =
      if r.acc.waits s t (c.now s) (r.vals c s) [0] r.rel then .hold
      else if (r.run c s t).uce then .uce
      else if r.acc.overtakes (c.now s) (r.vals c s) [0] (r.run c s t) then .hold
      else if !(r.run c s t).faults.isEmpty then .park (r.faulted c s t) (.replay (c.now s).nextOp)
      else if (r.run c s t).blocked then r.parks c s t
      else c.spadDone (r.run c s t).s r.flag r.ends 0 (r.run c s t).lands [] r.dS := by
  obtain ⟨ag, g, cl, m⟩ := c
  obtain rfl : ag = _ := ha
  rfl

/-- Settles O43. -/
theorem globalObjectsComplete : Obligations.GlobalObjectsComplete := by
  unfold Obligations.GlobalObjectsComplete
  intro i r c s t gi b h hi ha s'
  have hx : exec i s = c.finish s (r.body c s') := (exec_globSyncRule h s).trans (issueLong_body (sp := r.spec) hi rfl rfl)
  rw [GlobSyncRule.body_port ha] at hx
  refine ⟨fun hw hu => consumesAt_of_uce (hx.trans ?_), fun hf => ?_⟩
  · rw [hw, hu]
    rfl
  · intro o va
    rw [hf.order, hf.sound, hf.lane] at hx
    refine ⟨fun h1 h2 => runsTo_of_done (hx.trans ?_), fun tm pa h1 h2 ht hp => parksTo_of_park (hx.trans ?_),
      fun h1 => parksTo_of_park (hx.trans ?_)⟩
    · rw [show (r.run c s' t).faults = [] from h1, show (r.run c s' t).blocked = false from h2, spadDone_done]
      rfl
    · rw [show (r.run c s' t).faults = [] from h1, show (r.run c s' t).blocked = true from h2]
      simp only [List.isEmpty_nil, Bool.not_true, Bool.false_eq_true, if_false, if_true, GlobSyncRule.parks, ht, Ctx.parkOn, ha,
        Agent.team]
      rw [show (s'.place? tm _ false).1 = .ok pa from hp]
      rfl
    · have hn : (!(r.run c s' t).faults.isEmpty) = true := by
        rw [Bool.not_eq_true', List.isEmpty_eq_false_iff]
        exact h1
      rw [hn]
      rfl

end Sys2Proof.Machine
end

section
/-! PROOFS. WAITF and the FIFO instructions (R222, R250, R251). -/
namespace Sys2Proof.Machine

section
variable {c : Ctx} {s : State} {t : Nat} {tm : Team} {f : FlagUse} {b : Src} {xs : List (Src × Nat)} {rel : Bool} {k : Nat}
  {body : Nat → Team → Nat → Nat → Nat → Nat → Res}

/-- An instruction on a FIFO bank that need not wait. -/
theorem onFifo_free (hw : (c.now s).mustWait true rel = false) (ha : c.ag.team = some t) (ht : s.team? t = some tm)
    (hk : s.fifoOf tm (c.rd s b.op 0).toNat = some k) : c.onFifo s f b xs rel body =
      body t tm k (c.rd s b.op 0).toNat (tm.fifos.getD k (0, 0)).1 (tm.fifos.getD k (0, 0)).2 := by
  unfold Ctx.onFifo
  rw [hw, ha, Option.bind_some, ht]
  dsimp only
  rw [show c.rdU s b.op = c.rd s b.op 0 from rfl, hk]
  rfl

/-- Parking on a FIFO bank. -/
theorem parkOn_fifo (ha : c.ag.team = some t) (ht : s.team? t = some tm) : c.parkOn s (.fifo k) =
    .park s (.sync (.fifo k) [BitVec.ofNat 8 (tm.fifos.getD k (0, 0)).1, BitVec.ofNat 8 (tm.fifos.getD k (0, 0)).2]) := by
  simp only [Ctx.parkOn, ha, State.objBytes, ht, Option.map_some, Option.getD_some]

end

/-- WAITF. -/
theorem waitf_completes (fs : Bool) (mask : BitVec 12) (c : Ctx) (s : State)
    (h : c.IssuesLong c s .compute (.may fs) .all (fun _ => [])) :
    let s' := c.begun c s (fun _ => [])
    ((∀ f, f < 12 → mask.getLsbD f = true → (c.now s).flagBusy f = false) →
      RunsTo (.waitf fs mask) c s (c.flies s' (.may fs) [] [] [] [])) ∧
    ((∃ f, f < 12 ∧ mask.getLsbD f = true ∧ (c.now s).flagBusy f = true) → c.ag ≠ .kennel →
      ParksTo (.waitf fs mask) c s s' (.sync (.flags mask) ((upTo 12).map (fun f =>
        if mask.getLsbD f = true ∧ (c.now s).flagBusy f = true then 1 else 0)))) := by
  intro s'
  have hx := show execWaitf fs mask s = _ from issueLong_body h rfl rfl
  dsimp only at hx
  have hb (f : Nat) : (c.now s').flagBusy f = (c.now s).flagBusy f := by
    simp only [Group.flagBusy, show (c.now s').ops = _ from begun_ops h.base _]
  have hc : (c.now s').flagsClear mask = true ↔ ∀ f, f < 12 → mask.getLsbD f = true → (c.now s).flagBusy f = false := by
    simp only [Group.flagsClear, List.all_eq_true, upTo, List.mem_range, hb]
    simp only [Bool.or_eq_true, Bool.not_eq_true', ← Bool.not_eq_true, ← Decidable.imp_iff_not_or]
  refine ⟨fun hf => runsTo_of_done (hx.trans ?_), fun ⟨f, h1, h2, h3⟩ hk => parksTo_of_park (hx.trans ?_)⟩
  · rw [if_pos (hc.2 hf), spadDone_done]
  · rw [if_neg fun hcl => Bool.false_ne_true ((hc.1 hcl f h1 h2).symm.trans h3)]
    have hn : (upTo 12).map (fun f => if mask.getLsbD f && (c.now s').flagBusy f then (1 : Byte) else 0) =
        (upTo 12).map (fun f => if mask.getLsbD f = true ∧ (c.now s).flagBusy f = true then 1 else 0) := by
      simp only [hb, Bool.and_eq_true]
    obtain ⟨ag, g, cl, m⟩ := c
    cases ag with
    | kennel => exact absurd rfl hk
    | port t n b => exact congrArg (fun l => Ctx.finish _ s (.park s' (.sync (.flags mask) l))) hn

/-- Settles O44. -/
theorem flagsAndFifos : Obligations.FlagsAndFifos := by
  unfold Obligations.FlagsAndFifos
  refine ⟨waitf_completes, ?_, ?_⟩
  · intro fs w64 b x c s t k tm n us s' bi f slot h ha ht hk hw
    have hw' : (c.now s').mustWait true true = false := (mustWait_congr (begun_ops h.base us) ..).trans hw
    have hr : c.rd s' b.op 0 = c.rd s b.op 0 := rd_begun ..
    have hx := @id (execFifoPush fs w64 b x s = _) (by
      unfold execFifoPush
      exact issueLong_body (sp := { flag := .may fs, uses := fun c _ => us c }) h rfl rfl)
    dsimp only at hx
    rw [onFifo_free hw' ha ht (by rw [hr]; exact hk), hr] at hx
    refine ⟨fun hf => runsTo_of_done (hx.trans ?_), fun hf => parksTo_of_park (hx.trans ?_)⟩
    · rw [if_neg (Nat.not_le.2 hf), spadDone_done]
      simp only [rd_begun, rd64_begun]
      rfl
    · rw [if_pos hf, parkOn_fifo ha ht]
  · intro fs w64 b d c s t k tm n us s' bi f o h ha ht hk hw
    have hw' : (c.now s').mustWait true false = false := (mustWait_congr (begun_ops h.base us) ..).trans hw
    have hr : c.rd s' b.op 0 = c.rd s b.op 0 := rd_begun ..
    have hx := @id (execFifoPop fs w64 b d s = _) (by
      unfold execFifoPop
      exact issueLong_body (sp := { flag := .must fs, uses := fun c _ => us c }) h rfl rfl)
    dsimp only at hx
    rw [onFifo_free hw' ha ht (by rw [hr]; exact hk), hr] at hx
    refine ⟨fun hf hb => runsTo_of_done (hx.trans ?_), fun hf hb => consumesAt_of_uce (hx.trans ?_),
      fun hf => parksTo_of_park (hx.trans ?_)⟩
    · rw [if_neg (Nat.pos_iff_ne_zero.1 hf), if_neg, spadDone_done]
      · rfl
      · rw [List.any_eq_true]
        exact fun ⟨l, hl, hx⟩ => Bool.false_ne_true ((hb l hl).symm.trans hx)
    · rw [if_neg (Nat.pos_iff_ne_zero.1 hf), if_pos]
      exact List.any_eq_true.2 hb
    · rw [if_pos hf, parkOn_fifo ha ht]

end Sys2Proof.Machine
end

section
/-! PROOFS. The matrix instructions at issue (R37, R288 to R305). -/
namespace Sys2Proof.Machine

/-! ## What an engine instruction copies -/

theorem Team.copyBlocks_groups (x : Team) (nscr o n : Nat) : (x.copyBlocks nscr o n).groups = x.groups := by
  unfold Team.copyBlocks
  split
  · rfl
  · split <;> rfl

theorem Team.copyTile_groups (x : Team) (a : Nat) : (x.copyTile a).groups = x.groups := by
  unfold Team.copyTile
  split
  · rfl
  · split <;> rfl

/-- Copies for the checkpoint leave the groups. -/
theorem engineCopies_grpOf (s : State) (t : Nat) (acc : Option Nat) (ps : List (Nat × Nat)) (a : Agent) :
    (s.engineCopies t acc ps).grpOf a = s.grpOf a := by
  cases a with
  | kennel => rfl
  | port n gi b =>
    refine group?_modTeam_of fun x => ?_
    refine List.foldlRecOn (motive := fun z : Team => z.groups = x.groups) _ _ ?_ fun z hz p _ =>
      (Team.copyBlocks_groups ..).trans hz
    cases acc with
    | none => rfl
    | some a => exact Team.copyTile_groups ..

theorem enqueue_copies (c : Ctx) (s : State) (t u : Nat) (tm : Team) (o : Op) (xs : List (Src × Nat)) (acc : Option Nat)
    (ps : List (Nat × Nat)) : c.enqueue (s.engineCopies u acc ps) t tm o xs =
      .done ((c.mod (s.engineCopies u acc ps) (fun g => ((g.endUses c.active xs).bindDst o).addOp o)).modCore tm.core
        (fun k => { k with engineQ := k.engineQ ++ [(t, c.g.grp, (c.now s).nextOp)] })) := by
  have hn : c.now (s.engineCopies u acc ps) = c.now s := congrArg (Option.getD · c.g) (engineCopies_grpOf ..)
  unfold Ctx.enqueue
  rw [hn]

/-! ## What the instructions come to -/

namespace EngRule

/-- What the instruction issues with. -/
def spec (r : EngRule) : Spec := { flag := r.flag, hdrOk := r.hdr, uses := fun c _ => r.uses c }

/-- What the instruction does where nothing holds it and its tile exists. -/
structure Means (r : EngRule) (i : Instr) (body : Ctx → State → Nat → Team → List Nat → Res) : Prop where
  issues : ∀ s, exec i s = engineIssue r.flag r.acc r.spad r.hdr (fun c _ => r.uses c) body s
  queues : ∀ c s t tm, r.Free c s t tm → body c s t tm c.rows = .done (r.after c s t tm)

end EngRule

theorem spadOk_of_inside {s : State} {tm : Team} {p : Nat × Nat} (h : p.1 + p.2 ≤ s.spadSize tm) :
    s.spadOk tm p.1 p.2 = true := by
  rw [State.spadOk, Bool.and_eq_true, decide_eq_true_eq, decide_eq_true_eq]
  omega

theorem not_outside {s : State} {tm : Team} {p : Nat × Nat} (h : p.1 + p.2 ≤ s.spadSize tm) : ¬(!s.spadOk tm p.1 p.2) = true := by
  rw [spadOk_of_inside h]
  exact Bool.false_ne_true

/-- A movement whose bytes lie in the scratchpad is queued. -/
theorem moveTile_inside {c : Ctx} {s : State} {t : Nat} {tm : Team} {fs : Bool} {ps : List (Nat × Nat)} {w : Bool} {acc : Option Nat}
    {a : OpAct} (h : ∀ p ∈ ps, p.1 + p.2 ≤ s.spadSize tm) : c.moveTile s t tm fs ps w acc a =
      c.enqueue (s.engineCopies t acc (if w then ps else [])) t tm (c.op (.may fs) a) [] := by
  refine if_neg fun ha => ?_
  obtain ⟨p, hp, hx⟩ := List.any_eq_true.1 ha
  exact not_outside (h p hp) hx

theorem engRule_means {i : Instr} {r : EngRule} (h : engRule i = some r) : ∃ body, r.Means i body := by
  unfold engRule at h
  split at h <;> cases h
  case h_1 fs acc ta tb stat za capf koff =>
    refine ⟨_, fun s => by show execMma _ _ _ _ _ _ _ _ s = _; delta execMma; rfl, fun c s t tm hf => ?_⟩
    refine (if_neg fun hc => ?_).trans ((if_neg fun ho => ?_).trans
      ((congrArg (fun l => c.enqueue (s.engineCopies t _ l) t tm _ []) Option.toList_map).trans (enqueue_copies ..)))
    · obtain ⟨f, hf', hx⟩ := (Option.any_eq_true ..).1 hc
      exact absurd (hf.capture f hf') (Nat.not_lt.2 (of_decide_eq_true hx))
    · rcases Bool.or_eq_true_iff.1 ho with hw | hp
      · obtain ⟨w, hw, hx⟩ := (Option.any_eq_true ..).1 hw
        have := hf.inside (w.1, 8) (List.mem_append_left _ (List.mem_map.2 ⟨w, Option.mem_toList.2 hw, rfl⟩))
        exact not_outside this hx
      · obtain ⟨p, hp, hx⟩ := List.any_eq_true.1 hp
        have := hf.inside p (List.mem_append_right _ hp)
        exact not_outside this hx
  case h_2 fs acc =>
    exact ⟨_, fun s => by show execAccZero _ _ s = _; delta execAccZero; rfl, fun c s t tm hf => enqueue_copies ..⟩
  case h_3 fs acc ta =>
    refine ⟨_, fun s => by show execAccLd _ _ _ s = _; delta execAccLd; rfl, fun c s t tm hf => ?_⟩
    exact (moveTile_inside hf.inside).trans (enqueue_copies ..)
  case h_4 fs acc ta =>
    refine ⟨_, fun s => by show execAccSt _ _ _ s = _; delta execAccSt; rfl, fun c s t tm hf => ?_⟩
    exact (moveTile_inside hf.inside).trans (enqueue_copies ..)
  case h_5 fs acc v cb =>
    exact ⟨_, fun s => by show execAccRd _ _ _ _ s = _; delta execAccRd; rfl, fun c s t tm hf => rfl⟩
  case h_6 fs acc v cb vlu =>
    exact ⟨_, fun s => by show execAccWr _ _ _ _ _ s = _; delta execAccWr; rfl, fun c s t tm hf => enqueue_copies ..⟩
  case h_7 fs acc ta r =>
    refine ⟨_, fun s => by show execAccOut _ _ _ _ s = _; delta execAccOut; rfl, fun c s t tm hf => ?_⟩
    exact (moveTile_inside hf.inside).trans (enqueue_copies ..)
  case h_8 fs d clr =>
    exact ⟨_, fun s => by show execMstat _ _ _ s = _; delta execMstat; rfl, fun c s t tm hf => rfl⟩

/-! ## At issue -/

theorem engineIssue_body {r : EngRule} {body : Ctx → State → Nat → Team → List Nat → Res} {c : Ctx} {s : State}
    (hi : c.IssuesLong c s .compute r.flag .all r.uses) (hd : r.hdr c = true) {t : Nat} {tm : Team} (ha : c.ag.team = some t)
    (ht : (c.begun c s r.uses).team? t = some tm) :
    engineIssue r.flag r.acc r.spad r.hdr (fun c _ => r.uses c) body s = c.finish s
      (if r.acc.any (fun a => (c.begun c s r.uses).nacc tm ≤ a.toNat) then .trap .regBudget c.active 0
       else if r.spad.waits (c.now (c.begun c s r.uses)) then .hold
       else if 16 ≤ ((c.begun c s r.uses).core tm.core).engineQ.length then .hold
       else body c (c.begun c s r.uses) t tm c.rows) := by
  refine (issueLong_body (sp := r.spec) hi rfl hd).trans ?_
  dsimp only [EngRule.spec]
  rw [ha, Option.bind_some, ht]
  rfl

/-- Settles O45. -/
theorem engineQueues : Obligations.EngineQueues := by
  unfold Obligations.EngineQueues
  refine ⟨?_, ?_⟩
  · intro i r c s t tm h hi s'
    obtain ⟨body, hm⟩ := engRule_means h
    refine ⟨fun hf => runsTo_of_done ?_, fun a ha hown ht hd hn => ?_⟩
    · rw [hm.issues, engineIssue_body hi hf.limits hf.own hf.team, hf.order, hm.queues c _ t tm hf, if_neg (Nat.not_le.2 hf.queue)]
      refine congrArg _ ((if_neg fun hx => ?_).trans (if_neg Bool.false_ne_true))
      obtain ⟨a, ha, hn⟩ := (Option.any_eq_true ..).1 hx
      exact absurd (hf.tile a ha) (Nat.not_lt.2 (of_decide_eq_true hn))
    · show exec i s = _
      rw [hm.issues, engineIssue_body hi hd hown ht, ha]
      exact congrArg _ (if_pos (decide_eq_true hn))
  · intro n u c s hi
    refine runsTo_of_retires (sp := { uses := fun c _ => [⟨.s u, 4, c.active, false⟩] })
      (by show execTdef n u s = _; delta execTdef; rfl) hi rfl rfl rfl rfl

end Sys2Proof.Machine
end

section
/-! PROOFS. The Retriever commands at issue (R311, R312, R330). -/
namespace Sys2Proof.Machine

/-- A command whose bytes lie in the scratchpads and for which its column has room joins its team's queue. -/
theorem command_queues {opc : Nat} {f : CmdF} {k : CmdKind} {c : Ctx} {s : State} {t : Nat} {tm : Team}
    (h : c.IssuesLong c s .compute (.may f.fs) .all (cmdUses · f))
    (hf : CmdFits c (c.begun c s (cmdUses · f)) t tm f (c.newCmd (c.begun c s (cmdUses · f)) tm opc f k)) :
    command opc f k s = c.finish s (.done (c.queued (c.begun c s (cmdUses · f)) t f
      (c.newCmd (c.begun c s (cmdUses · f)) tm opc f k))) := by
  unfold command
  refine (issueLong_body (sp := { flag := .may f.fs, uses := fun c _ => cmdUses c f }) h rfl rfl).trans ?_
  dsimp only
  rw [hf.own, Option.bind_some, hf.team]
  refine congrArg _ ((if_neg fun hs => ?_).trans ((if_neg fun hp => ?_).trans (if_neg (Nat.not_le.2 hf.room))))
  · obtain ⟨a, ha, hx⟩ := (Option.any_eq_true ..).1 hs
    obtain ⟨hsp, ho⟩ := Bool.and_eq_true_iff.1 hx
    rw [hf.signal a ha (by simpa using hsp)] at ho
    cases ho
  · obtain ⟨hb, ha⟩ := Bool.and_eq_true_iff.1 hp
    obtain ⟨p, hp, ho⟩ := List.any_eq_true.1 ha
    rw [hf.payload (by simpa using hb) p hp] at ho
    cases ho

/-- Settles O46, command by command. -/
theorem commandsQueue : Obligations.CommandsQueue := by
  unfold Obligations.CommandsQueue
  intro i opc f k c s t tm h hi s' x hf
  refine runsTo_of_done ((?_ : exec i s = command opc f k s).trans (command_queues hi hf))
  unfold cmdRule at h
  split at h <;> cases h <;> rfl

end Sys2Proof.Machine
end

section
/-! PROOFS. The map of the M space (R389, Table 17-3). -/
namespace Sys2Proof.Machine

/-- The number of a word in a table of `n` words at `base`. -/
def mrow (a base n : Nat) : Option Nat := if base ≤ a && a < base + 4 * n then some ((a - base) / 4) else none

theorem mrow_hit {base n k : Nat} (h : k < n) : mrow (base + 4 * k) base n = some k := by
  rw [mrow, if_pos (by rw [Bool.and_eq_true, decide_eq_true_eq, decide_eq_true_eq]; omega)]
  congr 1
  omega

theorem mrow_miss {a base n : Nat} (h : a < base ∨ base + 4 * n ≤ a) : mrow a base n = none := by
  rw [mrow, if_neg]
  rw [Bool.and_eq_true, decide_eq_true_eq, decide_eq_true_eq]
  omega

section
variable {a : Nat} (h4 : a % 4 = 0)
include h4

theorem mreg_sensors (h : a < 0x20000) : mreg a =
    ((mrow a 0x10000 576).map MReg.temp).or (((mrow a 0x11000 32).map MReg.btemp).or ((mrow a 0x12000 16).map MReg.pmon)) := by
  unfold mreg
  dsimp only
  rw [if_neg (not_not_intro h4), if_pos h]
  rfl

theorem mreg_slices (hl : 0x20000 ≤ a) (h : a < 0x30000) :
    mreg a = ((mrow a 0x20000 3456).map MReg.sctl).or ((mrow a 0x28000 576).map MReg.sctlAll) := by
  unfold mreg
  dsimp only
  rw [if_neg (not_not_intro h4), if_neg (by omega), if_pos h]
  rfl

theorem mreg_columns (hl : 0x30000 ≤ a) (h : a < 0x40000) :
    mreg a = ((mrow a 0x30000 144).map MReg.cbud).or ((mrow a 0x31000 144).map MReg.cacheMin) := by
  unfold mreg
  dsimp only
  rw [if_neg (not_not_intro h4), if_neg (by omega), if_neg (by omega), if_pos h]
  rfl

theorem mreg_budgets (hl : 0x40010 ≤ a) (h : a < 0x50000) : mreg a = ((mrow a 0x40100 9).map MReg.bud).or
    ((mrow a 0x40200 12).map (fun i => if i % 2 = 0 then MReg.enlo (i / 2) else MReg.enhi (i / 2))) := by
  unfold mreg
  dsimp only
  rw [if_neg (not_not_intro h4), if_neg (by omega), if_neg (by omega), if_neg (by omega), if_pos h]
  split
  · omega
  · omega
  · omega
  · omega
  · rfl

theorem mreg_collectives (hl : 0x50000 ≤ a) (h : a < 0x51000) : mreg a = (mrow a 0x50000 256).bind (fun i =>
    match i % 4 with
    | 0 => some (.coll0 (i / 4))
    | 1 => some (.coll1 (i / 4))
    | _ => none) := by
  unfold mreg
  dsimp only
  rw [if_neg (not_not_intro h4), if_neg (by omega), if_neg (by omega), if_neg (by omega), if_neg (by omega), if_pos (by omega),
    if_neg (by omega)]
  rfl

theorem mreg_log (hl : 0x60000 ≤ a) (h : a < 0x60020) : mreg a = (mrow a 0x60000 8).map MReg.logbuf := by
  unfold mreg
  dsimp only
  rw [if_neg (not_not_intro h4), if_neg (by omega), if_neg (by omega), if_neg (by omega), if_neg (by omega), if_neg (by omega),
    if_pos (by omega)]
  split
  · omega
  · omega
  · omega
  · rfl

theorem mreg_repairs (hl : 0x70000 ≤ a) (h : a < 0x80000) : mreg a =
    ((mrow a 0x70000 1024).map (fun i => MReg.repair (i / 4) (i % 4))).or
      ((mrow a 0x71000 15360).map (fun i => MReg.retired (i / 2) (i % 2 = 1))) := by
  unfold mreg
  dsimp only
  rw [if_neg (not_not_intro h4), if_neg (by omega), if_neg (by omega), if_neg (by omega), if_neg (by omega), if_neg (by omega),
    if_neg (by omega), if_pos h]
  rfl

end

/-- The tables of words. -/
theorem mreg_tables (k : Nat) :
    (k < 576 → mreg (0x10000 + 4 * k) = some (.temp k) ∧ mreg (0x28000 + 4 * k) = some (.sctlAll k)) ∧
    (k < 32 → mreg (0x11000 + 4 * k) = some (.btemp k)) ∧ (k < 16 → mreg (0x12000 + 4 * k) = some (.pmon k)) ∧
    (k < 3456 → mreg (0x20000 + 4 * k) = some (.sctl k)) ∧
    (k < 144 → mreg (0x30000 + 4 * k) = some (.cbud k) ∧ mreg (0x31000 + 4 * k) = some (.cacheMin k)) ∧
    (k < 9 → mreg (0x40100 + 4 * k) = some (.bud k)) ∧
    (k < 6 → mreg (0x40200 + 8 * k) = some (.enlo k) ∧ mreg (0x40204 + 8 * k) = some (.enhi k)) ∧
    (k < 64 → mreg (0x50000 + 16 * k) = some (.coll0 k) ∧ mreg (0x50004 + 16 * k) = some (.coll1 k)) ∧
    (k < 8 → mreg (0x60000 + 4 * k) = some (.logbuf k)) ∧
    (k < 256 → ∀ w, w < 4 → mreg (0x70000 + 16 * k + 4 * w) = some (.repair k w)) ∧
    (k < 7680 → mreg (0x71000 + 8 * k) = some (.retired k false) ∧ mreg (0x71004 + 8 * k) = some (.retired k true)) := by
  refine ⟨fun h => ⟨?_, ?_⟩, fun h => ?_, fun h => ?_, fun h => ?_, fun h => ⟨?_, ?_⟩, fun h => ?_, fun h => ⟨?_, ?_⟩,
    fun h => ⟨?_, ?_⟩, fun h => ?_, fun h w hw => ?_, fun h => ⟨?_, ?_⟩⟩
  · rw [mreg_sensors (by omega) (by omega), mrow_hit h]; rfl
  · rw [mreg_slices (by omega) (by omega) (by omega), mrow_miss (by omega), mrow_hit h]; rfl
  · rw [mreg_sensors (by omega) (by omega), mrow_miss (by omega), mrow_hit h]; rfl
  · rw [mreg_sensors (by omega) (by omega), mrow_miss (by omega), mrow_miss (by omega), mrow_hit h]; rfl
  · rw [mreg_slices (by omega) (by omega) (by omega), mrow_hit h]; rfl
  · rw [mreg_columns (by omega) (by omega) (by omega), mrow_hit h]; rfl
  · rw [mreg_columns (by omega) (by omega) (by omega), mrow_miss (by omega), mrow_hit h]; rfl
  · rw [mreg_budgets (by omega) (by omega) (by omega), mrow_hit h]; rfl
  · rw [show 0x40200 + 8 * k = 0x40200 + 4 * (2 * k) by omega, mreg_budgets (by omega) (by omega) (by omega),
      mrow_miss (by omega), mrow_hit (by omega)]
    simp
  · rw [show 0x40204 + 8 * k = 0x40200 + 4 * (2 * k + 1) by omega, mreg_budgets (by omega) (by omega) (by omega),
      mrow_miss (by omega), mrow_hit (by omega)]
    simp; omega
  · rw [show 0x50000 + 16 * k = 0x50000 + 4 * (4 * k) by omega, mreg_collectives (by omega) (by omega) (by omega),
      mrow_hit (by omega)]
    simp
  · rw [show 0x50004 + 16 * k = 0x50000 + 4 * (4 * k + 1) by omega, mreg_collectives (by omega) (by omega) (by omega),
      mrow_hit (by omega)]
    simp only [Option.bind_some, show (4 * k + 1) % 4 = 1 by omega, show (4 * k + 1) / 4 = k by omega]
  · rw [mreg_log (by omega) (by omega) (by omega), mrow_hit h]; rfl
  · rw [show 0x70000 + 16 * k + 4 * w = 0x70000 + 4 * (4 * k + w) by omega, mreg_repairs (by omega) (by omega) (by omega),
      mrow_hit (by omega)]
    simp; omega
  · rw [show 0x71000 + 8 * k = 0x71000 + 4 * (2 * k) by omega, mreg_repairs (by omega) (by omega) (by omega),
      mrow_miss (by omega), mrow_hit (by omega)]
    simp
  · rw [show 0x71004 + 8 * k = 0x71000 + 4 * (2 * k + 1) by omega, mreg_repairs (by omega) (by omega) (by omega),
      mrow_miss (by omega), mrow_hit (by omega)]
    simp; omega

/-- The single registers. -/
theorem mreg_singles : mreg 0x40000 = some .cool ∧ mreg 0x40004 = some .hot ∧ mreg 0x40008 = some .crit ∧
    mreg 0x4000C = some .reside ∧
    mreg 0x51000 = some .ctimeout ∧ mreg 0x60020 = some .logcommit ∧ mreg 0x60024 = some .logseq ∧
    mreg 0x60028 = some .logrd ∧ mreg 0x80000 = some (.upsrc false) ∧ mreg 0x80004 = some (.upsrc true) ∧
    mreg 0x80008 = some (.updst false) ∧ mreg 0x8000C = some (.updst true) ∧ mreg 0x80010 = some .uplen ∧
    mreg 0x80018 = some .upcmd ∧ mreg 0x8001C = some .upstat ∧ mreg 0x90000 = some .warmrst := by
  decide

end Sys2Proof.Machine
end

section
/-! PROOFS. What the registers of the M space hold and keep (R25, R200, R367, R389 to R391, R395), and MMLD and MMST. -/
namespace Sys2Proof.Machine

theorem AMap.getD_set {α : Type} (m : AMap α) (n k : Nat) (x d : α) :
    AMap.getD (AMap.set m n x) k d = if k = n then x else AMap.getD m k d := by
  rw [AMap.getD, AMap.get?_set]
  split <;> rfl

@[simp] theorem State.col_modCol (s : State) (m n : Nat) (f : Column → Column) :
    (s.modCol m f).col n = if n = m then f (s.col m) else s.col n := AMap.getD_set ..

@[simp] theorem State.core_modCore (s : State) (m n : Nat) (f : Core → Core) :
    (s.modCore m f).core n = if n = m then f (s.core m) else s.core n := AMap.getD_set ..

@[simp] theorem Core.slice_modSlice (c : Core) (i j : Nat) (f : Slice → Slice) :
    (c.modSlice i f).slice j = if j = i then f (c.slice i) else c.slice j := AMap.getD_set ..

/-! ## TEMP (Table 17-4) -/

theorem temp_degrees (c : Core) : c.temp.toNat % 2 ^ 16 = (BitVec.ofInt 16 c.deg).toNat := by
  have h : c.temp.setWidth 16 = BitVec.ofInt 16 c.deg := by
    unfold Core.temp
    cases c.clamp <;> cases c.hot <;> simp
  rw [← h, BitVec.toNat_setWidth]

theorem temp_clamp (c : Core) : c.temp.getLsbD 16 = c.clamp := by
  unfold Core.temp
  cases c.clamp <;> cases c.hot <;> simp

theorem temp_hot (c : Core) : c.temp.getLsbD 17 = c.hot := by
  unfold Core.temp
  cases c.clamp <;> cases c.hot <;> simp

/-! ## Ceilings (R390, R391) -/

/-- Tuning a core's slices leaves their ratios and ceilings. -/
theorem retune_slice (s : State) (core j : Nat) : ∃ g x, ((s.retune core).core core).slice j =
    { (s.core core).slice j with g := g, target := x } := by
  unfold State.retune
  rw [State.core_modCore, if_pos rfl]
  refine List.foldlRecOn (motive := fun c : Core => ∃ g x, c.slice j = { (s.core core).slice j with g := g, target := x }) _ _
    ⟨_, _, rfl⟩ fun c ⟨g, x, hc⟩ i _ => ?_
  rw [Core.slice_modSlice]
  split
  · next h =>
    subst h
    rw [hc]
    unfold Slice.tune
    split <;> exact ⟨_, _, rfl⟩
  · exact ⟨g, x, hc⟩

theorem sctlWrite_slice (s : State) (core i : Nat) (x : Word) : ∃ g y, ((s.sctlWrite core i x).core core).slice i =
    { (s.core core).slice i with
      g := g, target := y
      kcap := if 4 ≤ x.toNat / 2 ^ 8 % 32 ∧ x.toNat / 2 ^ 8 % 32 ≤ 16 then x.toNat / 2 ^ 8 % 32 else ((s.core core).slice i).kcap
      gcap := if 1 ≤ x.toNat % 16 ∧ x.toNat % 16 ≤ 8 then x.toNat % 16 else ((s.core core).slice i).gcap } := by
  have hk : (x.extractLsb' 8 5).toNat = x.toNat / 2 ^ 8 % 32 := by
    rw [BitVec.extractLsb'_toNat, Nat.shiftRight_eq_div_pow]
  have hg : (x.extractLsb' 0 4).toNat = x.toNat % 16 := by simp
  have hr (u : State) : u.refuse.core core = u.core core := rfl
  unfold State.sctlWrite
  dsimp only
  rw [hk, hg]
  obtain ⟨g, y, h⟩ := retune_slice (s.modCore core (fun c => c.modSlice i (fun y =>
    { y with kcap := if 4 ≤ x.toNat / 2 ^ 8 % 32 && x.toNat / 2 ^ 8 % 32 ≤ 16 then x.toNat / 2 ^ 8 % 32 else y.kcap,
             gcap := if 1 ≤ x.toNat % 16 && x.toNat % 16 ≤ 8 then x.toNat % 16 else y.gcap }))) core i
  rw [State.core_modCore, if_pos rfl, Core.slice_modSlice, if_pos rfl] at h
  simp only [Bool.and_eq_true, decide_eq_true_eq] at h ⊢
  refine ⟨g, y, ?_⟩
  split
  · exact h
  · exact (congrArg (fun c : Core => c.slice i) (hr _)).trans h

theorem sctlWrite_refused (s : State) (core i : Nat) (x : Word) :
    (s.sctlWrite core i x).k.refused = (s.k.refused || !(4 ≤ x.toNat / 2 ^ 8 % 32 && x.toNat / 2 ^ 8 % 32 ≤ 16 &&
      1 ≤ x.toNat % 16 && x.toNat % 16 ≤ 8)) := by
  have hk : (x.extractLsb' 8 5).toNat = x.toNat / 2 ^ 8 % 32 := by
    rw [BitVec.extractLsb'_toNat, Nat.shiftRight_eq_div_pow]
  have hg : (x.extractLsb' 0 4).toNat = x.toNat % 16 := by simp
  unfold State.sctlWrite
  dsimp only
  rw [hk, hg, Bool.and_assoc _ (decide (1 ≤ _))]
  split
  · next h => rw [h, Bool.not_true, Bool.or_false]; rfl
  · next h => rw [Bool.not_eq_true] at h; rw [h, Bool.not_false, Bool.or_true]; rfl

/-! ## Budgets (R25) -/

theorem le_sum_of_mem {l : List Nat} {x : Nat} (h : x ∈ l) : x ≤ l.sum := by
  induction l with
  | nil => cases h
  | cons y ys ih =>
    rw [List.sum_cons]
    rcases List.mem_cons.1 h with rfl | h
    · exact Nat.le_add_right ..
    · exact Nat.le_trans (ih h) (Nat.le_add_left ..)

theorem sum_range_replace (n : Nat) (f : Nat → Nat) (k b : Nat) :
    ((List.range n).map f).sum + (if k < n then b else 0) =
      ((List.range n).map (fun m => if m = k then b else f m)).sum + if k < n then f k else 0 := by
  induction n with
  | zero => rfl
  | succ n ih =>
    simp only [List.range_succ, List.map_append, List.map_cons, List.map_nil, List.sum_append_nat, List.sum_singleton]
    by_cases hk : n = k
    · subst hk
      rw [if_neg (Nat.lt_irrefl _), if_neg (Nat.lt_irrefl _)] at ih
      rw [if_pos rfl, if_pos (Nat.lt_succ_self _), if_pos (Nat.lt_succ_self _)]
      omega
    · rw [if_neg hk]
      split <;> split at ih <;> omega

theorem sum_upTo_replace (n : Nat) (f : Nat → Nat) (k b : Nat) (h : k < n) :
    ((upTo n).map f).sum - f k + b = ((upTo n).map (fun m => if m = k then b else f m)).sum := by
  have hs : ((upTo n).map f).sum + b = ((upTo n).map (fun m => if m = k then b else f m)).sum + f k := by
    have := sum_range_replace n f k b
    rwa [if_pos h, if_pos h] at this
  have hk : f k ≤ ((upTo n).map f).sum := le_sum_of_mem (List.mem_map_of_mem (List.mem_range.2 h))
  omega

theorem cbudWrite_refused {s : State} {n : Nat} {x : Word} (hn : n < 144)
    (h : x.toNat % 128 < 40 ∨ 80 < x.toNat % 128 ∨
      9792 < ((upTo 144).map (fun m => if m = n then x.toNat % 128 else (s.col m).setting)).sum) :
    s.cbudWrite n x = s.refuse := by
  have hb : (x.extractLsb' 0 7).toNat = x.toNat % 128 := by simp
  unfold State.cbudWrite State.budgetSum
  dsimp only
  rw [hb, sum_upTo_replace 144 _ n _ hn, if_neg]
  simp only [Bool.and_eq_true, decide_eq_true_eq]
  omega

theorem cbudWrite_takes {s : State} {n : Nat} {x : Word} (hn : n < 144) (h1 : 40 ≤ x.toNat % 128) (h2 : x.toNat % 128 ≤ 80)
    (h3 : ((upTo 144).map (fun m => if m = n then x.toNat % 128 else (s.col m).setting)).sum ≤ 9792) :
    s.cbudWrite n x = if s.cool.shutdown then s else s.modCol n (fun c => { c with pendBudget := some (x.toNat % 128) }) := by
  have hb : (x.extractLsb' 0 7).toNat = x.toNat % 128 := by simp
  unfold State.cbudWrite State.budgetSum
  dsimp only
  rw [hb, sum_upTo_replace 144 _ n _ hn, if_pos]
  simp only [Bool.and_eq_true, decide_eq_true_eq]
  exact ⟨⟨h1, h2⟩, h3⟩

/-! ## Thresholds (R367) -/

/-- Thresholds within 60 °C and 125 °C in ascending order. -/
def Thresholds (c h z : Nat) : Prop := 240 ≤ c ∧ c < h ∧ h < z ∧ z ≤ 500

theorem thresholds_eq (s : State) (c h z : Nat) : (Thresholds c h z → s.thresholds c h z =
    { s with k := { s.k with cool := c, hot := h, crit := z } }) ∧ (¬Thresholds c h z → s.thresholds c h z = s.refuse) := by
  have he : ([c, h, z].all (fun t => 240 ≤ t && t ≤ 500) && c < h && h < z) = true ↔ Thresholds c h z := by
    simp only [List.all_cons, List.all_nil, Bool.and_true, Bool.and_eq_true, decide_eq_true_eq, Thresholds]
    omega
  exact ⟨fun hk => if_pos (he.2 hk), fun hk => if_neg fun hx => hk (he.1 hx)⟩

end Sys2Proof.Machine
end

section
/-! PROOFS. MMLD and MMST (R389, R391). -/
namespace Sys2Proof.Machine

/-- Reading a register leaves every group. -/
theorem mread_grpOf (s : State) (r : MReg) (a : Agent) : (s.mread r).2.grpOf a = s.grpOf a := by
  cases r with
  | enlo i => cases a <;> rfl
  | _ => rfl

/-- The slot of a live group finds its group live. -/
theorem live_of_slot {s : State} {c : Ctx} (h : s.ctx? = some c) (hl : c.g.live = true) :
    ∃ g, s.grpOf c.ag = some g ∧ g.live = true := by
  obtain ⟨g, hg, -, hb⟩ := slot_group h
  unfold State.ctx? at h
  split at h
  · cases h
  · next g' hg' =>
    split at h
    · cases h
    · split at h
      · next hm =>
        cases h
        obtain rfl : g = g' := Option.some.inj (hg.symm.trans hg')
        refine ⟨g, hg, ?_⟩
        rw [Bool.and_eq_true] at hm
        have hm := hm.1
        cases hf : s.focus with
        | kennel =>
          rw [hf] at hl
          exact hl
        | port t gi b =>
          rw [hf] at hm
          simp only [State.mayIssue, Bool.and_eq_true] at hm
          exact hm.1.1.2
      · cases h

/-- Noting what an instruction has read leaves its group live. -/
theorem Group.Noted.live {g h : Group} (hn : g.Noted h) : h.live = g.live := by
  obtain ⟨_, _, _, _, _, _, _, rfl⟩ := hn
  rfl

theorem mregs_one {a : Nat} {x : MReg} (h : mreg a = some x) : mregs false a = some [x] := by
  simp only [mregs, Bool.false_eq_true, if_false, h, Option.map_some]

theorem mregs_two {a : Nat} {x y : MReg} (ha : a % 8 = 0) (h : mreg a = some x) (h' : mreg (a + 4) = some y) :
    mregs true a = some [x, y] := by
  simp only [mregs, if_true, ha, ne_eq, not_true_eq_false, if_false, h, h']

theorem maddr_begun (c0 c : Ctx) (s : State) (us : Ctx → List Use) (m : MAddr) : c.maddr (c0.begun c s us) m =
    ((c.rd s m.base.op 0).toNat + (c.rd s m.offs.op 0).toNat) % 2 ^ 32 := by
  have h (o : Opnd) : c.rdU (c0.begun c s us) o = c.rd s o 0 := rd_begun ..
  rw [Ctx.maddr, h, h, BitVec.toNat_add]

section
variable {c : Ctx} {s : State} {fs b64 : Bool} {m : MAddr}

/-- The registers an MMLD reads in turn, and what is left after. -/
def State.mreads (s : State) (rs : List MReg) : List Word × State :=
  rs.foldl (fun acc r => (acc.1 ++ [(acc.2.mread r).1], (acc.2.mread r).2)) ([], s)

theorem exec_mmld {d : BitVec 9} (h : c.IssuesLong c s .kennel (.must fs) .all
      (fun c => wrS c d (if b64 then 2 else 1) :: readsOf c [(m.base, 1), (m.offs, 1)])) {a : Nat}
    (ha : a = ((c.rd s m.base.op 0).toNat + (c.rd s m.offs.op 0).toNat) % 2 ^ 32) :
    let s' := c.begun c s (fun c => wrS c d (if b64 then 2 else 1) :: readsOf c [(m.base, 1), (m.offs, 1)])
    (∀ rs, mregs b64 a = some rs → exec (.mmld fs b64 d m) s = c.finish s
      (.done (c.mod (s'.mreads rs).2 (landAll (landWords none d.toNat (s'.mreads rs).1) 0)))) ∧
    (mregs b64 a = none → exec (.mmld fs b64 d m) s = .next ((s.kBusErr (BitVec.ofNat 64 a) false c.cl.here).tick 1)) := by
  intro s'
  have hx := @id (execMmld fs b64 d m s = _) (by
    unfold execMmld
    exact issueLong_body
      (sp := { core := .kennel, flag := .must fs,
               uses := fun c _ => wrS c d (if b64 then 2 else 1) :: readsOf c [(m.base, 1), (m.offs, 1)] }) h rfl rfl)
  dsimp only at hx
  rw [maddr_begun, ← ha] at hx
  refine ⟨fun rs hr => hx.trans ?_, fun hr => hx.trans ?_⟩
  · rw [hr]; rfl
  · rw [hr]; rfl

theorem exec_mmst {x : Src} (h : c.IssuesLong c s .kennel (.may fs) .all
      (fun c => readsOf c [(x, if b64 then 2 else 1), (m.base, 1), (m.offs, 1)])) {a : Nat}
    (ha : a = ((c.rd s m.base.op 0).toNat + (c.rd s m.offs.op 0).toNat) % 2 ^ 32) :
    let s' := c.begun c s (fun c => readsOf c [(x, if b64 then 2 else 1), (m.base, 1), (m.offs, 1)])
    (∀ y, b64 = false → mregs b64 a = some [y] → y ≠ .warmrst →
      exec (.mmst fs b64 x m) s = c.finish s (.done (s'.mwrite y (c.rd s x.op 0)))) ∧
    (∀ y z, b64 = true → mregs b64 a = some [y, z] → exec (.mmst fs b64 x m) s = c.finish s (.done
      ((s'.mwrite y ((c.rd64 s x.op 0).extractLsb' 0 32)).mwrite z ((c.rd64 s x.op 0).extractLsb' 32 32)))) ∧
    (mregs b64 a = none → exec (.mmst fs b64 x m) s = .next ((s.kBusErr (BitVec.ofNat 64 a) false c.cl.here).tick 1)) := by
  intro s'
  have hx := @id (execMmst fs b64 x m s = _) (by
    unfold execMmst
    exact issueLong_body
      (sp := { core := .kennel, flag := .may fs,
               uses := fun c _ => readsOf c [(x, if b64 then 2 else 1), (m.base, 1), (m.offs, 1)] }) h rfl rfl)
  dsimp only at hx
  have h1 : c.rdU s' x.op = c.rd s x.op 0 := rd_begun ..
  have h2 : c.rdU64 s' x.op = c.rd64 s x.op 0 := rd64_begun ..
  rw [maddr_begun, ← ha] at hx
  refine ⟨fun y hb hr hy => hx.trans ?_, fun y z hb hr => hx.trans ?_, fun hr => hx.trans ?_⟩
  · subst hb
    rw [hr]
    dsimp only
    rw [h1]
    refine congrArg _ (if_neg ?_)
    simp [hy]
  · subst hb
    rw [hr]
    dsimp only
    rw [h2]
    exact congrArg _ (if_neg (by simp))
  · rw [hr]; rfl

end

/-- Settles O51. -/
theorem mSpaceAccess : Obligations.MSpaceAccess := by
  unfold Obligations.MSpaceAccess
  refine ⟨?_, ?_, mreg_tables, mreg_singles, ?_⟩
  · intro fs b64 d m c s us s' a h hl
    obtain ⟨g, hg, hgl⟩ := live_of_slot h.base.slot hl
    obtain ⟨g', hg', hn⟩ := begun_noted (c0 := c) us hg
    obtain ⟨hx, he⟩ := exec_mmld h rfl
    have hland (u : State) (hu : u.grpOf c.ag = s'.grpOf c.ag) (ws : List Word) :
        c.mod u (landAll (landWords none d.toNat ws) 0) = c.mod u (fun g => ws.zipIdx.foldl (fun g w => g.setS (d.toNat + w.2) w.1) g) := by
      rw [Ctx.mod, Ctx.mod, landAll_words (by rw [Ctx.now, hu, hg', Option.getD_some, hn.live, hgl])]
    refine ⟨fun x hb hm => ?_, fun x y hb ha hm hm' => ?_, he⟩
    · subst hb
      exact runsTo_of_done ((hx _ (mregs_one hm)).trans
        (congrArg (fun u => c.finish s (.done u)) (hland _ (mread_grpOf ..) [(s'.mread x).1])))
    · subst hb
      exact runsTo_of_done ((hx _ (mregs_two ha hm hm')).trans (congrArg (fun u => c.finish s (.done u))
        (hland _ ((mread_grpOf ..).trans (mread_grpOf ..)) [(s'.mread x).1, ((s'.mread x).2.mread y).1])))
  · intro fs b64 x m c s us s' a h
    obtain ⟨h1, h2, he⟩ := exec_mmst h rfl
    exact ⟨fun y hb hm hy => runsTo_of_done (h1 y hb (hb ▸ mregs_one hm) hy),
      fun y z hb ha hm hm' => runsTo_of_done (h2 y z hb (hb ▸ mregs_two ha hm hm')), he⟩
  · intro s n x y v
    obtain ⟨sg, st, hs⟩ := sctlWrite_slice s (n / 6) (n % 6) x
    refine ⟨rfl, rfl, rfl, rfl, rfl, rfl, rfl, rfl, rfl, rfl, rfl, temp_degrees _, temp_clamp _, temp_hot _, fun h => ?_,
      fun h1 h2 => ?_, ?_⟩
    · refine if_neg ?_
      simp only [Bool.and_eq_true, decide_eq_true_eq]
      omega
    · rw [State.mwrite, State.cacheMinWrite, if_pos (by simp [h1, h2]), State.col_modCol, if_pos rfl]
    · intro refuses set sum
      refine ⟨fun hn h => cbudWrite_refused hn h, fun hn h1 h2 h3 => ⟨fun hd => ?_, fun hd => ?_⟩, ?_, ?_, ?_, ?_⟩
      · exact (cbudWrite_takes hn h1 h2 h3).trans (if_pos hd)
      · rw [show s.mwrite (.cbud n) x = _ from (cbudWrite_takes hn h1 h2 h3).trans (if_neg (by rw [hd]; exact Bool.false_ne_true))]
        simp only [State.col_modCol, if_true]
        exact ⟨trivial, trivial, fun m hm => if_neg hm⟩
      · exact ⟨(thresholds_eq ..).2, (thresholds_eq ..).2, (thresholds_eq ..).2, (thresholds_eq ..).1, (thresholds_eq ..).1,
          (thresholds_eq ..).1⟩
      · intro u z kc gc
        have hz : z = _ := hs
        rw [hz]
        exact ⟨fun h => if_pos h, fun h => if_neg h, fun h => if_pos h, fun h => if_neg h, rfl, sctlWrite_refused ..⟩
      · intro _ hn
        refine ⟨?_, fun m hm => ?_⟩
        · simp [State.mwrite, modifyAt, hn]
        · simp [State.mwrite, modifyAt, Ne.symm hm]
      · exact ⟨rfl, rfl, rfl, rfl, rfl, rfl⟩

end Sys2Proof.Machine
end

section
/-! PROOFS. A state that no run reaches but the statement on the events of a group speaks of: nine operations of one group that
have the same number, eight of them with an entry of the operand log. Putting back the ninth, whose fault is found, puts it in
the place of all of them, and no entry is left in use. -/
namespace Sys2Proof.Machine

/-- An operation with a fault still to be found. -/
def twinOp (entry : Option Nat) : Op :=
  { id := 5, flag := none, capFlag := none, addr := 0, word := 0, lanes := 1, act := .land [], dstV := [], dstS := [], acq := false,
    landed := false, entry := entry, faulted := 1, vals := OpVals.empty, covered := [], gone := 0, spots := [],
    recs := [(0, 1, .notPresent)], code := 0, early := [], earlyBad := false, turn := 0, portB := false }

/-- A group with nine of them. -/
def twinGroup : Group :=
  { Group.init 0 0 64 256 384 0 0 with ops := twinOp none :: (upTo 8).map (fun e => twinOp (some e)) }

def twinTeam : Team := { Team.make 0 0 0 0 [] 0 with groups := [twinGroup] }

def twinState : State := { State.reset with teams := [(0, twinTeam)] }

/-- Refutes O52: the group does not stall, for the operation that is put back takes every entry with it. -/
theorem not_groupEvents : ¬ Obligations.GroupEvents := by
  unfold Obligations.GroupEvents
  intro h
  obtain ⟨-, hland, -⟩ := h
  obtain ⟨-, -, -, -, -, -, -, -, hstall⟩ := hland twinState 0 0 5 twinTeam twinGroup (twinOp none) rfl rfl rfl
  obtain ⟨-, g, hg, hs⟩ := hstall (by decide) (by decide)
  have hn : ((twinState.findFault 0 0 5).group? 0 0).map Group.stalled = some false := by decide
  rw [hg, Option.map_some, hs] at hn
  cases hn

end Sys2Proof.Machine
end

section
/-! PROOFS. The events of the matrix engine: what a capture reads of the scratchpad word by word, and the end of an MMA. -/
namespace Sys2Proof.Machine

/-! ## A capture read word by word -/

theorem leNat_lt (l : List Byte) : leNat l < 256 ^ l.length := by
  induction l with
  | nil => simp [leNat]
  | cons b r ih =>
    have hb := b.isLt
    simp only [leNat, List.length_cons, Nat.pow_succ]
    omega

theorem leBytes_leNat (l : List Byte) : leBytes l.length (leNat l) = l := by
  induction l with
  | nil => rfl
  | cons b r ih =>
    have hb := b.isLt
    rw [List.length_cons, leBytes, leNat, show (b.toNat + 256 * leNat r) / 256 = leNat r by omega, ih]
    exact congrArg (· :: r) (BitVec.eq_of_toNat_eq (by simp; omega))

/-- The bytes of a word put away as a number. -/
theorem Memory.leBytes_readLE (m : Memory) (a : Nat) :
    leBytes 4 (BitVec.ofNat 32 (Memory.readLE m a 4)).toNat = Memory.readN m a 4 := by
  have h := leBytes_leNat (Memory.readN m a 4)
  have hl := leNat_lt (Memory.readN m a 4)
  rw [Memory.readN_length] at h hl
  rw [BitVec.toNat_ofNat, Memory.readLE, Nat.mod_eq_of_lt (by omega), h]

/-- Words written one over the other, the first of a list last. -/
theorem read_words (l : AMap Word) {w j : Nat} {v : Word} (hw : AMap.get? l w = some v) (hj : j < 4) :
    Memory.read (l.foldr (fun p m => Memory.writeN m (4 * p.1) (leBytes 4 p.2.toNat)) []) (4 * w + j) =
      (leBytes 4 v.toNat).getD j 0 := by
  induction l with
  | nil => simp [AMap.get?] at hw
  | cons p r ih =>
    obtain ⟨k, x⟩ := p
    rw [List.foldr_cons]
    by_cases hk : k = w
    · subst hk
      obtain rfl : x = v := by simpa [AMap.get?] using hw
      exact Memory.read_writeN _ _ _ _ (by rw [leBytes_length]; exact hj)
    · rw [Memory.read_writeN_ne _ _ _ _ (by rw [leBytes_length]; dsimp only; omega)]
      exact ih (by simpa [AMap.get?, hk] using hw)

/-- A byte of a word that was read as it stood. -/
theorem Op.asRead_read {o : Op} {m : Memory} {a : Nat}
    (h : AMap.get? o.early (a / 4) = some (BitVec.ofNat 32 (Memory.readLE m (4 * (a / 4)) 4))) :
    Memory.read o.asRead a = Memory.read m a := by
  have ha : 4 * (a / 4) + a % 4 = a := by omega
  have hj : a % 4 < 4 := by omega
  have hr := read_words o.early h hj
  rw [Memory.leBytes_readLE, Memory.readN_getD _ _ _ _ hj, ha] at hr
  exact hr

/-- The words that a piece lies in are among those of its operand. -/
theorem operandWords_mem {ta tb : Tile} {fa fb : Fmt} {koff a : Nat} {p : Nat × Nat}
    (hp : p ∈ operandPieces ta fa koff ++ operandPieces tb fb koff) (h1 : p.1 ≤ a) (h2 : a < p.1 + p.2) :
    a / 4 ∈ operandWords ta tb fa fb koff := by
  refine List.mem_flatMap.mpr ⟨p, hp, List.mem_map.mpr ⟨a / 4 - p.1 / 4, List.mem_range.mpr ?_, ?_⟩⟩ <;> omega

theorem Memory.readN_congr {m m' : Memory} {a n : Nat} (h : ∀ k, k < n → Memory.read m (a + k) = Memory.read m' (a + k)) :
    Memory.readN m a n = Memory.readN m' a n := by
  induction n generalizing a with
  | zero => rfl
  | succ n ih =>
    rw [Memory.readN, Memory.readN, ih fun k hk => ?_]
    · exact congrArg (· :: _) (h 0 (by omega))
    · rw [Nat.add_assoc, Nat.add_comm 1]
      exact h (k + 1) (by omega)

/-- Two memories that agree on an operand's pieces give the same codes. -/
theorem readOperand_congr {m m' : Memory} {t : Tile} {f : Fmt} {koff : Nat}
    (h : ∀ p ∈ operandPieces t f koff, ∀ k, k < p.2 → Memory.read m (p.1 + k) = Memory.read m' (p.1 + k)) :
    readOperand m t f koff = readOperand m' t f koff := by
  have hone : ∀ x ∈ upTo (tExt t), (upTo 32).map (fun k =>
      let o := elemOff t f koff x k
      elemCode t f x k (Memory.readLE m o.1 o.2)) = (upTo 32).map (fun k =>
      let o := elemOff t f koff x k
      elemCode t f x k (Memory.readLE m' o.1 o.2)) := by
    intro x hx
    refine List.map_congr_left fun k hk => ?_
    have hp : elemOff t f koff x k ∈ operandPieces t f koff :=
      List.mem_append_left _ (List.mem_flatMap.mpr ⟨x, hx, List.mem_map.mpr ⟨k, hk, rfl⟩⟩)
    exact congrArg (elemCode t f x k) (congrArg leNat (Memory.readN_congr (h _ hp)))
  unfold readOperand
  rw [List.flatMap, List.flatMap, List.map_congr_left hone]

/-- And the same scales. -/
theorem readScales_congr {m m' : Memory} {t : Tile} {f : Fmt} {koff : Nat}
    (h : ∀ p ∈ operandPieces t f koff, ∀ k, k < p.2 → Memory.read m (p.1 + k) = Memory.read m' (p.1 + k)) :
    readScales m t f koff = readScales m' t f koff := by
  unfold readScales
  split
  case isFalse => rfl
  case isTrue hf =>
    refine List.map_congr_left fun x hx => ?_
    refine h (tScBase t + 64 * koff + x, 1) (List.mem_append_right _ ?_) 0 (by omega)
    rw [if_pos hf]
    exact List.mem_map.mpr ⟨x, hx, rfl⟩

/-- What was read word by word of a scratchpad that stood is what a capture at once reads. -/
theorem captureOf_asRead {o : Op} {m : Memory} {ta tb : Tile} {fa fb : Fmt} {koff : Nat} {bad : Bool}
    (h : ∀ w ∈ operandWords ta tb fa fb koff,
      AMap.get? o.early w = some (BitVec.ofNat 32 (Memory.readLE m (4 * w) 4))) :
    captureOf o.asRead ta tb fa fb koff bad = captureOf m ta tb fa fb koff bad := by
  have hr : ∀ p ∈ operandPieces ta fa koff ++ operandPieces tb fb koff, ∀ k, k < p.2 →
      Memory.read o.asRead (p.1 + k) = Memory.read m (p.1 + k) := fun p hp k hk =>
    Op.asRead_read (h _ (operandWords_mem hp (by omega) (by omega)))
  have ha := fun p hp => hr p (List.mem_append_left _ hp)
  have hb := fun p hp => hr p (List.mem_append_right _ hp)
  unfold captureOf
  rw [readOperand_congr ha, readOperand_congr hb, readScales_congr ha, readScales_congr hb]

/-! ## The events of the engine -/

section
variable {s : State} {t gi id : Nat} {tm : Team} {g : Group} {o : Op}

theorem State.op_at (hs : s.team? t = some tm) (hg : tm.group? gi = some g) (ho : g.op? id = some o) :
    (s.group? t gi).bind (fun g => g.ops.find? (fun o => o.id = id)) = some o := by
  rw [State.group?, hs, Option.bind_some, hg, Option.bind_some]
  exact ho

/-- What a capture does that may go on. -/
theorem State.capture_eq {rows : List Nat} {acc koff : Nat} {ta tb : Tile} {st : Option (Nat × Word)} {za u c : Bool}
    {fa fb : Fmt} (hs : s.team? t = some tm) (hg : tm.group? gi = some g) (ho : g.op? id = some o)
    (ha : o.act = .engine rows (.mma acc ta tb st za koff none u c)) (hf : mmaFmts ta tb = some (fa, fb))
    (ht : s.captureTurn tm.core (t, gi, id) = true) (hc : s.captured tm.core < 4) (ws : Option (List Nat)) :
    s.capture t gi id ws =
      (let left := (operandWords ta tb fa fb koff).filter (fun w => !AMap.has o.early w)
       let o1 := o.reads tm (left.filter (fun w => (ws.map (·.contains w)).getD true))
       s.modGroup t gi (fun g => g.setOp (if ws.isSome then o1
         else { o with capFlag := none, early := [], earlyBad := false,
                       act := .engine rows (.mma acc ta tb st za koff
                         (some (captureOf o1.asRead ta tb fa fb koff o1.earlyBad)) u c) }))) := by
  unfold State.capture
  rw [hs, State.op_at hs hg ho]
  simp only [ha, hf, ht, Nat.not_le.mpr hc]
  simp

/-- A capture reads the words asked for as the scratchpad stands. -/
theorem Op.reads_asked (tm : Team) (o : Op) (left ws : List Nat) :
    (∀ w, AMap.get? (o.reads tm (left.filter fun w => ws.contains w)).early w =
      if w ∈ left ∧ w ∈ ws then some (BitVec.ofNat 32 (Memory.readLE tm.scratch (4 * w) 4)) else AMap.get? o.early w) ∧
    ((o.reads tm (left.filter fun w => ws.contains w)).earlyBad = true ↔
      o.earlyBad = true ∨ ∃ w ∈ left, w ∈ ws ∧ tm.spadBad (4 * w) 4 = true) := by
  constructor
  · intro w
    rw [Op.reads_early]
    simp
  · rw [Op.reads_bad]
    simp [and_assoc]

end

end Sys2Proof.Machine
end

section
/-! PROOFS. The events of the Retriever, and the statement on those of both engines. -/
namespace Sys2Proof.Machine

section
variable {s : State} {t gi id : Nat} {tm : Team} {g : Group} {o : Op}

/-! ## The matrix engine -/

theorem mma_capture {rows : List Nat} {acc koff : Nat} {ta tb : Tile} {st : Option (Nat × Word)} {za u c : Bool}
    {fa fb : Fmt} (hs : s.team? t = some tm) (hg : tm.group? gi = some g) (ho : g.op? id = some o)
    (ha : o.act = .engine rows (.mma acc ta tb st za koff none u c)) (hf : mmaFmts ta tb = some (fa, fb))
    (ht : s.captureTurn tm.core (t, gi, id) = true) (hc : s.captured tm.core < 4) :
    let left := (operandWords ta tb fa fb koff).filter (fun w => !AMap.has o.early w)
    (∀ ws, ∃ o1 : Op, s.capture t gi id (some ws) = s.modGroup t gi (fun g => g.setOp
        { o with early := o1.early, earlyBad := o1.earlyBad }) ∧
      (∀ w, AMap.get? o1.early w =
        if w ∈ left ∧ w ∈ ws then some (BitVec.ofNat 32 (Memory.readLE tm.scratch (4 * w) 4)) else AMap.get? o.early w) ∧
      (o1.earlyBad = true ↔ o.earlyBad = true ∨ ∃ w ∈ left, w ∈ ws ∧ tm.spadBad (4 * w) 4 = true)) ∧
    ∃ o1 : Op, exec (.mmaCapture t gi id) s = .next (s.modGroup t gi (fun g => g.setOp { o with
        capFlag := none, early := [], earlyBad := false,
        act := .engine rows (.mma acc ta tb st za koff (some (captureOf o1.asRead ta tb fa fb koff o1.earlyBad)) u c) })) ∧
      (∀ w, AMap.get? o1.early w =
        if w ∈ left then some (BitVec.ofNat 32 (Memory.readLE tm.scratch (4 * w) 4)) else AMap.get? o.early w) ∧
      (o1.earlyBad = true ↔ o.earlyBad = true ∨ ∃ w ∈ left, tm.spadBad (4 * w) 4 = true) := by
  intro left
  have hcap := State.capture_eq hs hg ho ha hf ht hc
  refine ⟨fun ws => ⟨o.reads tm (left.filter fun w => ws.contains w), ?_, Op.reads_asked tm o left ws⟩, o.reads tm left, ?_, ?_,
    Op.reads_bad tm left o⟩
  · exact (hcap (some ws)).trans (congrArg (s.modGroup t gi) (funext fun g => congrArg g.setOp (if_pos rfl)))
  · have hn := hcap none
    rw [show (fun w : Nat => ((none : Option (List Nat)).map (·.contains w)).getD true) = fun _ => true from rfl] at hn
    dsimp only at hn
    rw [filter_const_true] at hn
    exact congrArg Host.Outcome.next (hn.trans (congrArg (s.modGroup t gi) (funext fun g => congrArg g.setOp
      (if_neg Bool.false_ne_true))))
  · exact Op.reads_early tm left o

theorem mma_complete {rows : List Nat} {acc koff : Nat} {ta tb : Tile} {st : Option (Nat × Word)} {za u c : Bool}
    {cap : Option Capture} {fa fb : Fmt} (hs : s.team? t = some tm) (hg : tm.group? gi = some g) (ho : g.op? id = some o)
    (ha : o.act = .engine rows (.mma acc ta tb st za koff cap u c))
    (ht : s.tileTurn tm.core (t, gi, id) (.mma acc ta tb st za koff cap u c) = true) :
    (mmaFmts ta tb = none → exec (.mmaComplete t gi id) s = .next
      (((s.modTeam t (fun x => x.orStat stBadtile)).putStatus t acc st stBadtile).endEngine tm.core t gi id)) ∧
    (∀ k, mmaFmts ta tb = some (fa, fb) → cap = some k → u = false → k.bad = false →
      let r := tm.mmaRows acc za fa fb k rows
      let out := bitIf k.ternBad stTernbad ||| bitIf r.2 stSaturated ||| bitIf false stUce ||| bitIf c stCorrected
      exec (.mmaComplete t gi id) s = .next
        (((((s.setTeam t r.1).modTeam t (fun x => x.orStat out)).putStatus t acc st out).modCore tm.core (fun k =>
          { k with mmas := (k.mmas + 1) % 2 ^ 64 })).endEngine tm.core t gi id)) := by
  constructor
  · intro hf
    show execMmaComplete t gi id s = _
    unfold execMmaComplete
    rw [hs, State.op_at hs hg ho]
    simp only [ha, ht, hf]
    simp
  · intro k hf hk hu hb
    subst hk hu
    show execMmaComplete t gi id s = _
    unfold execMmaComplete
    rw [hs, State.op_at hs hg ho]
    simp only [ha, ht, hf, hb]
    simp

/-! ## The Retriever -/

variable {c : Cmd}

theorem State.cmd_at (hs : s.team? t = some tm) (hc : tm.cmd? id = some c) : (s.team? t).bind (·.cmd? id) = some c := by
  rw [hs]
  exact hc

theorem Cmd.latch_listed (c : Cmd) (s : State) : (c.latch s).listed = c.listed := by
  unfold Cmd.latch
  split <;> rfl

theorem Cmd.latch_st (c : Cmd) (s : State) : (c.latch s).st = c.st := by
  unfold Cmd.latch
  split <;> rfl

theorem retriever_query (hs : s.team? t = some tm) (hc : tm.cmd? id = some c) (hq : c.st = .query)
    (ht : s.cmdTurn t tm c = true) : exec (.retrieverSegment t id) s = .next ((s.query t tm c).noteServed tm c) := by
  show execRetrieverSegment t id s = _
  unfold execRetrieverSegment
  rw [State.cmd_at hs hc, hs]
  simp [hq, ht]

/-- A command in its turn has its next segment served. -/
theorem retriever_segment {x : Segment} {r : List Segment} (hs : s.team? t = some tm) (hc : tm.cmd? id = some c)
    (hq : c.st ≠ .query) (ht : s.cmdTurn t tm c = true) (htodo : c.todo = x :: r) (hl : c.listed.length < 16) :
    exec (.retrieverSegment t id) s = .next ((s.serveSegment t tm { c.latch s with todo := r } x).noteServed tm c) := by
  show execRetrieverSegment t id s = _
  unfold execRetrieverSegment
  rw [State.cmd_at hs hc, hs]
  simp only [htodo, ht, hl]
  simp [hq]

theorem serveSegment_moves {c1 : Cmd} {x : Segment} {s1 : State} (hw : c1.windowBad x = false)
    (hf : s.segFault tm x = (none, s1)) : ∃ s2 c2, s1.doSegment t tm c1 x = (s2, c2) ∧
      s.serveSegment t tm c1 x = (s2.chargeSeg tm c1 x).putCmd t (c2.after x) := by
  refine ⟨_, _, rfl, ?_⟩
  unfold State.serveSegment
  rw [hw, hf]
  rfl

theorem serveSegment_faults {c1 : Cmd} {x : Segment} {f : SegFault} {s1 : State} (hw : c1.windowBad x = false)
    (hf : s.segFault tm x = (some f, s1)) : s.serveSegment t tm c1 x =
      (s1.cmdFault t tm c1 f).putCmd t { c1 with listed := c1.listed ++ [⟨x, f.va, s1.sched.nextTok, false⟩] } := by
  unfold State.serveSegment
  rw [hw, hf]
  rfl

/-- What the event of a segment does with the command whose turn it is. -/
theorem retriever_serves {x : Segment} {r : List Segment} (hs : s.team? t = some tm) (hc : tm.cmd? id = some c)
    (hq : c.st ≠ .query) (ht : s.cmdTurn t tm c = true) (htodo : c.todo = x :: r) (hl : c.listed.length < 16) :
    let c1 : Cmd := { c.latch s with todo := r }
    (c1.windowBad x = true → c.st = .header →
      exec (.retrieverSegment t id) s = .next ((s.putCmd t { c1 with fail := .window }).noteServed tm c)) ∧
    (c1.windowBad x = true → c.st ≠ .header →
      exec (.retrieverSegment t id) s = .next ((s.failSegment t tm c1 0 .window x).noteServed tm c)) ∧
    (∀ s1, c1.windowBad x = false → s.segFault tm x = (none, s1) → ∃ s2 c2, s1.doSegment t tm c1 x = (s2, c2) ∧
      exec (.retrieverSegment t id) s = .next (((s2.chargeSeg tm c1 x).putCmd t (c2.after x)).noteServed tm c)) ∧
    (∀ f s1, c1.windowBad x = false → s.segFault tm x = (some f, s1) → exec (.retrieverSegment t id) s = .next
      (((s1.cmdFault t tm c1 f).putCmd t
        { c1 with listed := c.listed ++ [⟨x, f.va, s1.sched.nextTok, false⟩] }).noteServed tm c)) := by
  intro c1
  have hst : c1.st = c.st := Cmd.latch_st c s
  have he := retriever_segment hs hc hq ht htodo hl
  refine ⟨fun hw hh => ?_, fun hw hh => ?_, fun s1 hw hf => ?_, fun f s1 hw hf => ?_⟩
  · rw [he, State.serveSegment, if_pos hw, if_pos (by rw [beq_iff_eq]; exact hst.trans hh)]
  · rw [he, State.serveSegment, if_pos hw, if_neg (by rw [beq_iff_eq]; exact fun h => hh (hst.symm.trans h))]
  · obtain ⟨s2, c2, hd, hm⟩ := serveSegment_moves (t := t) hw hf
    exact ⟨s2, c2, hd, by rw [he, hm]⟩
  · rw [he, serveSegment_faults hw hf, show c1.listed = c.listed from Cmd.latch_listed c s]

/-! ## The signal -/

theorem signal_none (hs : s.team? t = some tm) (hc : tm.cmd? id = some c) (hr : s.cmdRuns t tm c = true)
    (hst : c.st = .signal) (ha : c.sigAddr = none) : exec (.commandSignal t id) s = .next (s.endCmd t c) := by
  show execCommandSignal t id s = _
  unfold execCommandSignal
  rw [State.cmd_at hs hc, hs]
  simp [hst, hr, ha]

/-- A signal word that can be written ends its command. -/
theorem signal_written {a : DWord} {s1 : State} (hs : s.team? t = some tm) (hc : tm.cmd? id = some c)
    (hr : s.cmdRuns t tm c = true) (hst : c.st = .signal) (ha : c.sigAddr = some a)
    (hw : s.writeSignal t tm c a = (.ok (), s1)) : exec (.commandSignal t id) s = .next (s1.endCmd t c) := by
  show execCommandSignal t id s = _
  unfold execCommandSignal
  rw [State.cmd_at hs hc, hs]
  simp [hst, hr, ha, hw]

theorem signal_faults {a : DWord} {f : SegFault} {s1 : State} (hs : s.team? t = some tm) (hc : tm.cmd? id = some c)
    (hr : s.cmdRuns t tm c = true) (hst : c.st = .signal) (ha : c.sigAddr = some a)
    (hw : s.writeSignal t tm c a = (.error f, s1)) :
    exec (.commandSignal t id) s = .next ((s1.cmdFault t tm c f).modTeam t (fun x =>
      x.putCmd { c with st := .sigFault s1.sched.nextTok false })) := by
  show execCommandSignal t id s = _
  unfold execCommandSignal
  rw [State.cmd_at hs hc, hs]
  simp [hst, hr, ha, hw]

/-- The signal word of a command of the scratchpad is written at once. -/
theorem writeSignal_scratch {a : DWord} (hsp : c.sigSp = false) : s.writeSignal t tm c a = (.ok (),
    s.modTeam t (fun x => x.spadWrite (a.toNat / 4 * 4)
      (leBytes 4 (if c.fail ≠ .none ∨ c.nfail ≠ 0 then c.sigVal ||| 0x80000000 else c.sigVal).toNat))) := by
  have hf : c.sigWord = if c.fail ≠ .none ∨ c.nfail ≠ 0 then c.sigVal ||| 0x80000000 else c.sigVal := by
    simp [Cmd.sigWord, Cmd.failed]
  simp [State.writeSignal, hsp, hf]

theorem signal_again {k : Word} {a : DWord} (hs : s.team? t = some tm) (hc : tm.cmd? id = some c)
    (hr : s.cmdRuns t tm c = true) (hst : c.st = .sigFault k true) (ha : c.sigAddr = some a) :
    (∀ s1, s.writeSignal t tm c a = (.ok (), s1) → exec (.segmentReplay t id) s = .next (s1.endCmd t c)) ∧
    (∀ f s1, s.writeSignal t tm c a = (.error f, s1) →
      exec (.segmentReplay t id) s = .next (s1.endCmd t (c.noteSignal f.va (PageFault.fail f.kind)))) := by
  have he : execSegmentReplay t id s = (match s.writeSignal t tm c a with
      | (.ok _, s1) => .next (s1.endCmd t c)
      | (.error f, s1) => .next (s1.endCmd t (c.noteSignal f.va (PageFault.fail f.kind)))) := by
    unfold execSegmentReplay
    rw [State.cmd_at hs hc, hs]
    simp [hst, hr, ha] <;> rfl
  constructor
  · intro s1 hw
    rw [hw] at he
    exact he
  · intro f s1 hw
    rw [hw] at he
    exact he

/-! ## Listed segments -/

/-- A listed segment that has been answered is tried again in its command's turn. -/
theorem segment_replayed {x : Listed} (hs : s.team? t = some tm) (hc : tm.cmd? id = some c) (hr : s.cmdRuns t tm c = true)
    (hst : ∀ k a, c.st ≠ .sigFault k a) (hd : c.todo = [] ∨ c.draining = true) (ht : s.cmdTurn t tm c = true)
    (hn : c.nextReplay = some x) : exec (.segmentReplay t id) s =
      .next ((s.replaySegment t tm { c with listed := c.listed.erase x } x.seg).noteServed tm c) := by
  have hb : ((!c.todo.isEmpty && !c.draining) || !s.cmdTurn t tm c) = false := by
    rw [ht]
    rcases hd with h | h <;> simp [h]
  show execSegmentReplay t id s = _
  unfold execSegmentReplay
  rw [State.cmd_at hs hc, hs]
  simp only [hr, hb, hn]
  cases hq : c.st
  case sigFault k a => exact absurd hq (hst k a)
  all_goals simp

theorem replaySegment_moves {c1 : Cmd} {x : Segment} {s1 : State} (hf : s.segFault tm x = (none, s1)) :
    ∃ s2 c2, s1.doSegment t tm c1 x = (s2, c2) ∧
      s.replaySegment t tm c1 x = (s2.chargeSeg tm c1 x).putCmd t (c2.after x) := by
  refine ⟨_, _, rfl, ?_⟩
  unfold State.replaySegment
  rw [hf]
  rfl

theorem replaySegment_faults {c1 : Cmd} {x : Segment} {f : SegFault} {s1 : State} (hf : s.segFault tm x = (some f, s1)) :
    s.replaySegment t tm c1 x = s1.failSegment t tm c1 f.va (PageFault.fail f.kind) x := by
  unfold State.replaySegment
  rw [hf]

/-! ## Collectives -/

section
variable {op : CollOp} {ty : CollTy} {parts : List PeerPart} {n rank i ol : Nat}

/-- The part that participant `k` has sent. -/
def partOf (parts : List PeerPart) (k : Nat) : Option PeerPart := parts.find? (fun p => p.rank = k)

/-- What the end of a collective comes to, in time and in its turn. -/
theorem collComplete_eq (hs : s.team? t = some tm) (hc : tm.cmd? id = some c) (hk : c.kind = .coll op ty)
    (hst : c.st = .collWait) (hl : s.clk < c.began + 4000 * s.k.ctimeout.toNat) (hv : s.cmdServed t tm c = true)
    (hg : s.collGroup (c.w 5) = (n, rank)) (hz : CollOp.sizes op n (c.w 4) = (i, ol)) :
    exec (.collComplete t id parts) s =
      (if ((upTo n).filter (fun k => k ≠ rank)).any (fun k =>
          match partOf parts k with
          | some p => !(p.op = op && p.ty = ty && p.len = c.w 4)
          | none => false) then .next (s.putCmd t { c with st := .signal, fail := .mismatch })
      else if !((upTo n).filter (fun k => k ≠ rank)).all (fun k =>
          match partOf parts k with
          | some p => p.data.length = i
          | none => false) then .next s
      else .next ((s.charge 7 0 i).putCmd t { c with
          st := .collOut,
          buf := Memory.writeN [] 0 (collResult op ty rank (c.w 4) ((upTo n).map (fun k =>
            if k = rank then Memory.readN c.buf 0 i else ((partOf parts k).map PeerPart.data).getD []))),
          bufBad := collBad op ty rank (c.w 4) ((upTo n).map (fun k =>
            if k = rank then c.bufBad else ((partOf parts k).map PeerPart.bad).getD [])),
          todo := segments [⟨.buf 0, .glob (c.pair 2), ol, ol⟩] })) := by
  have hb : (c.st ≠ .collWait || s.collLate c || !s.cmdServed t tm c) = false := by
    rw [hv, State.collLate]
    simp [hst, hl]
  show execCollComplete t id parts s = _
  unfold execCollComplete
  rw [State.cmd_at hs hc, hs]
  simp only [hk, hg, hz, hb]
  rfl

theorem coll_completes (hs : s.team? t = some tm) (hc : tm.cmd? id = some c) (hk : c.kind = .coll op ty)
    (hst : c.st = .collWait) (hl : s.clk < c.began + 4000 * s.k.ctimeout.toNat) (hv : s.cmdServed t tm c = true)
    (hg : s.collGroup (c.w 5) = (n, rank)) (hz : CollOp.sizes op n (c.w 4) = (i, ol))
    (hp : ∀ k, k < n → k ≠ rank → ∃ p, partOf parts k = some p ∧ p.op = op ∧ p.ty = ty ∧ p.len = c.w 4 ∧
      p.data.length = i) :
    exec (.collComplete t id parts) s = .next ((s.charge 7 0 i).putCmd t { c with
      st := .collOut,
      buf := Memory.writeN [] 0 (collResult op ty rank (c.w 4) ((upTo n).map (fun k =>
        if k = rank then Memory.readN c.buf 0 i else ((partOf parts k).map PeerPart.data).getD []))),
      bufBad := collBad op ty rank (c.w 4) ((upTo n).map (fun k =>
        if k = rank then c.bufBad else ((partOf parts k).map PeerPart.bad).getD [])),
      todo := segments [⟨.buf 0, .glob (c.pair 2), ol, ol⟩] }) := by
  rw [collComplete_eq hs hc hk hst hl hv hg hz, if_neg, if_neg]
  · rw [Bool.not_eq_true, Bool.not_eq_false', List.all_eq_true]
    intro k hm
    rw [List.mem_filter, decide_eq_true_eq, upTo, List.mem_range] at hm
    obtain ⟨p, hf, -, -, -, hlen⟩ := hp k hm.1 hm.2
    simp [hf, hlen]
  · rw [Bool.not_eq_true, List.any_eq_false]
    intro k hm
    rw [List.mem_filter, decide_eq_true_eq, upTo, List.mem_range] at hm
    obtain ⟨p, hf, hop, hty, hlen, -⟩ := hp k hm.1 hm.2
    simp [hf, hop, hty, hlen]

theorem coll_mismatch {k : Nat} {p : PeerPart} (hs : s.team? t = some tm) (hc : tm.cmd? id = some c)
    (hk : c.kind = .coll op ty) (hst : c.st = .collWait) (hl : s.clk < c.began + 4000 * s.k.ctimeout.toNat)
    (hv : s.cmdServed t tm c = true) (hg : s.collGroup (c.w 5) = (n, rank))
    (hz : CollOp.sizes op n (c.w 4) = (i, ol)) (hkn : k < n) (hr : k ≠ rank) (hp : partOf parts k = some p)
    (hd : p.op ≠ op ∨ p.ty ≠ ty ∨ p.len ≠ c.w 4) :
    exec (.collComplete t id parts) s = .next (s.putCmd t { c with st := .signal, fail := .mismatch }) := by
  rw [collComplete_eq hs hc hk hst hl hv hg hz, if_pos]
  refine List.any_eq_true.mpr ⟨k, List.mem_filter.mpr ⟨List.mem_range.mpr hkn, decide_eq_true hr⟩, ?_⟩
  rw [hp]
  by_cases h1 : p.op = op <;> by_cases h2 : p.ty = ty <;> simp_all

end

theorem coll_timeout (hs : s.team? t = some tm) (hc : tm.cmd? id = some c) (hst : c.st = .collWait)
    (hl : c.began + 4000 * s.k.ctimeout.toNat ≤ s.clk) : exec (.collTimeout t id) s = .next
      ((s.spoilOut t tm c (c.outLen s)).putCmd t { c with st := .signal, fail := .timeout }) := by
  show execCollTimeout t id s = _
  unfold execCollTimeout
  rw [State.cmd_at hs hc, hs]
  simp [hst, State.collLate, hl]

end

/-- Settles O53: each event by the lemma of its case; a capture word by word reads what one at once would. -/
theorem engineAndCommandEvents : Obligations.EngineAndCommandEvents := by
  unfold Obligations.EngineAndCommandEvents
  constructor
  · intro s t gi id acc koff tm g o rows ta tb fa fb st za u c hs hg ho
    refine ⟨fun ha hf ht hc => mma_capture hs hg ho ha hf ht hc, fun _ o1 he => ?_,
      fun cap ha ht => mma_complete hs hg ho ha ht⟩
    exact captureOf_asRead fun w hw => by rw [he, if_pos hw]
  · intro s t id tm c hs hc hr
    refine ⟨retriever_query hs hc, fun x r hq ht htodo hl => retriever_serves hs hc hq ht htodo hl,
      signal_none hs hc hr, fun a hst ha hsp => signal_written hs hc hr hst ha (writeSignal_scratch hsp),
      fun a s1 hst ha _ hw => signal_written hs hc hr hst ha hw,
      fun a f s1 hst ha hw => signal_faults hs hc hr hst ha hw,
      fun k a hst ha => signal_again hs hc hr hst ha, ?_, ?_, coll_timeout hs hc⟩
    · intro x s1 hst hd ht hn
      have he := segment_replayed hs hc hr hst hd ht hn
      constructor
      · intro hf
        obtain ⟨s2, c2, hm, hp⟩ := replaySegment_moves (t := t) (c1 := { c with listed := c.listed.erase x }) hf
        exact ⟨s2, c2, hm, by rw [he, hp]⟩
      · intro f hf
        rw [he, replaySegment_faults hf]
    · intro op ty parts n rank i ol hk hst hl hv hg hz
      exact ⟨coll_completes hs hc hk hst hl hv hg hz,
        fun k p hkn hkr hp hd => coll_mismatch hs hc hk hst hl hv hg hz hkn hkr hp hd⟩

end Sys2Proof.Machine
end

section
/-! PROOFS. A state that no run reaches but the statement on phases speaks of: the list of teams names number 0 twice, and the
second entry waits for the exclusive token that the first holds. The first commits and gives the token up, and it goes to the
waiting entry of the same number. -/
namespace Sys2Proof.Machine

/-- A group of one lane, which is parked at its PHASE. -/
def phaseGroup : Group :=
  { Group.init 0 0 1 256 384 0 0 with lanes := [{ Lane.empty with thread := .running, park := some .phase }] }

def phaseTeam : Team := { Team.make 0 0 0 0 [] 0 with st := .running, groups := [phaseGroup] }

/-- The holder of the exclusive token, and another entry of its number that wants it. -/
def phaseState : State :=
  { State.reset with teams := [(0, phaseTeam), (0, { phaseTeam with wantToken := true })],
                     sched := { State.reset.sched with holder := some 0 } }

/-- The state's outcome leaves team 0 the holder. -/
def holderAfter (o : Host.Outcome State Fault Refusal) : Option Nat :=
  match o with
  | .next u => u.sched.holder
  | _ => none

theorem holder_phaseState : holderAfter (exec (.phaseCommit 0) phaseState) = some 0 := by decide

/-- Refutes O54: the team that has committed is named the holder again. -/
theorem not_regroupAndPhaseEvents : ¬ Obligations.RegroupAndPhaseEvents := by
  unfold Obligations.RegroupAndPhaseEvents
  intro h
  obtain ⟨-, -, -, -, hphase, -, -⟩ := h
  obtain ⟨hcommit, -, -⟩ := hphase phaseState 0 phaseTeam rfl rfl rfl rfl
  obtain ⟨-, hpass⟩ := hcommit rfl (by decide) (by decide)
  obtain ⟨u, y, hu, -, -, -, -, -, -, -, -, hholder, -⟩ := hpass (by decide)
  have hn := holder_phaseState
  rw [hu] at hn
  exact hholder hn

end Sys2Proof.Machine
end

section
/-! PROOFS. The events of the queues, of dispatch and of the start of teams. -/
namespace Sys2Proof.Machine

/-! ## What leaves the queues' addresses as they were -/

/-- The addresses that wait in the queues and the number of grids stand. -/
structure State.Fifos (s u : State) : Prop where
  count : u.sched.gridCount = s.sched.gridCount
  fifo : ∀ q, (u.queue q).fifo = (s.queue q).fifo

namespace State.Fifos

theorem refl (s : State) : s.Fifos s := ⟨rfl, fun _ => rfl⟩

theorem trans {s u v : State} (h : s.Fifos u) (h' : u.Fifos v) : s.Fifos v :=
  ⟨h'.count.trans h.count, fun q => (h'.fifo q).trans (h.fifo q)⟩

/-- A state with the same queues and count of grids. -/
theorem of_eq {s u : State} (hc : u.sched.gridCount = s.sched.gridCount) (hq : u.queues = s.queues) : s.Fifos u :=
  ⟨hc, fun q => congrArg Queue.fifo (congrArg (fun m => AMap.getD m q Queue.init) hq)⟩

theorem fold {α : Type} {f : State → α → State} (hf : ∀ (s : State) (a : α), s.Fifos (f s a)) (l : List α) (s : State) :
    s.Fifos (l.foldl f s) := by
  induction l generalizing s with
  | nil => exact refl s
  | cons a r ih => exact (hf s a).trans (ih _)

end State.Fifos

theorem State.queue_modQueue (s : State) (q k : Nat) (f : Queue → Queue) :
    (s.modQueue q f).queue k = if k = q then f (s.queue q) else s.queue k := by
  simp only [State.queue, State.modQueue, AMap.getD_set]

theorem State.modQueue_fifos (s : State) (q : Nat) {f : Queue → Queue} (hf : ∀ x, (f x).fifo = x.fifo) :
    s.Fifos (s.modQueue q f) := by
  refine ⟨rfl, fun k => ?_⟩
  rw [State.queue_modQueue]
  split
  · next h => rw [hf, h]
  · rfl

theorem State.event_fifos (s : State) (ty : EvType) (cause core slot : Nat) (grid : Word) (team : Nat) :
    s.Fifos (s.event ty cause core slot grid team) := .of_eq rfl rfl

theorem State.pinWrite_fifos (s : State) (ps : List PageT) (va : Nat) (b : List Byte) : s.Fifos (s.pinWrite ps va b) := by
  refine State.Fifos.fold (fun x p => ?_) _ s
  split
  · exact .of_eq rfl rfl
  · exact .refl x

theorem State.writeDone_fifos (s : State) (g : Grid) (status flags check : Nat) :
    s.Fifos (s.writeDone g status flags check) := by
  unfold State.writeDone
  dsimp only
  refine State.Fifos.trans ?_ (State.event_fifos ..)
  have h1 : s.Fifos (if pinned g.pins g.lr.compl.toNat 64 then
      s.pinWrite g.pins g.lr.compl.toNat (g.record status flags check s.clk) else s) := by
    split
    · exact State.pinWrite_fifos ..
    · exact .refl s
  split
  · exact h1.trans (State.pinWrite_fifos ..)
  · exact h1

theorem State.reject_fifos (s : State) (n : Word) (cause : Cause) (check : Nat) : s.Fifos (s.reject n cause check) := by
  unfold State.reject
  split
  · exact .refl s
  · exact (State.writeDone_fifos ..).trans (.of_eq rfl rfl)

theorem State.modGrid_fifos (s : State) (n : Word) (f : Grid → Grid) : s.Fifos (s.modGrid n f) := .of_eq rfl rfl

theorem State.dropTokens_fifos (s : State) (w : Faulter) : s.Fifos (s.dropTokens w) := .of_eq rfl rfl

theorem State.pinFaults_fifos (s : State) (fs : List (Nat × PageFault)) (grid : Word) (team grp : Nat) (w : Faulter) :
    s.Fifos (s.pinFaults fs grid team grp w) := by
  refine State.Fifos.fold (fun x f => ?_) fs s
  exact .of_eq rfl rfl

theorem State.pinSnapshot_fifos (s : State) (q : Nat) (g : Grid) : s.Fifos (s.pinSnapshot q g) := by
  have hs (ps : List PageT) : s.Fifos ((s.modGrid g.num (fun x => { x with pins := ps })).modQueue q
      (fun x => { x with snap := none })) := by
    refine (State.modGrid_fifos s g.num (fun x => { x with pins := ps })).trans ?_
    exact State.modQueue_fifos _ q fun _ => rfl
  unfold State.pinSnapshot
  split
  · next ps _ =>
    dsimp only
    split
    · exact (hs ps).trans (State.reject_fifos ..)
    · next es _ =>
      refine ((hs ps).trans (State.modGrid_fifos _ g.num (fun x => { x with map := es }))).trans ?_
      exact State.modQueue_fifos _ q fun _ => rfl
  · exact (State.dropTokens_fifos s _).trans (State.pinFaults_fifos ..)

/-- A snapshot takes the first address out of its queue and numbers its grid. -/
theorem State.snapshot_taken (s : State) (q : Nat) (e : QEntry) (b : List Byte) (why : Option (Cause × Nat)) :
    (s.snapshot q e b why).sched.gridCount = s.sched.gridCount + 1 ∧
      ((s.snapshot q e b why).queue q).fifo = (s.queue q).fifo.drop 1 := by
  have hpop : ((s.popHead q).queue q).fifo = (s.queue q).fifo.drop 1 := by
    rw [State.popHead, State.queue_modQueue, if_pos rfl]
    rfl
  have key (u : State) (hu : State.Fifos { s.popHead q with
      grids := (s.popHead q).grids ++ [Grid.make s.sched.gridCount q (Launch.parse b e.space) [] [] s.clk],
      sched := { (s.popHead q).sched with gridCount := s.sched.gridCount + 1 } } u) :
      u.sched.gridCount = s.sched.gridCount + 1 ∧ (u.queue q).fifo = (s.queue q).fifo.drop 1 :=
    ⟨hu.count, (hu.fifo q).trans hpop⟩
  unfold State.snapshot
  dsimp only
  split
  · exact key _ (State.reject_fifos ..)
  · split
    · exact key _ (State.reject_fifos ..)
    · refine key _ (State.Fifos.trans ?_ (State.pinSnapshot_fifos ..))
      exact State.modQueue_fifos _ q fun _ => rfl

/-! ## The head of a queue -/

section
variable {s : State} {q : Nat}

theorem push_fits (hq : q < 64) (a : DWord) (hl : (s.queue q).fifo.length < 64) :
    exec (.push q a) s = .next (s.modQueue q (fun x => { x with fifo := x.fifo ++ [⟨a, none⟩] })) := by
  refine congrArg Host.Outcome.next ?_
  rw [State.push, if_neg (by omega), if_neg (by omega)]
  rfl

theorem push_overflows (hq : q < 64) (a : DWord) (hl : 64 ≤ (s.queue q).fifo.length) :
    exec (.push q a) s = .next (s.modQueue q (fun x => { x with ovf := true, ovfAt := some s.clk })) := by
  refine congrArg Host.Outcome.next ?_
  rw [State.push, if_neg (by omega), if_pos hl]
  rfl

/-- A queue whose head address may be taken: `e`, one of physical memory. -/
structure State.HeadAt (s : State) (q : Nat) (e : QEntry) (r : List QEntry) : Prop where
  lt : q < 64
  on : s.sched.enable = true
  queueOn : (s.queue q).enable = true
  grid : (s.queue q).grid = none
  snap : (s.queue q).snap = none
  fifo : (s.queue q).fifo = e :: r
  space : e.space = none
  aligned : e.addr.toNat % 64 = 0
  addr : e.addr.toNat < 768000000000

variable {e : QEntry} {r : List QEntry}

theorem State.HeadAt.queueOn_true (h : s.HeadAt q e r) : s.queueOn q = true := by
  simp [State.queueOn, h.lt, h.on, h.queueOn]

theorem State.HeadAt.headAbsent (h : s.HeadAt q e r) :
    s.headAbsent q = decide (768000000000 < e.addr.toNat + 1024) := by
  have hp : Config.physEnd = 768000000000 := rfl
  simp [State.headAbsent, h.fifo, h.queueOn_true, h.grid, h.snap, h.space, h.aligned, h.addr, hp]

theorem State.HeadAt.headRecord (h : s.HeadAt q e r) :
    s.headRecord q = .ok (s, e, Memory.readN s.mem e.addr.toNat 1024) := by
  have hp : ¬ Config.physEnd ≤ e.addr.toNat := Nat.not_le.mpr h.addr
  simp [State.headRecord, State.headRead, h.queueOn_true, h.grid, h.snap, h.fifo, h.space, h.aligned, hp]

theorem head_absent (h : s.HeadAt q e r) (ha : 768000000000 < e.addr.toNat + 1024) :
    exec (.snapshot q) s = .fault .absentMemory ∧ exec (.startConditionPoll q) s = .fault .absentMemory := by
  have hb := h.headAbsent.trans (decide_eq_true ha)
  exact ⟨if_pos hb, if_pos hb⟩

theorem snapshot_head (h : s.HeadAt q e r) (ha : e.addr.toNat + 1024 ≤ 768000000000) (hr : s.allRetried (.head q) = true)
    (hm : s.mayStart q (Launch.parse (Memory.readN s.mem e.addr.toNat 1024) none) = true) :
    exec (.snapshot q) s = .next (s.snapshot q e (Memory.readN s.mem e.addr.toNat 1024) none) := by
  have hb : s.headAbsent q = false := by
    rw [h.headAbsent]
    simpa using ha
  show execSnapshot q s = _
  unfold execSnapshot
  rw [hb, h.snap, h.headRecord]
  simp [hr, h.space, hm]

theorem poll_head {g : PageT} (h : s.HeadAt q e r) (ha : e.addr.toNat + 1024 ≤ 768000000000)
    (hr : s.allRetried (.head q) = true) {lr : Launch} (hlr : Launch.parse (Memory.readN s.mem e.addr.toNat 1024) none = lr)
    (hw : lr.waitaddr ≠ 0) (hok : addrOk lr.waitaddr 4 true = true) (hpa : (s.queue q).head.waitPa = none)
    (hg : s.walk lr.root lr.waitaddr.toNat = .ok g) :
    exec (.startConditionPoll q) s = .next (s.modQueue q (fun y => { y with head := { y.head with
      waitPa := some (g.at lr.waitaddr.toNat),
      waitOk := y.head.waitOk || decide (lr.waitval.toNat ≤ Memory.readLE s.mem (g.at lr.waitaddr.toNat) 4) } })) := by
  have hb : s.headAbsent q = false := by
    rw [h.headAbsent]
    simpa using ha
  show execStartConditionPoll q s = _
  unfold execStartConditionPoll
  rw [hb, h.headRecord]
  simp [hr, h.space, hlr, hok, hpa, hg, Except.map]
  exact fun h0 => absurd h0 hw

/-- A snapshot that waits for its areas is pinned once its faults have been answered. -/
theorem snapshot_waiting {n : Word} {g : Grid} (hs : (s.queue q).snap = some n) (hg : s.grid? n = some g)
    (hr : s.allRetried (.snap q) = true) : exec (.snapshot q) s = .next (s.pinSnapshot q g) := by
  have hb : s.headAbsent q = false := by
    unfold State.headAbsent
    split
    · rfl
    · simp [hs]
  show execSnapshot q s = _
  unfold execSnapshot
  rw [hb, hs, Option.bind_some, hg]
  simp [hr]

/-! ## The host's answers -/

variable {tok : Word} {k : Token}

theorem retry_others (hk : s.token? tok = some k) (hw : ∀ t c, k.who ≠ .cmd t c) :
    exec (.frdoorRetry tok) s = .next { s with sched := { s.sched with
      tokens := s.sched.tokens.map (fun x => if x.tok = tok then { x with retried := true } else x) } } := by
  refine congrArg Host.Outcome.next ?_
  unfold State.frRetry
  rw [hk]
  dsimp only
  split
  · next t c h => exact absurd h (hw t c)
  · rfl

theorem retry_command {t c : Nat} (hk : s.token? tok = some k) (hw : k.who = .cmd t c) :
    exec (.frdoorRetry tok) s = .next (({ s with sched := { s.sched with
      tokens := s.sched.tokens.filter (fun x => x.tok ≠ tok) } } : State).modTeam t (fun x =>
        { x with cmds := x.cmds.map (fun y => if y.id = c then y.answer tok else y) })) := by
  refine congrArg Host.Outcome.next ?_
  have ht : (s.sched.tokens.map (fun x => if x.tok = tok then { x with retried := true } else x)).filter
      (fun x => x.tok ≠ tok) = s.sched.tokens.filter (fun x => x.tok ≠ tok) := by
    induction s.sched.tokens with
    | nil => rfl
    | cons x r ih => by_cases hx : x.tok = tok <;> simpa [hx] using ih
  unfold State.frRetry
  rw [hk]
  simp only [hw, ht]

theorem kill_team {t : Nat} (hk : s.token? tok = some k) (hw : k.who.ofTeam t = true) :
    exec (.frdoorKill tok) s = .next (s.killTeam t .pageFault) := by
  refine congrArg Host.Outcome.next ?_
  unfold State.frKill
  rw [hk]
  dsimp only
  cases hwho : k.who with
  | entry u x y =>
    obtain rfl : u = t := by simpa [hwho, Faulter.ofTeam] using hw
    rfl
  | cmd u x =>
    obtain rfl : u = t := by simpa [hwho, Faulter.ofTeam] using hw
    rfl
  | range u =>
    obtain rfl : u = t := by simpa [hwho, Faulter.ofTeam] using hw
    rfl
  | snap q => simp [hwho, Faulter.ofTeam] at hw
  | head q => simp [hwho, Faulter.ofTeam] at hw

/-! ## Dispatch and admission -/

theorem dispatch_made {g : Grid} (hf : s.slotFree = true) (hg : s.granted = some (q, g)) :
    ∃ u y, exec .dispatch s = .next u ∧ u.team? s.sched.dispCount = some y ∧ y.grid = g.num ∧ y.team = g.nextTeam ∧
      y.st = .dispatched ∧ y.ranges = g.lr.teamRanges g.nextTeam ∧ u.sched.dispCount = s.sched.dispCount + 1 ∧
      u.sched.slotAt = some s.clk ∧ u.mem = s.mem := by
  have he : exec .dispatch s = .next (s.dispatch q g) := by
    show execDispatch s = _
    unfold execDispatch
    rw [hf, hg]
    rfl
  refine ⟨_, Team.make g.num g.nextTeam s.sched.dispCount (g.nextTeam % max 1 g.lr.pack) (g.lr.teamRanges g.nextTeam) s.clk,
    he, ?_, rfl, rfl, rfl, rfl, ?_⟩
  · unfold State.dispatch
    dsimp only
    split <;> exact AMap.get?_set_self ..
  · unfold State.dispatch
    dsimp only
    split <;> exact ⟨rfl, rfl, rfl⟩

theorem admission_seats {t : Nat} {tm : Team} {g : Grid} {ps : List (Nat × Nat × List (Nat × Nat))}
    (hs : s.team? t = some tm) (hw : s.waiting (s.unit tm) = true) (ho : s.outranked (s.unit tm) tm = false)
    (hp : s.placeUnit (s.unit tm) = some ps) (hg : s.grid? tm.grid = some g) :
    exec (.admission t) s = .next (ps.foldl (fun s p => s.seat g.lr p.1 p.2.1 p.2.2) s) := by
  show execAdmission t s = _
  unfold execAdmission
  rw [hs]
  dsimp only
  rw [hw, ho, hp, hg]
  rfl

/-! ## Banks -/

/-- Trimming keeps at most as many lines of each set as the column has ways. -/
theorem Column.trim_sets (c : Column) (set : Nat) :
    (c.trim.l1.filter (fun x => x.line % 256 = set)).length ≤ c.ways := by
  unfold Column.trim
  dsimp only
  refine List.foldlRecOn (motive := fun l : List L1Line => (l.filter (fun x => x.line % 256 = set)).length ≤ c.ways) _ _
    (Nat.zero_le _) fun acc hacc x _ => ?_
  split
  case isFalse => exact hacc
  case isTrue h =>
    rw [List.filter_append, List.length_append]
    by_cases hx : x.line % 256 = set
    · subst hx
      simpa [Nat.succ_le_iff] using h
    · simpa [hx] using hacc

theorem bankDrain_ready {m b t : Nat} (hb : AMap.get? (s.col m).banks b = some (.draining t)) :
    ∃ u, exec (.bankDrain m b) s = .next u ∧ AMap.get? (u.col m).banks b = some (.ready t) ∧ u.mem = s.mem ∧
      u.teams = s.teams ∧ ∀ set, ((u.col m).l1.filter (fun x => x.line % 256 = set)).length ≤ (u.col m).ways := by
  refine ⟨s.modCol m (fun c => { c with banks := AMap.set c.banks b (.ready t) }.trim), ?_, ?_, rfl, rfl, ?_⟩
  · show execBankDrain m b s = _
    unfold execBankDrain
    rw [hb]
  · rw [State.col_modCol, if_pos rfl]
    exact AMap.get?_set_self ..
  · intro set
    rw [State.col_modCol, if_pos rfl]
    exact Column.trim_sets _ set

/-! ## Ranges and the start of a team -/

theorem ranges_translated {t : Nat} {tm : Team} {g : Grid} {xs : List Extent} {fs : List (Nat × PageFault)}
    (hs : s.team? t = some tm) (hg : s.grid? tm.grid = some g) (hst : tm.st = .admitted)
    (hr : s.allRetried (.range t) = true) (hp : s.pinRanges g.lr.root tm.ranges = (xs, fs)) :
    (fs = [] → exec (.rangeTranslation t) s = .next
      (((s.dropTokens (.range t)).modTeam t (fun x => { x with st := .translated, ranges := xs })).reseat g.lr t)) ∧
    (fs ≠ [] → exec (.rangeTranslation t) s = .next
      ((s.dropTokens (.range t)).pinFaults fs tm.grid tm.team 0 (.range t))) := by
  have he : exec (.rangeTranslation t) s = (if fs.isEmpty then .next
      (((s.dropTokens (.range t)).modTeam t (fun x => { x with st := .translated, ranges := xs })).reseat g.lr t)
      else .next ((s.dropTokens (.range t)).pinFaults fs tm.grid tm.team 0 (.range t))) := by
    show execRangeTranslation t s = _
    unfold execRangeTranslation
    rw [hs]
    dsimp only
    rw [hg]
    simp [hst, hr, hp]
  rw [he]
  exact ⟨fun h => if_pos (List.isEmpty_iff.mpr h), fun h => if_neg (mt List.isEmpty_iff.mp h)⟩

theorem Group.launch_lane (g : Group) (lr : Launch) {l : Nat} (hl : l < g.width) :
    ((g.launch lr).lane l).thread = .running ∧ ((g.launch lr).lane l).pc = lr.code := by
  simp [Group.launch, Group.lane, upTo, hl]

theorem teamStart_eq {t : Nat} {tm : Team} {g : Grid} (hs : s.team? t = some tm) (hg : s.grid? tm.grid = some g)
    (hst : tm.st = .translated) (hd : s.drains t tm = false) (hok : tm.fresh = true ∨ s.areaOk g tm.team = true) :
    exec (.teamStart t) s = .next (s.begin t tm g) := by
  show execTeamStart t s = _
  unfold execTeamStart
  rw [hs]
  dsimp only
  rw [hg]
  rcases hok with h | h <;> simp [hst, hd, h]

theorem teamStart_fresh {t : Nat} {tm : Team} {g : Grid} (hs : s.team? t = some tm) (hg : s.grid? tm.grid = some g)
    (hst : tm.st = .translated) (hd : s.drains t tm = false) (hf : tm.fresh = true) :
    ∃ u y, exec (.teamStart t) s = .next u ∧ u.team? t = some y ∧ y.st = .running ∧
      y.groups.length = tm.groups.length ∧ ∀ h ∈ y.groups, ∀ l, l < h.width →
        (h.lane l).thread = .running ∧ (h.lane l).pc = g.lr.code := by
  refine ⟨_, ({ tm with st := .running, groups := tm.groups.map (fun y => y.launch g.lr),
                        fifos := List.replicate g.lr.nfifo (0, 0) } : Team).takeCheckpoint (0 < g.lr.nckpt) s.sched.commitSeq,
    teamStart_eq hs hg hst hd (.inl hf), ?_, rfl, ?_, ?_⟩
  · have ht : AMap.get? s.teams t = some tm := hs
    unfold State.begin State.team?
    dsimp only
    rw [State.modTeam, AMap.get?_update, if_pos rfl]
    simp [ht, hf]
  · simp [Team.takeCheckpoint]
  · intro h hm l hl
    simp only [Team.takeCheckpoint, List.mem_map] at hm
    obtain ⟨-, ⟨y, -, rfl⟩, rfl⟩ := hm
    exact Group.launch_lane y g.lr hl

theorem teamStart_badArea {t : Nat} {tm : Team} {g : Grid} (hs : s.team? t = some tm) (hg : s.grid? tm.grid = some g)
    (hst : tm.st = .translated) (hd : s.drains t tm = false) (hf : tm.fresh = false) (ha : s.areaOk g tm.team = false) :
    exec (.teamStart t) s = .next (s.killTeam t .badCtx) := by
  show execTeamStart t s = _
  unfold execTeamStart
  rw [hs]
  dsimp only
  rw [hg]
  simp [hst, hd, hf, ha]

end

/-- Settles O55: each event by the lemma of its case. -/
theorem queueEvents : Obligations.QueueEvents := by
  unfold Obligations.QueueEvents
  refine ⟨fun s q a hq => ⟨push_fits hq a, push_overflows hq a⟩, ?_, fun s q n g => snapshot_waiting,
    fun s tok k hk => ⟨retry_others hk, fun t c => retry_command hk, fun t => kill_team hk⟩, fun s q g => dispatch_made,
    fun s t tm g ps => admission_seats, fun s m b t => bankDrain_ready, fun s t tm g xs fs => ranges_translated,
    fun s t tm g hs hg hst hd => ⟨teamStart_fresh hs hg hst hd,
      fun _ ha => teamStart_eq hs hg hst hd (.inr ha), teamStart_badArea hs hg hst hd⟩⟩
  intro s q e r hq hon hqon hgrid hsnap hfifo hspace hal hlt
  have h : s.HeadAt q e r := ⟨hq, hon, hqon, hgrid, hsnap, hfifo, hspace, hal, hlt⟩
  refine ⟨head_absent h, fun ha hr => ⟨fun hm => ?_, fun g hw hok hpa hg => ?_⟩⟩
  · have ht := s.snapshot_taken q e (Memory.readN s.mem e.addr.toNat 1024) none
    rw [hfifo] at ht
    exact ⟨_, snapshot_head h ha hr hm, rfl, ht⟩
  · refine ⟨_, poll_head h ha hr rfl hw hok hpa hg, rfl, ?_⟩
    rw [State.queue_modQueue, if_pos rfl]
    exact ⟨rfl, rfl⟩

end Sys2Proof.Machine
end

section
/-! PROOFS. Pre-emption, kills and the halt windows. -/
namespace Sys2Proof.Machine

/-! ## Maps -/

theorem AMap.mem_of_get? {α : Type} {m : AMap α} {n : Nat} {x : α} (h : AMap.get? m n = some x) : (n, x) ∈ m := by
  induction m with
  | nil => cases h
  | cons p r ih =>
    obtain ⟨k, y⟩ := p
    simp only [AMap.get?] at h
    split at h
    · next hk =>
      obtain rfl := hk
      cases h
      exact List.mem_cons_self
    · exact List.mem_cons_of_mem _ (ih h)

theorem AMap.get?_isSome_of_mem {α : Type} {m : AMap α} {p : Nat × α} (h : p ∈ m) : (AMap.get? m p.1).isSome = true := by
  induction m with
  | nil => cases h
  | cons q r ih =>
    simp only [AMap.get?]
    split
    · rfl
    · next hk =>
      rcases List.mem_cons.mp h with rfl | h
      · exact absurd rfl hk
      · exact ih h

theorem AMap.mem_erase_ne {α : Type} {m : AMap α} {n : Nat} {p : Nat × α} (h : p ∈ AMap.erase m n) : p.1 ≠ n := by
  rw [AMap.erase_eq_filter, List.mem_filter] at h
  simpa using h.2

theorem AMap.mem_update {α : Type} {m : AMap α} {n : Nat} {f : α → α} {p : Nat × α} (h : p ∈ AMap.update m n f) :
    p ∈ m ∨ ∃ x, (n, x) ∈ m ∧ p = (n, f x) := by
  unfold AMap.update at h
  split at h
  · next x hx =>
    rcases AMap.mem_set _ _ _ p h with h | h
    · exact .inr ⟨x, AMap.mem_of_get? hx, h⟩
    · exact .inl h
  · exact .inl h

/-! ## What the end of teams leaves -/

/-- Teams may have gone, and grids have gone or completed; `n` is the grid looked at. -/
structure State.Ends (n : Word) (s u : State) : Prop where
  clk : u.clk = s.clk
  teams : ∀ p ∈ u.teams, ∃ q ∈ s.teams, q.1 = p.1 ∧ q.2.grid = p.2.grid
  grid : ∀ x, u.grid? n = some x → ∃ y, s.grid? n = some y ∧ (x.completedAt = y.completedAt ∨ x.completedAt = some s.clk)

namespace State.Ends

variable {n : Word} {s u v : State}

theorem refl (n : Word) (s : State) : Ends n s s := ⟨rfl, fun p hp => ⟨p, hp, rfl, rfl⟩, fun x hx => ⟨x, hx, .inl rfl⟩⟩

theorem trans (h : Ends n s u) (h' : Ends n u v) : Ends n s v := by
  refine ⟨h'.clk.trans h.clk, fun p hp => ?_, fun x hx => ?_⟩
  · obtain ⟨q, hq, h1, h2⟩ := h'.teams p hp
    obtain ⟨r, hr, h3, h4⟩ := h.teams q hq
    exact ⟨r, hr, h3.trans h1, h4.trans h2⟩
  · obtain ⟨y, hy, hxy⟩ := h'.grid x hx
    obtain ⟨z, hz, hyz⟩ := h.grid y hy
    refine ⟨z, hz, ?_⟩
    rcases hxy with hxy | hxy
    · rw [hxy]
      exact hyz
    · exact .inr (hxy.trans (congrArg some h.clk))

theorem of_eq (hc : u.clk = s.clk) (ht : u.teams = s.teams) (hg : u.grids = s.grids) : Ends n s u :=
  ⟨hc, fun p hp => ⟨p, ht ▸ hp, rfl, rfl⟩, fun x hx => ⟨x, by rw [← hx, State.grid?, State.grid?, hg], .inl rfl⟩⟩

end State.Ends

/-- The clock, the teams and the grids stand. -/
structure State.SameJobs (s u : State) : Prop where
  clk : u.clk = s.clk
  teams : u.teams = s.teams
  grids : u.grids = s.grids

namespace State.SameJobs

variable {s u v : State}

theorem trans (h : s.SameJobs u) (h' : u.SameJobs v) : s.SameJobs v :=
  ⟨h'.clk.trans h.clk, h'.teams.trans h.teams, h'.grids.trans h.grids⟩

theorem ends (h : s.SameJobs u) (n : Word) : State.Ends n s u := .of_eq h.clk h.teams h.grids

end State.SameJobs

theorem State.pinWrite_sameJobs (s : State) (ps : List PageT) (va : Nat) (b : List Byte) :
    s.SameJobs (s.pinWrite ps va b) := by
  refine List.foldlRecOn (motive := fun u => s.SameJobs u) _ _ ⟨rfl, rfl, rfl⟩ fun u hu p _ => ?_
  split
  · exact hu.trans ⟨rfl, rfl, rfl⟩
  · exact hu

theorem State.event_sameJobs (s : State) (ty : EvType) (cause core slot : Nat) (grid : Word) (team : Nat) :
    s.SameJobs (s.event ty cause core slot grid team) := ⟨rfl, rfl, rfl⟩

theorem State.dropLines_sameJobs (s : State) (p : L1Line → Bool) : s.SameJobs (s.dropLines p) := ⟨rfl, rfl, rfl⟩

theorem State.writeDone_sameJobs (s : State) (g : Grid) (status flags check : Nat) :
    s.SameJobs (s.writeDone g status flags check) := by
  unfold State.writeDone
  dsimp only
  refine State.SameJobs.trans ?_ (State.event_sameJobs ..)
  have h1 : s.SameJobs (if pinned g.pins g.lr.compl.toNat 64 then
      s.pinWrite g.pins g.lr.compl.toNat (g.record status flags check s.clk) else s) := by
    split
    · exact State.pinWrite_sameJobs ..
    · exact ⟨rfl, rfl, rfl⟩
  split
  · exact h1.trans (State.pinWrite_sameJobs ..)
  · exact h1

/-! ## Grids -/

theorem State.grid?_num {s : State} {n : Word} {x : Grid} (h : s.grid? n = some x) : x.num = n := by
  simpa using List.find?_some h

theorem State.grid?_modGrid (s : State) (m n : Word) {f : Grid → Grid} (hf : ∀ x, (f x).num = x.num) :
    (s.modGrid m f).grid? n = (s.grid? n).map (fun x => if n = m then f x else x) := by
  have hp : (fun g : Grid => decide (g.num = n)) ∘ (fun g => if g.num = m then f g else g) =
      fun g => decide (g.num = n) := by
    funext g
    by_cases h : g.num = m <;> simp [Function.comp, h, hf]
  rw [State.grid?, State.modGrid, List.find?_map, hp, State.grid?]
  cases hx : s.grids.find? (fun g => decide (g.num = n)) with
  | none => rfl
  | some x =>
    have hn : x.num = n := State.grid?_num (s := s) hx
    simp [hn]

theorem State.grid?_dropGrid (s : State) (m n : Word) :
    (s.dropGrid m).grid? n = if n = m then none else s.grid? n := by
  rw [State.grid?, State.dropGrid, List.find?_filter]
  split
  · next h =>
    subst h
    simp
  · next h =>
    refine congrArg (fun p => List.find? p s.grids) (funext fun g => ?_)
    by_cases hg : g.num = n <;> simp [hg, h]

theorem State.dropGrid_ends (s : State) (m n : Word) : State.Ends n s (s.dropGrid m) := by
  refine ⟨rfl, fun p hp => ⟨p, hp, rfl, rfl⟩, fun x hx => ⟨x, ?_, .inl rfl⟩⟩
  rw [State.grid?_dropGrid] at hx
  split at hx
  · cases hx
  · exact hx

/-- A grid of which anything but its number and its completion changes. -/
theorem State.modGrid_ends (s : State) (m n : Word) {f : Grid → Grid} (hf : ∀ x, (f x).num = x.num)
    (hc : ∀ x, (f x).completedAt = x.completedAt ∨ (f x).completedAt = some s.clk) : State.Ends n s (s.modGrid m f) := by
  refine ⟨rfl, fun p hp => ⟨p, hp, rfl, rfl⟩, fun x hx => ?_⟩
  rw [State.grid?_modGrid s m n hf] at hx
  obtain ⟨y, hy, rfl⟩ := Option.map_eq_some_iff.mp hx
  refine ⟨y, hy, ?_⟩
  split
  · exact hc y
  · exact .inl rfl

theorem State.finalByte_ends (s : State) (g : Grid) (flags : Nat) (ty : EvType) (n : Word) :
    State.Ends n s (s.finalByte g flags ty) := by
  refine State.Ends.trans ?_ (State.dropGrid_ends ..)
  exact ((State.pinWrite_sameJobs ..).trans (State.event_sameJobs ..)).ends n

/-- What a grid comes to whose teams have all ended. -/
theorem State.complete_ended {s : State} {n : Word} {g : Grid} (hg : s.grid? n = some g) (hc : g.completedAt = none)
    (he : g.lr.nteam ≤ g.ended) : (s.complete n).grid? n = none ∨
      ∃ x, (s.complete n).grid? n = some x ∧ x.completedAt = some s.clk := by
  have hn : g.num = n := State.grid?_num hg
  unfold State.complete
  rw [hg]
  dsimp only
  rw [if_neg (by simp [hc, he])]
  split
  · left
    rw [State.grid?_dropGrid, if_pos rfl]
  · split
    · left
      rw [State.finalByte, State.grid?_dropGrid, if_pos hn.symm]
    · right
      have hj : s.SameJobs ((s.dropLines (fun x => x.cwin && x.grid = n)).writeDone g g.status (g.flags + 1) 0) :=
        (State.dropLines_sameJobs ..).trans (State.writeDone_sameJobs ..)
      have hw := (congrArg (List.find? fun y : Grid => decide (y.num = n)) hj.grids).trans hg
      refine ⟨{ g with completedAt := some s.clk }, ?_, rfl⟩
      refine (State.grid?_modGrid _ _ _ ?_).trans ((congrArg (Option.map _) hw).trans ?_)
      · exact fun _ => rfl
      · exact congrArg some (if_pos rfl)

theorem State.complete_ends (s : State) (m n : Word) : State.Ends n s (s.complete m) := by
  have hd : s.SameJobs (s.dropLines (fun x => x.cwin && x.grid = m)) := State.dropLines_sameJobs ..
  unfold State.complete
  split
  · exact .refl n s
  · next g hg =>
    dsimp only
    split
    · exact .refl n s
    · split
      · refine State.Ends.trans ?_ (State.dropGrid_ends ..)
        exact ((hd.trans (State.writeDone_sameJobs ..)).trans (State.event_sameJobs ..)).ends n
      · have hw := hd.trans (State.writeDone_sameJobs (s.dropLines (fun x => x.cwin && x.grid = m)) g g.status (g.flags + 1) 0)
        split
        · exact (hw.ends n).trans (State.finalByte_ends ..)
        · exact (hw.ends n).trans (State.modGrid_ends _ _ _ (fun _ => rfl) fun _ => .inr (congrArg some hw.clk.symm))

/-! ## Teams -/

/-- A team of which anything but its grid changes. -/
theorem State.modTeam_ends (s : State) (t : Nat) (n : Word) {f : Team → Team} (hf : ∀ x, (f x).grid = x.grid) :
    State.Ends n s (s.modTeam t f) := by
  refine ⟨rfl, fun p hp => ?_, fun x hx => ⟨x, hx, .inl rfl⟩⟩
  rcases AMap.mem_update hp with h | ⟨x, hx, rfl⟩
  · exact ⟨p, h, rfl, rfl⟩
  · exact ⟨_, hx, rfl, (hf x).symm⟩

theorem State.dropToken_ends (s : State) (t : Nat) (n : Word) : State.Ends n s (s.dropToken t) := by
  unfold State.dropToken
  split
  · dsimp only
    split
    · refine State.Ends.trans ?_ (State.modTeam_ends _ _ n fun _ => rfl)
      exact .of_eq rfl rfl rfl
    · exact .of_eq rfl rfl rfl
  · exact .refl n s

theorem State.freeResources_ends (s : State) (t : Nat) (tm : Team) (n : Word) :
    State.Ends n s (s.freeResources t tm) := by
  unfold State.freeResources
  dsimp only
  refine State.Ends.trans ?_ (State.Ends.trans (State.dropToken_ends _ t n) (.of_eq rfl rfl rfl))
  exact .of_eq rfl rfl rfl

/-- The team's resources, if it holds any, and its lines are given up. -/
theorem State.leave_ends (s : State) (t : Nat) (tm : Team) (n : Word) :
    State.Ends n s ((if tm.resident then s.freeResources t tm else s).dropTeamLines t) := by
  refine State.Ends.trans ?_ ((State.dropLines_sameJobs ..).ends n)
  split
  · exact State.freeResources_ends ..
  · exact .refl n s

/-- A team that has ended is gone. -/
theorem State.endTeam_ends (s : State) (t : Nat) (tm : Team) (n : Word) :
    State.Ends n s (s.endTeam t tm) ∧ ∀ p ∈ (s.endTeam t tm).teams, p.1 ≠ t := by
  have hl := State.leave_ends s t tm n
  unfold State.endTeam
  dsimp only
  generalize (if tm.resident then s.freeResources t tm else s).dropTeamLines t = s1 at hl ⊢
  have hc (u : State) : State.Ends n u ((u.modGrid tm.grid (fun g => { g with ended := g.ended + 1 })).complete tm.grid) := by
    refine State.Ends.trans ?_ (State.complete_ends ..)
    exact State.modGrid_ends _ _ n (fun _ => rfl) fun _ => .inl rfl
  constructor
  · refine hl.trans (State.Ends.trans ?_ (hc _))
    refine ⟨rfl, fun p hp => ?_, fun x hx => ⟨x, hx, .inl rfl⟩⟩
    obtain ⟨q, hq, rfl⟩ := List.mem_map.mp hp
    refine ⟨q, AMap.mem_erase _ _ q hq, ?_⟩
    split <;> exact ⟨rfl, rfl⟩
  · intro p hp
    obtain ⟨q, hq, hqp, -⟩ := (hc _).teams p hp
    obtain ⟨r, hr, rfl⟩ := List.mem_map.mp hq
    have hne : r.1 ≠ t := AMap.mem_erase_ne hr
    rw [← hqp]
    split <;> exact hne

/-- A team that is killed is gone. -/
theorem State.killTeam_ends (s : State) (t : Nat) (cause : Cause) (n : Word) :
    State.Ends n s (s.killTeam t cause) ∧ ∀ p ∈ (s.killTeam t cause).teams, p.1 ≠ t := by
  unfold State.killTeam
  split
  · next hs =>
    refine ⟨.refl n s, fun p hp he => ?_⟩
    have hm := AMap.get?_isSome_of_mem hp
    rw [he] at hm
    rw [State.team?] at hs
    rw [hs] at hm
    cases hm
  · next tm _ =>
    obtain ⟨h1, h2⟩ := State.endTeam_ends (s.modGrid tm.grid (fun g => (g.failed cause tm.team 0).noteViol tm)) t tm n
    refine ⟨State.Ends.trans (State.modGrid_ends _ _ n (fun x => ?_) fun x => .inl ?_) h1, h2⟩
    · unfold Grid.failed Grid.noteViol
      split <;> rfl
    · unfold Grid.failed Grid.noteViol
      split <;> rfl

/-- Teams killed in turn are all gone. -/
theorem State.killTeams_ends (l : List (Nat × Team)) (s : State) (cause : Cause) (n : Word) :
    State.Ends n s (l.foldl (fun s p => s.killTeam p.1 cause) s) ∧
      ∀ q ∈ l, ∀ p ∈ (l.foldl (fun s p => s.killTeam p.1 cause) s).teams, p.1 ≠ q.1 := by
  induction l generalizing s with
  | nil => exact ⟨.refl n s, by simp⟩
  | cons a r ih =>
    obtain ⟨h1, h2⟩ := State.killTeam_ends s a.1 cause n
    obtain ⟨h3, h4⟩ := ih (s.killTeam a.1 cause)
    refine ⟨h1.trans h3, fun q hq p hp => ?_⟩
    rcases List.mem_cons.mp hq with rfl | hq
    · obtain ⟨y, hy, hyp, -⟩ := h3.teams p hp
      rw [← hyp]
      exact h2 y hy
    · exact h4 q hq p hp

/-- No team of a grid that is killed is left; what is left of the grid has completed in this cycle. -/
theorem State.killGrid_ends {s : State} {n : Word} {g : Grid} (hg : s.grid? n = some g) (hc : g.completedAt = none)
    (cause : Cause) (team : Nat) : (∀ p ∈ (s.killGrid n cause team).teams, p.2.grid ≠ n) ∧
      ∀ x, (s.killGrid n cause team).grid? n = some x → x.completedAt = some s.clk := by
  have hfail (x : Grid) : (x.failed cause team 0).num = x.num ∧ (x.failed cause team 0).completedAt = x.completedAt := by
    unfold Grid.failed
    split <;> exact ⟨rfl, rfl⟩
  have h1 : State.Ends n s ((s.modGrid n (fun g => g.failed cause team 0)).freeQueue n) :=
    State.Ends.trans (State.modGrid_ends _ _ n (fun x => (hfail x).1) fun x => .inl (hfail x).2) (.of_eq rfl rfl rfl)
  unfold State.killGrid
  rw [hg]
  dsimp only
  rw [if_neg (by simp [hc])]
  generalize (s.modGrid n (fun g => g.failed cause team 0)).freeQueue n = s1 at h1 ⊢
  obtain ⟨h2, hgone⟩ := State.killTeams_ends (s1.teams.filter (fun p => p.2.grid = n)) s1 cause n
  generalize (s1.teams.filter (fun p => p.2.grid = n)).foldl (fun s p => s.killTeam p.1 cause) s1 = s2 at h2 hgone ⊢
  have h3 : State.Ends n s2 (s2.modGrid n (fun x => { x with ended := x.lr.nteam, nextTeam := x.lr.nteam })) :=
    State.modGrid_ends _ _ n (fun _ => rfl) fun _ => .inl rfl
  have h4 := State.complete_ends (s2.modGrid n (fun x => { x with ended := x.lr.nteam, nextTeam := x.lr.nteam })) n n
  constructor
  · intro p hp he
    obtain ⟨q, hq, hqp, hqg⟩ := (h3.trans h4).teams p hp
    obtain ⟨r, hr, hrq, hrg⟩ := h2.teams q hq
    have hn : r.2.grid = n := hrg.trans (hqg.trans he)
    exact hgone r (List.mem_filter.mpr ⟨hr, decide_eq_true hn⟩) q hq hrq.symm
  · intro x hx
    have hclk := (h1.trans h2).clk
    obtain ⟨y, hy, hxy⟩ := h4.grid x hx
    have hy' := hy
    rw [State.grid?_modGrid _ _ _ (by exact fun _ => rfl)] at hy'
    obtain ⟨z, hz, rfl⟩ := Option.map_eq_some_iff.mp hy'
    rw [if_pos rfl] at hy hxy
    obtain ⟨w, hw, hzw⟩ := (h1.trans h2).grid z hz
    obtain rfl : g = w := Option.some.inj (hg.symm.trans hw)
    rcases hzw with hzw | hzw
    · rcases State.complete_ended hy (hzw.trans hc) (Nat.le_refl _) with h | ⟨x', hx', hc'⟩
      · rw [h] at hx
        cases hx
      · obtain rfl : x' = x := Option.some.inj (hx'.symm.trans hx)
        exact hc'.trans (congrArg some hclk)
    · rcases hxy with h | h
      · exact h.trans hzw
      · exact h.trans (congrArg some hclk)

/-! ## The relaunch of a unit -/

/-- Team `k` stands to be dispatched again. -/
def State.Relaunched (s : State) (k : Nat) : Prop :=
  ∃ y, s.team? k = some y ∧ y.st = .dispatched ∧ y.relaunched = true ∧ y.groups = []

theorem State.Relaunched.of_eq {s u : State} {k : Nat} (h : s.Relaunched k) (ht : u.teams = s.teams) : u.Relaunched k := by
  obtain ⟨y, hy, hr⟩ := h
  exact ⟨y, by rw [← hy, State.team?, State.team?, ht], hr⟩

theorem State.Relaunched.dropToken {s : State} {k : Nat} (h : s.Relaunched k) (t : Nat) : (s.dropToken t).Relaunched k := by
  unfold State.dropToken
  split
  · dsimp only
    split
    · next u _ =>
      obtain ⟨y, hy, hst, hr, hg⟩ := h
      have hy' : AMap.get? s.teams k = some y := hy
      by_cases hk : k = u
      · refine ⟨{ y with wantToken := false }, ?_, hst, hr, hg⟩
        rw [State.team?, State.modTeam, AMap.get?_update, if_pos hk]
        exact congrArg (Option.map _) (hk ▸ hy')
      · refine ⟨y, ?_, hst, hr, hg⟩
        rw [State.team?, State.modTeam, AMap.get?_update, if_neg hk]
        exact hy'
    · exact h.of_eq rfl
  · exact h

theorem State.Relaunched.leave {s : State} {k : Nat} (h : s.Relaunched k) (t : Nat) (tm : Team) :
    ((if tm.resident then s.freeResources t tm else s).dropTeamLines t).Relaunched k := by
  refine State.Relaunched.of_eq (s := if tm.resident then s.freeResources t tm else s) ?_ rfl
  split
  · unfold State.freeResources
    dsimp only
    refine State.Relaunched.of_eq (State.Relaunched.dropToken ?_ t) rfl
    exact h.of_eq rfl
  · exact h

theorem State.relaunched_setTeam {s : State} {k : Nat} (t : Nat) (tm : Team) (now : Nat)
    (h : k = t ∨ s.Relaunched k) : (s.setTeam t (tm.again now)).Relaunched k := by
  by_cases hk : k = t
  · subst hk
    exact ⟨_, AMap.get?_set_self .., rfl, rfl, rfl⟩
  · obtain ⟨y, hy, hr⟩ := h.resolve_left hk
    exact ⟨y, (AMap.get?_set_ne _ _ hk).trans hy, hr⟩

/-- One member of a unit starts over. -/
def State.relaunch (n : Word) (s : State) (p : Nat × Team) : State :=
  (((if p.2.resident then s.freeResources p.1 p.2 else s).dropTeamLines p.1).setTeam p.1 (p.2.again s.clk)).modGrid n
    (fun x => { x.noteViol p.2 with relaunched := true })

theorem State.relaunch_relaunched (n : Word) (s : State) (p : Nat × Team) {k : Nat} (h : k = p.1 ∨ s.Relaunched k) :
    (s.relaunch n p).Relaunched k :=
  State.Relaunched.of_eq (State.relaunched_setTeam p.1 p.2 s.clk (h.imp_right fun h => h.leave p.1 p.2)) rfl

theorem State.relaunch_all (n : Word) (l : List (Nat × Team)) (s : State) {k : Nat}
    (h : (∃ p ∈ l, p.1 = k) ∨ s.Relaunched k) : (l.foldl (State.relaunch n) s).Relaunched k := by
  induction l generalizing s with
  | nil => exact h.resolve_left (by simp)
  | cons a r ih =>
    refine ih (s.relaunch n a) ?_
    rcases h with ⟨p, hp, hk⟩ | h
    · rcases List.mem_cons.mp hp with rfl | hp
      · exact .inr (State.relaunch_relaunched n s _ (.inl hk.symm))
      · exact .inl ⟨p, hp, hk⟩
    · exact .inr (State.relaunch_relaunched n s a (.inr h))

/-! ## The events -/

section
variable {s : State} {t : Nat} {tm : Team} {g : Grid}

theorem prioPreempt_takes {pr n : Nat} {v : Team} (hs : s.team? t = some tm) (hg : s.grid? tm.grid = some g)
    (hp : s.sched.priopre = true) (hprio : g.lr.prio = 3) (hw : s.waiting (s.unit tm) = true)
    (hat : tm.dispAt + 400000 ≤ s.clk) (hpl : s.placeUnit (s.unit tm) = none)
    (hall : ∀ x ∈ s.victims (packCols g.lr.shape ((s.homes g tm).headD 0)), x.2.2.pre = none)
    (hv : worst (s.victims (packCols g.lr.shape ((s.homes g tm).headD 0))) = some (pr, n, v)) :
    exec (.prioPreempt t) s = .next (s.requestPre v ⟨false, none, s.clk⟩) := by
  have ha : (s.victims (packCols g.lr.shape ((s.homes g tm).headD 0))).all (fun v => v.2.2.pre.isNone) = true :=
    List.all_eq_true.mpr fun x hx => by rw [hall x hx]; rfl
  show execPrioPreempt t s = _
  unfold execPrioPreempt
  rw [hs]
  dsimp only
  rw [hg]
  dsimp only
  rw [if_pos (by rw [ha]; simp [hp, hprio, hw, hpl, prioWait, hat]), hv]

theorem preempt_found {grid : Word} {team : BitVec 24} (hf : s.find? grid team.toNat = some (t, tm)) :
    (∀ hold, exec (.preempt grid team hold) s = .next (s.requestPre tm ⟨hold, none, s.clk⟩)) ∧
    exec (.release grid team) s = .next ((s.unit tm).foldl (fun s p => s.modTeam p.1 (fun x =>
      { x with hold := false, pre := x.pre.map (fun r => { r with hold := false }) })) s) := by
  constructor
  · intro hold
    show Host.Outcome.next (s.preempt grid team.toNat hold) = _
    rw [State.preempt, hf]
  · show Host.Outcome.next (s.unhold grid team.toNat) = _
    rw [State.unhold, hf]

theorem preemptSave_saves (hs : s.team? t = some tm) (hg : s.grid? tm.grid = some g) (hc : s.canSave tm = true)
    (hu : ∀ p ∈ s.unit tm, s.canSave p.2 = true ∨ p.2.st = .saved) :
    ∃ u y, exec (.preemptSave t) s = .next u ∧ u = s.save t tm g ∧ u.team? t = some y ∧ y.st = .saved ∧
      y.resident = false ∧ y.pre = none ∧ y.hold = (tm.pre.map PreReq.hold).getD false := by
  have hm : tm.mig = none := by
    simp only [State.canSave, Bool.and_eq_true, Option.isNone_iff_eq_none] at hc
    grind
  have ho : s.overtaken tm = false := by simp [State.overtaken, hm]
  have ha : (s.unit tm).all (fun p => s.canSave p.2 || p.2.st == .saved) = true :=
    List.all_eq_true.mpr fun p hp => by simpa using hu p hp
  have he : exec (.preemptSave t) s = .next (s.save t tm g) := by
    show execPreemptSave t s = _
    unfold execPreemptSave
    rw [hs]
    dsimp only
    rw [hg]
    dsimp only
    rw [ho, hc, ha]
    rfl
  exact ⟨_, _, he, rfl, AMap.get?_set_self .., rfl, rfl, rfl, rfl⟩

theorem kill_ends {n : Word} (hg : s.grid? n = some g) (hc : g.completedAt = none) :
    ∃ u, exec (.kill n) s = .next u ∧ (∀ p ∈ u.teams, p.2.grid ≠ n) ∧
      ∀ x, u.grid? n = some x → x.completedAt = some s.clk :=
  ⟨_, rfl, State.killGrid_ends hg hc .hostKill (s.firstTeam n)⟩

theorem cmdKillTeam_ends {core slot : Nat} {x : Group} (hh : s.halted core slot = some (t, x)) :
    ∃ u, exec (.cmdKillTeam core slot) s = .next u ∧ u.team? t = none := by
  refine ⟨s.killTeam t .hostKill, ?_, ?_⟩
  · show execCmdKillTeam core slot s = _
    unfold execCmdKillTeam
    rw [hh]
  · cases hy : (s.killTeam t .hostKill).team? t with
    | none => rfl
    | some y => exact absurd rfl ((s.killTeam_ends t .hostKill 0).2 _ (AMap.mem_of_get? hy))

theorem cmdKillGrid_ends {core slot : Nat} {x : Group} (hh : s.halted core slot = some (t, x))
    (hs : s.team? t = some tm) (hg : s.grid? tm.grid = some g) (hc : g.completedAt = none) :
    ∃ u, exec (.cmdKillGrid core slot) s = .next u ∧ ∀ p ∈ u.teams, p.2.grid ≠ tm.grid := by
  refine ⟨_, ?_, (State.killGrid_ends hg hc .hostKill tm.team).1⟩
  show execCmdKillGrid core slot s = _
  unfold execCmdKillGrid
  rw [hh, Option.bind_some, hs]

theorem packKill_ends {grp : Nat} (hs : s.team? t = some tm) (hg : s.grid? tm.grid = some g) (hu : tm.uce = true) :
    (mayRelaunch (s.unit tm) g = true → ∃ u, exec (.packKill t grp) s = .next u ∧
      ∀ p ∈ s.unit tm, ∃ y, u.team? p.1 = some y ∧ y.st = .dispatched ∧ y.relaunched = true ∧ y.groups = []) ∧
    (mayRelaunch (s.unit tm) g = false → g.completedAt = none →
      ∃ u, exec (.packKill t grp) s = .next u ∧ ∀ p ∈ u.teams, p.2.grid ≠ tm.grid) := by
  have he : exec (.packKill t grp) s = if mayRelaunch (s.unit tm) g then
      .next ((s.unit tm).foldl (State.relaunch tm.grid) s) else .next (s.killGrid tm.grid .uncontained tm.team) := by
    show execPackKill t grp s = _
    unfold execPackKill
    rw [hs]
    dsimp only
    rw [hg]
    dsimp only
    rw [hu]
    rfl
  constructor
  · intro hm
    rw [hm] at he
    exact ⟨_, he, fun p hp => State.relaunch_all tm.grid _ s (.inl ⟨p, hp, rfl⟩)⟩
  · intro hm hc
    rw [hm] at he
    exact ⟨_, he, (State.killGrid_ends hg hc .uncontained tm.team).1⟩

/-! ## Halt windows and registers -/

theorem regdata_written {core slot : Nat} {x : Group} (hh : s.halted core slot = some (t, x)) (v : DWord) :
    exec (.regdataWrite core slot v) s =
      .next ((s.modGroup t x.grp (fun h => h.edit s.clk h.regsel (v.extractLsb' 0 32))).payCkpt t) := by
  show Host.Outcome.next (s.writeRegdata core slot _) = _
  rw [State.writeRegdata, hh]

theorem resume_badTarget {core slot l : Nat} {r : List Nat} {x : Group} (hh : s.halted core slot = some (t, x))
    (hb : Mask.lanes (s.badEdits (s.fetcher (.port t x.grp false)) x) x.width = l :: r) :
    exec (.cmdResume core slot) s = .next
      (s.haltAgain t x .badTarget (x.lane l).pc (s.badEdits (s.fetcher (.port t x.grp false)) x)) := by
  show Host.Outcome.next (s.resume core slot) = _
  unfold State.resume
  rw [hh]
  dsimp only
  rw [hb]

theorem resume_targets {core slot : Nat} {x : Group} (hh : s.halted core slot = some (t, x))
    (hb : Mask.lanes (s.badEdits (s.fetcher (.port t x.grp false)) x) x.width = []) :
    (∀ l, x.limbSplit = some l →
      exec (.cmdResume core slot) s = .next (s.haltAgain t x .divBound (x.lane l).pc (Mask.below x.limbs))) ∧
    (x.limbSplit = none →
      exec (.cmdResume core slot) s = .next (s.modGroup t x.grp (fun g => { g with halt := none }))) := by
  have he : exec (.cmdResume core slot) s = .next (match x.limbSplit with
      | some l => s.haltAgain t x .divBound (x.lane l).pc (Mask.below x.limbs)
      | none => s.modGroup t x.grp (fun g => { g with halt := none })) := by
    show Host.Outcome.next (s.resume core slot) = _
    unfold State.resume
    rw [hh]
    dsimp only
    rw [hb] <;> rfl
  constructor
  · intro l hl
    rw [hl] at he
    exact he
  · intro hl
    rw [hl] at he
    exact he

theorem register_written (a size : Nat) (x : DWord) :
    (∀ r, size ≠ 8 → mreg a = some r → exec (.registerWrite true a size x) s = .next (s.mwrite r (x.extractLsb' 0 32))) ∧
    (∀ r, size = 8 → a % 8 = 0 → hreg a = some r → exec (.registerWrite false a size x) s = .next (s.hput r x x)) ∧
    (size ≠ 4 → size ≠ 8 → exec (.registerWrite false a size x) s =
      .next { s with sched := { s.sched with accerr := true, accAt := some s.clk } }) := by
  refine ⟨fun r h8 hr => ?_, fun r h8 ha hr => ?_, fun h4 h8 => ?_⟩
  · show Host.Outcome.next (s.mspaceWrite a size x) = _
    rw [State.mspaceWrite, decide_eq_false h8, mregs_one hr]
    rfl
  · show Host.Outcome.next (s.hostWrite a size x) = _
    rw [State.hostWrite, show a / 8 * 8 = a by omega, hr]
    simp [hostOk, h8, ha]
  · show Host.Outcome.next (s.hostWrite a size x) = _
    rw [State.hostWrite, if_pos (by simp [hostOk, h4, h8])]
    rfl

end

/-- Settles O56: each event by the lemma of its case; the kills by what the end of teams leaves. -/
theorem preemptAndKillEvents : Obligations.PreemptAndKillEvents := by
  unfold Obligations.PreemptAndKillEvents
  refine ⟨fun s t tm g pr n v => prioPreempt_takes, fun s grid team t tm => preempt_found,
    fun s t tm g => preemptSave_saves, fun s n g => kill_ends, fun s core slot t g hh => ?_,
    fun s t grp tm g => packKill_ends, fun s => register_written⟩
  exact ⟨cmdKillTeam_ends hh, fun tm x => cmdKillGrid_ends hh, regdata_written hh, fun l r => resume_badTarget hh,
    resume_targets hh⟩

end Sys2Proof.Machine
end

section
/-! PROOFS. The budget period: how a core's slices follow their column, and how the columns are judged. -/
namespace Sys2Proof.Machine

/-! ## Tuning a core -/

theorem Slice.tune_tune (clamp : Bool) (lam : Nat) (x : Slice) :
    Slice.tune clamp lam (Slice.tune clamp lam x) = Slice.tune clamp lam x := by
  cases clamp <;> rfl

/-- One slice of each of the first `n`, changed in turn. -/
theorem Core.slice_fold (c : Core) (f : Slice → Slice) (n i : Nat) :
    ((upTo n).foldl (fun c i => c.modSlice i f) c).slice i = if i < n then f (c.slice i) else c.slice i := by
  induction n with
  | zero => rfl
  | succ n ih =>
    rw [upTo, List.range_succ, List.foldl_append, List.foldl_cons, List.foldl_nil]
    change (Core.modSlice ((upTo n).foldl (fun c i => c.modSlice i f) c) n f).slice i = _
    rw [Core.slice_modSlice]
    by_cases h : i = n
    · subst h
      rw [if_pos rfl, ih, if_neg (by omega), if_pos (by omega)]
    · rw [if_neg h, ih]
      exact ite_congr_iff (by omega) rfl rfl

/-- Changing slices leaves the rest of a core. -/
theorem Core.fold_modSlice (c : Core) (f : Slice → Slice) (n : Nat) :
    (upTo n).foldl (fun c i => c.modSlice i f) c =
      { c with slices := ((upTo n).foldl (fun c i => c.modSlice i f) c).slices } := by
  refine List.foldlRecOn (motive := fun d : Core => d = { c with slices := d.slices }) _ _ rfl fun d hd i _ => ?_
  rw [hd]
  rfl

/-- A change that asks for the clamp finds it as it was. -/
theorem Core.fold_clamp (c : Core) (f : Bool → Slice → Slice) (n : Nat) :
    (upTo n).foldl (fun c i => c.modSlice i (f c.clamp)) c = (upTo n).foldl (fun d i => d.modSlice i (f c.clamp)) c := by
  induction n with
  | zero => rfl
  | succ n ih =>
    rw [upTo, List.range_succ, List.foldl_append, List.foldl_append, List.foldl_cons, List.foldl_cons, List.foldl_nil,
      List.foldl_nil]
    change Core.modSlice ((upTo n).foldl (fun c i => c.modSlice i (f c.clamp)) c) n
      (f ((upTo n).foldl (fun c i => c.modSlice i (f c.clamp)) c).clamp) =
      Core.modSlice ((upTo n).foldl (fun d i => d.modSlice i (f c.clamp)) c) n (f c.clamp)
    rw [ih, Core.fold_modSlice]

theorem State.retune_core (s : State) (c d : Nat) : (s.retune c).core d =
    if d = c then (upTo 6).foldl (fun k i => k.modSlice i (Slice.tune (s.core c).clamp ((s.col (colOf c)).level (layerOf c))))
      (s.core c) else s.core d := by
  unfold State.retune
  dsimp only
  rw [State.core_modCore]
  exact ite_congr_iff Iff.rfl (Core.fold_clamp _ (fun b => Slice.tune b _) 6) rfl

/-- A core as tuning leaves it. -/
structure State.Tuned (cs : List Nat) (s u : State) : Prop where
  cols : u.cols = s.cols
  mem : u.mem = s.mem
  kennel : u.k = s.k
  clamp : ∀ d, (u.core d).clamp = (s.core d).clamp
  slice : ∀ d i, i < 6 → (u.core d).slice i = if d ∈ cs then
    Slice.tune (s.core d).clamp ((s.col (colOf d)).level (layerOf d)) ((s.core d).slice i) else (s.core d).slice i

theorem State.retune_tuned (s : State) (c : Nat) : State.Tuned [c] s (s.retune c) := by
  refine ⟨rfl, rfl, rfl, fun d => ?_, fun d i hi => ?_⟩
  · rw [State.retune_core]
    split
    · next h =>
      subst h
      rw [Core.fold_modSlice]
    · rfl
  · rw [State.retune_core]
    by_cases h : d = c
    · subst h
      rw [if_pos rfl, if_pos (by simp), Core.slice_fold, if_pos hi]
    · rw [if_neg h, if_neg (by simpa using h)]

theorem State.Tuned.append {cs ds : List Nat} {s u v : State} (h : State.Tuned cs s u) (h' : State.Tuned ds u v) :
    State.Tuned (cs ++ ds) s v := by
  have hcol (m : Nat) : u.col m = s.col m := congrArg (fun x => AMap.getD x m Column.init) h.cols
  refine ⟨h'.cols.trans h.cols, h'.mem.trans h.mem, h'.kennel.trans h.kennel, fun d => (h'.clamp d).trans (h.clamp d),
    fun d i hi => ?_⟩
  rw [h'.slice d i hi, h.slice d i hi, h.clamp, hcol]
  by_cases h1 : d ∈ cs <;> by_cases h2 : d ∈ ds <;> simp [h1, h2, Slice.tune_tune]

/-- Cores tuned in turn. -/
theorem State.retune_all (cs : List Nat) (s : State) : State.Tuned cs s (cs.foldl State.retune s) := by
  induction cs generalizing s with
  | nil => exact ⟨rfl, rfl, rfl, fun _ => rfl, fun d i _ => by simp⟩
  | cons c r ih => exact (s.retune_tuned c).append (ih _)

/-- The four cores of a column. -/
def coresOf (m : Nat) : List Nat := (upTo 4).map (fun l => 144 * l + m)

theorem retuneCol_eq (s : State) (m : Nat) : s.retuneCol m = (coresOf m).foldl State.retune s := by
  rw [State.retuneCol, coresOf, List.foldl_map]

theorem retuneCols_tuned (ms : List Nat) (s : State) : State.Tuned (ms.flatMap coresOf) s (ms.foldl State.retuneCol s) := by
  induction ms generalizing s with
  | nil => exact State.retune_all [] s
  | cons m r ih =>
    rw [List.flatMap_cons, List.foldl_cons]
    refine State.Tuned.append ?_ (ih _)
    rw [retuneCol_eq]
    exact State.retune_all ..

/-! ## Judging the columns -/

theorem judge_col (s : State) (cols : List ColPeriod) {m : Nat} (hm : m < 144) :
    (s.judge cols).col m = ((s.col m).period (periodOf cols m)).newBudget := by
  have key (n : Nat) : ((upTo n).foldl (fun s m => s.modCol m (fun c => (c.period (periodOf cols m)).newBudget)) s).col m =
      if m < n then ((s.col m).period (periodOf cols m)).newBudget else s.col m := by
    induction n with
    | zero => rfl
    | succ n ih =>
      rw [upTo, List.range_succ, List.foldl_append, List.foldl_cons, List.foldl_nil]
      change (State.modCol ((upTo n).foldl (fun s m => s.modCol m (fun c => (c.period (periodOf cols m)).newBudget)) s) n _).col
        m = _
      rw [State.col_modCol]
      by_cases h : m = n
      · subst h
        rw [if_pos rfl, ih, if_neg (by omega), if_pos (by omega)]
      · rw [if_neg h, ih]
        exact ite_congr_iff (by omega) rfl rfl
  rw [State.judge, key, if_pos hm]

/-- The judgement is of the columns alone. -/
theorem judge_left (s : State) (cols : List ColPeriod) :
    (s.judge cols).mem = s.mem ∧ (s.judge cols).k = s.k ∧ (s.judge cols).cores = s.cores ∧ (s.judge cols).clk = s.clk :=
  List.foldlRecOn (motive := fun u : State => u.mem = s.mem ∧ u.k = s.k ∧ u.cores = s.cores ∧ u.clk = s.clk) _ _
    ⟨rfl, rfl, rfl, rfl⟩ fun _ h _ _ => h

/-- The four-bit number whose bits are the layers that a test picks. -/
theorem ofNat_sum_bit (p : Nat → Bool) {j : Nat} (hj : j < 4) :
    (BitVec.ofNat 4 (((upTo 4).filter p).map (fun i => 2 ^ i)).sum).getLsbD j = p j := by
  have key : ∀ a b c d : Bool, ∀ j : Fin 4, (BitVec.ofNat 4 (((upTo 4).filter (fun i =>
      [a, b, c, d].getD i false)).map (fun i => 2 ^ i)).sum).getLsbD j = [a, b, c, d].getD j false := by decide
  have hp (i : Nat) (hi : i < 4) : [p 0, p 1, p 2, p 3].getD i false = p i := by
    obtain rfl | rfl | rfl | rfl : i = 0 ∨ i = 1 ∨ i = 2 ∨ i = 3 := by omega
    all_goals rfl
  have hf : (upTo 4).filter p = (upTo 4).filter (fun i => [p 0, p 1, p 2, p 3].getD i false) :=
    List.filter_congr fun i hi => (hp i (List.mem_range.mp hi)).symm
  rw [hf]
  exact (key _ _ _ _ ⟨j, hj⟩).trans (hp j hj)

theorem ColPeriod.hot_bit (x : ColPeriod) (lim : Nat) {i : Nat} (hi : i < 4) :
    (ColPeriod.hot x lim).getLsbD i = true ↔ lim < 4 * x.layersNJ.getD i 0 := by
  rw [ColPeriod.hot, ofNat_sum_bit _ hi, decide_eq_true_eq]

/-- What a period makes of a column. -/
theorem Column.period_budget (c : Column) (x : ColPeriod) :
    (c.period x).newBudget.budget = c.pendBudget.getD c.budget ∧ (c.period x).newBudget.pendBudget = none ∧
    (c.period x).newBudget.lam = (if 125 * c.budget < x.layersNJ.sum then min (c.lam + 1) 19
      else if 8 * x.layersNJ.sum ≤ 7 * (125 * c.budget) ∧ 3 ≤ c.low then c.lam - 1 else c.lam) ∧
    (c.period x).newBudget.hotLayers = ColPeriod.hot x (125 * c.budget) := by
  have hp : (c.period x).pendBudget = c.pendBudget ∧ (c.period x).budget = c.budget ∧
      (c.period x).lam = (if 125 * c.budget < x.layersNJ.sum then min (c.lam + 1) 19
        else if 8 * x.layersNJ.sum ≤ 7 * (125 * c.budget) ∧ 3 ≤ c.low then c.lam - 1 else c.lam) := by
    unfold Column.period ColPeriod.energy
    dsimp only
    split
    · exact ⟨rfl, rfl, rfl⟩
    · split
      · next h1 =>
        split
        · next h2 => exact ⟨rfl, rfl, (if_pos ⟨h1, h2⟩).symm⟩
        · next h2 => exact ⟨rfl, rfl, (if_neg fun h => h2 h.2).symm⟩
      · next h1 => exact ⟨rfl, rfl, (if_neg fun h => h1 h.1).symm⟩
  obtain ⟨hpend, hbud, hlam⟩ := hp
  unfold Column.newBudget
  rw [hpend]
  cases hb : c.pendBudget with
  | none => exact ⟨hbud, hpend.trans hb, hlam, rfl⟩
  | some b => exact ⟨rfl, rfl, hlam, rfl⟩

/-! ## The event -/

/-- The state once the columns have been judged and the budgets begin anew, no slice tuned yet. -/
def State.nextPeriod (s : State) (cols : List ColPeriod) (accs : List Nat) : State :=
  { s.judge cols with periodAt := s.clk,
                      k := { (s.judge cols).k.newPeriod with energy := addEnergies (s.judge cols).k.energy accs } }

theorem nextPeriod_core (s : State) (cols : List ColPeriod) (accs : List Nat) (d : Nat) :
    (s.nextPeriod cols accs).core d = s.core d := by
  obtain ⟨-, -, hcores, -⟩ := judge_left s cols
  unfold State.nextPeriod State.core
  dsimp only
  rw [hcores]

theorem nextPeriod_col (s : State) (cols : List ColPeriod) (accs : List Nat) {m : Nat} (hm : m < 144) :
    (s.nextPeriod cols accs).col m = ((s.col m).period (periodOf cols m)).newBudget := by
  have h := judge_col s cols hm
  unfold State.col at h ⊢
  unfold State.nextPeriod
  dsimp only
  exact h

/-- A column that was measured has its cores tuned. -/
theorem mem_toRetune (s : State) {cols : List ColPeriod} {m l : Nat} (hm : m < 144) (hl : l < 4)
    (hy : ∃ y ∈ cols, y.col = m) : 144 * l + m ∈ (s.toRetune (s.judge cols) cols).flatMap coresOf := by
  obtain ⟨y, hy, hym⟩ := hy
  refine List.mem_flatMap.mpr ⟨m, List.mem_filter.mpr ⟨List.mem_range.mpr hm, ?_⟩,
    List.mem_map.mpr ⟨l, List.mem_range.mpr hl, rfl⟩⟩
  rw [List.any_eq_true.mpr ⟨y, hy, decide_eq_true hym⟩]
  rfl

/-- The state after a budget period. -/
def State.tuned (s : State) (cols : List ColPeriod) (accs : List Nat) : State :=
  (s.toRetune (s.judge cols) cols).foldl State.retuneCol (s.nextPeriod cols accs)

theorem tuned_tuned (s : State) (cols : List ColPeriod) (accs : List Nat) :
    State.Tuned ((s.toRetune (s.judge cols) cols).flatMap coresOf) (s.nextPeriod cols accs) (s.tuned cols accs) :=
  retuneCols_tuned ..

theorem tuned_col (s : State) (cols : List ColPeriod) (accs : List Nat) {m : Nat} (hm : m < 144) :
    (s.tuned cols accs).col m = ((s.col m).period (periodOf cols m)).newBudget := by
  rw [← nextPeriod_col s cols accs hm, State.col, (tuned_tuned s cols accs).cols]
  rfl

/-- A slice of a column that was measured follows the column's level, its ceilings and its core's clamp. -/
theorem tuned_slice (s : State) {cols : List ColPeriod} (accs : List Nat) {m l i : Nat} (hm : m < 144) (hl : l < 4) (hi : i < 6)
    (hy : ∃ y ∈ cols, y.col = m) : ((s.tuned cols accs).core (144 * l + m)).slice i =
      Slice.tune (s.core (144 * l + m)).clamp (((s.tuned cols accs).col m).level l) ((s.core (144 * l + m)).slice i) := by
  have hcm : colOf (144 * l + m) = m := by rw [colOf]; omega
  have hlm : layerOf (144 * l + m) = l := by rw [layerOf]; omega
  have hs := (tuned_tuned s cols accs).slice (144 * l + m) i hi
  rw [if_pos (mem_toRetune s hm hl hy), nextPeriod_core, hcm, hlm, nextPeriod_col s cols accs hm] at hs
  rw [hs, tuned_col s cols accs hm]

theorem budgetPeriod_ends {s : State} (cols : List ColPeriod) (accs : List Nat) (hp : s.periodAt + 4000 ≤ s.clk) :
    ∃ u, exec (.budgetPeriod cols accs) s = .next u ∧ u.k.energy = addEnergies s.k.energy accs ∧ u.mem = s.mem ∧
      ∀ m, m < 144 → let c := s.col m
        let x : ColPeriod := (cols.find? (fun x => x.col = m)).getD ⟨m, []⟩
        (u.col m).budget = c.pendBudget.getD c.budget ∧ (u.col m).pendBudget = none ∧
        (u.col m).lam = (if 125 * c.budget < x.layersNJ.sum then min (c.lam + 1) 19
          else if 8 * x.layersNJ.sum ≤ 7 * (125 * c.budget) ∧ 3 ≤ c.low then c.lam - 1 else c.lam) ∧
        (∀ i, i < 4 → ((u.col m).hotLayers.getLsbD i = true ↔ 125 * c.budget < 4 * x.layersNJ.getD i 0)) ∧
        ((∃ y ∈ cols, y.col = m) → ∀ l i, l < 4 → i < 6 →
          let core := 144 * l + m
          let z := (s.core core).slice i
          let lam := if (u.col m).hotLayers.getLsbD l then (u.col m).lam else 0
          ((u.core core).slice i) = if (s.core core).clamp then { z with g := 1, target := 4 } else { z with
            g := min (if lam ≤ 7 then 8 - lam else 1) z.gcap,
            target := min (if lam ≤ 7 then 16 else 16 - (lam - 7)) z.kcap }) := by
  have ht := tuned_tuned s cols accs
  refine ⟨s.tuned cols accs, ?_, ?_, ?_, fun m hm => ?_⟩
  · show execBudgetPeriod cols accs s = _
    unfold execBudgetPeriod
    rw [if_neg (by rw [usec]; omega)]
    dsimp only
    rw [State.tuned, State.nextPeriod]
  · rw [ht.kennel, State.nextPeriod, (judge_left s cols).2.1]
  · rw [ht.mem, State.nextPeriod, (judge_left s cols).1]
  · obtain ⟨hb, hpend, hlam, hhot⟩ := (s.col m).period_budget (periodOf cols m)
    rw [← tuned_col s cols accs hm] at hb hpend hlam hhot
    refine ⟨hb, hpend, hlam, fun i hi => ?_, fun hy l i hl hi => tuned_slice s accs hm hl hi hy⟩
    rw [hhot]
    exact ColPeriod.hot_bit _ _ hi

end Sys2Proof.Machine
end

section
/-! PROOFS. Hops, stretches, the Leash, the Shepherd and the end of a migration; the statement on the events of power. -/
namespace Sys2Proof.Machine

section
variable {s : State} {core slice : Nat}

/-! ## Hops -/

/-- The slice as a change of its core leaves it. -/
theorem slice_changed (s : State) (core slice : Nat) (f : Slice → Slice) :
    ((s.modCore core (fun c => c.modSlice slice f)).core core).slice slice = f ((s.core core).slice slice) := by
  rw [State.core_modCore, if_pos rfl, Core.slice_modSlice, if_pos rfl]

/-- A hop may begin only where the clock is not stretched. -/
theorem mayHop_stretch (h : s.mayHop core slice = true) :
    (s.core core).stretch = none ∧ ((s.core core).slice slice).k ≠ ((s.core core).slice slice).target := by
  simp only [State.mayHop, Bool.and_eq_true, decide_eq_true_eq, Option.isNone_iff_eq_none] at h
  exact ⟨h.1.2, h.1.1.1⟩

theorem hop_begins (h : s.mayHop core slice = true) (hr : ((s.core core).slice slice).retryAt = none) :
    ∃ u, exec (.hopBegin core slice) s = .next u ∧
      ((u.core core).slice slice) = { (s.core core).slice slice with
        hop := some ⟨if ((s.core core).slice slice).k < ((s.core core).slice slice).target then
          ((s.core core).slice slice).k + 1 else ((s.core core).slice slice).k - 1, s.clk⟩ } := by
  have he : exec (.hopBegin core slice) s =
      .next (s.modCore core (fun c => c.modSlice slice (fun x => x.beginHop s.clk))) := by
    show execHopBegin core slice s = _
    unfold execHopBegin
    rw [if_neg (by rw [(mayHop_stretch h).1]; simp), if_pos (by simp [h, hr])]
  refine ⟨_, he, ?_⟩
  rw [slice_changed, Slice.beginHop, Slice.step, ← hr]

theorem hop_abandoned (h : s.hopDue core slice = true) (ht : (s.core core).stretch = some s.clk) :
    ∃ u, exec (.hopBegin core slice) s = .next u ∧
      ((u.core core).slice slice) = { (s.core core).slice slice with retryAt := some s.clk } := by
  have he : exec (.hopBegin core slice) s =
      .next (s.modCore core (fun c => c.modSlice slice (fun x => { x with retryAt := some s.clk }))) := by
    show execHopBegin core slice s = _
    unfold execHopBegin
    rw [if_pos (by simp [h, ht])]
  exact ⟨_, he, slice_changed ..⟩

theorem hop_ends {h : Hop} (hh : ((s.core core).slice slice).hop = some h) (hc : h.began + 64 ≤ s.clk) :
    ∃ u, exec (.hopEnd core slice) s = .next u ∧
      ((u.core core).slice slice) = { (s.core core).slice slice with k := h.goal, hop := none } ∧
      (u.core core).hops = ((s.core core).hops + 1) % 2 ^ 64 := by
  refine ⟨s.modCore core (fun c =>
    { c.modSlice slice (fun x => { x with k := h.goal, hop := none }) with hops := (c.hops + 1) % 2 ^ 64 }), ?_, ?_, ?_⟩
  · show execHopEnd core slice s = _
    unfold execHopEnd
    rw [hh]
    dsimp only
    rw [if_pos hc]
  · rw [State.core_modCore, if_pos rfl]
    exact (Core.slice_modSlice (s.core core) slice slice fun x => { x with k := h.goal, hop := none }).trans (if_pos rfl)
  · rw [State.core_modCore, if_pos rfl]

theorem hop_retries {t : Nat} (hr : ((s.core core).slice slice).retryAt = some t) (ht : t ≤ s.clk)
    (hs : (s.core core).stretch = none) :
    (((s.core core).slice slice).k = ((s.core core).slice slice).target → ∃ u, exec (.hopRetry core slice) s = .next u ∧
      ((u.core core).slice slice) = { (s.core core).slice slice with retryAt := none }) ∧
    (s.mayHop core slice = true → ∃ u, exec (.hopRetry core slice) s = .next u ∧
      ((u.core core).slice slice) = { (s.core core).slice slice with
        hop := some ⟨if ((s.core core).slice slice).k < ((s.core core).slice slice).target then
          ((s.core core).slice slice).k + 1 else ((s.core core).slice slice).k - 1, s.clk⟩, retryAt := none }) := by
  have hb : (decide (s.clk < t) || (s.core core).stretch.isSome) = false := by simp [hs, ht]
  have he : exec (.hopRetry core slice) s =
      (if ((s.core core).slice slice).k = ((s.core core).slice slice).target then
        .next (s.modCore core (fun c => c.modSlice slice (fun x => { x with retryAt := none })))
      else if s.mayHop core slice then .next (s.modCore core (fun c => c.modSlice slice (fun x => x.beginHop s.clk)))
      else .next s) := by
    show execHopRetry core slice s = _
    unfold execHopRetry
    simp only [hr, hb]
    rfl
  constructor
  · intro hk
    rw [if_pos hk] at he
    exact ⟨_, he, slice_changed ..⟩
  · intro hm
    rw [if_neg (mayHop_stretch hm).2, if_pos hm] at he
    exact ⟨_, he, slice_changed ..⟩

/-! ## The Leash -/

theorem leash_starts {d n : Nat} {r : List Nat} (hd : d = ((s.core core).slice slice).issued.length)
    (hi : ((s.core core).slice slice).issued = n :: r) (hr : ((s.core core).slice slice).room < 2 * d)
    (hn : n + 16 ≤ s.clk) (hs : ((s.core core).slice slice).sank ≠ some n) :
    ∃ u, exec (.leashTrigger core slice d) s = .next u ∧
      ((u.core core).slice slice) = { (s.core core).slice slice with
        leash := some ⟨d, ((s.core core).slice slice).room, 0, s.clk⟩, sank := some n } := by
  subst hd
  have hk : ((s.core core).slice slice).sinks s.clk = true := by
    rw [Slice.sinks, hi]
    rw [hi, List.length_cons] at hr
    simp [hr, hn, hs]
  have he : exec (.leashTrigger core slice ((s.core core).slice slice).issued.length) s =
      .next (s.modCore core (fun c => c.modSlice slice (fun x =>
        { x with leash := some ⟨x.issued.length, x.room, 0, s.clk⟩, sank := x.issued.head? }))) := by
    show execLeashTrigger core slice _ s = _
    unfold execLeashTrigger
    rw [if_pos (by simp [hk])]
  refine ⟨_, he, ?_⟩
  rw [slice_changed, show some n = ((s.core core).slice slice).issued.head? by rw [hi]; rfl]

theorem leash_fades {l : Leash} (hl : ((s.core core).slice slice).leash = some l) (ht : l.at_ + 500 ≤ s.clk) :
    ∃ u, exec (.leashStep core slice) s = .next u ∧ ((u.core core).slice slice) = { (s.core core).slice slice with
      leash := if 15 ≤ l.step then none else some { l with step := l.step + 1, at_ := l.at_ + 500 } } := by
  have he : exec (.leashStep core slice) s = .next (s.modCore core (fun c => c.modSlice slice (fun x =>
      { x with leash := if 15 ≤ l.step then none else some { l with step := l.step + 1, at_ := l.at_ + 500 } }))) := by
    show execLeashStep core slice s = _
    unfold execLeashStep
    rw [hl]
    dsimp only
    rw [if_pos ht]
  exact ⟨_, he, slice_changed ..⟩

/-! ## Stretches -/

theorem AMap.get?_map {α : Type} (m : AMap α) (f : Nat → α → α) (n : Nat) :
    AMap.get? (m.map (fun p => (p.1, f p.1 p.2))) n = (AMap.get? m n).map (f n) := by
  induction m with
  | nil => rfl
  | cons p r ih =>
    obtain ⟨k, x⟩ := p
    simp only [List.map_cons, AMap.get?]
    split
    · next h =>
      subst h
      rfl
    · exact ih

/-- Each listed slice changed, and one that is not listed, where the change would leave it as it is. -/
theorem Core.slice_map (c : Core) (f : Nat → Slice → Slice) (i : Nat) :
    ({ c with slices := c.slices.map (fun p => (p.1, f p.1 p.2)) } : Core).slice i =
      ((AMap.get? c.slices i).map (f i)).getD Slice.init := by
  rw [Core.slice, AMap.getD, AMap.get?_map]

theorem droop_stretches (s : State) (core : Nat) : ∃ u, exec (.droopStretch core) s = .next u ∧
    (u.core core).stretch = some s.clk ∧
    ∀ i, ((u.core core).slice i).hop = none ∧ ((u.core core).slice i).k = ((s.core core).slice i).k ∧
      ((((s.core core).slice i).hop.isSome = true ∨ ((s.core core).stretch = none ∧ s.hopDue core i = true)) →
        ((u.core core).slice i).retryAt = some s.clk) := by
  refine ⟨_, rfl, ?_, fun i => ?_⟩
  · rw [State.core_modCore, if_pos rfl]
  · rw [State.core_modCore, if_pos rfl]
    have hs : (s.core core).slice i = (AMap.get? (s.core core).slices i).getD Slice.init := rfl
    have hu := Core.slice_map (s.core core) (fun j x => x.abandonHop ((s.core core).stretch.isNone && s.hopDue core j) s.clk) i
    have hd : s.hopDue core i = true → ((s.core core).slice i).k ≠ ((s.core core).slice i).target := by
      intro h
      simp only [State.hopDue, Bool.and_eq_true, decide_eq_true_eq] at h
      exact h.1.1.1
    change (Core.slice { s.core core with slices := _ } i).hop = none ∧ (Core.slice { s.core core with slices := _ } i).k = _ ∧
      (_ → (Core.slice { s.core core with slices := _ } i).retryAt = some s.clk)
    rw [hu]
    cases hx : AMap.get? (s.core core).slices i with
    | none =>
      rw [hx] at hs
      rw [hs] at hd ⊢
      exact ⟨rfl, rfl, fun h => absurd h (by simp [Slice.init, show s.hopDue core i = false by simpa [Slice.init] using hd])⟩
    | some x =>
      rw [hx] at hs
      rw [hs]
      simp only [Option.map_some, Option.getD_some, Slice.abandonHop]
      split
      · exact ⟨rfl, rfl, fun _ => rfl⟩
      · next hn =>
        simp only [Bool.or_eq_true, Bool.and_eq_true, not_or, Option.isNone_iff_eq_none] at hn
        exact ⟨by simpa using hn.1, rfl, fun h => absurd h (by grind)⟩

theorem stretch_ends {t : Nat} (ht : (s.core core).stretch = some t) (hc : t + 64 ≤ s.clk) :
    ∃ u, exec (.stretchEnd core) s = .next u ∧ (u.core core).stretch = none ∧
      ∀ i, ((u.core core).slice i).retryAt =
        ((s.core core).slice i).retryAt.map (fun r => if r ≤ s.clk then s.clk + 256 else r) := by
  have he : exec (.stretchEnd core) s = .next (s.modCore core (fun c =>
      { c with stretch := none,
               slices := c.slices.map (fun p => (p.1, { p.2 with
                 retryAt := p.2.retryAt.map (fun r => if r ≤ s.clk then s.clk + 256 else r) })) })) := by
    show execStretchEnd core s = _
    unfold execStretchEnd
    rw [ht]
    dsimp only
    rw [if_pos hc]
  refine ⟨_, he, ?_, fun i => ?_⟩
  · rw [State.core_modCore, if_pos rfl]
  · rw [State.core_modCore, if_pos rfl]
    have hs : (s.core core).slice i = (AMap.get? (s.core core).slices i).getD Slice.init := rfl
    have hu := Core.slice_map (s.core core) (fun _ x => { x with
      retryAt := x.retryAt.map (fun r => if r ≤ s.clk then s.clk + 256 else r) }) i
    refine (congrArg Slice.retryAt hu).trans ?_
    rw [hs]
    cases AMap.get? (s.core core).slices i <;> rfl

end

/-! ## The Shepherd -/

/-- Tuning leaves all of a core but its slices. -/
theorem State.retune_rest (s : State) (c d : Nat) : ∃ x, (s.retune c).core d = { s.core d with slices := x } := by
  rw [State.retune_core]
  split
  · next h =>
    subst h
    exact ⟨_, Core.fold_modSlice ..⟩
  · exact ⟨_, rfl⟩

/-- The clamp after a reading. -/
def State.clampAt (s : State) (core : Nat) : Bool :=
  if (s.k.crit : Int) ≤ (s.core core).diode then true
  else if (s.core core).diode < s.k.hot then false else (s.core core).clamp

/-- The core as its diode is read. -/
def State.readNow (s : State) (core : Nat) : State :=
  s.modCore core (fun c => { c with
    deg := c.diode, hot := (s.k.hot : Int) < c.diode, clamp := s.clampAt core })

theorem readDiode_eq (s : State) (core : Nat) : s.readDiode core =
    if s.clampAt core ≠ (s.core core).clamp then ((s.readNow core).kpend 4).retune core else s.readNow core := rfl

/-- A reading but for the slices. -/
theorem readDiode_core (s : State) (c d : Nat) : ∃ x, (s.readDiode c).core d = { (s.readNow c).core d with slices := x } := by
  rw [readDiode_eq]
  split
  · exact State.retune_rest ((s.readNow c).kpend 4) c d
  · exact ⟨_, rfl⟩

/-- What the readings of some cores leave: of each the diode's temperature, HOT and the clamp. -/
structure State.Reads (cs : List Nat) (s u : State) : Prop where
  hot : u.k.hot = s.k.hot
  crit : u.k.crit = s.k.crit
  readAt : u.readAt = s.readAt
  diode : ∀ c, (u.core c).diode = (s.core c).diode
  read : ∀ c ∈ cs, (u.core c).deg = (s.core c).diode ∧
    (u.core c).hot = decide ((s.k.hot : Int) < (s.core c).diode) ∧ (u.core c).clamp = s.clampAt c
  others : ∀ c, c ∉ cs → (u.core c).deg = (s.core c).deg ∧ (u.core c).hot = (s.core c).hot ∧
    (u.core c).clamp = (s.core c).clamp

theorem State.readDiode_reads (s : State) (c : Nat) : State.Reads [c] s (s.readDiode c) := by
  have hk : (s.readDiode c).k.hot = s.k.hot ∧ (s.readDiode c).k.crit = s.k.crit ∧ (s.readDiode c).readAt = s.readAt := by
    rw [readDiode_eq]
    split <;> exact ⟨rfl, rfl, rfl⟩
  obtain ⟨hhot, hcrit, hat⟩ := hk
  refine ⟨hhot, hcrit, hat, fun d => ?_, fun d hd => ?_, fun d hd => ?_⟩
  · obtain ⟨x, hx⟩ := readDiode_core s c d
    rw [hx, State.readNow, State.core_modCore]
    split
    · next h => rw [h]
    · rfl
  · obtain rfl := List.mem_singleton.mp hd
    obtain ⟨x, hx⟩ := readDiode_core s d d
    rw [hx, State.readNow, State.core_modCore, if_pos rfl]
    exact ⟨rfl, rfl, rfl⟩
  · obtain ⟨x, hx⟩ := readDiode_core s c d
    rw [hx, State.readNow, State.core_modCore, if_neg (by simpa using hd)]
    exact ⟨rfl, rfl, rfl⟩

theorem State.Reads.append {cs ds : List Nat} {s u v : State} (h : State.Reads cs s u) (h' : State.Reads ds u v) :
    State.Reads (cs ++ ds) s v := by
  have hclamp (c : Nat) : u.clampAt c = s.clampAt c := by
    unfold State.clampAt
    rw [h.crit, h.hot, h.diode]
    by_cases hc : c ∈ cs
    · rw [(h.read c hc).2.2, State.clampAt]
      (repeat' split) <;> rfl
    · rw [(h.others c hc).2.2]
  refine ⟨h'.hot.trans h.hot, h'.crit.trans h.crit, h'.readAt.trans h.readAt, fun c => (h'.diode c).trans (h.diode c),
    fun c hc => ?_, fun c hc => ?_⟩
  · by_cases hd : c ∈ ds
    · obtain ⟨h1, h2, h3⟩ := h'.read c hd
      rw [h1, h2, h3, hclamp, h.diode, h.hot]
      exact ⟨rfl, rfl, rfl⟩
    · obtain ⟨h1, h2, h3⟩ := h'.others c hd
      rw [h1, h2, h3]
      exact h.read c ((List.mem_append.mp hc).resolve_right hd)
  · rw [List.mem_append, not_or] at hc
    obtain ⟨h1, h2, h3⟩ := h'.others c hc.2
    rw [h1, h2, h3]
    exact h.others c hc.1

theorem State.readDiodes_reads (cs : List Nat) (s : State) : State.Reads cs s (cs.foldl State.readDiode s) := by
  induction cs generalizing s with
  | nil => exact ⟨rfl, rfl, rfl, fun _ => rfl, by simp, fun _ _ => ⟨rfl, rfl, rfl⟩⟩
  | cons c r ih => exact (s.readDiode_reads c).append (ih _)

/-- The Shepherd begins migrations only. -/
theorem shepherd_left (s : State) (es : List TeamEnergy) (c : Nat) :
    (s.shepherd es c).cores = s.cores ∧ (s.shepherd es c).readAt = s.readAt := by
  unfold State.shepherd
  split
  · exact ⟨rfl, rfl⟩
  · split
    · exact ⟨rfl, rfl⟩
    · split
      · exact ⟨rfl, rfl⟩
      · split <;> exact ⟨rfl, rfl⟩

theorem shepherds_left (l : List Nat) (s : State) (es : List TeamEnergy) :
    (l.foldl (fun s c => s.shepherd es c) s).cores = s.cores ∧ (l.foldl (fun s c => s.shepherd es c) s).readAt = s.readAt :=
  List.foldlRecOn (motive := fun u : State => u.cores = s.cores ∧ u.readAt = s.readAt) l _ ⟨rfl, rfl⟩ fun u hu c _ => by
    obtain ⟨h1, h2⟩ := shepherd_left u es c
    exact ⟨h1.trans hu.1, h2.trans hu.2⟩

theorem reading_early {s : State} (es : List TeamEnergy) (h : ∃ t, s.readAt = some t ∧ s.clk < t + 40000) :
    exec (.shepherdReading es) s = .next s := by
  obtain ⟨t, ht, hc⟩ := h
  show execShepherdReading es s = _
  unfold execShepherdReading
  rw [if_pos (by rw [ht]; simp [usec, hc])]

theorem reading_taken {s : State} (es : List TeamEnergy) (hr : s.released = true)
    (ht : ∀ t, s.readAt = some t → t + 40000 ≤ s.clk) :
    ∃ u, exec (.shepherdReading es) s = .next u ∧ u.readAt = some s.clk ∧
    ∀ c ∈ s.cores.map Prod.fst, (u.core c).deg = (s.core c).diode ∧
      (u.core c).hot = decide ((s.k.hot : Int) < (s.core c).diode) ∧
      (u.core c).clamp = if (s.k.crit : Int) ≤ (s.core c).diode then true
        else if (s.core c).diode < s.k.hot then false else (s.core c).clamp := by
  have hn : (!s.released || s.readAt.any (fun t => s.clk < t + 10 * usec)) = false := by
    rw [hr]
    cases ha : s.readAt with
    | none => rfl
    | some t => exact decide_eq_false (Nat.not_lt.mpr (ht t ha))
  have he : exec (.shepherdReading es) s = .next ((upTo 144).foldl (fun s c => s.shepherd es c)
      ((s.cores.map Prod.fst).foldl State.readDiode { s with readAt := some s.clk })) := by
    show execShepherdReading es s = _
    unfold execShepherdReading
    rw [hn]
    exact if_neg Bool.false_ne_true
  obtain ⟨h1, h2⟩ := shepherds_left (upTo 144) ((s.cores.map Prod.fst).foldl State.readDiode { s with readAt := some s.clk }) es
  have hreads := State.readDiodes_reads (s.cores.map Prod.fst) { s with readAt := some s.clk }
  refine ⟨_, he, h2.trans hreads.readAt, fun c hc => ?_⟩
  rw [State.core, h1]
  exact hreads.read c hc

/-! ## Migrations -/

theorem placeSaved_get {gs : List Group} {slots : List (Nat × Nat)} {i : Nat} {g : Group} (hg : gs[i]? = some g)
    (hi : i < slots.length) : ∃ p : Nat × Nat, (placeSaved gs slots)[i]? = some { g with slice := p.1, slot := p.2 } := by
  refine ⟨slots[i], ?_⟩
  rw [placeSaved, List.getElem?_zipWith, hg, List.getElem?_eq_getElem hi]

theorem State.charge_left (s : State) (j u n : Nat) : (s.charge j u n).teams = s.teams ∧ (s.charge j u n).mem = s.mem := by
  unfold State.charge
  split <;> exact ⟨rfl, rfl⟩

theorem migration_ends {s : State} {t : Nat} {tm : Team} {m : Migration} (hs : s.team? t = some tm) (hm : tm.mig = some m)
    (hmoved : s.moved t tm = true) (ho : s.overtaken tm = false) (hl : s.left 4 (colOf tm.core) = true) :
    ∃ u y, exec (.migrationEnd t) s = .next u ∧ u.team? t = some y ∧ y.core = m.dst ∧ y.mig = none ∧
      y.scratch = tm.scratch ∧ y.acc = tm.acc ∧ y.cmds = tm.cmds ∧ y.staged = tm.staged ∧ u.mem = s.mem ∧
      ∀ gi g, tm.group? gi = some g → gi < m.slots.length → ∃ h, y.group? gi = some h ∧ h.lanes = g.lanes ∧
        h.sregs = g.sregs ∧ h.preds = g.preds ∧ h.tiles = g.tiles ∧ h.ops = g.ops ∧ h.limbs = g.limbs ∧
        h.lcarry = g.lcarry ∧ h.fpctl = g.fpctl ∧ h.fpflags = g.fpflags ∧ h.flying = g.flying ∧ h.gstat = g.gstat ∧
        h.ternbad = g.ternbad ∧ h.svmask = g.svmask ∧ h.marks = g.marks ∧ h.retained = g.retained ∧ h.idle = g.idle := by
  have he : exec (.migrationEnd t) s = .next ((s.arrive t tm m).charge 4 (colOf tm.core) (tm.moveBytes s)) := by
    show execMigrationEnd t s = _
    unfold execMigrationEnd
    rw [hs]
    dsimp only
    rw [hm]
    dsimp only
    rw [ho, hmoved, hl]
    rfl
  obtain ⟨h1, h2⟩ := (s.arrive t tm m).charge_left 4 (colOf tm.core) (tm.moveBytes s)
  refine ⟨_, (({ tm with core := m.dst, groups := placeSaved tm.groups m.slots, mig := none, moveAt := s.clk } : Team).count
    0 1).count 1 (s.clk - tm.frozeAt m), he, ?_, rfl, rfl, rfl, rfl, rfl, rfl, h2, fun gi g hg hi => ?_⟩
  · rw [State.team?, h1]
    unfold State.arrive
    dsimp only
    rw [State.modTeam, AMap.get?_update, if_pos rfl]
    exact congrArg (Option.map _) hs
  · obtain ⟨p, hp⟩ := placeSaved_get (slots := m.slots) hg hi
    exact ⟨_, hp, rfl, rfl, rfl, rfl, rfl, rfl, rfl, rfl, rfl, rfl, rfl, rfl, rfl, rfl, rfl, rfl⟩

/-- Settles O57: each event by the lemma of its case. -/
theorem powerEvents : Obligations.PowerEvents := by
  unfold Obligations.PowerEvents
  refine ⟨fun s => budgetPeriod_ends, fun s core slice => ?_, fun s core => ⟨droop_stretches s core, fun t => stretch_ends⟩,
    fun s es => reading_early es, fun s es => reading_taken es, fun s t tm m => migration_ends⟩
  exact ⟨hop_begins, hop_abandoned, fun h => hop_ends, fun t => hop_retries, fun d n r => leash_starts, fun l => leash_fades⟩

end Sys2Proof.Machine
end

section
/-! PROOFS. The scan rotation, integrity errors and the coolant. -/
namespace Sys2Proof.Machine

/-! ## What records and interrupts leave -/

/-- Only non-volatile memory and the pending interrupts have changed, and none of those is lost. -/
def State.Logs (s u : State) : Prop :=
  ∃ n b x y, u = { s with nvm := n, k := { s.k with kipend := s.k.kipend ||| b, pendAt := x, pendNew := y } }

namespace State.Logs

variable {s u v : State}

theorem refl (s : State) : s.Logs s := ⟨s.nvm, 0, s.k.pendAt, s.k.pendNew, by simp⟩

theorem trans (h : s.Logs u) (h' : u.Logs v) : s.Logs v := by
  obtain ⟨n, b, x, y, rfl⟩ := h
  obtain ⟨n', b', x', y', rfl⟩ := h'
  exact ⟨n', b ||| b', x', y', by simp [BitVec.or_assoc]⟩

theorem of_nvm (s : State) (n : Nvm) : s.Logs { s with nvm := n } := ⟨n, 0, s.k.pendAt, s.k.pendNew, by simp⟩

theorem kpend (s : State) (v : Nat) : s.Logs (s.kpend v) := ⟨s.nvm, BitVec.ofNat 32 (2 ^ v), _, _, rfl⟩

/-- An interrupt that was pending is pending. -/
theorem pending (h : s.Logs u) {v : Nat} (hv : s.k.kipend.getLsbD v = true) : u.k.kipend.getLsbD v = true := by
  obtain ⟨n, b, x, y, rfl⟩ := h
  simp [hv]

end State.Logs

theorem kpend_pending (s : State) {v : Nat} (hv : v < 32) : (s.kpend v).k.kipend.getLsbD v = true := by
  have key : ∀ j : Fin 32, (BitVec.ofNat 32 (2 ^ j.val)).getLsbD j.val = true := by decide
  have h := key ⟨v, hv⟩
  rw [State.kpend_k]
  simp only [BitVec.getLsbD_or, h, Bool.or_true]

theorem State.log_logs (s : State) (type sev src : Nat) (data : List Word) (under : Nat) :
    s.Logs (s.log type sev src data under) := by
  unfold State.log
  dsimp only
  split
  · exact (State.Logs.of_nvm s _).trans (State.Logs.kpend _ 9)
  · exact State.Logs.of_nvm s _

theorem State.log_seq (s : State) (type sev src : Nat) (data : List Word) (under : Nat) :
    (s.log type sev src data under).nvm.logSeq = s.nvm.logSeq + 1 := by
  unfold State.log
  dsimp only
  split <;> rfl

theorem State.hwLog_logs (s : State) (type : Nat) (sev : Option Nat) (src : Nat) (facts : List Nat) :
    s.Logs (s.hwLog type sev src facts) := State.log_logs ..

theorem State.hwLog_seq (s : State) (type : Nat) (sev : Option Nat) (src : Nat) (facts : List Nat) :
    (s.hwLog type sev src facts).nvm.logSeq = s.nvm.logSeq + 1 := State.log_seq ..

/-! ## Repairs -/

theorem State.retireBlock_logs (s : State) (b : Nat) : s.Logs (s.retireBlock b) := by
  unfold State.retireBlock
  split
  · exact .refl s
  · dsimp only
    split
    · exact State.hwLog_logs ..
    · exact (State.Logs.of_nvm s _).trans (State.hwLog_logs ..)

theorem State.retireBank_logs (s : State) (r : Repair) : s.Logs (s.retireBank r) :=
  List.foldlRecOn (motive := fun u : State => s.Logs u) _ _ (.refl s) fun u hu b _ => hu.trans (u.retireBlock_logs b)

theorem State.addRepair_logs (s : State) (r : Repair) : s.Logs (s.addRepair r) := by
  have hlog (n : Nvm) (x : Repair) : s.Logs (({ s with nvm := n } : State).logRepair x) :=
    (State.Logs.of_nvm s n).trans (State.hwLog_logs ..)
  unfold State.addRepair
  dsimp only
  split
  · exact State.hwLog_logs ..
  · split
    · exact (hlog _ _).trans (State.retireBank_logs ..)
    · exact hlog _ _

theorem State.noteRepair_logs (s : State) (k : EccKind) (r : Option Repair) : s.Logs (s.noteRepair k r) := by
  unfold State.noteRepair
  split
  · exact State.addRepair_logs ..
  · dsimp only
    split
    · exact (State.addRepair_logs ..).trans (.of_nvm _ _)
    · exact .of_nvm s _
  · exact .refl s

/-! ## Errors -/

theorem State.logSite_logs (s old : State) (x : EccSite) (a : Nat) : s.Logs (s.logSite old x a) := by
  unfold State.logSite
  split
  · exact .refl s
  · exact State.hwLog_logs ..

theorem State.Logs.mem {s u : State} (h : s.Logs u) : u.mem = s.mem := by
  obtain ⟨n, b, x, y, rfl⟩ := h
  rfl

theorem State.Logs.poison {s u : State} (h : s.Logs u) : u.poison = s.poison := by
  obtain ⟨n, b, x, y, rfl⟩ := h
  rfl

/-- Poison changes no byte of memory. -/
theorem State.poisonSite_mem (s : State) (x : EccSite) : (s.poisonSite x).mem = s.mem := by
  cases x with
  | line pa =>
    unfold State.poisonSite State.poisonLine
    dsimp only
    split
    · rfl
    · exact (State.hwLog_logs ..).mem
  | scratch t off =>
    unfold State.poisonSite State.poisonGranule
    dsimp only
    split
    · split
      · rfl
      · exact (State.hwLog_logs ..).mem
    · rfl
  | vreg t g l n => exact (State.logSite_logs ..).mem
  | sreg t g n => exact (State.logSite_logs ..).mem
  | accRow t tile row col =>
    unfold State.poisonSite
    dsimp only
    split
    · rfl
    · exact (State.logSite_logs ..).mem
  | engine t g op => rfl
  | sram a => exact (State.logSite_logs ..).mem

theorem State.correctSite_mem (s : State) (x : EccSite) : (s.correctSite x).mem = s.mem := by
  unfold State.correctSite
  split
  · dsimp only
    split <;> rfl
  · rfl
  · rfl

/-- An error of a line poisons it. -/
theorem State.poisonLine_mem (s : State) (l : Nat) : l ∈ (s.poisonLine l).poison := by
  unfold State.poisonLine
  split
  · next h => simpa using h
  · rw [State.logPoison, (State.hwLog_logs ..).poison]
    exact Group.mem_setIns.mpr (.inr rfl)

theorem ecc_found (s : State) (x : EccSite) (k : EccKind) (r : Option Repair) :
    (s.found x k r).mem = s.mem ∧ (k = .clean → s.found x k r = s) ∧
      (k ≠ .clean → (s.found x k r).k.kipend.getLsbD 6 = true) ∧
      (∀ pa, x = .line pa → k = .uncorrectable → pa / 128 ∈ (s.found x k r).poison) := by
  cases k with
  | clean => exact ⟨rfl, fun _ => rfl, fun h => absurd rfl h, nofun⟩
  | corrected =>
    have hl := ((s.correctSite x).kpend 6).noteRepair_logs .corrected r
    exact ⟨hl.mem.trans (s.correctSite_mem x), nofun, fun _ => hl.pending (kpend_pending _ (by decide)), nofun⟩
  | uncorrectable =>
    have hl := ((s.poisonSite x).kpend 6).noteRepair_logs .uncorrectable r
    refine ⟨hl.mem.trans (s.poisonSite_mem x), nofun, fun _ => hl.pending (kpend_pending _ (by decide)), fun pa hx _ => ?_⟩
    subst hx
    exact hl.poison.symm ▸ s.poisonLine_mem (pa / 128)

/-! ## The scan rotation -/

theorem State.emptyCore_left (s : State) (core : Nat) :
    (s.emptyCore core).cores = s.cores ∧ (s.emptyCore core).scanAt = s.scanAt := by
  refine List.foldlRecOn (motive := fun u : State => u.cores = s.cores ∧ u.scanAt = s.scanAt) _ _ ⟨rfl, rfl⟩ fun u hu p _ => ?_
  split
  · split
    · split
      · exact hu
      · exact hu
    · exact hu
  · exact hu

section
variable {s : State} {core n : Nat}

theorem visit_emptied (hd : (s.core core).scan = .draining n) (he : s.onCore core = [])
    (hm : ∀ p ∈ s.teams, p.2.mig.map Migration.dst ≠ some core) :
    ∃ u, exec (.scanVisit core) s = .next u ∧ (u.core core).scan = .patterns s.clk := by
  have hx : exec (.scanVisit core) s =
      .next ((s.modCore core (fun c => { c with scan := .patterns s.clk })).charge 5 (coreStack core) (50 * usec)) := by
    show execScanVisit core s = _
    unfold execScanVisit
    rw [hd]
    dsimp only
    rw [if_pos]
    rw [he, List.all_eq_true.mpr fun p hp => decide_eq_true (hm p hp)]
    rfl
  refine ⟨_, hx, ?_⟩
  rw [State.core, show ∀ (u : State) (j k m : Nat), (u.charge j k m).cores = u.cores from fun u j k m => by
    unfold State.charge; split <;> rfl]
  exact congrArg Core.scan ((State.core_modCore s core core _).trans (if_pos rfl))

theorem visit_drains (hd : (s.core core).scan = .draining n) (he : s.onCore core ≠ []) :
    exec (.scanVisit core) s = .next (s.emptyCore core) := by
  show execScanVisit core s = _
  unfold execScanVisit
  rw [hd]
  dsimp only
  rw [if_neg]
  rw [show (s.onCore core).isEmpty = false by simpa using he]
  simp

theorem visit_begins (hd : (s.core core).scan = .idle ∨ (s.core core).scan = .skipped ∨ (s.core core).scan = .withdrawn)
    (hr : s.released = true) (hv : s.nextVisit (coreStack core) = some core) (hf : s.scanFree (coreStack core) = true) :
    ∃ u, exec (.scanVisit core) s = .next u ∧
      (u.core core).scan = (if s.coreHalted core then .skipped else .draining s.clk) ∧
      AMap.get? u.scanAt (coreStack core) = some core := by
  have hx : exec (.scanVisit core) s = (if s.coreHalted core then
      .next (({ s with scanAt := AMap.set s.scanAt (coreStack core) core } : State).modCore core
        (fun c => { c with scan := .skipped }))
      else .next ((({ s with scanAt := AMap.set s.scanAt (coreStack core) core } : State).modCore core
        (fun c => { c with scan := .draining s.clk })).emptyCore core)) := by
    show execScanVisit core s = _
    unfold execScanVisit
    rcases hd with h | h | h <;>
    · rw [h]
      dsimp only
      rw [hr, hv, hf]
      simp
  by_cases hh : s.coreHalted core = true
  · rw [if_pos hh] at hx
    refine ⟨_, hx, ?_, AMap.get?_set_self ..⟩
    rw [State.core_modCore, if_pos rfl, if_pos hh]
  · rw [if_neg hh] at hx
    obtain ⟨h1, h2⟩ := State.emptyCore_left (({ s with scanAt := AMap.set s.scanAt (coreStack core) core } : State).modCore core
        (fun c => { c with scan := .draining s.clk })) core
    refine ⟨_, hx, ?_, ?_⟩
    · rw [State.core, h1, if_neg hh]
      exact congrArg Core.scan ((State.core_modCore _ core core _).trans (if_pos rfl))
    · rw [h2]
      exact AMap.get?_set_self ..

theorem move_timeout {t : Nat} {tm : Team} (hd : (s.core core).scan = .draining n) (hs : s.team? t = some tm)
    (hn : n + 4000000 ≤ s.clk) (hr : tm.resident = true) (hc : tm.core = core) (hp : tm.pre = none) :
    exec (.scanMoveTimeout core t) s = .next (s.requestPre tm ⟨false, some core, s.clk⟩) := by
  show execScanMoveTimeout core t s = _
  unfold execScanMoveTimeout
  rw [hd, hs]
  dsimp only
  rw [if_pos (by simp [msec, hn, hr, hc, hp])]

/-- What a withdrawal leaves of each team's request. -/
theorem State.withdraw_pre (s : State) (core : Nat) (late : PreReq → Bool) (t : Nat) :
    ((s.withdraw core late).team? t).map (fun y => y.pre) =
      (s.team? t).map (fun y => y.pre.filter (fun r => !(r.scan = some core && late r))) := by
  have h := AMap.get?_map s.teams (fun _ x => { x with pre := x.pre.filter (fun r => !(r.scan = some core && late r)) }) t
  refine (congrArg (Option.map fun y : Team => y.pre) h).trans ?_
  rw [Option.map_map]
  rfl

theorem withdraw_undone (hd : (s.core core).scan = .draining n) (hn : n + 8000000 ≤ s.clk) (he : s.onCore core ≠ []) :
    ∃ u, exec (.scanPreemptWithdraw core) s = .next u ∧ (u.core core).scan = .withdrawn ∧
      ∀ t, (u.team? t).map (fun y => y.pre) = (s.team? t).map (fun y => y.pre.filter (fun r => r.scan ≠ some core)) := by
  have hb : (decide (n + 2 * msec ≤ s.clk) && !(s.onCore core).isEmpty) = true := by
    rw [show (s.onCore core).isEmpty = false by simpa using he]
    simp [msec, hn]
  have hx : exec (.scanPreemptWithdraw core) s =
      .next ((s.withdraw core (fun _ => true)).modCore core (fun c => { c with scan := .withdrawn })) := by
    show execScanPreemptWithdraw core s = _
    unfold execScanPreemptWithdraw
    rw [hd]
    dsimp only
    rw [if_pos hb]
  refine ⟨_, hx, ?_, fun t => ?_⟩
  · rw [State.core_modCore, if_pos rfl]
  · refine (s.withdraw_pre core (fun _ => true) t).trans ?_
    simp only [Bool.and_true, decide_not]

theorem withdraw_late (hd : (∀ n, (s.core core).scan ≠ .draining n) ∨ s.onCore core = []) :
    ∃ u, exec (.scanPreemptWithdraw core) s = .next u ∧ u.core core = s.core core ∧
      ∀ t, (u.team? t).map (fun y => y.pre) = (s.team? t).map (fun y =>
        y.pre.filter (fun r => !(r.scan = some core && decide (r.at_ + 4000000 ≤ s.clk)))) := by
  have hx : exec (.scanPreemptWithdraw core) s = .next (s.withdraw core (fun r => r.at_ + msec ≤ s.clk)) := by
    show execScanPreemptWithdraw core s = _
    unfold execScanPreemptWithdraw
    dsimp only
    rw [if_neg]
    split
    · next n h =>
      rw [hd.resolve_left fun hn => hn n h]
      simp
    · exact Bool.false_ne_true
  refine ⟨_, hx, rfl, fun t => ?_⟩
  rw [s.withdraw_pre core, msec]

theorem State.event_left (s : State) (ty : EvType) (cause core slot : Nat) (grid : Word) (team : Nat) :
    (s.event ty cause core slot grid team).cores = s.cores ∧ (s.event ty cause core slot grid team).k = s.k := ⟨rfl, rfl⟩

theorem State.finalByte_cores (s : State) (g : Grid) (flags : Nat) (ty : EvType) :
    (s.finalByte g flags ty).cores = s.cores ∧ (s.finalByte g flags ty).k = s.k := by
  have hp : (s.pinWrite g.pins (g.lr.compl.toNat + 1) (leBytes 1 flags)).cores = s.cores ∧
      (s.pinWrite g.pins (g.lr.compl.toNat + 1) (leBytes 1 flags)).k = s.k := by
    refine List.foldlRecOn (motive := fun u : State => u.cores = s.cores ∧ u.k = s.k) _ _ ⟨rfl, rfl⟩ fun u hu p _ => ?_
    split <;> exact hu
  have hd (u : State) (n : Word) : (u.dropGrid n).cores = u.cores ∧ (u.dropGrid n).k = u.k := ⟨rfl, rfl⟩
  unfold State.finalByte
  rw [(hd _ _).1, (hd _ _).2, (State.event_left ..).1, (State.event_left ..).2]
  exact hp

theorem State.corePassed_cores (s : State) (core began : Nat) : (s.corePassed core began).cores = s.cores := by
  refine List.foldlRecOn (motive := fun u : State => u.cores = s.cores) _ _ rfl fun u hu g _ => ?_
  dsimp only
  split
  · exact (State.finalByte_cores ..).1.trans hu
  · exact hu

theorem State.coreFailed_cores (s : State) (core : Nat) :
    (s.coreFailed core).cores = s.cores ∧ (s.coreFailed core).k = s.k := by
  refine List.foldlRecOn (motive := fun u : State => u.cores = s.cores ∧ u.k = s.k) _ _ ⟨rfl, rfl⟩ fun u hu g _ => ?_
  split
  · obtain ⟨h1, h2⟩ := u.finalByte_cores g (g.flags + 3) .failScan
    exact ⟨h1.trans hu.1, h2.trans hu.2⟩
  · exact hu

theorem State.schedOpen_left (s : State) : s.schedOpen.cores = s.cores ∧ s.schedOpen.k = s.k := by
  unfold State.schedOpen
  split <;> exact ⟨rfl, rfl⟩

theorem scan_ends (hd : (s.core core).scan = .patterns n) (hn : n + 200000 ≤ s.clk)
    (hl : s.left 5 (coreStack core) = true) (ok : Bool) : exec (.scanComplete core ok) s = (if ok then
      .next ((s.modCore core (fun c => { c with scan := .idle, lastScan := some n })).corePassed core n).schedOpen
    else .next ((((s.modCore core (fun c => { c with scan := .idle, inService := false })).kpend 7).hwLog 5 none core
      [core]).coreFailed core).schedOpen) := by
  have hb : (decide (s.clk < n + 50 * usec) || !s.left 5 (coreStack core)) = false := by
    rw [hl, decide_eq_false (by rw [usec]; omega)]
    rfl
  show execScanComplete core ok s = _
  unfold execScanComplete
  rw [hd]
  dsimp only
  rw [hb]
  rfl

theorem scan_passes (hd : (s.core core).scan = .patterns n) (hn : n + 200000 ≤ s.clk)
    (hl : s.left 5 (coreStack core) = true) :
    ∃ u, exec (.scanComplete core true) s = .next u ∧ (u.core core).scan = .idle ∧ (u.core core).lastScan = some n ∧
      (u.core core).inService = (s.core core).inService := by
  refine ⟨_, scan_ends hd hn hl true, ?_⟩
  rw [State.core, (State.schedOpen_left _).1, State.corePassed_cores]
  have hc := (State.core_modCore s core core (fun c => { c with scan := .idle, lastScan := some n })).trans (if_pos rfl)
  have hs : (s.modCore core (fun c => { c with scan := .idle, lastScan := some n })).core core =
      { s.core core with scan := .idle, lastScan := some n } := hc
  exact ⟨congrArg Core.scan hs, congrArg Core.lastScan hs, (congrArg Core.inService hs).trans rfl⟩

theorem State.Logs.cores {s u : State} (h : s.Logs u) : u.cores = s.cores := by
  obtain ⟨n, b, x, y, rfl⟩ := h
  rfl

theorem scan_fails (hd : (s.core core).scan = .patterns n) (hn : n + 200000 ≤ s.clk)
    (hl : s.left 5 (coreStack core) = true) :
    ∃ u, exec (.scanComplete core false) s = .next u ∧ (u.core core).scan = .idle ∧ (u.core core).inService = false ∧
      u.k.kipend.getLsbD 7 = true := by
  have hlog := ((s.modCore core (fun c => { c with scan := .idle, inService := false })).kpend 7).hwLog_logs 5 none core [core]
  refine ⟨_, scan_ends hd hn hl false, ?_⟩
  rw [State.core, (State.schedOpen_left _).1, (State.schedOpen_left _).2, (State.coreFailed_cores ..).1,
    (State.coreFailed_cores ..).2, hlog.cores]
  have hc := (State.core_modCore s core core (fun c => { c with scan := .idle, inService := false })).trans (if_pos rfl)
  exact ⟨congrArg Core.scan hc, congrArg Core.inService hc, hlog.pending (kpend_pending _ (by decide))⟩

end

end Sys2Proof.Machine
end

section
/-! PROOFS. The coolant, and the statement on the scan rotation and on health. -/
namespace Sys2Proof.Machine

/-! ## Flow -/

theorem State.Logs.cool {s u : State} (h : s.Logs u) : u.cool = s.cool := by
  obtain ⟨n, b, x, y, rfl⟩ := h
  rfl

theorem State.Logs.cols {s u : State} (h : s.Logs u) : u.cols = s.cols := by
  obtain ⟨n, b, x, y, rfl⟩ := h
  rfl

/-- One circuit's flow-good changes. -/
def State.circuit (s : State) (lid good : Bool) : Coolant :=
  if lid then { s.cool with lid := good, lidBad := flowClock good s.cool.lidBad s.clk, lidCut := s.cool.lidCut && !good }
  else { s.cool with micro := good, microBad := flowClock good s.cool.microBad s.clk, microCut := s.cool.microCut && !good }

/-- The coolant's state then. -/
def State.flowed (s : State) (lid good : Bool) : Coolant :=
  if (s.circuit lid good).lid && (s.circuit lid good).micro then
    { s.circuit lid good with goodSince := some s.clk, cut := s.cool.cut && s.cool.shutdown }
  else { s.circuit lid good with goodSince := none }

theorem flowed_circuit (s : State) (lid good : Bool) : (s.flowed lid good).lid = (s.circuit lid good).lid ∧
    (s.flowed lid good).micro = (s.circuit lid good).micro ∧ (s.flowed lid good).lidBad = (s.circuit lid good).lidBad ∧
    (s.flowed lid good).microBad = (s.circuit lid good).microBad ∧
    (s.flowed lid good).lidCut = (s.circuit lid good).lidCut ∧
    (s.flowed lid good).microCut = (s.circuit lid good).microCut := by
  unfold State.flowed
  split <;> exact ⟨rfl, rfl, rfl, rfl, rfl, rfl⟩

theorem circuit_eq (s : State) (lid good : Bool) :
    (s.circuit lid good).lid = (if lid then good else s.cool.lid) ∧
    (s.circuit lid good).micro = (if lid then s.cool.micro else good) ∧
    (s.circuit lid good).lidBad =
      (if lid then (if good then none else some (s.cool.lidBad.getD s.clk)) else s.cool.lidBad) ∧
    (s.circuit lid good).microBad =
      (if lid then s.cool.microBad else (if good then none else some (s.cool.microBad.getD s.clk))) ∧
    (s.circuit lid good).lidCut = (if lid then s.cool.lidCut && !good else s.cool.lidCut) ∧
    (s.circuit lid good).microCut = (if lid then s.cool.microCut else s.cool.microCut && !good) := by
  cases lid <;> exact ⟨rfl, rfl, rfl, rfl, rfl, rfl⟩

theorem flow_changes {s : State} {lid good : Bool} (h : (if lid then s.cool.lid else s.cool.micro) ≠ good) :
    ∃ u, exec (.flowChange lid good) s = .next u ∧
      u.cool.lid = (if lid then good else s.cool.lid) ∧ u.cool.micro = (if lid then s.cool.micro else good) ∧
      u.cool.lidBad = (if lid then (if good then none else some (s.cool.lidBad.getD s.clk)) else s.cool.lidBad) ∧
      u.cool.microBad = (if lid then s.cool.microBad else (if good then none else some (s.cool.microBad.getD s.clk))) ∧
      u.cool.lidCut = (if lid then s.cool.lidCut && !good else s.cool.lidCut) ∧
      u.cool.microCut = (if lid then s.cool.microCut else s.cool.microCut && !good) ∧
      u.k.kipend.getLsbD 5 = true ∧ u.nvm.logSeq = s.nvm.logSeq + 1 := by
  have hx : exec (.flowChange lid good) s = .next ((({ s with cool := s.flowed lid good } : State).kpend 5).hwLog 2 none 0xFFFF
      [if lid then 1 else 0, if good then 1 else 0]) := by
    show execFlowChange lid good s = _
    unfold execFlowChange
    rw [if_neg h]
    rfl
  have hl := (({ s with cool := s.flowed lid good } : State).kpend 5).hwLog_logs 2 none 0xFFFF
    [if lid then 1 else 0, if good then 1 else 0]
  obtain ⟨h1, h2, h3, h4, h5, h6⟩ := circuit_eq s lid good
  obtain ⟨e1, e2, e3, e4, e5, e6⟩ := flowed_circuit s lid good
  refine ⟨_, hx, ?_⟩
  rw [hl.cool, State.hwLog_seq]
  exact ⟨e1.trans h1, e2.trans h2, e3.trans h3, e4.trans h4, e5.trans h5, e6.trans h6,
    hl.pending (kpend_pending _ (by decide)), rfl⟩

/-! ## Budgets -/

theorem setBudgets_fold (s : State) (f : Nat → Nat) (n m : Nat) :
    ((upTo n).foldl (fun s m => s.modCol m (fun c => { c with pendBudget := some (f m) })) s).col m =
      if m < n then { s.col m with pendBudget := some (f m) } else s.col m := by
  induction n with
  | zero => rfl
  | succ n ih =>
    rw [upTo, List.range_succ, List.foldl_append, List.foldl_cons, List.foldl_nil]
    refine (State.col_modCol _ _ _ _).trans ?_
    by_cases h : m = n
    · subst h
      rw [if_pos rfl, if_pos (by omega)]
      exact congrArg (fun c : Column => { c with pendBudget := some (f m) }) (ih.trans (if_neg (by omega)))
    · rw [if_neg h]
      exact ih.trans (ite_congr_iff (by omega) rfl rfl)

theorem setBudgets_col (s : State) (f : Nat → Nat) {m : Nat} (hm : m < 144) :
    ((s.setBudgets f).col m).pendBudget = some (f m) := by
  rw [State.setBudgets, setBudgets_fold, if_pos hm]

theorem setBudgets_left (s : State) (f : Nat → Nat) :
    (s.setBudgets f).cool = s.cool ∧ (s.setBudgets f).nvm = s.nvm ∧ (s.setBudgets f).sched = s.sched :=
  List.foldlRecOn (motive := fun u : State => u.cool = s.cool ∧ u.nvm = s.nvm ∧ u.sched = s.sched) _ _ ⟨rfl, rfl, rfl⟩
    fun _ h _ _ => h

theorem cutBudgets_cool (s : State) : s.cutBudgets.cool = { s.cool with cut := true, saved := s.keptBudgets } :=
  (setBudgets_left _ _).1

theorem cutBudgets_nvm (s : State) : s.cutBudgets.nvm = s.nvm := (setBudgets_left _ _).2.1

theorem cutBudgets_col (s : State) {m : Nat} (hm : m < 144) : (s.cutBudgets.col m).pendBudget = some 40 :=
  setBudgets_col _ (fun _ => cutBudget) hm

/-- The budgets kept are those set, or those set before a cut that still holds for every column. -/
theorem keptBudgets_eq (s : State) : s.keptBudgets = (upTo 144).map (fun m =>
    if s.cool.cut = true ∧ ∀ j ∈ upTo 144, (s.col j).pendBudget.getD (s.col j).budget = 40 then s.cool.saved.getD m 40
    else (s.col m).pendBudget.getD (s.col m).budget) := by
  have hc : s.stillCut = true ↔
      s.cool.cut = true ∧ ∀ j ∈ upTo 144, (s.col j).pendBudget.getD (s.col j).budget = 40 := by
    rw [State.stillCut, Bool.and_eq_true, List.all_eq_true]
    exact and_congr_right fun _ => forall₂_congr fun j _ => decide_eq_true_iff
  unfold State.keptBudgets
  exact List.map_congr_left fun m _ => ite_congr_iff hc rfl rfl

/-- A circuit has been without flow-good for more than 100 ms. -/
theorem lostLong_iff (s : State) (x : Option Nat) : s.lostLong x = true ↔ ∃ c, x = some c ∧ c + 400000000 < s.clk := by
  cases x with
  | none => simp [State.lostLong]
  | some c =>
    have hm : 100 * msec = 400000000 := by rw [msec]
    rw [State.lostLong, Option.any_some, decide_eq_true_iff, hm]
    simp

theorem flowLoss_cuts {s : State} (hr : s.released = true)
    (h : (s.lostLong s.cool.lidBad = true ∧ s.cool.lidCut = false) ∨
      (s.lostLong s.cool.microBad = true ∧ s.cool.microCut = false)) :
    ∃ u, exec .flowLossBudgetCut s = .next u ∧ u.cool.cut = true ∧ u.cool.saved = s.keptBudgets ∧
      (s.lostLong s.cool.lidBad = true → u.cool.lidCut = true) ∧
      (s.lostLong s.cool.microBad = true → u.cool.microCut = true) ∧
      u.nvm.logSeq = s.nvm.logSeq + 1 ∧ ∀ m, m < 144 → (u.col m).pendBudget = some 40 := by
  have hc := cutBudgets_cool s
  have hn := cutBudgets_nvm s
  have hcol := fun m (hm : m < 144) => cutBudgets_col s hm
  have hx : exec .flowLossBudgetCut s = .next (({ s.cutBudgets with
      cool := { s.cutBudgets.cool with lidCut := s.cutBudgets.cool.lidCut || s.lostLong s.cool.lidBad,
                                       microCut := s.cutBudgets.cool.microCut || s.lostLong s.cool.microBad } } : State).hwLog
      2 none 0xFFFF [2]) := by
    show execFlowLossBudgetCut s = _
    unfold execFlowLossBudgetCut
    dsimp only
    rw [if_pos (by rw [hr]; rcases h with ⟨h1, h2⟩ | ⟨h1, h2⟩ <;> simp [h1, h2])]
  generalize s.cutBudgets = v at hc hn hcol hx
  have hl (u : State) : u.Logs (u.hwLog 2 none 0xFFFF [2]) := State.hwLog_logs ..
  refine ⟨_, hx, ?_⟩
  rw [(hl _).cool, State.hwLog_seq, hc, hn]
  refine ⟨rfl, rfl, fun h => by simp [h], fun h => by simp [h], rfl, fun m hm => ?_⟩
  rw [State.col, (hl _).cols]
  exact hcol m hm

theorem flowLoss_stands {s : State} (h1 : s.lostLong s.cool.lidBad = false ∨ s.cool.lidCut = true)
    (h2 : s.lostLong s.cool.microBad = false ∨ s.cool.microCut = true) : exec .flowLossBudgetCut s = .next s := by
  show execFlowLossBudgetCut s = _
  unfold execFlowLossBudgetCut
  dsimp only
  rw [if_neg]
  rcases h1 with h1 | h1 <;> rcases h2 with h2 | h2 <;> simp [h1, h2]

/-! ## Shutdown and recovery -/

/-- The coolant's state and SCHED.ENABLE stand. -/
structure State.Cooled (s u : State) : Prop where
  cool : u.cool = s.cool
  enable : u.sched.enable = s.sched.enable

namespace State.Cooled

theorem refl (s : State) : s.Cooled s := ⟨rfl, rfl⟩

theorem trans {s u v : State} (h : s.Cooled u) (h' : u.Cooled v) : s.Cooled v :=
  ⟨h'.cool.trans h.cool, h'.enable.trans h.enable⟩

theorem fold {α : Type} {f : State → α → State} (hf : ∀ (s : State) (a : α), s.Cooled (f s a)) (l : List α) (s : State) :
    s.Cooled (l.foldl f s) := by
  induction l generalizing s with
  | nil => exact refl s
  | cons a r ih => exact (hf s a).trans (ih _)

end State.Cooled

theorem State.event_cooled (s : State) (ty : EvType) (cause core slot : Nat) (grid : Word) (team : Nat) :
    s.Cooled (s.event ty cause core slot grid team) := ⟨rfl, rfl⟩

theorem State.modGrid_cooled (s : State) (n : Word) (f : Grid → Grid) : s.Cooled (s.modGrid n f) := ⟨rfl, rfl⟩

theorem State.dropGrid_cooled (s : State) (n : Word) : s.Cooled (s.dropGrid n) := ⟨rfl, rfl⟩

theorem State.dropLines_cooled (s : State) (p : L1Line → Bool) : s.Cooled (s.dropLines p) := ⟨rfl, rfl⟩

theorem State.modCol_cooled (s : State) (m : Nat) (f : Column → Column) : s.Cooled (s.modCol m f) := ⟨rfl, rfl⟩

theorem State.modCore_cooled (s : State) (m : Nat) (f : Core → Core) : s.Cooled (s.modCore m f) := ⟨rfl, rfl⟩

theorem State.pinWrite_cooled (s : State) (ps : List PageT) (va : Nat) (b : List Byte) : s.Cooled (s.pinWrite ps va b) := by
  refine State.Cooled.fold (fun x p => ?_) _ s
  split
  · exact ⟨rfl, rfl⟩
  · exact .refl x

theorem State.writeDone_cooled (s : State) (g : Grid) (status flags check : Nat) :
    s.Cooled (s.writeDone g status flags check) := by
  unfold State.writeDone
  dsimp only
  refine State.Cooled.trans ?_ (State.event_cooled ..)
  have h1 : s.Cooled (if pinned g.pins g.lr.compl.toNat 64 then
      s.pinWrite g.pins g.lr.compl.toNat (g.record status flags check s.clk) else s) := by
    split
    · exact State.pinWrite_cooled ..
    · exact .refl s
  split
  · exact h1.trans (State.pinWrite_cooled ..)
  · exact h1

theorem State.finalByte_cooled (s : State) (g : Grid) (flags : Nat) (ty : EvType) : s.Cooled (s.finalByte g flags ty) := by
  refine State.Cooled.trans ?_ (State.dropGrid_cooled ..)
  exact (State.pinWrite_cooled ..).trans (State.event_cooled ..)

theorem State.complete_cooled (s : State) (n : Word) : s.Cooled (s.complete n) := by
  unfold State.complete
  split
  · exact .refl s
  · next g _ =>
    have hd := State.dropLines_cooled s (fun x => x.cwin && x.grid = n)
    dsimp only
    split
    · exact .refl s
    · split
      · refine State.Cooled.trans ?_ (State.dropGrid_cooled ..)
        exact (hd.trans (State.writeDone_cooled ..)).trans (State.event_cooled ..)
      · have hw := hd.trans
          (State.writeDone_cooled (s.dropLines (fun x => x.cwin && x.grid = n)) g g.status (g.flags + 1) 0)
        split
        · exact hw.trans (State.finalByte_cooled ..)
        · exact hw.trans (State.modGrid_cooled ..)

theorem State.dropToken_cooled (s : State) (t : Nat) : s.Cooled (s.dropToken t) := by
  unfold State.dropToken
  split
  · dsimp only
    split <;> exact ⟨rfl, rfl⟩
  · exact .refl s

theorem State.freeResources_cooled (s : State) (t : Nat) (tm : Team) : s.Cooled (s.freeResources t tm) := by
  unfold State.freeResources
  dsimp only
  refine State.Cooled.trans ?_ (State.Cooled.trans (State.dropToken_cooled _ t) ⟨rfl, rfl⟩)
  exact (State.modCol_cooled ..).trans (State.modCore_cooled ..)

theorem State.endTeam_cooled (s : State) (t : Nat) (tm : Team) : s.Cooled (s.endTeam t tm) := by
  have hl : s.Cooled ((if tm.resident then s.freeResources t tm else s).dropTeamLines t) := by
    refine State.Cooled.trans ?_ (State.dropLines_cooled _ _)
    split
    · exact State.freeResources_cooled ..
    · exact .refl s
  unfold State.endTeam
  dsimp only
  generalize (if tm.resident then s.freeResources t tm else s).dropTeamLines t = s1 at hl ⊢
  refine State.Cooled.trans ?_ (State.complete_cooled ..)
  refine State.Cooled.trans ?_ (State.modGrid_cooled ..)
  exact hl.trans ⟨rfl, rfl⟩

theorem State.killTeam_cooled (s : State) (t : Nat) (cause : Cause) : s.Cooled (s.killTeam t cause) := by
  unfold State.killTeam
  split
  · exact .refl s
  · exact (State.modGrid_cooled ..).trans (State.endTeam_cooled ..)

theorem State.killGrid_cooled (s : State) (n : Word) (cause : Cause) (team : Nat) : s.Cooled (s.killGrid n cause team) := by
  unfold State.killGrid
  split
  · exact .refl s
  · dsimp only
    split
    · exact .refl s
    · refine State.Cooled.trans ?_ (State.complete_cooled ..)
      refine State.Cooled.trans ?_ (State.modGrid_cooled ..)
      have hk : s.Cooled ((s.modGrid n (fun g => g.failed cause team 0)).freeQueue n) := ⟨rfl, rfl⟩
      exact hk.trans (State.Cooled.fold (fun x p => State.killTeam_cooled ..) _ _)

theorem badFor_long {s : State} {c n : Nat} (h : s.cool.lidBad = some c ∨ s.cool.microBad = some c) (hc : c + n ≤ s.clk) :
    n ≤ s.badFor := by
  have hn : n ≤ s.clk - c := by omega
  unfold State.badFor
  dsimp only
  rcases h with h | h
  · rw [h]
    exact Nat.le_trans hn (Nat.le_max_left ..)
  · rw [h]
    exact Nat.le_trans hn (Nat.le_max_right ..)

theorem shutdown_begins {s : State} {c : Nat} (hr : s.released = true)
    (hb : s.cool.lidBad = some c ∨ s.cool.microBad = some c) (hc : c + 8000000000 ≤ s.clk) (hs : s.cool.shutdown = false) :
    ∃ u, exec .coolantShutdown s = .next u ∧ u.sched.enable = false ∧ u.cool.shutdown = true ∧
      u.cool.saved = s.keptBudgets := by
  have hm : 2000 * msec = 8000000000 := by rw [msec]
  have hlong : 2000 * msec ≤ s.badFor := hm ▸ badFor_long hb hc
  have hl (u : State) : u.Logs (u.hwLog 2 (some 2) 0xFFFF [3]) := State.hwLog_logs ..
  have hx := show exec .coolantShutdown s = (if 2000 * msec ≤ s.badFor && !s.cool.shutdown && s.released then _ else .next s)
    from rfl
  rw [if_pos (by simp [hlong, hs, hr])] at hx
  refine ⟨_, hx, ?_⟩
  have hk := State.Cooled.fold (f := fun (s : State) (g : Grid) =>
      (s.killGrid g.num .coolant (s.firstTeam g.num)).event .coolant Cause.coolant.code 0 0 g.num 0)
    (fun x g => (State.killGrid_cooled x g.num .coolant (x.firstTeam g.num)).trans (State.event_cooled ..))
  rw [(hk _ _).enable, (hk _ _).cool]
  refine ⟨rfl, rfl, ?_⟩
  dsimp only
  rw [(hl _).cool, cutBudgets_cool]

theorem recovery_ends {s : State} {c : Nat} (hg : s.cool.goodSince = some c) (hs : s.cool.shutdown = true)
    (hc : c + 40000000000 ≤ s.clk) : ∃ u, exec .coolantRecovery s = .next u ∧ u.cool.shutdown = false ∧
      ∀ m, m < 144 → (u.col m).pendBudget = some (s.cool.saved.getD m 68) := by
  have hm : 10000 * msec = 40000000000 := by rw [msec]
  have hlong : c + 10000 * msec ≤ s.clk := hm ▸ hc
  have hx : exec .coolantRecovery s = .next { (s.hwLog 2 (some 0) 0xFFFF [4]).setBudgets (fun m => s.cool.saved.getD m 68) with
      cool := { ((s.hwLog 2 (some 0) 0xFFFF [4]).setBudgets (fun m => s.cool.saved.getD m 68)).cool with
        shutdown := false, cut := false, saved := [] } } := by
    show execCoolantRecovery s = _
    unfold execCoolantRecovery
    rw [hg]
    dsimp only
    rw [if_pos (by simp [hs, hlong])]
  have hcol := fun m (hm : m < 144) => setBudgets_col (s.hwLog 2 (some 0) 0xFFFF [4]) (fun m => s.cool.saved.getD m 68) hm
  generalize (s.hwLog 2 (some 0) 0xFFFF [4]).setBudgets (fun m => s.cool.saved.getD m 68) = v at hx hcol
  exact ⟨_, hx, rfl, hcol⟩

/-- Settles O58: each event by the lemma of its case. -/
theorem scanAndHealthEvents : Obligations.ScanAndHealthEvents := by
  unfold Obligations.ScanAndHealthEvents
  refine ⟨fun s core => ⟨fun n => visit_emptied, fun n => visit_drains, visit_begins, fun n hd =>
      ⟨fun t tm hs hn hr hc hp => move_timeout hd hs hn hr hc hp, withdraw_undone hd⟩, withdraw_late,
      fun n hd hn hl => ⟨scan_passes hd hn hl, scan_fails hd hn hl⟩⟩, ?_, fun s lid good => flow_changes, ?_,
    fun s c => recovery_ends⟩
  · intro s x k r
    obtain ⟨hmem, hclean, hpend, hpois⟩ := ecc_found s x k r
    refine ⟨s.found x k r, rfl, hmem, hclean, hpend, hpois, fun pa hx hl => ?_⟩
    subst hx
    exact if_pos hl
  · intro s hr set kept lost
    have hlost (x : Option Nat) : lost x ↔ s.lostLong x = true := (lostLong_iff s x).symm
    have hkept : kept = s.keptBudgets := (keptBudgets_eq s).symm
    rw [hkept, hlost, hlost]
    exact ⟨flowLoss_cuts hr, fun h1 h2 => flowLoss_stands (by simpa using h1) (by simpa using h2),
      fun c => shutdown_begins hr⟩

end Sys2Proof.Machine
end

section
/-! PROOFS. The resets, the firmware that starts and the release of the compute stacks. -/
namespace Sys2Proof.Machine

/-! ## The slot that runs -/

theorem bootable_iff (n : Nvm) (f : Option FwSlot) (i : Image) : bootable n f = some i ↔
    ∃ x, f = some x ∧ Image.parse x.image = some i ∧ i.accepted n.rollback = true ∧ i.payload.length ≤ 0x80000 := by
  rw [bootable, Option.filter_eq_some_iff, Option.filter_eq_some_iff, Option.bind_eq_some_iff, decide_eq_true_iff]
  constructor
  · rintro ⟨⟨⟨x, hx, hp⟩, ha⟩, hl⟩
    exact ⟨x, hx, hp, ha, hl⟩
  · rintro ⟨x, hx, hp, ha, hl⟩
    exact ⟨⟨⟨x, hx, hp⟩, ha⟩, hl⟩

theorem bootSlot_none (n : Nvm) : bootSlot n = none ↔ bootable n n.slotA = none ∧ bootable n n.slotB = none := by
  unfold bootSlot
  cases bootable n n.slotA <;> cases bootable n n.slotB
  · simp
  · simp
  · simp
  · next a b =>
    dsimp only
    split <;> simp

/-- The slot that runs is bootable, and the other is of no higher version. -/
theorem bootSlot_some {n : Nvm} {b : Bool} {i : Image} (h : bootSlot n = some (b, i)) :
    bootable n (if b then n.slotB else n.slotA) = some i ∧
      ∀ j, bootable n (if b then n.slotA else n.slotB) = some j → j.version ≤ i.version := by
  unfold bootSlot at h
  cases ha : bootable n n.slotA with
  | none =>
    cases hb : bootable n n.slotB with
    | none => rw [ha, hb] at h; cases h
    | some y =>
      rw [ha, hb] at h
      cases h
      exact ⟨hb, fun j hj => by rw [if_pos rfl, ha] at hj; cases hj⟩
  | some x =>
    cases hb : bootable n n.slotB with
    | none =>
      rw [ha, hb] at h
      cases h
      exact ⟨ha, fun j hj => by rw [if_neg Bool.false_ne_true, hb] at hj; cases hj⟩
    | some y =>
      rw [ha, hb] at h
      dsimp only at h
      split at h
      · next hlt =>
        cases h
        refine ⟨hb, fun j hj => ?_⟩
        rw [if_pos rfl, ha] at hj
        cases hj
        exact Nat.le_of_lt hlt
      · next hlt =>
        cases h
        refine ⟨ha, fun j hj => ?_⟩
        rw [if_neg Bool.false_ne_true, hb] at hj
        cases hj
        exact Nat.le_of_not_lt hlt

/-! ## What booting and the repairs leave -/

/-- Repairs and their records leave the active slot and the rollback counter. -/
structure State.Repaired (s u : State) : Prop where
  logs : s.Logs u
  active : u.nvm.activeB = s.nvm.activeB
  rollback : u.nvm.rollback = s.nvm.rollback

namespace State.Repaired

variable {s u v : State}

theorem refl (s : State) : s.Repaired s := ⟨.refl s, rfl, rfl⟩

theorem trans (h : s.Repaired u) (h' : u.Repaired v) : s.Repaired v :=
  ⟨h.logs.trans h'.logs, h'.active.trans h.active, h'.rollback.trans h.rollback⟩

theorem fold {α : Type} {f : State → α → State} (hf : ∀ (s : State) (a : α), s.Repaired (f s a)) (l : List α) (s : State) :
    s.Repaired (l.foldl f s) := by
  induction l generalizing s with
  | nil => exact refl s
  | cons a r ih => exact (hf s a).trans (ih _)

end State.Repaired

theorem State.hwLog_repaired (s : State) (type : Nat) (sev : Option Nat) (src : Nat) (facts : List Nat) :
    s.Repaired (s.hwLog type sev src facts) := by
  refine ⟨State.hwLog_logs .., ?_, ?_⟩ <;>
  · unfold State.hwLog State.log
    dsimp only
    split <;> rfl

theorem State.retireBlock_repaired (s : State) (b : Nat) : s.Repaired (s.retireBlock b) := by
  unfold State.retireBlock
  split
  · exact .refl s
  · dsimp only
    split
    · exact State.hwLog_repaired ..
    · refine State.Repaired.trans ?_ (State.hwLog_repaired ..)
      exact ⟨.of_nvm s _, rfl, rfl⟩

theorem State.applyRepair_repaired (s : State) (i : Nat) : s.Repaired (s.applyRepair i) := by
  have hput (x : Repair) : s.Repaired { s with nvm := { s.nvm with repair := modifyAt s.nvm.repair i (fun _ => x) } } :=
    ⟨.of_nvm s _, rfl, rfl⟩
  unfold State.applyRepair
  split
  · exact .refl s
  · dsimp only
    split
    · exact .refl s
    · split
      · exact (hput _).trans (State.Repaired.fold State.retireBlock_repaired _ _)
      · exact (hput _).trans (State.hwLog_repaired ..)

/-- What the boot ROM leaves, whatever slot it runs. -/
theorem State.boot_left (s : State) : s.boot.mem = s.mem ∧ s.boot.poison = s.poison ∧ s.boot.teams = s.teams ∧
    s.boot.grids = s.grids ∧ s.boot.queues = s.queues ∧ s.boot.released = s.released ∧ s.boot.hbmReady = s.hbmReady ∧
    s.boot.k.energy = s.k.energy ∧ s.boot.k.inh = s.k.inh ∧ s.boot.k.locked = s.k.locked ∧
    s.boot.nvm.rollback = s.nvm.rollback ∧ s.boot.nvm.log = s.nvm.log ∧ s.boot.sched = s.sched := by
  unfold State.boot
  split <;> exact ⟨rfl, rfl, rfl, rfl, rfl, rfl, rfl, rfl, rfl, rfl, rfl, rfl, rfl⟩

/-- The slot that boots after a reset is that of the non-volatile memory before it. -/
theorem bootSlot_keepOutside (s old : State) : bootSlot (s.keepOutside old).nvm = bootSlot old.nvm := rfl

theorem boot_none {s : State} (h : bootSlot s.nvm = none) : s.boot = s := by
  rw [State.boot, h]

theorem boot_some {s : State} {b : Bool} {i : Image} (h : bootSlot s.nvm = some (b, i)) : s.boot =
    { s with nvm := { s.nvm with activeB := b },
             k := { s.k with sram := Memory.writeN [] 0 i.payload, sramBad := [], started := true } } := by
  rw [State.boot, h]

/-! ## The resets -/

theorem coldReset_ends (s : State) : ∃ u, exec .coldReset s = .next u ∧ u.mem = [] ∧ u.poison = [] ∧ u.teams = [] ∧
    u.grids = [] ∧ u.released = false ∧ u.nvm.rollback = s.nvm.rollback ∧
    (bootSlot s.nvm = none → u.k.started = false ∧ u.hbmReady = false) ∧
    (∀ b i, bootSlot s.nvm = some (b, i) → u.k.started = true ∧ u.hbmReady = true ∧ u.nvm.activeB = b ∧
      u.k.sram = Memory.writeN [] 0 i.payload) := by
  have hx : exec .coldReset s = (if (State.keepOutside State.reset s).boot.k.started then
      .next { (upTo (State.keepOutside State.reset s).boot.nvm.repair.length).foldl State.applyRepair
        (State.keepOutside State.reset s).boot with hbmReady := true }
      else .next (State.keepOutside State.reset s).boot) := rfl
  cases hb : bootSlot s.nvm with
  | none =>
    have h0 := boot_none (s := State.keepOutside State.reset s) hb
    rw [h0] at hx
    exact ⟨_, hx.trans (if_neg Bool.false_ne_true), rfl, rfl, rfl, rfl, rfl, rfl, fun _ => ⟨rfl, rfl⟩, nofun⟩
  | some p =>
    obtain ⟨b, i⟩ := p
    have h0 := boot_some (s := State.keepOutside State.reset s) hb
    rw [h0] at hx
    have hrep := State.Repaired.fold State.applyRepair_repaired (upTo (State.keepOutside State.reset s).nvm.repair.length)
      { State.keepOutside State.reset s with
        nvm := { (State.keepOutside State.reset s).nvm with activeB := b },
        k := { (State.keepOutside State.reset s).k with sram := Memory.writeN [] 0 i.payload, sramBad := [], started := true } }
    refine ⟨_, hx.trans (if_pos rfl), ?_⟩
    obtain ⟨⟨n, p, x, y, hu⟩, hact, hroll⟩ := hrep
    dsimp only at hu hact hroll ⊢
    rw [hroll, hact, hu]
    exact ⟨rfl, rfl, rfl, rfl, rfl, rfl, nofun, fun b' i' h => by cases h; exact ⟨rfl, rfl, rfl, rfl⟩⟩

theorem warmReset_ends (s : State) : ∃ u, exec .warmReset s = .next u ∧ exec .pcieHotReset s = .next u ∧
    exec (.warmrst 0x5752) s = .next u ∧
    (∀ c, s.k.locked = some c → c + 4000000000 ≤ s.clk → exec .lockupReset s = .next u) ∧
    u.mem = s.mem ∧ u.poison = s.poison ∧ u.teams = [] ∧ u.grids = [] ∧ u.queues = [] ∧ u.released = false ∧
    u.hbmReady = s.hbmReady ∧ u.k.energy.map Energy.val = s.k.energy.map Energy.val ∧ u.k.inh = true ∧ u.k.locked = none ∧
    u.nvm.rollback = s.nvm.rollback ∧ u.nvm.log = s.nvm.log ∧ u.sched.nextTok = s.sched.nextTok := by
  refine ⟨s.warmReset, rfl, rfl, rfl, fun c hc hl => ?_, ?_⟩
  · have hm : 1000 * msec = 4000000000 := by rw [msec]
    show execLockupReset s = _
    unfold execLockupReset
    rw [hc]
    dsimp only
    rw [hm, if_pos hl]
  · unfold State.warmReset
    obtain ⟨h1, h2, h3, h4, h5, h6, h7, h8, h9, h10, h11, h12, h13⟩ := State.boot_left (State.keepOutside { State.reset with
      k := { State.reset.k with energy := s.k.energy.map (fun e => { e with shadow := 0 }) },
      sched := { Sched.init with nextTok := s.sched.nextTok }, mem := s.mem, poison := s.poison, hbmReady := s.hbmReady } s)
    dsimp only
    rw [h1, h2, h3, h4, h5, h6, h7, h8, h9, h10, h11, h12, h13]
    refine ⟨rfl, rfl, rfl, rfl, rfl, rfl, rfl, ?_, rfl, rfl, rfl, rfl, rfl⟩
    exact (List.map_map ..).trans rfl

theorem warmrst_refused {s : State} {x : Word} (hx : x ≠ 0x5752) :
    exec (.warmrst x) s = .next { s with k := { s.k with refused := true, refAt := some s.clk } } :=
  congrArg Host.Outcome.next (if_neg hx)

/-- A table of numbers holds each of them. -/
theorem AMap.getD_table {α : Type} (f : Nat → α) (d : α) {l : List Nat} {k : Nat} (hk : k ∈ l) :
    AMap.getD (l.map (fun c => (c, f c))) k d = f k := by
  rw [AMap.getD]
  induction l with
  | nil => cases hk
  | cons a r ih =>
    simp only [List.map_cons, AMap.get?]
    split
    · next h => rw [h, Option.getD_some]
    · next h => exact ih ((List.mem_cons.mp hk).resolve_left (Ne.symm h))

/-- A core whose patterns begin. -/
def State.scanned (s : State) (c : Nat) : Core := { s.core c with scan := .patterns s.clk }

theorem computeRelease_ends {s : State} (h1 : s.hbmReady = true) (h2 : s.k.started = true) (h3 : s.cool.lid = true)
    (h4 : s.cool.micro = true) (h5 : s.cool.rail = true) (h6 : s.released = false) :
    ∃ u, exec .computeRelease s = .next u ∧ u.released = true ∧ u.mem = s.mem ∧
      ∀ c, c < 576 → (u.core c).scan = .patterns s.clk := by
  have hx : exec .computeRelease s = .next { s with
      released := true, cores := (upTo 576).map (fun c => (c, s.scanned c)) } := by
    show execComputeRelease s = _
    unfold execComputeRelease
    rw [h1, h2, h3, h4, h5, h6]
    exact if_pos rfl
  have hmem : ∀ c, c < 576 → c ∈ upTo 576 := fun c hc => List.mem_range.mpr hc
  generalize upTo 576 = l at hx hmem
  exact ⟨_, hx, rfl, rfl, fun c hc =>
    congrArg Core.scan (AMap.getD_table s.scanned Core.init (hmem c hc))⟩

/-- Settles O59: the resets by what booting and the repairs leave, the firmware by the cases of the two slots. -/
theorem resetEvents : Obligations.ResetEvents := by
  unfold Obligations.ResetEvents
  exact ⟨coldReset_ends, warmReset_ends, fun s x => warmrst_refused, fun s => computeRelease_ends, bootable_iff,
    fun n => ⟨bootSlot_none n, fun b i => bootSlot_some⟩⟩

end Sys2Proof.Machine
end

section
/-! PROOFS. The Kennel's events: interrupts, the log, the ceilings and the update engine. -/
namespace Sys2Proof.Machine

/-! ## Interrupts -/

theorem interrupt_entered {s : State} {v : Nat} (hst : s.k.started = true) (hl : s.k.locked = none)
    (hp : s.k.grp.portA = none) (ht : (s.k.grp.lane 0).thread = .running) (hi : s.k.inh = false) (hv : v < 32)
    (hpend : (s.k.kipend &&& s.k.kien).getLsbD v = true)
    (hlow : ∀ w, w < v → (s.k.kipend &&& s.k.kien).getLsbD w = false) (hok : s.target .kennel (s.vectorWord v) = true) :
    ∃ u, exec .interruptEntry s = .next u ∧ u.k.kepc = s.kPc ∧ u.k.vec = BitVec.ofNat 8 v ∧ u.k.inh = true ∧
      u.kPc = s.vectorWord v ∧ u.k.kipend = s.k.kipend ∧ u.k.sram = s.k.sram ∧ u.mem = s.mem := by
  have hvec : s.lowestVector = some v := by
    refine List.find?_eq_some_iff_getElem.mpr ⟨hpend, v, by simpa [upTo] using hv, by simp [upTo], fun j hj => ?_⟩
    simp only [upTo, List.getElem_range, State.kPending, hlow j hj, Bool.not_false]
  have hx : exec .interruptEntry s = .next ((s.kVector v s.kPc false).tick 1) := by
    show execInterruptEntry s = _
    unfold execInterruptEntry
    rw [hst, hl, hp, ht, hi, if_pos (by rfl), hvec]
  rw [kVector_eq (by rfl), if_pos hok] at hx
  have hlanes : 0 < (s.atVector v s.kPc).k.grp.lanes.length := by
    refine Classical.byContradiction fun h => ?_
    have h0 : s.k.grp.lanes = [] := List.eq_nil_of_length_eq_zero (Nat.eq_zero_of_not_pos h)
    rw [Group.lane, h0] at ht
    exact absurd ht (by decide)
  exact ⟨_, hx, rfl, rfl, rfl, kPc_setKPc _ _ hlanes, rfl, rfl, rfl⟩

theorem timer_matched (s : State) : ∃ u, exec .ktimerMatch s = .next u ∧
    u.k.kipend = if s.clkLo = s.k.ktimer then s.k.kipend ||| 256 else s.k.kipend := by
  refine ⟨if s.clkLo = s.k.ktimer then s.kpend 8 else s, rfl, ?_⟩
  split
  · rw [State.kpend_k]
    rfl
  · rfl

/-! ## The log -/

/-- The record that `State.log` makes. -/
def State.newRec (s : State) (type sev src : Nat) (data : List Word) (under : Nat) : LogRec :=
  { time := s.clkLo, type := BitVec.ofNat 8 type, sev := BitVec.ofNat 8 sev, src := BitVec.ofNat 16 src,
    seq := s.nvm.logSeq + 1 - BitVec.ofNat 32 under, data := data }

/-- What appending a record makes of the log. -/
theorem State.log_nvm (s : State) (type sev src : Nat) (data : List Word) (under : Nat) :
    (s.log type sev src data under).nvm = { s.nvm with
      log := ((s.nvm.log.take under).map (fun x : LogRec => { x with seq := x.seq + 1 }) ++
        s.newRec type sev src data under :: s.nvm.log.drop under).take 65536
      logSeq := s.nvm.logSeq + 1 } := by
  unfold State.log
  dsimp only
  split <;> rfl

theorem State.newRec_toNat (s : State) (type sev : BitVec 8) (src : BitVec 16) (data : List Word) :
    s.newRec type.toNat sev.toNat src.toNat data 0 =
      { time := s.clkLo, type := type, sev := sev, src := src, seq := s.nvm.logSeq + 1, data := data } := by
  simp [State.newRec]

/-- The record that LOGCOMMIT appends. -/
def State.commitRec (s : State) : LogRec :=
  { time := s.clkLo, type := (s.k.logbuf.getD 2 0).extractLsb' 0 8, sev := (s.k.logbuf.getD 2 0).extractLsb' 8 8,
    src := (s.k.logbuf.getD 2 0).extractLsb' 16 16, seq := s.nvm.logSeq + 1, data := s.k.logbuf.drop 4 }

theorem State.Logs.clk {s u : State} (h : s.Logs u) : u.clk = s.clk := by
  obtain ⟨n, b, x, y, rfl⟩ := h
  rfl

theorem State.Logs.commitAt {s u : State} (h : s.Logs u) : u.k.commitAt = s.k.commitAt := by
  obtain ⟨n, b, x, y, rfl⟩ := h
  rfl

/-- The state after LOGCOMMIT. -/
theorem logCommit_spec {s : State} (h : 0x80 ≤ ((s.k.logbuf.getD 2 0).extractLsb' 0 8).toNat) :
    ∃ l, s.logCommit.nvm = { s.nvm with log := s.commitRec :: l, logSeq := s.nvm.logSeq + 1 } ∧
      s.logCommit.clk = s.clk ∧ s.logCommit.k.commitAt = some s.clk := by
  refine ⟨s.nvm.log.take 65535, ?_⟩
  unfold State.logCommit
  dsimp only
  rw [if_pos h, State.log_nvm, (State.log_logs ..).clk, (State.log_logs ..).commitAt]
  refine ⟨?_, rfl, rfl⟩
  rw [State.newRec_toNat]
  rfl

/-- A record that the hardware appends after such a commit, in its cycle, goes before what was committed. -/
theorem hwLog_under {u : State} {r : LogRec} {l : List LogRec} (hl : u.nvm.log = r :: l) (hc : u.k.commitAt = some u.clk)
    (ht : 0x80 ≤ r.type.toNat) (htime : r.time = u.clkLo) (type : Nat) (sev : Option Nat) (src : Nat) (facts : List Nat) :
    ∃ x, (u.hwLog type sev src facts).nvm.log.take 2 = [{ r with seq := r.seq + 1 }, x] ∧
      (u.committed = 1 → x.seq = u.nvm.logSeq) := by
  obtain ⟨k, hk⟩ : ∃ k, u.committed = k + 1 := by
    rw [State.committed, if_pos hc, hl, List.takeWhile_cons_of_pos (by simp [ht, htime])]
    exact ⟨_, rfl⟩
  rw [State.hwLog, State.log_nvm, hk, hl]
  dsimp only
  rw [List.take_take, List.take_succ_cons, List.map_cons, List.drop_succ_cons, List.cons_append]
  cases k with
  | zero => exact ⟨_, rfl, fun _ => BitVec.add_sub_cancel ..⟩
  | succ k =>
    cases l with
    | nil => exact ⟨_, rfl, fun h => by omega⟩
    | cons y l => exact ⟨_, rfl, fun h => by omega⟩

theorem logcommit_ends (s : State) : let w2 := s.k.logbuf.getD 2 0
    (0x80 ≤ (w2.extractLsb' 0 8).toNat → ∃ u r, exec .logcommit s = .next u ∧ u.nvm.log.head? = some r ∧
      u.nvm.logSeq = s.nvm.logSeq + 1 ∧ r.seq = s.nvm.logSeq + 1 ∧ r.time = s.clkLo ∧ r.type = w2.extractLsb' 0 8 ∧
      r.sev = w2.extractLsb' 8 8 ∧ r.src = w2.extractLsb' 16 16 ∧ r.data = s.k.logbuf.drop 4 ∧
      ∀ type sev src facts, ∃ x, (u.hwLog type sev src facts).nvm.log.take 2 = [{ r with seq := s.nvm.logSeq + 2 }, x] ∧
        (u.committed = 1 → x.seq = s.nvm.logSeq + 1)) ∧
    ((w2.extractLsb' 0 8).toNat < 0x80 →
      exec .logcommit s = .next { s with k := { s.k with refused := true, refAt := some s.clk } }) := by
  intro w2
  constructor
  · intro h
    obtain ⟨l, hn, hclk, hc⟩ := logCommit_spec h
    refine ⟨s.logCommit, s.commitRec, rfl, by rw [hn]; rfl, by rw [hn], rfl, rfl, rfl, rfl, rfl, rfl,
      fun type sev src facts => ?_⟩
    obtain ⟨x, hx, hseq⟩ := hwLog_under (u := s.logCommit) (r := s.commitRec) (l := l) (by rw [hn]) (by rw [hc, hclk]) h
      (by rw [State.clkLo, hclk]; rfl) type sev src facts
    refine ⟨x, hx.trans ?_, fun h1 => (hseq h1).trans (by rw [hn])⟩
    rw [show s.commitRec.seq + 1 = s.nvm.logSeq + 2 from BitVec.add_assoc ..]
  · intro h
    exact congrArg Host.Outcome.next (if_neg (Nat.not_le.mpr h))

/-! ## Ceilings -/

section
variable {x : Word} (hk : 4 ≤ (x.extractLsb' 8 5).toNat) (hk' : (x.extractLsb' 8 5).toNat ≤ 16)
  (hg : 1 ≤ (x.extractLsb' 0 4).toNat) (hg' : (x.extractLsb' 0 4).toNat ≤ 8)
include hk hk' hg hg'

/-- One slice's ceilings set; those of the others stand. -/
theorem sctlWrite_ok (s : State) (core i j : Nat) : (s.sctlWrite core i x).k = s.k ∧ (s.sctlWrite core i x).mem = s.mem ∧
    (((s.sctlWrite core i x).core core).slice j).kcap =
      (if j = i then (x.extractLsb' 8 5).toNat else ((s.core core).slice j).kcap) ∧
    (((s.sctlWrite core i x).core core).slice j).gcap =
      (if j = i then (x.extractLsb' 0 4).toNat else ((s.core core).slice j).gcap) := by
  have hkok : (decide (4 ≤ (x.extractLsb' 8 5).toNat) && decide ((x.extractLsb' 8 5).toNat ≤ 16)) = true := by
    rw [decide_eq_true hk, decide_eq_true hk']
    rfl
  have hgok : (decide (1 ≤ (x.extractLsb' 0 4).toNat) && decide ((x.extractLsb' 0 4).toNat ≤ 8)) = true := by
    rw [decide_eq_true hg, decide_eq_true hg']
    rfl
  unfold State.sctlWrite
  dsimp only
  rw [hkok, hgok, Bool.and_self, if_pos rfl]
  simp only [if_true]
  obtain ⟨g, y, hs⟩ := retune_slice (s.modCore core (fun c => c.modSlice i (fun y =>
    { y with kcap := (x.extractLsb' 8 5).toNat, gcap := (x.extractLsb' 0 4).toNat }))) core j
  rw [hs, State.core_modCore, if_pos rfl, Core.slice_modSlice]
  refine ⟨rfl, rfl, ?_, ?_⟩ <;>
  · by_cases h : j = i
    · rw [if_pos h, if_pos h]
    · rw [if_neg h, if_neg h]

theorem sctlAll_ends (s : State) (core : Nat) : ∃ u, exec (.sctlall core x) s = .next u ∧ u.k = s.k ∧ u.mem = s.mem ∧
    ∀ i, i < 6 → ((u.core core).slice i).kcap = (x.extractLsb' 8 5).toNat ∧
      ((u.core core).slice i).gcap = (x.extractLsb' 0 4).toNat := by
  have key (n : Nat) : ((upTo n).foldl (fun s i => s.sctlWrite core i x) s).k = s.k ∧
      ((upTo n).foldl (fun s i => s.sctlWrite core i x) s).mem = s.mem ∧ ∀ i, i < n →
        ((((upTo n).foldl (fun s i => s.sctlWrite core i x) s).core core).slice i).kcap = (x.extractLsb' 8 5).toNat ∧
        ((((upTo n).foldl (fun s i => s.sctlWrite core i x) s).core core).slice i).gcap = (x.extractLsb' 0 4).toNat := by
    induction n with
    | zero => exact ⟨rfl, rfl, fun i hi => by omega⟩
    | succ n ih =>
      obtain ⟨h1, h2, h3⟩ := ih
      rw [upTo, List.range_succ, List.foldl_append, List.foldl_cons, List.foldl_nil]
      change ((List.foldl _ s (upTo n)).sctlWrite core n x).k = _ ∧ ((List.foldl _ s (upTo n)).sctlWrite core n x).mem = _ ∧
        ∀ i, i < n + 1 → ((((List.foldl _ s (upTo n)).sctlWrite core n x).core core).slice i).kcap = _ ∧
          ((((List.foldl _ s (upTo n)).sctlWrite core n x).core core).slice i).gcap = _
      have hw := fun i => sctlWrite_ok hk hk' hg hg' ((upTo n).foldl (fun s i => s.sctlWrite core i x) s) core n i
      refine ⟨(hw 0).1.trans h1, (hw 0).2.1.trans h2, fun i hi => ?_⟩
      obtain ⟨-, -, h4, h5⟩ := hw i
      rw [h4, h5]
      by_cases h : i = n
      · rw [if_pos h, if_pos h]
        exact ⟨rfl, rfl⟩
      · rw [if_neg h, if_neg h]
        exact h3 i (by omega)
  exact ⟨_, rfl, key 6⟩

end

theorem enlo_latched {s : State} {i : Nat} {e : Energy} (he : s.k.energy[i]? = some e) :
    ∃ u, exec (.enloRead i) s = .next u ∧
      u.k.energy[i]? = some { e with shadow := BitVec.ofNat 32 (e.val / 2 ^ 32) } := by
  refine ⟨_, rfl, ?_⟩
  show (modifyAt s.k.energy i _)[i]? = _
  rw [modifyAt, List.getElem?_modify_eq, he]
  rfl

/-! ## The update engine -/

theorem update_starts {s : State} (h : s.k.upstat.getLsbD 0 = false) :
    (∃ u, exec .upcmdVerify s = .next u ∧ u.k.upstat = 1 ∧ u.k.upcmd = 1 ∧
      u.k.upjob = some (.verify s.k.upsrc.toNat s.k.uplen.toNat)) ∧
    ∃ u, exec .upcmdAttest s = .next u ∧ u.k.upstat = 1 ∧ u.k.upcmd = 2 ∧
      u.k.upjob = some (.attest s.k.upsrc.toNat s.k.updst.toNat) := by
  have hb : ¬ s.upBusy = true := by rw [State.upBusy, h]; exact Bool.false_ne_true
  constructor
  · have hx : exec .upcmdVerify s = .next { s with k := { s.k with
        upcmd := 1, upstat := 1, upjob := some (.verify s.k.upsrc.toNat s.k.uplen.toNat) } } :=
      congrArg Host.Outcome.next ((if_neg hb).trans (if_pos rfl))
    exact ⟨_, hx, rfl, rfl, rfl⟩
  · have hx : exec .upcmdAttest s = .next { s with k := { s.k with
        upcmd := 2, upstat := 1, upjob := some (.attest s.k.upsrc.toNat s.k.updst.toNat) } } :=
      congrArg Host.Outcome.next ((if_neg hb).trans ((if_neg (by decide)).trans (if_pos rfl)))
    exact ⟨_, hx, rfl, rfl, rfl⟩

theorem update_busy {s : State} (h : s.k.upstat.getLsbD 0 = true) :
    exec .upcmdVerify s = .next { s with k := { s.k with refused := true, refAt := some s.clk } } ∧
    exec .upcmdAttest s = .next { s with k := { s.k with refused := true, refAt := some s.clk } } := by
  have hb : s.upBusy = true := h
  exact ⟨congrArg Host.Outcome.next (if_pos hb), congrArg Host.Outcome.next (if_pos hb)⟩

/-- The engine's end, whatever it has done. -/
theorem State.upDone_spec (s : State) (st : Word) : (s.upDone st).k.upstat = st ∧ (s.upDone st).k.upjob = none ∧
    (s.upDone st).k.kipend.getLsbD 10 = true ∧ (s.upDone st).k.sram = s.k.sram ∧ (s.upDone st).mem = s.mem ∧
    ∃ l q, (s.upDone st).nvm = { s.nvm with log := l, logSeq := q } := by
  have hp := (State.hwLog_logs (({ s with k := { s.k with upstat := st, upjob := none } } : State).kpend 10) 6 none 0xFFFF
    [st.toNat, s.k.upcmd.toNat]).pending (kpend_pending _ (by decide : 10 < 32))
  obtain ⟨l, q, p, a, w, he⟩ := hwLog_logged (({ s with k := { s.k with upstat := st, upjob := none } } : State).kpend 10) 6 none
    0xFFFF [st.toNat, s.k.upcmd.toNat]
  refine ⟨?_, ?_, hp, ?_, ?_, l, q, ?_⟩ <;>
  · rw [State.upDone, he]
    rfl

theorem install_spec (s : State) (b : List Byte) (i : Image) : (s.install b i).k = s.k ∧
    (s.install b i).nvm.activeB = s.nvm.activeB ∧
    (i.accepted s.nvm.rollback = true → (s.install b i).nvm.rollback = i.version ∧
      (if s.nvm.activeB then (s.install b i).nvm.slotA else (s.install b i).nvm.slotB) = some ⟨b⟩ ∧
      (if s.nvm.activeB then (s.install b i).nvm.slotB else (s.install b i).nvm.slotA) =
        (if s.nvm.activeB then s.nvm.slotB else s.nvm.slotA)) ∧
    (i.accepted s.nvm.rollback = false → s.install b i = s) := by
  unfold State.install
  dsimp only
  cases h : i.accepted s.nvm.rollback with
  | false => exact ⟨rfl, rfl, nofun, fun _ => rfl⟩
  | true =>
    refine ⟨rfl, rfl, fun _ => ⟨rfl, ?_, ?_⟩, nofun⟩ <;>
    · cases s.nvm.activeB <;> rfl

/-- What the engine does with the bytes of an image. -/
def State.verified (s : State) (b : List Byte) : State :=
  match Image.parse b with
  | some x => s.install b x
  | none => s

theorem verify_ends {s : State} {src n : Nat} {b : List Byte} (hj : s.k.upjob = some (.verify src n))
    (hr : s.upRead src n = some b) :
    ∃ u, exec .updateDone s = .next u ∧ u.k.upstat = upstatOf (Image.parse b) s.nvm.rollback ∧ u.k.upjob = none ∧
      u.k.kipend.getLsbD 10 = true ∧ u.nvm.activeB = s.nvm.activeB ∧
      (∀ i, Image.parse b = some i → i.accepted s.nvm.rollback = true → u.nvm.rollback = i.version ∧
        (if s.nvm.activeB then u.nvm.slotA else u.nvm.slotB) = some ⟨b⟩ ∧
        (if s.nvm.activeB then u.nvm.slotB else u.nvm.slotA) = (if s.nvm.activeB then s.nvm.slotB else s.nvm.slotA)) ∧
      ((Image.parse b).any (fun i => i.accepted s.nvm.rollback) = false →
        u.nvm.slotA = s.nvm.slotA ∧ u.nvm.slotB = s.nvm.slotB ∧ u.nvm.rollback = s.nvm.rollback) := by
  have hx : exec .updateDone s = .next ((s.verified b).upDone (upstatOf (Image.parse b) s.nvm.rollback)) := by
    show execUpdateDone s = _
    unfold execUpdateDone
    rw [hj]
    dsimp only
    rw [hr]
    rfl
  obtain ⟨h1, h2, h3, -, -, l, q, h4⟩ := (s.verified b).upDone_spec (upstatOf (Image.parse b) s.nvm.rollback)
  refine ⟨_, hx, h1, h2, h3, ?_⟩
  rw [h4]
  dsimp only
  unfold State.verified
  cases hp : Image.parse b with
  | none => exact ⟨rfl, nofun, fun _ => ⟨rfl, rfl, rfl⟩⟩
  | some i =>
    obtain ⟨-, ha, hok, hno⟩ := install_spec s b i
    refine ⟨ha, fun j hj' hacc => ?_, fun hacc => ?_⟩
    · cases hj'
      exact hok hacc
    · dsimp only
      rw [hno hacc]
      exact ⟨rfl, rfl, rfl⟩

theorem attest_ends {s : State} {src dst : Nat} {nonce : List Byte} (hj : s.k.upjob = some (.attest src dst))
    (hr : s.upRead src 32 = some nonce) :
    let report := Config.attestReport s.nvm.active s.nvm.rollback nonce
    (dst + report.length ≤ 0x80000 → ∃ u, exec .updateDone s = .next u ∧ u.k.upstat = 0 ∧ u.mem = s.mem ∧
      u.k.sram = Memory.writeN s.k.sram dst report) ∧
    (s.upWrite dst report = none → exec .updateDone s = .fault .absentMemory) := by
  intro report
  have hx : exec .updateDone s = (match s.upWrite dst report with
      | none => .fault .absentMemory
      | some s1 => .next (s1.upDone 0)) := by
    show execUpdateDone s = _
    unfold execUpdateDone
    rw [hj]
    dsimp only
    rw [hr] <;> rfl
  constructor
  · intro hl
    have hw : s.upWrite dst report = some { s with k := { s.k with sram := Memory.writeN s.k.sram dst report } } := if_pos hl
    rw [hw] at hx
    obtain ⟨h1, -, -, h2, h3, -⟩ := ({ s with k := { s.k with sram := Memory.writeN s.k.sram dst report } } : State).upDone_spec 0
    exact ⟨_, hx, h1, h3, h2⟩
  · intro hw
    rw [hw] at hx
    exact hx

/-- An address that lies in no memory stops the engine. -/
theorem update_absent {s : State} {src dst n : Nat} : (s.k.upjob = some (.verify src n) → s.upRead src n = none →
      exec .updateDone s = .fault .absentMemory) ∧
    (s.k.upjob = some (.attest src dst) → s.upRead src 32 = none → exec .updateDone s = .fault .absentMemory) := by
  constructor <;>
  · intro hj hr
    show execUpdateDone s = _
    unfold execUpdateDone
    rw [hj]
    dsimp only
    rw [hr]

/-- Settles O60: each event by the lemma of its case. -/
theorem kennelEvents : Obligations.KennelEvents := by
  unfold Obligations.KennelEvents
  exact ⟨fun s v hst hl hp ht hi hv hpend hlow => interrupt_entered hst hl hp ht hi hv hpend hlow, timer_matched, logcommit_ends,
    fun s core x hk hk' hg hg' => sctlAll_ends hk hk' hg hg' s core, fun s i e => enlo_latched,
    fun s => ⟨update_starts, update_busy⟩, fun s src n b => verify_ends, fun s src dst nonce => attest_ends,
    fun s src dst n => update_absent⟩

end Sys2Proof.Machine
end

section
/-! PROOFS. What an instruction that issues can write: memory or not, the scratchpads or not, and all in canonical form. -/
namespace Sys2Proof.Machine

/-- Memory stands unless `M`, the scratchpads unless `S`, the accumulators in any case; canonical forms are kept. -/
structure State.Wrote (M S : Prop) (s t : State) : Prop where
  mem : ¬M → t.mem = s.mem
  scratch : ¬S → ∀ n, (t.team? n).map Team.scratch = (s.team? n).map Team.scratch
  acc : ∀ n, (t.team? n).map Team.acc = (s.team? n).map Team.acc
  canonical : s.canonical → t.canonical
  spads : s.scratchWf → t.scratchWf

/-- Whatever state the effect leaves, before it is judged, is one of `R`. -/
def Res.Leaves (R : State → Prop) (r : Res) : Prop := ∀ x, r.left = some x → R x

/-- What the instruction writes, wherever it issues. -/
def Instr.Writes (i : Instr) (M S : Prop) : Prop := ∀ s t, exec i s = .next t → s.Wrote M S t

namespace State
variable {M S : Prop} {s t u : State}

theorem SameStores.canonical (a : s.SameStores t) (h : s.canonical) : t.canonical := by
  obtain ⟨hm, hb, hk⟩ := h
  exact ⟨a.mem.symm ▸ hm, a.bus hb, a.sram.symm ▸ hk⟩

theorem SameStores.scratchWf (a : s.SameStores t) (h : s.scratchWf) : t.scratchWf := by
  intro n y hy
  have ht := a.scratch n
  rw [hy] at ht
  cases hx : s.team? n with
  | none => rw [hx] at ht; cases ht
  | some x =>
    rw [hx] at ht
    exact (Option.some.inj ht : y.scratch = x.scratch) ▸ h n x hx

theorem SameStores.wrote (a : s.SameStores t) : s.Wrote M S t :=
  ⟨fun _ => a.mem, fun _ => a.scratch, a.acc, a.canonical, a.scratchWf⟩

namespace Wrote

theorem refl (s : State) : s.Wrote M S s := (SameStores.refl s).wrote

theorem trans (a : s.Wrote M S t) (b : t.Wrote M S u) : s.Wrote M S u :=
  ⟨fun h => (b.mem h).trans (a.mem h), fun h n => (b.scratch h n).trans (a.scratch h n), fun n => (b.acc n).trans (a.acc n),
    b.canonical ∘ a.canonical, b.spads ∘ a.spads⟩

theorem mono {M' S' : Prop} (hm : M → M') (hs : S → S') (a : s.Wrote M S t) : s.Wrote M' S' t :=
  ⟨fun h => a.mem (h ∘ hm), fun h => a.scratch (h ∘ hs), a.acc, a.canonical, a.spads⟩

end Wrote

theorem Touches.canonical {W : Nat → Prop} (a : s.Touches W t) (h : s.canonical) : t.canonical := by
  obtain ⟨hm, hb, hk⟩ := h
  exact ⟨a.wf hm, a.bus.symm ▸ hb, a.kennel.symm ▸ hk⟩

theorem Touches.scratchWf {W : Nat → Prop} (a : s.Touches W t) (h : s.scratchWf) : t.scratchWf := by
  intro n y hy
  have ht := a.team_map Team.scratch n fun _ => rfl
  rw [hy] at ht
  cases hx : s.team? n with
  | none => rw [hx] at ht; cases ht
  | some x =>
    rw [hx] at ht
    exact (Option.some.inj ht : y.scratch = x.scratch) ▸ h n x hx

theorem Touches.wrote {W : Nat → Prop} (a : s.Touches W t) (hM : M) : s.Wrote M S t :=
  ⟨fun h => absurd hM h, fun _ n => a.team_map Team.scratch n fun _ => rfl,
    fun n => a.team_map Team.acc n fun _ => rfl, a.canonical, a.scratchWf⟩

theorem Touches.wrote_none (a : s.Touches (fun _ => False) t) : s.Wrote M S t := a.sameStores.wrote

theorem Spads.wrote (a : s.Spads t) (hS : S) : s.Wrote M S t :=
  ⟨fun _ => a.mem, fun h => absurd hS h, fun n => a.team_map Team.acc n fun _ => rfl,
    fun ⟨hm, hb, hk⟩ => ⟨a.mem.symm ▸ hm, a.bus.symm ▸ hb, a.kennel.symm ▸ hk⟩, a.wf⟩

end State

/-! ## Answers -/

namespace Res.Leaves
variable {R : State → Prop} {x : State}

theorem done (h : R x) : Leaves R (.done x) := fun _ e => Option.some.inj e ▸ h
theorem jump (h : R x) : Leaves R (.jump x) := fun _ e => Option.some.inj e ▸ h
theorem leave {m : Mask} (h : R x) : Leaves R (.leave m x) := fun _ e => Option.some.inj e ▸ h
theorem park {p : Park} (h : R x) : Leaves R (.park x p) := fun _ e => Option.some.inj e ▸ h
theorem hold : Leaves R .hold := fun _ h => absurd h.symm (Option.some_ne_none _)
theorem uce : Leaves R .uce := fun _ h => absurd h.symm (Option.some_ne_none _)
theorem trap {e : Cause} {m : Mask} {n : Word} : Leaves R (.trap e m n) := fun _ h => absurd h.symm (Option.some_ne_none _)
theorem busErr {a : DWord} {u : Bool} : Leaves R (.busErr a u) := fun _ h => absurd h.symm (Option.some_ne_none _)

theorem ite {p : Prop} [Decidable p] {a b : Res} (ha : Leaves R a) (hb : Leaves R b) : Leaves R (if p then a else b) := by
  split
  · exact ha
  · exact hb

end Res.Leaves

/-- What the effect of an instruction does to the stores, its issue does. -/
theorem issue_leaves {sp : Spec} {body : Ctx → State → Res} {s t : State} {R : State → State → Prop}
    (hr : ∀ u v : State, u.SameStores v → R u v) (ht : ∀ u v w, R u v → R v w → R u w)
    (hb : ∀ c u, (body c u).Leaves (R u)) (h : issue sp body s = .next t) : R s t := by
  rcases issue_stores h with hs | ⟨c0, c, x, -, -, hx, hs⟩
  · exact hr _ _ hs
  · exact ht _ _ _ (ht _ _ _ (hr _ _ (.of_slotFrame (.begun ..))) (hb _ _ x hx)) (hr _ _ hs)

/-- An instruction whose effect writes within limits does so wherever it issues. -/
theorem issue_wrote {sp : Spec} {body : Ctx → State → Res} {s t : State} {M S : Prop}
    (hb : ∀ c s, (body c s).Leaves (s.Wrote M S)) (h : issue sp body s = .next t) : s.Wrote M S t :=
  issue_leaves (R := State.Wrote M S) (fun _ _ h => h.wrote) (fun _ _ _ => .trans) hb h

section
variable {s x : State} {M S : Prop} (c : Ctx)

theorem mod_wrote (f : Group → Group) (h : s.Wrote M S x) : s.Wrote M S (c.mod x f) := h.trans (State.SameStores.mod ..).wrote

theorem put_wrote (g : Group) (h : s.Wrote M S x) : s.Wrote M S (c.put x g) := h.trans (State.SameStores.putGrp ..).wrote

theorem retire_leaves (xs : List (Src × Nat)) (f : Group → Group) (h : s.Wrote M S x) :
    (c.retire x xs f).Leaves (s.Wrote M S) := .done (mod_wrote c _ h)

theorem spadDone_wrote {f : FlagUse} {xs : List (Src × Nat)} {m : Mask} {ls : List Land} {dV dS : List Nat}
    (h : s.Wrote M S x) : (c.spadDone x f xs m ls dV dS).Leaves (s.Wrote M S) := by
  unfold Ctx.spadDone
  dsimp only
  split
  · exact .done (put_wrote c _ h)
  · exact .leave (put_wrote c _ h)

theorem parkOn_wrote {w : WaitObj} (h : s.Wrote M S x) : (c.parkOn x w).Leaves (s.Wrote M S) := by
  unfold Ctx.parkOn
  split
  · exact .park h
  · exact .hold

theorem onObject_wrote {f : FlagUse} {m : MAddr} {xs : List (Src × Nat)} {al : Nat} {rd : Nat × Nat} {st rel : Bool}
    {body : Nat → Team → Nat → Res} (hb : ∀ t tm o, (body t tm o).Leaves (s.Wrote M S)) :
    (c.onObject s f m xs al rd st rel body).Leaves (s.Wrote M S) := by
  unfold Ctx.onObject
  split
  · exact .hold
  · split
    · dsimp only
      split
      · exact spadDone_wrote c (.refl s)
      · split
        · exact .uce
        · exact hb _ _ _
    · exact .hold

theorem onFifo_wrote {f : FlagUse} {b : Src} {xs : List (Src × Nat)} {rel : Bool}
    {body : Nat → Team → Nat → Nat → Nat → Nat → Res} (hb : ∀ t tm k bi h n, (body t tm k bi h n).Leaves (s.Wrote M S)) :
    (c.onFifo s f b xs rel body).Leaves (s.Wrote M S) := by
  unfold Ctx.onFifo
  split
  · exact .hold
  · split
    · dsimp only
      split
      · exact spadDone_wrote c (.refl s)
      · exact hb _ _ _ _ _ _
    · exact .hold

theorem branch_wrote {xs : List (Src × Nat)} {link : Group → Group} {tgt : Nat → Option DWord} :
    (c.branch s xs link tgt).Leaves (s.Wrote M S) := by
  unfold Ctx.branch
  split
  · exact .trap
  · dsimp only
    split
    · exact .trap
    · split
      · exact .trap
      · exact .jump (put_wrote c _ (.refl s))

theorem enqueue_wrote {t : Nat} {tm : Team} {o : Op} {xs : List (Src × Nat)} (h : s.Wrote M S x) :
    (c.enqueue x t tm o xs).Leaves (s.Wrote M S) :=
  .done ((mod_wrote c _ h).trans (State.SameStores.modCore ..).wrote)

/-- The lanes of an access write what each of them does. -/
theorem globalOp_wrote {f : FlagUse} {a : GAcc} {v : OpVals} {xs : List (Src × Nat)} {dV dS : List Nat} {acq rel : Bool}
    (h : ∀ t l cov (u : State), u.Wrote M S (a.run t v l cov u).s) :
    (c.globalOp s f a v xs dV dS acq rel).Leaves (s.Wrote M S) := by
  have hr (t : Nat) (ls : List Nat) (r : RunOut) : r.s.Wrote M S (a.runLanes t v ls r).s := by
    induction ls generalizing r with
    | nil => exact .refl _
    | cons l ls ih =>
      rw [GAcc.runLanes]
      exact (h t l r.cov r.s).trans (ih ⟨_, _, _, _, _, _, _⟩)
  unfold Ctx.globalOp
  split
  · exact .hold
  · dsimp only
    split
    · exact .hold
    · split
      · exact .uce
      · split
        · exact .hold
        · exact .done (put_wrote c _ (hr _ _ (c.noLanes s)))

theorem globSync_wrote {f : FlagUse} {a : GAcc} {v : OpVals} {xs : List (Src × Nat)} {dS : List Nat} {acq rel : Bool}
    (h : ∀ t cov (u : State), u.Wrote M S (a.run t v 0 cov u).s) :
    (c.globSync s f a v xs dS acq rel).Leaves (s.Wrote M S) := by
  unfold Ctx.globSync
  split
  · exact .hold
  · next t _ _ _ =>
    have hr : s.Wrote M S (a.runLanes t v [0] ⟨[], [], false, false, [], [], s⟩).s := h t [] s
    dsimp only
    split
    · exact .hold
    · split
      · exact .uce
      · split
        · exact .hold
        · split
          · exact .park (put_wrote c _ hr)
          · split
            · split
              · split
                · exact parkOn_wrote c (.refl s)
                · exact .hold
              · exact .hold
            · exact spadDone_wrote c hr

end

end Sys2Proof.Machine
end

section
/-! PROOFS. Which instructions write memory and which the scratchpads. -/
namespace Sys2Proof.Machine

/-! ## Registers -/

section
variable {s t : State} {M S : Prop}

theorem uniform_wrote {d : BitVec 9} {n : Nat} {xs : List (Src × Nat)} {f : Ctx → State → DWord}
    (h : uniform d n xs f s = .next t) : s.Wrote M S t :=
  issue_wrote (fun c s => retire_leaves c _ _ (.refl s)) h

theorem vector_wrote {d : BitVec 8} {xs : List (Src × Nat)} {f : Ctx → State → Nat → Word}
    (h : vector d xs f s = .next t) : s.Wrote M S t :=
  issue_wrote (fun c s => retire_leaves c _ _ (.refl s)) h

theorem vector64_wrote {d : BitVec 8} {xs : List (Src × Nat)} {f : Ctx → State → Nat → DWord}
    (h : vector64 d xs f s = .next t) : s.Wrote M S t :=
  issue_wrote (fun c s => retire_leaves c _ _ (.refl s)) h

theorem vecF_wrote {d : BitVec 8} {xs : List Src} {f : Ctx → State → Nat → Nat × FFlags}
    (h : vecF d xs f s = .next t) : s.Wrote M S t := by
  unfold vecF at h
  exact issue_wrote (fun c s => retire_leaves c _ _ (.refl s)) h

theorem convert_wrote {e sw dw : Nat} {d : BitVec 8} {a : Src} {ys : List (Src × Nat)}
    {f : Ctx → State → Nat → Nat → Nat × FFlags} (h : convert e sw dw d a ys f s = .next t) : s.Wrote M S t := by
  unfold convert at h
  exact issue_wrote (fun c s => retire_leaves c _ _ (.refl s)) h

theorem longOp_wrote {d : BitVec 8} {xs : List (Src × Nat)} {r : Bool} {f : Ctx → State → LRes}
    (h : longOp d xs r f s = .next t) : s.Wrote M S t := by
  refine issue_wrote (fun c s => ?_) h
  dsimp only
  split
  · exact .trap
  · exact .done (mod_wrote c _ (.refl s))

/-- An instruction that ends by retiring its registers. -/
theorem issue_retires {sp : Spec} {xs : Ctx → State → List (Src × Nat)} {f : Ctx → State → Group → Group}
    (h : issue sp (fun c s => c.retire s (xs c s) (f c s)) s = .next t) : s.Wrote M S t :=
  issue_wrote (fun c s => retire_leaves c _ _ (.refl s)) h
end

theorem uniRule_writes {i : Instr} {r : RegRule} (h : uniRule i = some r) : Instr.Writes i False False := by
  intro s t ht
  unfold uniRule at h
  split at h <;> cases h
  case h_1 | h_2 =>
    simp only [exec, execSMov, execSLi] at ht
    split at ht <;> exact uniform_wrote ht
  all_goals
    simp only [exec, execSAdd, execSSub, execSMul, execSMulhi, execSAnd, execSOr, execSXor, execSNot, execSShl, execSShr,
      execSSra, execSMin, execSMax, execSBfe, execSBfi, execSClz, execSPopc, execSAdd64, execSSub64, execSShl64,
      uniArith, uniBits, uniWide] at ht
    exact uniform_wrote ht

theorem uniRule2_writes {i : Instr} {r : RegRule} (h : uniRule2 i = some r) : Instr.Writes i False False := by
  intro s t ht
  unfold uniRule2 at h
  split at h <;> cases h
  all_goals
    simp only [exec, execSCmp, execSSel, execSVget] at ht
    exact issue_retires ht

theorem vecRule_writes {i : Instr} {r : RegRule} (h : vecRule i = some r) : Instr.Writes i False False := by
  intro s t ht
  unfold vecRule at h
  split at h <;> cases h
  case h_1 =>
    simp only [exec, execVLi] at ht
    split at ht
    · exact vector64_wrote ht
    · exact vector_wrote ht
  all_goals
    simp only [exec, execVAdd, execVSub, execVMul, execVMulhi, execVMad, execVAnd, execVOr, execVXor, execVNot, execVShl,
      execVShr, execVSra, execVMin, execVMax, execVAbs, execVBfe, execVBfi, execVPopc, execVClz, execVDot4, execVReq,
      execVMadw, vArith1, vArith2, vBits2, vShift, vCount, vector, vector64] at ht
    exact issue_retires ht

theorem vecRule2_writes {i : Instr} {r : RegRule} (h : vecRule2 i = some r) : Instr.Writes i False False := by
  intro s t ht
  unfold vecRule2 at h
  split at h <;> cases h
  case h_1 =>
    simp only [exec, execVMov] at ht
    split at ht
    · exact vector64_wrote ht
    · exact vector_wrote ht
  all_goals
    simp only [exec, execVSel, execVCmp, execVUnpk3] at ht
    exact issue_retires ht

theorem laneRule_writes {i : Instr} {r : RegRule} (h : laneRule i = some r) : Instr.Writes i False False := by
  intro s t ht
  unfold laneRule at h
  split at h <;> cases h
  all_goals
    simp only [exec, execVShfl, execVBcast, execVVote, execVRed, execVScan] at ht
    exact issue_retires ht

theorem fltRule_writes {i : Instr} {r : RegRule} (h : fltRule i = some r) : Instr.Writes i False False := by
  intro s t ht
  unfold fltRule at h
  split at h <;> cases h
  all_goals
    simp only [exec, execVFadd, execVFsub, execVFmul, execVFfma, execVFmin, execVFmax, execVFclass, execVFrnd, execVFsqrt,
      execVFrcp, execVFrsq, execVFexp2, execVFlog2, execVFsin, execVFcos, execVHadd2, execVHmul2, execVHfma2, execVFcmp,
      vecF2, vecSpec, vecH, vecF] at ht
    exact issue_retires ht

theorem cvtRule_writes {i : Instr} {r : RegRule} (h : cvtRule i = some r) : Instr.Writes i False False := by
  intro s t ht
  unfold cvtRule at h
  split at h <;> cases h
  all_goals
    simp only [exec, execVCvt, execVFcvt, execVFicvt, execVMxscl, execVMxpack, convert, vecF] at ht
    exact issue_retires ht

/-- The register instructions write registers. -/
theorem regRule_writes {i : Instr} {r : RegRule} (h : regRule i = some r) : Instr.Writes i False False := by
  simp only [regRule, Option.or_eq_some_iff] at h
  obtain h | ⟨-, h | ⟨-, h | ⟨-, h | ⟨-, h | ⟨-, h | ⟨-, h⟩⟩⟩⟩⟩⟩ := h
  · exact uniRule_writes h
  · exact uniRule2_writes h
  · exact vecRule_writes h
  · exact vecRule2_writes h
  · exact laneRule_writes h
  · exact fltRule_writes h
  · exact cvtRule_writes h

end Sys2Proof.Machine
end

section
/-! PROOFS. The instructions on memory, scratchpads, objects and engines, and the others. -/
namespace Sys2Proof.Machine

/-- The instructions that can write memory as they issue, MMST apart. -/
def Instr.storesMem : Instr → Prop
  | .st .. | .stu .. | .atom .. | .atomu .. | .tktTake _ true _ _ | .tktPass _ true _ _ => True
  | _ => False

/-- Those that can write a scratchpad. -/
def Instr.storesSpad : Instr → Prop
  | .sts .. | .str .. | .atoms .. | .barInit .. | .barArr .. | .barAw .. | .tktTake _ false _ _ | .tktPass _ false _ _
  | .fifoPush .. => True
  | _ => False

/-- An instruction writes no more than its kind does. -/
def Instr.Keeps (i : Instr) : Prop := Instr.Writes i (Instr.storesMem i) (Instr.storesSpad i)

theorem Instr.Writes.keeps {i : Instr} (h : Instr.Writes i False False) : Instr.Keeps i :=
  fun s t ht => (h s t ht).mono False.elim False.elim

/-! ## Branches, long integers, engines, commands -/

section
variable {i : Instr} {s t : State} {M S : Prop}

theorem branchRule_writes {b : BranchRule} (h : branchRule i = some b) : Instr.Writes i False False := by
  intro s t ht
  unfold branchRule at h
  split at h <;> cases h
  all_goals
    simp only [exec, execBr, execBrx, execRet, execCall, branchTo] at ht
    exact issue_wrote (fun c s => branch_wrote c) ht

theorem longRule_writes {r : LongRule} (h : longRule i = some r) : Instr.Writes i False False := by
  intro s t ht
  unfold longRule at h
  split at h <;> cases h
  all_goals
    simp only [exec, execLadd, execLsub, execLneg, execLshl, execLshr, execLmulw] at ht
    exact longOp_wrote ht

theorem Team.copyBlocks_acc (tm : Team) (nscr o n : Nat) : (tm.copyBlocks nscr o n).acc = tm.acc := by
  have h := congrArg Team.acc (Team.copyBlocks_unspad tm nscr o n)
  exact h

/-- Copies for the checkpoint leave the scratchpads and accumulators themselves. -/
theorem engineCopies_stores (s : State) (t : Nat) (acc : Option Nat) (ps : List (Nat × Nat)) :
    s.SameStores (s.engineCopies t acc ps) := by
  have key (x : Team) (n : Nat) : ∀ y : Team, y.scratch = x.scratch ∧ y.acc = x.acc →
      (ps.foldl (fun z p => z.copyBlocks n p.1 p.2) y).scratch = x.scratch ∧
        (ps.foldl (fun z p => z.copyBlocks n p.1 p.2) y).acc = x.acc := fun y hy =>
    List.foldlRecOn (motive := fun z : Team => z.scratch = x.scratch ∧ z.acc = x.acc) ps _ hy fun z hz p _ => by
      rw [Team.copyBlocks_scratch, Team.copyBlocks_acc]
      exact hz
  have tile (x : Team) : (match acc with | some a => x.copyTile a | none => x).scratch = x.scratch ∧
      (match acc with | some a => x.copyTile a | none => x).acc = x.acc := by
    unfold Team.copyTile
    split
    · split
      · exact ⟨rfl, rfl⟩
      · split <;> exact ⟨rfl, rfl⟩
    · exact ⟨rfl, rfl⟩
  exact .modTeam s t (fun x => (key x _ _ (tile x)).1) fun x => (key x _ _ (tile x)).2

theorem moveTile_wrote (c : Ctx) {t : Nat} {tm : Team} {fs : Bool} {ps : List (Nat × Nat)} {w : Bool} {acc : Option Nat}
    {a : OpAct} : (c.moveTile s t tm fs ps w acc a).Leaves (s.Wrote M S) := by
  unfold Ctx.moveTile
  split
  · exact spadDone_wrote c (.refl s)
  · exact enqueue_wrote c (engineCopies_stores ..).wrote

theorem engineIssue_wrote {f : FlagUse} {acc : Option (BitVec 4)} {sp : SpadUse} {hdr : Ctx → Bool}
    {us : Ctx → State → List Use} {body : Ctx → State → Nat → Team → List Nat → Res}
    (hb : ∀ c s t tm rows, (body c s t tm rows).Leaves (s.Wrote M S)) (h : engineIssue f acc sp hdr us body s = .next t) :
    s.Wrote M S t := by
  refine issue_wrote (fun c s => ?_) h
  split
  · exact .ite .trap (.ite .hold (.ite .hold (hb _ _ _ _ _)))
  · exact .hold

theorem mma_wrote {fs za capf : Bool} {acc ta tb koff : BitVec 4} {stat : Option (BitVec 9)}
    (h : exec (.mma fs acc ta tb stat za capf koff) s = .next t) : s.Wrote M S t := by
  simp only [exec, execMma] at h
  exact engineIssue_wrote (fun c s t tm rows =>
    .ite .hold (.ite (spadDone_wrote c (.refl s)) (enqueue_wrote c (engineCopies_stores ..).wrote))) h

theorem engRule_writes {r : EngRule} (h : engRule i = some r) : Instr.Writes i False False := by
  intro s t ht
  unfold engRule at h
  split at h <;> cases h
  case h_1 => exact mma_wrote ht
  all_goals simp only [exec, execAccZero, execAccLd, execAccSt, execAccRd, execAccWr, execAccOut, execMstat] at ht
  case h_2 | h_6 => exact engineIssue_wrote (fun c s t tm rows => enqueue_wrote c (engineCopies_stores ..).wrote) ht
  case h_5 | h_8 => exact engineIssue_wrote (fun c s t tm rows => enqueue_wrote c (.refl s)) ht
  case h_3 | h_4 | h_7 => exact engineIssue_wrote (fun c s t tm rows => moveTile_wrote c) ht

theorem noteColl_stores (s : State) (x : Cmd) (bad : Bool) : s.SameStores (s.noteColl x bad) := by
  unfold State.noteColl
  split
  · exact .of_eq rfl
  · exact .refl s

theorem queued_stores (c : Ctx) (s : State) (t : Nat) (f : CmdF) (x : Cmd) : s.SameStores (c.queued s t f x) := by
  unfold Ctx.queued
  dsimp only
  generalize hu : (c.mod s _).modTeam t _ = u
  have h : s.SameStores u := hu ▸ (State.SameStores.mod c s _).trans (.modTeam _ t (fun _ => rfl) fun _ => rfl)
  exact (h.trans (noteColl_stores u x _)).trans (.of_eq rfl)

theorem command_wrote {op : Nat} {f : CmdF} {k : CmdKind} (h : command op f k s = .next t) : s.Wrote M S t := by
  refine issue_wrote (fun c s => ?_) h
  split
  · exact .ite (spadDone_wrote c (.refl s)) (.ite (spadDone_wrote c (.refl s))
      (.ite .hold (.done (queued_stores c s _ f _).wrote)))
  · exact .hold

theorem cmdRule_writes {x} (h : cmdRule i = some x) : Instr.Writes i False False := by
  intro s t ht
  unfold cmdRule at h
  split at h <;> cases h
  all_goals
    simp only [exec, execCp, execCpt, execCpg, execCpsc, execCpr, execCpx, execColl, execCpq] at ht
    exact command_wrote ht

/-! ## Memory -/

theorem charge_stores (s : State) (j u n : Nat) : s.SameStores (s.charge j u n) := by
  unfold State.charge
  split
  · exact .refl s
  · exact .of_eq rfl

theorem kCharge_stores (s : State) (a n : Nat) : s.SameStores (s.kCharge a n) := by
  unfold State.kCharge
  split
  · exact charge_stores ..
  · exact .refl s

theorem storeAcc_wrote (one : Bool) (sz : MSize) (t : Nat) (v : OpVals) (l : Nat) (cov : List (Nat × Nat)) (u : State) :
    u.Wrote True S ((storeAcc one sz).run t v l cov u).s := (gstore_touches ..).wrote trivial

theorem loadAcc_wrote (one : Bool) (sz : MSize) (d : Nat) (pol : Word) (t : Nat) (v : OpVals) (l : Nat)
    (cov : List (Nat × Nat)) (u : State) : u.Wrote M S ((loadAcc one sz d pol).run t v l cov u).s :=
  (gload_touches ..).wrote_none

theorem atomAcc_wrote (one : Bool) (op : AtomOp) (d : Option Nat) (t : Nat) (v : OpVals) (l : Nat) (cov : List (Nat × Nat))
    (u : State) : u.Wrote True S ((atomAcc one op d).run t v l cov u).s := (gAtomic_touches ..).wrote trivial

theorem objAcc_wrote (al off : Nat) (w : Bool) (f : Nat → Option Nat) (ok : Nat → OpVals → Bool) (d : Option Nat) (t : Nat)
    (v : OpVals) (l : Nat) (cov : List (Nat × Nat)) (u : State) : u.Wrote True S ((objAcc al off w f ok d).run t v l cov u).s :=
  (gAtomic_touches ..).wrote trivial

/-- A test of an object writes nothing. -/
theorem objAcc_tests (al off : Nat) (w : Bool) (ok : Nat → OpVals → Bool) (d : Option Nat) (t : Nat) (v : OpVals) (l : Nat)
    (cov : List (Nat × Nat)) (u : State) : u.Wrote M S ((objAcc al off w (fun _ => none) ok d).run t v l cov u).s :=
  ((gAtomic_touches ..).mono fun _ h => absurd rfl h.1.choose_spec).wrote_none

/-- A store of the Kennel, to the SRAM or to memory. -/
theorem kStore_wrote {a : Nat} {b : List Byte} {x : State} (h : s.kStore a b = some x) : s.Wrote True S x := by
  unfold State.kStore at h
  split at h
  · cases h
    exact ⟨fun h => absurd trivial h, fun _ _ => rfl, fun _ => rfl, fun ⟨hm, hb, hk⟩ => ⟨hm, hb, Memory.wf_writeN _ _ _ hk⟩, id⟩
  · cases h
    exact (State.Touches.memWrite (W := fun _ => True) s _ b fun _ _ _ => trivial).wrote trivial
  · cases h

theorem stu_wrote {gd : Guard} {fs : Bool} {sz : MSize} {x : Src} {m : MAddr} {pol : BitVec 9}
    (h : exec (.stu gd fs sz x m pol) s = .next t) : s.Wrote True S t := by
  simp only [exec, execStu] at h
  refine issue_wrote (fun c s => .ite (.ite .hold ?_) (globalOp_wrote c fun t => storeAcc_wrote _ _ t _)) h
  split
  · exact .busErr
  · next hk => exact .done ((kStore_wrote hk).trans (kCharge_stores ..).wrote)

theorem ldu_wrote {fs : Bool} {sz : MSize} {d : BitVec 9} {m : MAddr} {pol : BitVec 9}
    (h : exec (.ldu fs sz d m pol) s = .next t) : s.Wrote M S t := by
  simp only [exec, execLdu] at h
  refine issue_wrote (fun c s => .ite (.ite .hold ?_) (globalOp_wrote c fun t => loadAcc_wrote _ _ _ _ t _)) h
  split
  · exact .busErr
  · exact .done (mod_wrote c _ (kCharge_stores ..).wrote)

theorem mxld_wrote {fs : Bool} {tf : MxFmt} {d : BitVec 8} {m : MAddr} (h : exec (.mxld fs tf d m) s = .next t) :
    s.Wrote M S t := by
  simp only [exec, execMxld] at h
  exact issue_wrote (fun c s => .ite .trap (.ite .trap (.ite .trap
    (globalOp_wrote c fun t l cov u => (mxldAcc_touches ..).wrote_none)))) h

theorem mxacc_wrote {gd : Guard} {fs slu : Bool} {tf sf : MxFmt} {x : Src} {m : MAddr} {sr : BitVec 8}
    (h : exec (.mxacc gd fs tf sf x m slu sr) s = .next t) : s.Wrote M S t := by
  simp only [exec, execMxacc] at h
  exact issue_wrote (fun c s => .ite .trap (.ite .trap
    (globalOp_wrote c fun t l cov u => (mxaccAcc_touches ..).wrote_none))) h

theorem globRule_keeps {r : GRule} (h : globRule i = some r) : Instr.Keeps i := by
  intro s t ht
  unfold globRule at h
  split at h <;> cases h
  case h_3 => exact ldu_wrote ht
  case h_4 => exact stu_wrote ht
  case h_7 => exact mxld_wrote ht
  case h_8 => exact mxacc_wrote ht
  all_goals simp only [exec, execLd, execSt, execAtom, execAtomu] at ht
  case h_1 => exact issue_wrote (fun c s => globalOp_wrote c fun t => loadAcc_wrote _ _ _ _ t _) ht
  case h_2 => exact issue_wrote (fun c s => globalOp_wrote c fun t => storeAcc_wrote _ _ t _) ht
  case h_5 | h_6 => exact issue_wrote (fun c s => globalOp_wrote c fun t => atomAcc_wrote _ _ _ t _) ht

theorem globSyncRule_keeps {r : GlobSyncRule} (h : globSyncRule i = some r) : Instr.Keeps i := by
  intro s t ht
  unfold globSyncRule at h
  split at h <;> cases h
  all_goals simp only [exec, execTktTake, execTktWait, execTktPass, execWaita, if_true] at ht
  case h_1 | h_3 => exact issue_wrote (fun c s => globSync_wrote c fun t => objAcc_wrote _ _ _ _ _ _ t _ 0) ht
  case h_2 | h_4 => exact issue_wrote (fun c s => globSync_wrote c fun t => objAcc_tests _ _ _ _ _ t _ 0) ht

/-! ## Scratchpads -/

theorem spadLoad_wrote (c : Ctx) {fs : Bool} {sz : MSize} {d : Nat} {m : MAddr} {own : Option Nat} :
    (c.spadLoad s fs sz d m own).Leaves (s.Wrote M S) := by
  unfold Ctx.spadLoad
  refine .ite .hold ?_
  split
  · exact spadDone_wrote c (.refl s)
  · exact .ite .uce (spadDone_wrote c (.refl s))

theorem spadStoreOp_wrote (c : Ctx) {fs : Bool} {sz : MSize} {x : Src} {m : MAddr} {own : Option Nat} :
    (c.spadStoreOp s fs sz x m own).Leaves (s.Wrote M True) := by
  unfold Ctx.spadStoreOp
  refine .ite .hold ?_
  split
  · exact spadDone_wrote c ((spadLanes_spads ..).wrote trivial)
  · exact spadDone_wrote c (.refl s)

theorem atoms_wrote {gd : Guard} {fs ret : Bool} {op : AtomOp} {sc : Scope} {o : Order} {pk : Option (BitVec 2)} {x : Src}
    {m : MAddr} (h : exec (.atoms gd fs op sc o ret pk x m) s = .next t) : s.Wrote M True t := by
  simp only [exec, execAtoms] at h
  refine issue_wrote (fun c s => .ite .hold ?_) h
  split
  · exact .ite .uce (spadDone_wrote c ((spadAtomics_spads ..).wrote trivial))
  · exact spadDone_wrote c (.refl s)

theorem spadRule_keeps {r : SpadRule} (h : spadRule i = some r) : Instr.Keeps i := by
  intro s t ht
  unfold spadRule at h
  split at h <;> cases h
  case h_5 => exact atoms_wrote ht
  all_goals simp only [exec, execLds, execSts, execLdr, execStr] at ht
  case h_1 => exact issue_wrote (fun c s => spadLoad_wrote c) ht
  case h_2 => exact issue_wrote (fun c s => .ite .hold (spadLoad_wrote c)) ht
  case h_3 => exact issue_wrote (fun c s => spadStoreOp_wrote c) ht
  case h_4 => exact issue_wrote (fun c s => .ite .hold (spadStoreOp_wrote c)) ht

/-! ## Objects -/

theorem putBarrier_spads (s : State) (t o : Nat) (b : Barrier) : s.Spads (s.putBarrier t o b) :=
  (spadStore_spads ..).trans (spadStore_spads ..)

theorem barAw_wrote {fs drop : Bool} {m : MAddr} (h : exec (.barAw fs m drop) s = .next t) : s.Wrote M True t := by
  simp only [exec, execBarAw] at h
  refine issue_wrote (fun c s => onObject_wrote c fun t tm o => ?_) h
  have ha := (arriveAt_spads c s t tm o drop).wrote (M := M) trivial
  exact .ite (.ite (spadDone_wrote c (mod_wrote c _ (.refl s))) (parkOn_wrote c (.refl s)))
    (.ite (parkOn_wrote c (.refl s)) (.ite (spadDone_wrote c ha) (parkOn_wrote c (mod_wrote c _ ha))))

theorem objRule_keeps {r : ObjRule} (h : objRule i = some r) : Instr.Keeps i := by
  intro s t ht
  unfold objRule at h
  split at h <;> cases h
  case h_4 => exact barAw_wrote ht
  all_goals
    simp only [exec, execBarInit, execBarArr, execBarWait, execTktTake, execTktWait, execTktPass, execWaita,
      Bool.false_eq_true, if_false] at ht
    refine issue_wrote (fun c s => onObject_wrote c fun t tm o => ?_) ht
  case h_1 => exact spadDone_wrote c (((putBarrier_spads ..).wrote trivial).trans (State.SameStores.modTeam _ t (by exact fun _ => rfl) (by exact fun _ => rfl)).wrote)
  case h_2 => exact spadDone_wrote c ((arriveAt_spads ..).wrote trivial)
  case h_3 => exact .ite (parkOn_wrote c (.refl s)) (spadDone_wrote c (.refl s))
  case h_5 | h_7 => exact spadDone_wrote c ((spadStore_spads ..).wrote trivial)
  case h_6 | h_8 => exact .ite (spadDone_wrote c (.refl s)) (parkOn_wrote c (.refl s))

end

end Sys2Proof.Machine
end

section
/-! PROOFS. The instructions that no rule describes, and all instructions with a word. -/
namespace Sys2Proof.Machine

section
variable {s t : State} {M S : Prop}

/-! ## Reads through the column -/

theorem noteSig_stores (s : State) (t : Nat) (p : MPiece) (pa : Nat) (w : Bool) : s.SameStores (s.noteSig t p pa w) :=
  (State.Touches.noteSig s t p pa w).sameStores

theorem prefetch_stores (s : State) (t : Nat) (l1 : Bool) (pol : Word) (va : Nat) : s.SameStores (s.prefetch t l1 pol va) := by
  unfold State.prefetch
  split
  · exact .refl s
  · next tm _ =>
    have hp := (place_touches s tm ⟨va, 1, tm.rangeAt va⟩ false).sameStores
    dsimp only
    split
    · next h => rw [h] at hp; exact hp
    · next pa s1 h =>
      rw [h] at hp
      have hf (ps : List MPiece) (a : MPiece → Nat) : s1.SameStores (ps.foldl (fun s q => s.noteSig t q (a q) false) s1) :=
        List.foldlRecOn ps _ (.refl s1) fun u hu q _ => hu.trans (noteSig_stores ..)
      split
      · exact hp
      · split
        · exact (hp.trans (hf ..)).trans (.modCol ..)
        · exact hp.trans (hf ..)

theorem cLine_stores (s : State) (t : Nat) (tm : Team) (pa n : Nat) : s.SameStores (s.cLine t tm pa n).2 := by
  unfold State.cLine
  split
  · exact .refl s
  · split
    · exact .refl s
    · dsimp only
      exact .modCol ..

theorem cRead_stores (s : State) (t : Nat) (tm : Team) (g : Grid) (o : Int) (n : Nat) :
    s.SameStores (s.cRead t tm g o n).2 := by
  have key (ps : List (Nat × Nat)) : ∀ r : Option (List Byte) × State, s.SameStores r.2 →
      s.SameStores (ps.foldl (fun (r : Option (List Byte) × State) p =>
        match r.1, pageOf g.pins p.1 with
        | some b, some pg =>
          (match r.2.cLine t tm (pg.at p.1) p.2 with
           | (some x, s1) => (some (b ++ x), s1)
           | (none, s1) => (none, s1))
        | some b, none => (some (b ++ List.replicate p.2 0), r.2)
        | none, _ => r) r).2 := fun r hr =>
    List.foldlRecOn (motive := fun r : Option (List Byte) × State => s.SameStores r.2) ps _ hr fun r hr p _ => by
      split
      · next pg _ _ =>
        have hl := hr.trans (cLine_stores r.2 t tm (pg.at p.1) p.2)
        split <;>
        · next h => rw [h] at hl; exact hl
      · exact hr
      · exact hr
  unfold State.cRead
  dsimp only
  split
  · exact key _ _ (.refl s)
  · split <;> exact key _ _ (.refl s)

theorem cLanes_stores (t : Nat) (tm : Team) (g : Grid) (n : Nat) (at_ : Nat → Int) (out : Nat → List Byte → List Land)
    (ls : List Nat) (acc : List Land) (s : State) : s.SameStores (State.cLanes t tm g n at_ out ls acc s).2 := by
  induction ls generalizing acc s with
  | nil => exact .refl s
  | cons l r ih =>
    have hr := cRead_stores s t tm g (at_ l) n
    rw [State.cLanes]
    split
    · next h => rw [h] at hr; exact hr
    · next h => rw [h] at hr; exact hr.trans (ih ..)

/-! ## Status registers and counters -/

theorem latchClk_stores (c : Ctx) (s : State) (n : Nat) : s.SameStores (c.latchClk s n) := by
  unfold Ctx.latchClk
  split
  · exact .mod ..
  · exact .refl s

theorem kpend_stores (s : State) (v : Nat) : s.SameStores (s.kpend v) := .of_eq rfl

theorem statKennelWrite_stores (s : State) (n : Nat) (w64 : Bool) (x : DWord) : s.SameStores (s.statKennelWrite n w64 x) := by
  unfold State.statKennelWrite
  split
  case h_6 =>
    dsimp only
    split
    · exact (State.SameStores.of_eq (s := s) (t := { s with k := { s.k with ktimer := _ } }) (by rfl)).trans (kpend_stores ..)
    · exact .of_eq rfl
  all_goals exact .of_eq rfl

theorem statWrite_stores (c : Ctx) (s : State) (n : Nat) (w64 : Bool) (x : DWord) : s.SameStores (c.statWrite s n w64 x) := by
  unfold Ctx.statWrite
  split
  · exact statKennelWrite_stores ..
  · exact .mod ..

theorem perfClear_stores (c : Ctx) (s : State) (i : Nat) : s.SameStores (c.perfClear s i) := by
  unfold Ctx.perfClear
  split
  · exact .ctxModTeam c s (fun _ => rfl) fun _ => rfl
  · exact .mod ..

/-! ## The instructions -/

theorem fifoPush_wrote {fs w64 : Bool} {b x : Src} (h : exec (.fifoPush fs w64 b x) s = .next t) : s.Wrote M True t := by
  simp only [exec, execFifoPush] at h
  exact issue_wrote (fun c s => onFifo_wrote c fun t tm k bi hd n => .ite (parkOn_wrote c (.refl s))
    (spadDone_wrote c (((spadStore_spads ..).wrote trivial).trans (State.SameStores.modTeam _ t (by exact fun _ => rfl) (by exact fun _ => rfl)).wrote))) h

theorem fifoPop_wrote {fs w64 : Bool} {b : Src} {d : BitVec 8} (h : exec (.fifoPop fs w64 b d) s = .next t) :
    s.Wrote M S t := by
  simp only [exec, execFifoPop] at h
  refine issue_wrote (fun c s => onFifo_wrote c fun t tm k bi hd n => .ite (parkOn_wrote c (.refl s)) (.ite .uce
    (spadDone_wrote c (State.SameStores.wrote (.modTeam s t ?_ ?_))))) h
  · exact fun x => Team.copyBlocks_scratch x _ _ _
  · exact fun x => Team.copyBlocks_acc x _ _ _

theorem launch_wrote {fs : Bool} {d : BitVec 9} {q a : Src} (h : exec (.launch fs d q a) s = .next t) : s.Wrote M S t := by
  have he (s : State) (p : Prop) [Decidable p] (n : Nat) (e : QEntry) : s.SameStores (if p then s.enqueue n e else s) := by
    split
    · exact .of_eq rfl
    · exact .refl s
  simp only [exec, execLaunch] at h
  refine issue_wrote (fun c s => ?_) h
  split
  · exact .done (mod_wrote c _ (he ..).wrote)
  · refine .ite .hold ?_
    split
    · exact .hold
    · exact spadDone_wrote c (State.SameStores.wrote ((he s _ _ _).trans (.modTeam _ _ (fun _ => rfl) fun _ => rfl)))

/-- A read of the constant window, and the operation that its result leaves. -/
theorem cLanes_wrote (c : Ctx) {t : Nat} {tm : Team} {g : Grid} {n : Nat} {at_ : Nat → Int}
    {out : Nat → List Byte → List Land} {ls : List Nat} {f : FlagUse} {xs : List (Src × Nat)} {dV dS : List Nat} :
    Res.Leaves (s.Wrote M S) (match State.cLanes t tm g n at_ out ls [] s with
      | (none, _) => .uce
      | (some lands, s1) => c.spadDone s1 f xs 0 lands dV dS) := by
  have hs := cLanes_stores t tm g n at_ out ls [] s
  split
  · exact .uce
  · next hl =>
    rw [hl] at hs
    exact spadDone_wrote c hs.wrote

theorem ldc_wrote {fs : Bool} {sz : MSize} {d : Opnd} {m : MAddr} (h : exec (.ldc fs sz d m) s = .next t) :
    s.Wrote M S t := by
  change execLdc fs sz d m s = .next t at h
  unfold execLdc at h
  refine issue_wrote (fun c s => .ite .hold ?_) h
  split
  · exact cLanes_wrote c
  · exact .hold

theorem pref_wrote {fs l1 : Bool} {m : MAddr} {pol : BitVec 9} (h : exec (.pref fs l1 m pol) s = .next t) :
    s.Wrote M S t := by
  simp only [exec, execPref] at h
  refine issue_wrote (fun c s => ?_) h
  split
  · exact .hold
  · refine .ite .hold (spadDone_wrote c (State.SameStores.wrote ?_))
    exact List.foldlRecOn _ _ (.refl s) fun u hu l _ => hu.trans (prefetch_stores ..)

theorem mreads_stores (rs : List MReg) (s : State) (ws : List Word) : s.SameStores
    (rs.foldl (fun (acc : List Word × State) r => (acc.1 ++ [(acc.2.mread r).1], (acc.2.mread r).2)) (ws, s)).2 := by
  refine List.foldlRecOn (motive := fun r : List Word × State => s.SameStores r.2) rs _ (.refl s) fun r hr m _ => hr.trans ?_
  unfold State.mread
  split
  · exact .of_eq rfl
  · exact .refl _

theorem mmld_wrote {fs b64 : Bool} {d : BitVec 9} {m : MAddr} (h : exec (.mmld fs b64 d m) s = .next t) :
    s.Wrote M S t := by
  simp only [exec, execMmld] at h
  refine issue_wrote (fun c s => ?_) h
  split
  · exact .busErr
  · exact .done (mod_wrote c _ (mreads_stores ..).wrote)

/-- The instructions that change groups and registers alone. -/
theorem otherSpec_writes {i : Instr} {sp : Spec} (h : otherSpec i = some sp) (hp : ∀ fs w b x, i ≠ .fifoPush fs w b x)
    (hm : ∀ fs b x m, i ≠ .mmst fs b x m) : Instr.Writes i False False := by
  intro s t ht
  cases i
  case fifoPush fs w b x => exact absurd rfl (hp fs w b x)
  case mmst fs b x m => exact absurd rfl (hm fs b x m)
  case fifoPop => exact fifoPop_wrote ht
  case launch => exact launch_wrote ht
  case ldc => exact ldc_wrote ht
  case pref => exact pref_wrote ht
  case mmld => exact mmld_wrote ht
  case nop | yield => exact issue_wrote (fun c s => .done (.refl s)) ht
  case exit =>
    simp only [exec, execExit] at ht
    exact issue_wrote (fun c s => .ite .trap (.jump (mod_wrote c _ (.refl s)))) ht
  case reform =>
    simp only [exec, execReform] at ht
    exact issue_wrote (fun c s => .ite .trap (.ite .trap (.jump (mod_wrote c _ (.refl s))))) ht
  case trap =>
    simp only [exec, execTrap] at ht
    refine issue_wrote (fun c s => ?_) ht
    split
    · exact .done (State.SameStores.of_eq (t := s.atEnd .trap) (by rfl)).wrote
    · exact .trap
  case brk =>
    simp only [exec, execBrk] at ht
    refine issue_wrote (fun c s => ?_) ht
    split
    · exact .done (State.SameStores.of_eq (t := s.atEnd .brk) (by rfl)).wrote
    · exact .ite (.done (.refl s)) .trap
  case lbind =>
    simp only [exec, execLbind] at ht
    exact issue_wrote (fun c s => .ite .trap (.leave (mod_wrote c _ (.refl s)))) ht
  case lfree =>
    simp only [exec, execLfree] at ht
    exact issue_wrote (fun c s => .ite (.done (.refl s)) (.done (mod_wrote c _ (.refl s)))) ht
  case lcmp =>
    simp only [exec, execLcmp] at ht
    exact issue_wrote (fun c s => .ite .trap (.done (mod_wrote c _ (.refl s)))) ht
  case lcarry | tdef =>
    simp only [exec, execLcarry, execTdef] at ht
    exact issue_wrote (fun c s => .done (mod_wrote c _ (.refl s))) ht
  case sRsr =>
    simp only [exec, execSRsr] at ht
    exact issue_wrote (fun c s => .done (mod_wrote c _ (latchClk_stores ..).wrote)) ht
  case sWsr =>
    simp only [exec, execSWsr] at ht
    exact issue_wrote (fun c s => .done (((State.SameStores.mod c s _).trans (statWrite_stores ..)).wrote)) ht
  case fence =>
    simp only [exec, execFence] at ht
    exact issue_wrote (fun c s => .ite (.done (.refl s)) (.ite (.done (mod_wrote c _ (.refl s))) (.done (.refl s)))) ht
  case phase => exact issue_wrote (fun c s => .park (State.SameStores.slot c s).wrote) ht
  case waitf =>
    simp only [exec, execWaitf] at ht
    exact issue_wrote (fun c s => .ite (spadDone_wrote c (.refl s)) (parkOn_wrote c (.refl s))) ht
  case perf clr _ _ =>
    have hc (c : Ctx) (s : State) (n : Nat) : s.SameStores (if clr then c.perfClear s n else s) := by
      split
      · exact perfClear_stores ..
      · exact .refl s
    simp only [exec, execPerf] at ht
    exact issue_wrote (fun c s => .done (mod_wrote c _ (hc ..).wrote)) ht
  case clk =>
    simp only [exec, execClk] at ht
    exact issue_wrote (fun c s => .ite .hold (.done (mod_wrote c _ (.refl s)))) ht
  case icinv =>
    simp only [exec, execIcinv] at ht
    exact issue_wrote (fun c s => retire_leaves c _ _ (State.SameStores.of_eq (t := s.icDrop ..) (by rfl)).wrote) ht
  case wfi =>
    simp only [exec, execWfi] at ht
    exact issue_wrote (fun c s => .ite .hold (.done (.refl s))) ht
  case iret =>
    simp only [exec, execIret] at ht
    exact issue_wrote (fun c s => .ite (.done (State.SameStores.of_eq (t := s.atEnd _) (by rfl)).wrote) .trap) ht
  all_goals cases h

end

/-- Every instruction with a word, MMST apart, writes no more than its kind does. -/
theorem word_keeps {i : Instr} (hi : (encode i).isSome = true) (hm : ∀ fs b x m, i ≠ .mmst fs b x m) : Instr.Keeps i := by
  rw [← issueSpec_isSome, Option.isSome_iff_exists] at hi
  obtain ⟨sp, h⟩ := hi
  simp only [issueSpec, Option.or_eq_some_iff, Option.map_eq_some_iff] at h
  obtain ⟨r, h, -⟩ | ⟨-, ⟨r, h, -⟩ | ⟨-, ⟨r, h, -⟩ | ⟨-, ⟨r, h, -⟩ | ⟨-, ⟨r, h, -⟩ | ⟨-, ⟨r, h, -⟩ | ⟨-,
    ⟨r, h, -⟩ | ⟨-, ⟨r, h, -⟩ | ⟨-, ⟨r, h, -⟩ | ⟨-, h⟩⟩⟩⟩⟩⟩⟩⟩⟩ := h
  · exact (regRule_writes h).keeps
  · exact globRule_keeps h
  · exact (branchRule_writes h).keeps
  · exact (longRule_writes h).keeps
  · exact spadRule_keeps h
  · exact objRule_keeps h
  · exact globSyncRule_keeps h
  · exact (engRule_writes h).keeps
  · exact (cmdRule_writes h).keeps
  · by_cases hp : ∃ fs w b x, i = .fifoPush fs w b x
    · obtain ⟨fs, w, b, x, rfl⟩ := hp
      exact fun s t ht => (fifoPush_wrote ht).mono False.elim id
    · exact (otherSpec_writes h (fun fs w b x he => hp ⟨fs, w, b, x, he⟩) hm).keeps

end Sys2Proof.Machine
end

section
/-! PROOFS. Canonical form of the memories through the shared operations: logs, rings, poison, pinned areas, grids and teams. -/
namespace Sys2Proof.Machine

/-- Every state that an outcome goes on from has the property. -/
def NextIs (R : State → Prop) (o : Host.Outcome State Fault Refusal) : Prop := ∀ t, o = .next t → R t

namespace NextIs
variable {R : State → Prop}

theorem next {t : State} (h : R t) : NextIs R (.next t) := fun _ e => Host.Outcome.next.inj e ▸ h
theorem fault {f : Fault} : NextIs R (.fault f) := fun _ e => by cases e
theorem refused {r : Refusal} : NextIs R (.refused r) := fun _ e => by cases e

end NextIs

namespace State.canonical
variable {s u : State}

/-- What changes none of the memories keeps their form. -/
theorem of_eq (h : s.canonical) (e : (u.mem, u.bus, u.k.sram) = (s.mem, s.bus, s.k.sram)) : u.canonical := by
  obtain ⟨h1, h2, h3⟩ := h
  obtain ⟨hm, hb, hk⟩ : u.mem = s.mem ∧ u.bus = s.bus ∧ u.k.sram = s.k.sram := by simpa using e
  exact ⟨hm.symm ▸ h1, hb.symm ▸ h2, hk.symm ▸ h3⟩

/-- Steps that each keep the form. -/
theorem fold {α : Type} {xs : List α} {f : State → α → State} (h : s.canonical)
    (hf : ∀ v : State, ∀ x, v.canonical → (f v x).canonical) : (xs.foldl f s).canonical :=
  List.foldlRecOn xs f h fun v hv x _ => hf v x hv

/-- A step taken or not. -/
theorem ite {p : Prop} [Decidable p] {a b : State} (ha : a.canonical) (hb : b.canonical) : (if p then a else b).canonical := by
  split
  · exact ha
  · exact hb

section
variable (h : s.canonical)
include h

theorem modTeam (t : Nat) (f : Team → Team) : (s.modTeam t f).canonical := h.of_eq rfl

theorem modGroup (t gi : Nat) (f : Group → Group) : (s.modGroup t gi f).canonical := h.of_eq rfl

theorem modCol (m : Nat) (f : Column → Column) : (s.modCol m f).canonical := h.of_eq rfl

theorem modCore (c : Nat) (f : Core → Core) : (s.modCore c f).canonical := h.of_eq rfl

theorem modGrid (n : Word) (f : Grid → Grid) : (s.modGrid n f).canonical := h.of_eq rfl

theorem modQueue (q : Nat) (f : Queue → Queue) : (s.modQueue q f).canonical := h.of_eq rfl

theorem setTeam (t : Nat) (x : Team) : (s.setTeam t x).canonical := h.of_eq rfl

theorem kpend (v : Nat) : (s.kpend v).canonical := h.of_eq rfl

theorem timer (n : Nat) : (s.timer n).canonical := by
  unfold State.timer
  exact .ite h (.ite (h.kpend 8) (.ite (h.of_eq rfl) h))

theorem logs (hl : s.Logs u) : u.canonical := by
  obtain ⟨n, b, x, y, rfl⟩ := hl
  exact h.of_eq rfl

theorem log (a b c : Nat) (d : List Word) (n : Nat) : (s.log a b c d n).canonical := h.logs (State.log_logs ..)

theorem hwLog (a : Nat) (b : Option Nat) (c : Nat) (d : List Nat) : (s.hwLog a b c d).canonical := h.logs (State.hwLog_logs ..)

theorem event (ty : EvType) (cause core slot : Nat) (grid : Word) (team : Nat) :
    (s.event ty cause core slot grid team).canonical := (SameStores.event s ty cause core slot grid team).canonical h

theorem memWrite (a : Nat) (b : List Byte) : (s.memWrite a b).canonical :=
  ⟨Memory.wf_writeN _ _ _ h.1, h.2.1, h.2.2⟩

theorem logPoison (a : Nat) : (s.logPoison a).canonical := h.hwLog ..

theorem poisonLine (l : Nat) : (s.poisonLine l).canonical := by
  unfold State.poisonLine
  exact .ite h (logPoison (s := { s with poison := _ }) (h.of_eq (by rfl)) _)

theorem poisonGranule (t g : Nat) : (s.poisonGranule t g).canonical := by
  unfold State.poisonGranule
  exact .ite h (logPoison (h.modTeam ..) _)

theorem flushRings : s.flushRings.canonical :=
  ⟨h.1, Ring.wf_flush _ _ _ _ (Ring.wf_flush _ _ _ _ h.2.1), h.2.2⟩

theorem faultRec (va : Nat) (ls : Mask) (g : Word) (team grp e : Nat) (k : PageFault) (acc : Nat) (w : Faulter) :
    (s.faultRec va ls g team grp e k acc w).canonical := ⟨h.1, Ring.wf_put _ _ _ _ h.2.1, h.2.2⟩

theorem charge (j v n : Nat) : (s.charge j v n).canonical := (charge_stores s j v n).canonical h

theorem dropToken (t : Nat) : (s.dropToken t).canonical := (SameStores.dropToken s t).canonical h

theorem tick (n : Nat) : (s.tick n).canonical := h.of_eq rfl

theorem payCkpt (t : Nat) : (s.payCkpt t).canonical := (SameStores.payCkpt s t).canonical h

theorem halt (t gi : Nat) (b : Bool) (x : Halt) (a : Bool) : (s.halt t gi b x a).canonical :=
  (SameStores.halt s t gi b x a).canonical h

/-! ## Pinned areas and completion -/

theorem pinWrite (ps : List PageT) (va : Nat) (b : List Byte) : (s.pinWrite ps va b).canonical := by
  refine h.fold fun v p hv => ?_
  split
  · exact hv.memWrite ..
  · exact hv

theorem writeDone (g : Grid) (a b c : Nat) : (s.writeDone g a b c).canonical := by
  unfold State.writeDone
  exact event (.ite (pinWrite (.ite (h.pinWrite ..) h) ..) (.ite (h.pinWrite ..) h)) ..

theorem dropGrid (n : Word) : (s.dropGrid n).canonical := h.of_eq rfl

theorem finalByte (g : Grid) (n : Nat) (ty : EvType) : (s.finalByte g n ty).canonical :=
  dropGrid (event (h.pinWrite ..) ..) _

theorem complete (n : Word) : (s.complete n).canonical := by
  have hd (p : L1Line → Bool) : (s.dropLines p).canonical := h.of_eq rfl
  unfold State.complete
  split
  · exact h
  · refine .ite h (.ite (dropGrid (event (writeDone (hd _) ..) ..) _) ?_)
    exact .ite (finalByte (writeDone (hd _) ..) ..) (of_eq (writeDone (hd _) ..) rfl)

theorem reject (n : Word) (c : Cause) (k : Nat) : (s.reject n c k).canonical := by
  unfold State.reject
  split
  · exact h
  · exact dropGrid (h.writeDone ..) _

/-! ## The end of a team -/

theorem freeResources (t : Nat) (tm : Team) : (s.freeResources t tm).canonical := by
  unfold State.freeResources
  exact of_eq (dropToken (s := State.modCore (State.modCol s _ _) _ _) (h.of_eq (by rfl)) t) (by rfl)

theorem endTeam (t : Nat) (tm : Team) : (s.endTeam t tm).canonical := by
  unfold State.endTeam
  refine complete (of_eq (s := State.dropTeamLines (if tm.resident then s.freeResources t tm else s) t) (of_eq ?_ (by rfl)) (by rfl)) _
  exact .ite (h.freeResources ..) h

theorem killTeam (t : Nat) (c : Cause) : (s.killTeam t c).canonical := by
  unfold State.killTeam
  split
  · exact h
  · exact endTeam (h.modGrid ..) ..

theorem killGrid (n : Word) (c : Cause) (t : Nat) : (s.killGrid n c t).canonical := by
  unfold State.killGrid
  split
  · exact h
  · refine .ite h (complete (of_eq (s := List.foldl _ _ _) (fold (s := (s.modGrid _ _).freeQueue n) (h.of_eq (by rfl)) fun v p hv => ?_) (by rfl)) _)
    exact hv.killTeam ..

theorem hostKill (n : Word) : (s.hostKill n).canonical := h.killGrid ..

theorem violations (tm : Team) : (s.violations tm).canonical := by
  refine h.fold fun v g hv => ?_
  split
  · exact hv
  · split
    · exact hv
    · exact .ite (of_eq (hv.pinWrite ..) rfl) (hv.of_eq rfl)

/-! ## Phases -/

theorem release (t : Nat) : (s.release t).canonical := by
  unfold State.release
  split
  · exact h
  · next tm _ =>
    have hw : Memory.wf (tm.staged.foldl (fun m c => Memory.write m c.1 c.2) s.mem) = true :=
      List.foldlRecOn (motive := fun m => Memory.wf m = true) _ _ h.1 fun m hm c _ => Memory.wf_write _ _ _ hm
    refine of_eq (fold (s := { s with mem := _, poison := _ }) ⟨hw, h.2.1, h.2.2⟩ fun v c hv => ?_) (by rfl)
    exact hv.of_eq rfl

theorem publish (t : Nat) (tm : Team) : (s.publish t tm).canonical := by
  unfold State.publish
  exact dropToken (modTeam (modCol (release (s := { s with sched := _ }) (h.of_eq (by rfl)) t) ..) ..) t

theorem takeToken (t : Nat) : (s.takeToken t).canonical := by
  unfold State.takeToken
  split
  · exact h
  · exact .ite h (.ite (h.of_eq rfl) (.ite h (h.of_eq rfl)))

end

end State.canonical

end Sys2Proof.Machine
end

section
/-! PROOFS. The M space and the resets, and which instructions write what. -/
namespace Sys2Proof.Machine

/-! ## Resets -/

namespace State.canonical
variable {s : State}

/-- The boot ROM writes the SRAM anew, or leaves it. -/
theorem boot (h : s.canonical) : s.boot.canonical := by
  unfold State.boot
  split
  · exact h
  · exact ⟨h.1, h.2.1, Memory.wf_writeN _ _ _ (by rfl)⟩

theorem warmReset (h : s.canonical) : s.warmReset.canonical := boot ⟨h.1, h.2.1, by rfl⟩

theorem warmrst (h : s.canonical) (x : Word) : (s.warmrst x).canonical := .ite h.warmReset (h.of_eq rfl)

theorem logCommit (h : s.canonical) : s.logCommit.canonical := by
  unfold State.logCommit
  exact .ite (log (s := { s with k := { s.k with commitAt := some s.clk } }) (h.of_eq rfl) ..) (h.of_eq rfl)

end State.canonical

theorem warmReset_teams (s : State) : s.warmReset.teams = [] := (State.boot_left _).2.2.1

/-! ## Writes to the M space -/

theorem refuse_stores (s : State) : s.SameStores s.refuse := .of_eq rfl

theorem ite_stores {s a b : State} {p : Prop} [Decidable p] (ha : s.SameStores a) (hb : s.SameStores b) :
    s.SameStores (if p then a else b) := by
  split
  · exact ha
  · exact hb

theorem retune_stores (s : State) (c : Nat) : s.SameStores (s.retune c) := by
  unfold State.retune
  exact .modCore ..

theorem sctlWrite_stores (s : State) (c i : Nat) (x : Word) : s.SameStores (s.sctlWrite c i x) := by
  unfold State.sctlWrite
  dsimp only
  generalize hu : s.modCore c _ = u
  have h : s.SameStores (u.retune c) := (hu ▸ State.SameStores.modCore ..).trans (retune_stores ..)
  exact ite_stores h (h.trans (refuse_stores _))

theorem mwrite_stores (s : State) (r : MReg) (x : Word) (hr : r ≠ .warmrst) : s.SameStores (s.mwrite r x) := by
  cases r
  case warmrst => exact absurd rfl hr
  case sctl n => exact sctlWrite_stores ..
  case sctlAll c => exact List.foldlRecOn _ _ (.refl s) fun u hu i _ => hu.trans (sctlWrite_stores ..)
  case cbud m => exact ite_stores (ite_stores (.refl s) (.modCol ..)) (refuse_stores s)
  case cacheMin m => exact ite_stores (.modCol ..) (refuse_stores s)
  case cool | hot | crit => exact ite_stores (.of_eq rfl) (refuse_stores s)
  case logcommit =>
    refine ite_stores ?_ (refuse_stores s)
    obtain ⟨n, b, y, z, hu⟩ := State.log_logs { s with k := { s.k with commitAt := some s.clk } } _ _ _ (s.k.logbuf.drop 4) 0
    rw [hu]
    exact .of_eq rfl
  case upcmd => exact ite_stores (refuse_stores s) (ite_stores (.of_eq rfl) (ite_stores (.of_eq rfl) (.of_eq rfl)))
  all_goals exact .of_eq rfl

theorem mwrite_canonical {s : State} (r : MReg) (x : Word) (h : s.canonical) : (s.mwrite r x).canonical := by
  by_cases hr : r = .warmrst
  · subst hr
    exact h.warmrst x
  · exact (mwrite_stores s r x hr).canonical h

theorem mwrite_scratchWf {s : State} (r : MReg) (x : Word) (h : s.scratchWf) : (s.mwrite r x).scratchWf := by
  by_cases hr : r = .warmrst
  · subst hr
    show (if x = 0x5752 then s.warmReset else s.refuse).scratchWf
    split
    · intro n y hy
      rw [State.team?, warmReset_teams] at hy
      cases hy
    · exact (refuse_stores s).scratchWf h
  · exact (mwrite_stores s r x hr).scratchWf h

/-- MMST keeps the canonical forms. -/
theorem mmst_keeps {fs b64 : Bool} {x : Src} {m : MAddr} {s t : State} (h : exec (.mmst fs b64 x m) s = .next t) :
    (s.canonical → t.canonical) ∧ (s.scratchWf → t.scratchWf) := by
  have hw (u : State) (rs : List (MReg × Nat)) (w : MReg × Nat → Word) :
      (u.canonical → (rs.foldl (fun s r => s.mwrite r.1 (w r)) u).canonical) ∧
        (u.scratchWf → (rs.foldl (fun s r => s.mwrite r.1 (w r)) u).scratchWf) :=
    ⟨fun h => h.fold fun v r hv => mwrite_canonical _ _ hv,
      fun h => List.foldlRecOn rs _ h fun v hv r _ => mwrite_scratchWf _ _ hv⟩
  change execMmst fs b64 x m s = .next t at h
  unfold execMmst at h
  refine issue_leaves (R := fun s t => (s.canonical → t.canonical) ∧ (s.scratchWf → t.scratchWf))
    (fun _ _ h => ⟨h.canonical, h.scratchWf⟩) (fun _ _ _ a b => ⟨b.1 ∘ a.1, b.2 ∘ a.2⟩) (fun c u => ?_) h
  dsimp only
  split
  · exact .busErr
  · exact .ite (.jump (hw u _ _)) (.done (hw u _ _))

/-- Settles O35: what every kind of instruction writes, and MMST's forms. -/
theorem wordsThatStore : Obligations.WordsThatStore := by
  unfold Obligations.WordsThatStore
  intro i s t hi he
  by_cases hm : ∃ fs b x m, i = .mmst fs b x m
  · obtain ⟨fs, b, x, m, rfl⟩ := hm
    exact ⟨fun _ _ _ _ h => absurd rfl (h fs b x m), fun _ _ _ _ _ _ _ _ h => absurd rfl (h fs b x m),
      fun h => absurd rfl (h fs b x m), (mmst_keeps he).2⟩
  · have hw := word_keeps hi (fun fs b x m e => hm ⟨fs, b, x, m, e⟩) s t he
    refine ⟨fun h1 h2 h3 h4 _ => hw.mem ?_, fun h1 h2 h3 h4 h5 h6 h7 h8 _ => hw.scratch ?_, fun _ => hw.acc, hw.spads⟩
    · intro hs
      unfold Instr.storesMem at hs
      split at hs
      · exact (h1 _ _ _ _ _ _).1 rfl
      · exact (h1 _ _ _ _ _ _).2 rfl
      · exact (h2 _ _ _ _ _ _ _ _).1 rfl
      · exact (h2 _ _ _ _ _ _ _ _).2 rfl
      · exact h3 _ _ _ rfl
      · exact h4 _ _ _ rfl
      · exact hs
    · intro hs
      unfold Instr.storesSpad at hs
      split at hs
      · exact h1 _ _ _ _ _ rfl
      · exact h2 _ _ _ _ _ _ rfl
      · exact h3 _ _ _ _ _ _ _ _ _ rfl
      · exact h4 _ _ _ rfl
      · exact (h5 _ _ _).1 rfl
      · exact (h5 _ _ _).2 rfl
      · exact h6 _ _ _ rfl
      · exact h7 _ _ _ rfl
      · exact h8 _ _ _ _ rfl
      · exact hs

end Sys2Proof.Machine
end

section
/-! PROOFS. Canonical form of the memories through turns and the slots of an agent, and through the ends of teams and phases. -/
namespace Sys2Proof.Machine

namespace State.canonical
variable {s : State}

/-! ## Clauses -/

theorem fetchClause (h : s.canonical) (f : Fetcher) (a : DWord) (m : Mask) : (Machine.fetchClause f a m s).2.canonical := by
  obtain ⟨x, hx⟩ := fetchClause_fetched f a m s
  rw [hx]
  exact h.of_eq rfl

theorem haltAt (h : s.canonical) (t gi : Nat) (x : LaneSet) (c : Cause) (m : Mask) (w : DWord) (p : Nat) :
    (s.haltAt t gi x c m w p).canonical := h.halt ..

theorem takeSet (h : s.canonical) (t gi : Nat) (b : Bool) (f : Fetcher) (x : LaneSet) : (s.takeSet t gi b f x).canonical := by
  have hf := h.fetchClause f x.pc x.lanes
  unfold State.takeSet
  split
  · exact h
  · refine .ite h ?_
    split
    · exact h.modGroup ..
    · refine .ite (h.haltAt ..) ?_
      split
      · next e => rw [e] at hf; exact hf.haltAt ..
      · next e => rw [e] at hf; exact .ite (hf.haltAt ..) (hf.modGroup ..)

theorem claimSet (h : s.canonical) (t gi : Nat) (f : Fetcher) (x : LaneSet) : (s.claimSet t gi f x).canonical :=
  .ite (h.takeSet ..) (h.modGroup ..)

theorem beginClaimed (h : s.canonical) (t gi : Nat) (b : Bool) (f : Fetcher) (x : LaneSet) :
    (s.beginClaimed t gi b f x).canonical := .ite (of_eq (h.takeSet t gi b f x) rfl) (h.takeSet ..)

theorem beginTurn (h : s.canonical) (t : Nat) (tm : Team) (g : Group) : (s.beginTurn t tm g).canonical := by
  have last (v : State) (hv : v.canonical) : (match v.group? t g.grp with
      | some x => ({ v with focus := .port t g.grp (x.portA.isNone && x.portB.isSome) } : State)
      | none => v).canonical := by
    split
    · exact hv.of_eq rfl
    · exact hv
  have first (f : Group → Group) : (s.modGroup t g.grp f).canonical := h.modGroup ..
  unfold State.beginTurn
  dsimp only
  generalize g.pick s ⟨tm.core, tm.grid⟩ tm.pre.isSome = p
  obtain ⟨a, b⟩ := p
  cases a <;> cases b
  · exact last _ (first _)
  · exact last _ (claimSet (first _) ..)
  · exact last _ (takeSet (first _) ..)
  · exact last _ (claimSet (takeSet (first _) ..) ..)

theorem kIllegal (h : s.canonical) (e : Cause) (x y : DWord) : (s.kIllegal e x y).canonical :=
  (SameStores.kIllegal s e x y).canonical h

theorem kBegin (h : s.canonical) : s.kBegin.canonical := by
  have hf := h.fetchClause .kennel s.kPc 1
  unfold State.kBegin
  refine .ite (tick (h.kIllegal ..) 1) ?_
  split
  · next e => rw [e] at hf; exact tick (hf.kIllegal ..) 1
  · next e => rw [e] at hf; exact .ite (hf.tick 1) (.ite (tick (hf.kIllegal ..) 1) (hf.of_eq rfl))

theorem badWord (h : s.canonical) (c : Ctx) (e : BadWord) : (c.badWord s e).canonical :=
  tick ((SameStores.takeTrap c s _ _ _).canonical h) 1

end State.canonical

/-! ## Events -/

section
variable {s : State} (h : s.canonical)
include h

theorem turn_canonical (core slice : Nat) : NextIs State.canonical (exec (.turn core slice) s) := by
  show NextIs _ (execTurn core slice s)
  unfold execTurn
  dsimp only
  split
  · exact .next (h.tick 1)
  · split
    · exact .next (h.beginTurn ..)
    · exact .next (h.tick 1)

theorem teamExit_canonical (t : Nat) : NextIs State.canonical (exec (.teamExit t) s) := by
  show NextIs _ (execTeamExit t s)
  unfold execTeamExit
  split
  · exact .next h
  · next tm _ =>
    split
    · exact .next h
    · split
      · exact .next (h.modTeam ..)
      · exact .next (State.canonical.endTeam (State.canonical.violations (h.publish t tm) tm) ..)

theorem packKill_canonical (t g : Nat) : NextIs State.canonical (exec (.packKill t g) s) := by
  show NextIs _ (execPackKill t g s)
  unfold execPackKill
  split
  · exact .next h
  · split
    · exact .next h
    · split
      · exact .next h
      · split
        · refine .next (h.fold fun v p hv => ?_)
          have hr : (if p.2.resident then v.freeResources p.1 p.2 else v).canonical := .ite (hv.freeResources ..) hv
          exact hr.of_eq rfl
        · exact .next (h.killGrid ..)

theorem kill_canonical (g : Word) : NextIs State.canonical (exec (.kill g) s) := .next (h.hostKill g)

theorem cmdKillTeam_canonical (c k : Nat) : NextIs State.canonical (exec (.cmdKillTeam c k) s) := by
  show NextIs _ (execCmdKillTeam c k s)
  unfold execCmdKillTeam
  split
  · exact .next (h.killTeam ..)
  · exact .next h

theorem cmdKillGrid_canonical (c k : Nat) : NextIs State.canonical (exec (.cmdKillGrid c k) s) := by
  show NextIs _ (execCmdKillGrid c k s)
  unfold execCmdKillGrid
  split
  · exact .next (h.killGrid ..)
  · exact .next h

theorem phaseCommit_canonical (t : Nat) : NextIs State.canonical (exec (.phaseCommit t) s) := by
  show NextIs _ (execPhaseCommit t s)
  unfold execPhaseCommit
  split
  · exact .next h
  · next tm _ =>
    split
    · exact .next h
    · split
      · exact .next (h.modTeam ..)
      · exact .next (State.canonical.modTeam (h.publish t tm) ..)

theorem phaseRestart_canonical (t : Nat) : NextIs State.canonical (exec (.phaseRestart t) s) := by
  show NextIs _ (execPhaseRestart t s)
  unfold execPhaseRestart
  split
  · exact .next h
  · next tm _ =>
    split
    · exact .next h
    · split
      · exact .next h
      · exact .next (State.canonical.takeToken (s := State.modTeam (s.dropUndeclared t tm) t _) (h.of_eq (by rfl)) t)

end

end Sys2Proof.Machine
end

section
/-! PROOFS. Canonical form of the memories through queues and dispatch. -/
namespace Sys2Proof.Machine

/-- The state of an answer that may be an error. -/
def Answered (R : State → Prop) : Except State (State × QEntry × List Byte) → Prop
  | .error s => R s
  | .ok (s, _) => R s

namespace State.canonical
variable {s : State} (h : s.canonical)
include h

theorem dropTokens (w : Faulter) : (s.dropTokens w).canonical := h.of_eq rfl

theorem pinFaults (fs : List (Nat × PageFault)) (g : Word) (t k : Nat) (w : Faulter) : (s.pinFaults fs g t k w).canonical :=
  h.fold fun _ _ hv => hv.faultRec ..

theorem popHead (q : Nat) : (s.popHead q).canonical := h.of_eq rfl

theorem queueErr (q : Nat) : (s.queueErr q).canonical := event (h.popHead q) ..

theorem push (q : Nat) (a : DWord) : (s.push q a).canonical := .ite h (.ite (h.of_eq rfl) (h.of_eq rfl))

theorem headRead (q : Nat) : Answered State.canonical (s.headRead q) := by
  unfold State.headRead
  dsimp only
  split
  · exact h
  · split
    · exact h.queueErr q
    · split
      · exact h
      · split
        · exact h
        · split
          · exact h
          · split
            · exact h.modQueue ..
            · exact pinFaults (h.dropTokens _) ..

theorem headRecord (q : Nat) : Answered State.canonical (s.headRecord q) := by
  unfold State.headRecord
  split
  · exact h
  · exact h.headRead q

theorem pinSnapshot (q : Nat) (g : Grid) : (s.pinSnapshot q g).canonical := by
  unfold State.pinSnapshot
  split
  · dsimp only
    split
    · exact reject (modQueue (modGrid h ..) ..) ..
    · exact modQueue (modGrid (modQueue (modGrid h ..) ..) ..) ..
  · exact pinFaults (h.dropTokens _) ..

theorem snapshot (q : Nat) (e : QEntry) (b : List Byte) (w : Option (Cause × Nat)) : (s.snapshot q e b w).canonical := by
  have h1 (gs : List Grid) (x : Sched) : ({ s.popHead q with grids := gs, sched := x } : State).canonical := h.of_eq rfl
  unfold State.snapshot
  dsimp only
  split
  · exact reject (h1 _ _) ..
  · exact .ite (reject (h1 _ _) ..) (pinSnapshot (modQueue (h1 _ _) ..) ..)

theorem frRetry (k : Word) : (s.frRetry k).canonical := by
  unfold State.frRetry
  split
  · exact h
  · dsimp only
    split <;> exact h.of_eq rfl

theorem frKill (k : Word) : (s.frKill k).canonical := by
  unfold State.frKill
  split
  · exact h
  · split
    · exact h.killTeam ..
    · exact h.killTeam ..
    · exact h.killTeam ..
    · split
      · exact reject (modQueue (h.dropTokens _) ..) ..
      · exact h
    · next q _ =>
      have h1 := h.dropTokens (.head q)
      refine .ite ?_ (h1.queueErr q)
      have hr := h1.headRead q
      split
      · next e => rw [e] at hr; exact snapshot hr ..
      · exact h1.queueErr q

theorem dispatch (q : Nat) (g : Grid) : (s.dispatch q g).canonical := by
  unfold State.dispatch
  exact .ite (h.of_eq rfl) (h.of_eq rfl)

theorem reseat (lr : Launch) (t : Nat) : (s.reseat lr t).canonical := by
  unfold State.reseat
  split
  · exact h
  · dsimp only
    split
    · exact h
    · exact .ite h (h.of_eq rfl)

end State.canonical

/-! ## Events -/

section
variable {s : State} (h : s.canonical)
include h

theorem startConditionPoll_canonical (q : Nat) : NextIs State.canonical (exec (.startConditionPoll q) s) := by
  have hr := h.headRecord q
  show NextIs _ (execStartConditionPoll q s)
  unfold execStartConditionPoll
  split
  · exact .fault
  · split
    · next e => rw [e] at hr; exact .next hr
    · next v e b he =>
      rw [he] at hr
      have hv : v.canonical := hr
      dsimp only
      split
      · exact .next hv
      · split
        · exact .next (State.canonical.pinFaults (hv.dropTokens _) ..)
        · exact .next (hv.modQueue ..)

theorem snapshot_canonical (q : Nat) : NextIs State.canonical (exec (.snapshot q) s) := by
  have hr := h.headRecord q
  show NextIs _ (execSnapshot q s)
  unfold execSnapshot
  split
  · exact .fault
  · split
    · split
      · exact .next (h.pinSnapshot ..)
      · exact .next h
    · split
      · next e => rw [e] at hr; exact .next hr
      · next v e b he =>
        rw [he] at hr
        have hv : v.canonical := hr
        split
        · exact .next hv
        · exact .next (hv.snapshot ..)

theorem dispatch_canonical : NextIs State.canonical (exec .dispatch s) := by
  show NextIs _ (execDispatch s)
  unfold execDispatch
  split
  · exact .next h
  · split
    · exact .next (h.dispatch ..)
    · exact .next h

theorem admission_canonical (t : Nat) : NextIs State.canonical (exec (.admission t) s) := by
  show NextIs _ (execAdmission t s)
  unfold execAdmission
  split
  · exact .next h
  · dsimp only
    split
    · exact .next h
    · split
      · exact .next (h.fold fun v p hv => (hv.of_eq rfl))
      · exact .next h

theorem bankDrain_canonical (m b : Nat) : NextIs State.canonical (exec (.bankDrain m b) s) := by
  show NextIs _ (execBankDrain m b s)
  unfold execBankDrain
  split
  · exact .next (h.modCol ..)
  · exact .next h

theorem rangeTranslation_canonical (t : Nat) : NextIs State.canonical (exec (.rangeTranslation t) s) := by
  have hd := h.dropTokens (.range t)
  show NextIs _ (execRangeTranslation t s)
  unfold execRangeTranslation
  split
  · exact .next h
  · split
    · exact .next h
    · split
      · exact .next h
      · dsimp only
        split
        · exact .next (State.canonical.reseat (hd.modTeam ..) ..)
        · exact .next (hd.pinFaults ..)

end

end Sys2Proof.Machine
end

section
/-! PROOFS. Canonical form of the memories through the Retriever's commands. -/
namespace Sys2Proof.Machine

namespace State.canonical
variable {s : State}

/-- Steps on pairs that each keep the form of the first half. -/
theorem fold_fst {α β : Type} {xs : List β} {f : State × α → β → State × α} {r : State × α} (h : r.1.canonical)
    (hf : ∀ (v : State × α) (x : β), v.1.canonical → (f v x).1.canonical) : (xs.foldl f r).1.canonical :=
  List.foldlRecOn (motive := fun v => v.1.canonical) xs f h fun v hv x _ => hf v x hv

/-- Steps on pairs that each keep the form of the second half. -/
theorem fold_snd {α β : Type} {xs : List β} {f : α × State → β → α × State} {r : α × State} (h : r.2.canonical)
    (hf : ∀ (v : α × State) (x : β), v.2.canonical → (f v x).2.canonical) : (xs.foldl f r).2.canonical :=
  List.foldlRecOn (motive := fun v => v.2.canonical) xs f h fun v hv x _ => hf v x hv

variable (h : s.canonical)
include h

theorem place? (tm : Team) (p : MPiece) (w : Bool) : (s.place? tm p w).2.canonical :=
  (place_touches (W := fun _ => False) s tm p w).canonical h

theorem noteSig (t : Nat) (p : MPiece) (pa : Nat) (w : Bool) : (s.noteSig t p pa w).canonical :=
  (State.Touches.noteSig (W := fun _ => False) s t p pa w).canonical h

/-! ## Faults of segments -/

theorem locFaults (tm : Team) (l : Loc) (n : Nat) (w : Bool) : (s.locFaults tm l n w).2.canonical := by
  unfold State.locFaults
  split
  · refine fold_snd h fun v p hv => ?_
    have hp := hv.place? tm p w
    split
    · next e => rw [e] at hp; exact hp
    · next e => rw [e] at hp; exact hp
  · exact h

theorem segFault (tm : Team) (g : Segment) : (s.segFault tm g).2.canonical := by
  unfold State.segFault
  exact fold_snd h fun v p hv => locFaults (hv.locFaults ..) ..

/-! ## Writing -/

theorem poisonLines (pa : Nat) (bad : List Nat) : (s.poisonLines pa bad).canonical := h.fold fun _ _ hv => hv.poisonLine _

theorem tallyLine (c : Cmd) (pa n : Nat) (bad : List Nat) : (s.tallyLine c pa n bad).1.canonical := by
  unfold State.tallyLine
  dsimp only
  split
  · exact h
  · split
    · exact h.of_eq rfl
    · exact h

theorem tallyGranules (c : Cmd) (u o n : Nat) (bad : List Nat) : (s.tallyGranules c u o n bad).1.canonical := by
  unfold State.tallyGranules
  split
  · exact h
  · refine fold_fst h fun v g hv => ?_
    dsimp only
    split
    · exact hv.modTeam ..
    · exact hv

theorem writeLoc (t : Nat) (tm : Team) (c : Cmd) (l : Loc) (b : List Byte) (bad : List Nat) :
    (s.writeLoc t tm c l b bad).1.canonical := by
  unfold State.writeLoc
  split
  · refine fold_fst h fun v p hv => ?_
    split
    · exact tallyLine (modTeam (noteSig (poisonLines (hv.memWrite ..) ..) ..) ..) ..
    · exact hv
  · exact tallyGranules (fold (h.modTeam ..) fun _ _ hv => hv.poisonGranule ..) ..
  · exact h
  · exact h

theorem doPart (t : Nat) (tm : Team) (c : Cmd) (p : Piece) (dst : Loc) : (s.doPart t tm c p dst).1.canonical :=
  h.writeLoc ..

theorem doSegment (t : Nat) (tm : Team) (c : Cmd) (g : Segment) : (s.doSegment t tm c g).1.canonical := by
  unfold State.doSegment
  refine fold_fst h fun v p hv => ?_
  refine fold_fst hv fun w x hw => ?_
  dsimp only
  split
  · exact hw.doPart ..
  · exact hw.doPart ..

theorem writeKept (t : Nat) (tm : Team) (c : Cmd) (g : Segment) : (s.writeKept t tm c g).1.canonical := h.doSegment ..

/-! ## The course of a command -/

theorem putCmd (t : Nat) (c : Cmd) : (s.putCmd t c).canonical := h.modTeam ..

theorem noteServed (tm : Team) (c : Cmd) : (s.noteServed tm c).canonical := h.modCol ..

theorem chargeSeg (tm : Team) (c : Cmd) (g : Segment) : (s.chargeSeg tm c g).canonical := .ite h (h.charge ..)

theorem query (t : Nat) (tm : Team) (c : Cmd) : (s.query t tm c).canonical := h.putCmd ..

theorem cmdFault (t : Nat) (tm : Team) (c : Cmd) (f : SegFault) : (s.cmdFault t tm c f).canonical := modTeam (h.faultRec ..) ..

theorem failSegment (t : Nat) (tm : Team) (c : Cmd) (va : Nat) (k : FailKind) (g : Segment) :
    (s.failSegment t tm c va k g).canonical := putCmd (h.writeKept t tm c g) ..

theorem moveSegment (t : Nat) (tm : Team) (c : Cmd) (g : Segment) : (s.moveSegment t tm c g).canonical :=
  putCmd (chargeSeg (h.doSegment t tm c g) ..) ..

theorem serveSegment (t : Nat) (tm : Team) (c : Cmd) (g : Segment) : (s.serveSegment t tm c g).canonical := by
  have hf := h.segFault tm g
  unfold State.serveSegment
  refine .ite (.ite (h.putCmd ..) (h.failSegment ..)) ?_
  split
  · next e => rw [e] at hf; exact putCmd (hf.cmdFault ..) ..
  · next e => rw [e] at hf; exact hf.moveSegment ..

theorem replaySegment (t : Nat) (tm : Team) (c : Cmd) (g : Segment) : (s.replaySegment t tm c g).canonical := by
  have hf := h.segFault tm g
  unfold State.replaySegment
  split
  · next e => rw [e] at hf; exact hf.failSegment ..
  · next e => rw [e] at hf; exact hf.moveSegment ..

theorem endCmd (t : Nat) (c : Cmd) : (s.endCmd t c).canonical := h.modTeam ..

theorem writeSignal (t : Nat) (tm : Team) (c : Cmd) (a : DWord) : (s.writeSignal t tm c a).2.canonical := by
  have hf := h.locFaults tm (.glob (a.toNat / 4 * 4)) 4 true
  unfold State.writeSignal
  dsimp only
  split
  · exact h.modTeam ..
  · split
    · next e => rw [e] at hf; exact hf
    · next e => rw [e] at hf; exact hf.writeLoc ..

theorem spoilOut (t : Nat) (tm : Team) (c : Cmd) (n : Nat) : (s.spoilOut t tm c n).canonical := by
  unfold State.spoilOut
  refine of_eq (s := List.foldl _ _ _) (fold h fun v i hv => ?_) rfl
  split
  · exact hv.writeLoc ..
  · exact hv

end State.canonical

/-! ## Events -/

section
variable {s : State} (h : s.canonical)
include h

theorem retrieverSegment_canonical (t c : Nat) : NextIs State.canonical (exec (.retrieverSegment t c) s) := by
  show NextIs _ (execRetrieverSegment t c s)
  unfold execRetrieverSegment
  split
  · split
    · exact .next (.ite (State.canonical.noteServed (h.query ..) ..) h)
    · split
      · exact .next (.ite (h.putCmd ..) h)
      · split
        · exact .next (State.canonical.noteServed (h.serveSegment ..) ..)
        · exact .next h
  · exact .next h

theorem commandSignal_canonical (t k : Nat) : NextIs State.canonical (exec (.commandSignal t k) s) := by
  show NextIs _ (execCommandSignal t k s)
  unfold execCommandSignal
  split
  · next tm c _ _ =>
    split
    · exact .next h
    · split
      · exact .next (h.endCmd ..)
      · next a _ =>
        have hw := h.writeSignal t tm c a
        split
        · next e => rw [e] at hw; exact .next (hw.endCmd ..)
        · next e => rw [e] at hw; exact .next (State.canonical.modTeam (hw.cmdFault ..) ..)
  · exact .next h

theorem segmentReplay_canonical (t k : Nat) : NextIs State.canonical (exec (.segmentReplay t k) s) := by
  show NextIs _ (execSegmentReplay t k s)
  unfold execSegmentReplay
  split
  · next tm c _ _ =>
    split
    · exact .next h
    · split
      · next a _ _ =>
        have hw := h.writeSignal t tm c a
        split
        · next e => rw [e] at hw; exact .next (hw.endCmd ..)
        · next e => rw [e] at hw; exact .next (hw.endCmd ..)
      · exact .next h
      · split
        · exact .next h
        · split
          · exact .next h
          · exact .next (State.canonical.noteServed (h.replaySegment ..) ..)
  · exact .next h

theorem collComplete_canonical (t k : Nat) (ps : List PeerPart) : NextIs State.canonical (exec (.collComplete t k ps) s) := by
  show NextIs _ (execCollComplete t k ps s)
  unfold execCollComplete
  split
  · split
    · dsimp only
      split
      · exact .next h
      · split
        · exact .next (h.putCmd ..)
        · split
          · exact .next h
          · exact .next (State.canonical.putCmd (h.charge ..) ..)
    · exact .next h
  · exact .next h

theorem collTimeout_canonical (t k : Nat) : NextIs State.canonical (exec (.collTimeout t k) s) := by
  show NextIs _ (execCollTimeout t k s)
  unfold execCollTimeout
  split
  · split
    · exact .next (State.canonical.putCmd (h.spoilOut ..) ..)
    · exact .next h
  · exact .next h

end

end Sys2Proof.Machine
end

section
/-! PROOFS. Canonical form of the memories through the matrix engine, landing and replay, and integrity errors. -/
namespace Sys2Proof.Machine

namespace State.canonical
variable {s : State} (h : s.canonical)
include h

/-! ## The matrix engine -/

theorem spadStore (t o : Nat) (b : List Byte) : (s.spadStore t o b).canonical := h.modTeam ..

theorem capture (t gi id : Nat) (ws : Option (List Nat)) : (s.capture t gi id ws).canonical := by
  unfold State.capture
  split
  · split
    · split
      · exact h
      · exact .ite h (h.modGroup ..)
    · exact h
  · exact h

theorem freeRows (t acc : Nat) (rows : List Nat) : (s.freeRows t acc rows).canonical := h.of_eq rfl

theorem endEngine (core t gi id : Nat) : (s.endEngine core t gi id).canonical := modGroup (h.modCore ..) ..

theorem putStatus (t acc : Nat) (w : Option (Nat × Word)) (st : Byte) : (s.putStatus t acc w st).canonical := by
  unfold State.putStatus
  split
  · exact h
  · exact h.spadStore ..

theorem performMove {u : State} {t gi : Nat} {tm : Team} {o : Op} {rows : List Nat} {a : EngAct}
    (e : s.performMove t gi tm o rows a = some (.ok u)) : u.canonical := by
  have put {f : State → Nat → State} (hf : ∀ v r, v.canonical → (f v r).canonical) : (rows.foldl f s).canonical := h.fold hf
  have stores {v : State} {α : Type} (f : α → Nat) (g : α → List Byte) (xs : List α) (hv : v.canonical) :
      (xs.foldl (fun v x => v.spadStore t (f x) (g x)) v).canonical := hv.fold fun _ _ hw => hw.spadStore ..
  unfold State.performMove at e
  dsimp only at e
  split at e
  · cases e
  · split at e
    · cases e; exact h.modTeam ..
    · split at e
      · cases e
      · split at e
        · cases e; exact h.modTeam ..
        · split at e
          · cases e; exact modTeam (h.freeRows ..) ..
          · cases e; exact h.modTeam ..
    · split at e
      · cases e; exact h.modTeam ..
      · split at e
        · cases e
        · cases e
          refine modTeam (put fun v r hv => ?_) ..
          exact .ite (stores (fun j => _) (fun j => _) _ hv) (hv.spadStore ..)
    · split at e
      · cases e
      · cases e; exact h.modGroup ..
    · cases e; exact h.modTeam ..
    · split at e
      · cases e; exact h.modTeam ..
      · split at e
        · cases e
        · cases e
          exact modTeam (put fun v r hv => modTeam (stores Prod.fst Prod.snd _ hv) ..) ..
    · cases e
      exact .ite (modTeam (h.modGroup ..) ..) (h.modGroup ..)
    · cases e

theorem mxPerform {u : State} {t : Nat} {b : MxBlk} (e : s.mxPerform t b = some u) : u.canonical :=
  (mxPerform_touches e).canonical h

/-! ## Faults and replay -/

theorem pageFaults (code t gi id e : Nat) (recs : List (Nat × Mask × PageFault)) :
    (s.pageFaults code t gi id e recs).canonical := by
  unfold State.pageFaults
  split
  · exact h
  · exact h.fold fun _ _ hv => modTeam (hv.faultRec ..) ..

theorem findFault (t gi id : Nat) : (s.findFault t gi id).canonical := by
  unfold State.findFault
  split
  · exact .ite h (.ite (h.modGroup ..) (pageFaults (h.modGroup ..) ..))
  · exact h

theorem clearTokens (w : Faulter) : (s.clearTokens w).canonical := h.of_eq rfl

omit h in
theorem mxAll {t : Nat} {bs : List MxBlk} {u : State} (h : s.canonical) (e : State.mxAll t bs s = some u) : u.canonical := by
  induction bs generalizing s with
  | nil => cases e; exact h
  | cons b bs ih =>
    obtain ⟨v, hv, he⟩ := Option.bind_eq_some_iff.mp e
    exact ih (h.mxPerform hv) he

/-- Each replayed access keeps the form, lane by lane. -/
theorem replayAcc {i : Instr} {a : GAcc} (e : replayAcc i = some a) (t : Nat) (v : OpVals) (l : Nat) (cov : List (Nat × Nat)) :
    (a.run t v l cov s).s.canonical := by
  unfold Machine.replayAcc at e
  split at e <;> cases e
  case h_1 | h_3 => exact (gload_touches (W := fun _ => False) ..).canonical h
  case h_2 | h_4 => exact (gstore_touches ..).canonical h
  case h_5 | h_6 => exact (gAtomic_touches ..).canonical h
  case h_7 => exact (mxldAcc_touches (W := fun _ => False) ..).canonical h
  case h_8 => exact (mxaccAcc_touches (W := fun _ => False) ..).canonical h
  case h_9 | h_10 | h_11 | h_12 => exact (gAtomic_touches ..).canonical h

omit h in
theorem runLanes {i : Instr} {a : GAcc} (e : Machine.replayAcc i = some a) (t : Nat) (v : OpVals) (ls : List Nat) (r : RunOut)
    (hr : r.s.canonical) : (a.runLanes t v ls r).s.canonical := by
  induction ls generalizing r with
  | nil => exact hr
  | cons l ls ih => exact ih _ (hr.replayAcc e t v l r.cov)

/-! ## Integrity errors -/

theorem logSite (o : State) (x : EccSite) (a : Nat) : (s.logSite o x a).canonical := .ite h (h.logPoison a)

theorem poisonSite (x : EccSite) : (s.poisonSite x).canonical := by
  have h1 {u : State} (hu : u.canonical) (n : Nat) (a : Nat) : (State.logSite { u with freeCtr := n } s x a).canonical :=
    logSite (s := { u with freeCtr := n }) (hu.of_eq (by rfl)) ..
  unfold State.poisonSite
  split
  · exact h.poisonLine _
  · exact .ite (h.poisonGranule ..) h
  · exact h1 (h.modGroup ..) ..
  · exact h1 (h.modGroup ..) ..
  · exact .ite h (h1 (h.modTeam ..) ..)
  · exact h.modGroup ..
  · exact logSite (s := { s with k := _ }) (h.of_eq (by rfl)) ..

theorem correctSite (x : EccSite) : (s.correctSite x).canonical := by
  unfold State.correctSite
  split
  · dsimp only
    split
    · exact modGroup (h.modTeam ..) ..
    · exact h.modTeam ..
  · exact h.modGroup ..
  · exact h

theorem found (x : EccSite) (k : EccKind) (r : Option Repair) : (s.found x k r).canonical := by
  unfold State.found
  split
  · exact h
  · exact logs (kpend (h.correctSite x) _) (State.noteRepair_logs ..)
  · exact logs (kpend (h.poisonSite x) _) (State.noteRepair_logs ..)

end State.canonical

/-! ## Events -/

section
variable {s : State} (h : s.canonical)
include h

theorem mmaCapture_canonical (t gi id : Nat) : NextIs State.canonical (exec (.mmaCapture t gi id) s) := .next (h.capture ..)

theorem mmaComplete_canonical (t gi id : Nat) : NextIs State.canonical (exec (.mmaComplete t gi id) s) := by
  show NextIs _ (execMmaComplete t gi id s)
  unfold execMmaComplete
  split
  · split
    · dsimp only
      split
      · exact .next h
      · split
        · exact .next (State.canonical.endEngine (State.canonical.putStatus (h.modTeam ..) ..) ..)
        · exact .next h
        · refine .next (State.canonical.endEngine (State.canonical.modCore (State.canonical.putStatus ?_ ..) ..) ..)
          exact State.canonical.modTeam (.ite (h.freeRows ..) (h.setTeam ..)) ..
    · exact .next h
  · exact .next h

theorem mxaccBlock_canonical (t gi id : Nat) : NextIs State.canonical (exec (.mxaccBlock t gi id) s) := by
  show NextIs _ (execMxaccBlock t gi id s)
  unfold execMxaccBlock
  split
  · exact .next h
  · split
    · exact .next h
    · split
      · split
        · exact .next (h.modTeam ..)
        · next e => exact .next (State.canonical.modGroup (h.mxPerform e) ..)
      · exact .next h

theorem loadLand_canonical (t gi id : Nat) : NextIs State.canonical (exec (.loadLand t gi id) s) := by
  show NextIs _ (execLoadLand t gi id s)
  unfold execLoadLand
  split
  · split
    · exact .next (State.canonical.findFault (.ite h (h.modGroup ..)) ..)
    · exact .next (h.modGroup ..)
    · split
      · exact .next h
      · exact .next (h.modGroup ..)
    · split
      · exact .next h
      · exact .next (h.modTeam ..)
      · next e => exact .next (State.canonical.endEngine (h.performMove e) ..)
    · exact .next (h.findFault ..)
    · exact .next h
  · exact .next h

theorem operandLogReplay_canonical (t gi : Nat) : NextIs State.canonical (exec (.operandLogReplay t gi) s) := by
  show NextIs _ (execOperandLogReplay t gi s)
  unfold execOperandLogReplay
  split
  · next tm o _ _ =>
    split
    · exact .next h
    · next a ha =>
      obtain ⟨i, -, ha⟩ := Option.bind_eq_some_iff.mp ha
      dsimp only
      generalize h0 : State.modGroup (s.clearTokens _) t gi _ = s0
      have hs0 : s0.canonical := h0 ▸ State.canonical.modGroup (h.clearTokens _) ..
      generalize hr0 : a.runLanes t o.vals _ _ = r
      have hr : r.s.canonical := hr0 ▸ State.canonical.runLanes ha _ _ _ _ hs0
      split
      · exact .next h
      · split
        · exact .next (h.modTeam ..)
        · next s1 e =>
          split
          · split
            · exact .next (hr.modGroup ..)
            · exact .next h
          · refine .next (State.canonical.pageFaults (State.canonical.modGroup ?_ ..) ..)
            split at e
            · cases e
            · exact State.canonical.mxAll hr e
  · exact .next h

theorem parkWake_canonical (t gi l : Nat) : NextIs State.canonical (exec (.parkWake t gi l) s) := by
  show NextIs _ (execParkWake t gi l s)
  unfold execParkWake
  split
  · exact .next h
  · dsimp only
    split
    · split
      · exact .next (h.modGroup ..)
      · exact .next h
    · exact .next h

theorem eccEvent_canonical (x : EccSite) (k : EccKind) (r : Option Repair) :
    NextIs State.canonical (exec (.eccEvent x k r) s) := .next (h.found ..)

theorem scrub_canonical (pa : Nat) (k : EccKind) (r : Option Repair) : NextIs State.canonical (exec (.scrub pa k r) s) := by
  show NextIs _ (execScrub pa k r s)
  unfold execScrub
  dsimp only
  split
  · exact .next (State.canonical.charge (h.found ..) ..)
  · exact .next h

end

end Sys2Proof.Machine
end

section
/-! PROOFS. Canonical form of the memories through the start and save of teams, and through the power loop. -/
namespace Sys2Proof.Machine

namespace State.canonical
variable {s : State} (h : s.canonical)
include h

/-! ## Starts, saves and pre-emption -/

theorem writeArea (g : Grid) (tm : Team) : (s.writeArea g tm).canonical := by
  have hc (xs : List (Nat × List Byte)) : (xs.foldl (fun (v : State) c => v.pinWrite g.pins ((g.lr.areaMap tm.team).base + c.1) c.2) s).canonical :=
    h.fold fun _ _ hv => hv.pinWrite ..
  unfold State.writeArea
  exact pinWrite (of_eq (s := List.foldl State.poisonLine _ _) (fold (hc _) fun _ _ hv => hv.poisonLine _) (by rfl)) ..

theorem begin (t : Nat) (tm : Team) (g : Grid) : (s.begin t tm g).canonical := modTeam (modGrid (h.modCol ..) ..) ..

theorem save (t : Nat) (tm : Team) (g : Grid) : (s.save t tm g).canonical :=
  event (setTeam (freeResources (writeArea (h.dropToken t) ..) ..) ..) ..

theorem cancelMove (t : Nat) (tm : Team) : (s.cancelMove t tm).canonical := by
  unfold State.cancelMove
  exact .ite h (modCol (h.modTeam ..) ..)

theorem requestPre (tm : Team) (r : PreReq) : (s.requestPre tm r).canonical := h.fold fun _ _ hv => hv.modTeam ..

theorem preempt (g : Word) (t : Nat) (hold : Bool) : (s.preempt g t hold).canonical := by
  unfold State.preempt
  split
  · exact h.requestPre ..
  · exact h

theorem unhold (g : Word) (t : Nat) : (s.unhold g t).canonical := by
  unfold State.unhold
  split
  · exact h.fold fun _ _ hv => hv.modTeam ..
  · exact h

/-! ## Power -/

theorem newPeriod (c : Nat) (es : List Energy) :
    ({ s with periodAt := c, k := { s.k.newPeriod with energy := es } } : State).canonical := h.of_eq rfl

theorem retune (core : Nat) : (s.retune core).canonical := h.modCore ..

theorem retuneCol (col : Nat) : (s.retuneCol col).canonical := h.fold fun _ _ hv => hv.retune _

theorem judge (cols : List ColPeriod) : (s.judge cols).canonical := h.fold fun _ _ hv => hv.modCol ..

theorem beginMove (t : Nat) (lr : Launch) (d : Nat) (sl : List (Nat × Nat)) : (s.beginMove t lr d sl).canonical :=
  modTeam (h.modCol ..) ..

theorem arrive (t : Nat) (tm : Team) (m : Migration) : (s.arrive t tm m).canonical := modTeam (modGrid (h.modCol ..) ..) ..

theorem readDiode (core : Nat) : (s.readDiode core).canonical := .ite (retune (kpend (h.modCore ..) 4) core) (h.modCore ..)

theorem shepherd (es : List TeamEnergy) (col : Nat) : (s.shepherd es col).canonical := by
  unfold State.shepherd
  refine .ite h ?_
  split
  · exact h
  · split
    · exact h
    · split
      · exact h
      · exact h.beginMove ..

end State.canonical

/-! ## Events -/

section
variable {s : State} (h : s.canonical)
include h

theorem teamStart_canonical (t : Nat) : NextIs State.canonical (exec (.teamStart t) s) := by
  show NextIs _ (execTeamStart t s)
  unfold execTeamStart
  split
  · exact .next h
  · split
    · exact .next h
    · split
      · exact .next h
      · split
        · exact .next (h.killTeam ..)
        · exact .next (h.begin ..)

theorem preemptSave_canonical (t : Nat) : NextIs State.canonical (exec (.preemptSave t) s) := by
  show NextIs _ (execPreemptSave t s)
  unfold execPreemptSave
  split
  · exact .next h
  · split
    · exact .next h
    · split
      · exact .next (h.cancelMove ..)
      · split
        · exact .next (h.save ..)
        · exact .next h

theorem preempt_canonical (g : Word) (t : BitVec 24) (hold : Bool) : NextIs State.canonical (exec (.preempt g t hold) s) :=
  .next (h.preempt ..)

theorem release_canonical (g : Word) (t : BitVec 24) : NextIs State.canonical (exec (.release g t) s) := .next (h.unhold ..)

theorem prioPreempt_canonical (t : Nat) : NextIs State.canonical (exec (.prioPreempt t) s) := by
  show NextIs _ (execPrioPreempt t s)
  unfold execPrioPreempt
  split
  · exact .next h
  · split
    · exact .next h
    · dsimp only
      split
      · split
        · exact .next (h.requestPre ..)
        · exact .next h
      · exact .next h

theorem budgetPeriod_canonical (cols : List ColPeriod) (accs : List Nat) :
    NextIs State.canonical (exec (.budgetPeriod cols accs) s) := by
  show NextIs _ (execBudgetPeriod cols accs s)
  unfold execBudgetPeriod
  split
  · exact .next h
  · exact .next (State.canonical.fold ((h.judge cols).newPeriod ..) fun _ _ hv => hv.retuneCol _)

theorem hopBegin_canonical (core slice : Nat) : NextIs State.canonical (exec (.hopBegin core slice) s) := by
  show NextIs _ (execHopBegin core slice s)
  unfold execHopBegin
  split
  · exact .next (h.modCore ..)
  · split
    · exact .next (h.modCore ..)
    · exact .next h

theorem hopEnd_canonical (core slice : Nat) : NextIs State.canonical (exec (.hopEnd core slice) s) := by
  show NextIs _ (execHopEnd core slice s)
  unfold execHopEnd
  split
  · split
    · exact .next (h.modCore ..)
    · exact .next h
  · exact .next h

theorem droopStretch_canonical (core : Nat) : NextIs State.canonical (exec (.droopStretch core) s) := .next (h.modCore ..)

theorem stretchEnd_canonical (core : Nat) : NextIs State.canonical (exec (.stretchEnd core) s) := by
  show NextIs _ (execStretchEnd core s)
  unfold execStretchEnd
  split
  · split
    · exact .next (h.modCore ..)
    · exact .next h
  · exact .next h

theorem hopRetry_canonical (core slice : Nat) : NextIs State.canonical (exec (.hopRetry core slice) s) := by
  show NextIs _ (execHopRetry core slice s)
  unfold execHopRetry
  dsimp only
  split
  · split
    · exact .next h
    · split
      · exact .next (h.modCore ..)
      · split
        · exact .next (h.modCore ..)
        · exact .next h
  · exact .next h

theorem leashTrigger_canonical (core slice d : Nat) : NextIs State.canonical (exec (.leashTrigger core slice d) s) := by
  show NextIs _ (execLeashTrigger core slice d s)
  unfold execLeashTrigger
  split
  · exact .next (h.modCore ..)
  · exact .next h

theorem leashStep_canonical (core slice : Nat) : NextIs State.canonical (exec (.leashStep core slice) s) := by
  show NextIs _ (execLeashStep core slice s)
  unfold execLeashStep
  split
  · split
    · exact .next (h.modCore ..)
    · exact .next h
  · exact .next h

theorem migrationEnd_canonical (t : Nat) : NextIs State.canonical (exec (.migrationEnd t) s) := by
  show NextIs _ (execMigrationEnd t s)
  unfold execMigrationEnd
  split
  · exact .next h
  · split
    · exact .next h
    · split
      · exact .next (h.cancelMove ..)
      · split
        · exact .next (State.canonical.charge (h.arrive ..) ..)
        · exact .next h

theorem shepherdReading_canonical (es : List TeamEnergy) : NextIs State.canonical (exec (.shepherdReading es) s) := by
  show NextIs _ (execShepherdReading es s)
  unfold execShepherdReading
  split
  · exact .next h
  · have hr : ((s.cores.map Prod.fst).foldl State.readDiode { s with readAt := some s.clk }).canonical :=
      State.canonical.fold (s := { s with readAt := _ }) (h.of_eq (by rfl)) fun _ _ hv => hv.readDiode _
    exact .next (hr.fold fun _ _ hv => hv.shepherd ..)

end

end Sys2Proof.Machine
end

section
/-! PROOFS. Canonical form of the memories through the scan rotation, the coolant and the resets. -/
namespace Sys2Proof.Machine

theorem NextIs.ite {R : State → Prop} {p : Prop} [Decidable p] {a b : Host.Outcome State Fault Refusal} (ha : NextIs R a)
    (hb : NextIs R b) : NextIs R (if p then a else b) := by
  split
  · exact ha
  · exact hb

namespace State.canonical
variable {s : State} (h : s.canonical)
include h

/-! ## The scan rotation -/

theorem emptyCore (core : Nat) : (s.emptyCore core).canonical := by
  refine h.fold fun v p hv => ?_
  split
  · refine .ite ?_ hv
    split
    · exact hv.beginMove ..
    · exact hv
  · exact hv

theorem withdraw (core : Nat) (late : PreReq → Bool) : (s.withdraw core late).canonical := h.of_eq rfl

theorem corePassed (core b : Nat) : (s.corePassed core b).canonical :=
  h.fold fun _ _ hv => .ite (finalByte (hv.modGrid ..) ..) (hv.modGrid ..)

theorem coreFailed (core : Nat) : (s.coreFailed core).canonical := h.fold fun _ _ hv => .ite (hv.finalByte ..) (hv.modGrid ..)

theorem schedOpen : s.schedOpen.canonical := .ite (h.of_eq rfl) h

/-! ## The coolant -/

theorem setCool (c : Coolant) : ({ s with cool := c } : State).canonical := h.of_eq rfl

theorem setBudgets (f : Nat → Nat) : (s.setBudgets f).canonical := h.fold fun _ _ hv => hv.modCol ..

theorem cutBudgets : s.cutBudgets.canonical := setBudgets (h.setCool _) _

theorem stopDispatch (c : Coolant) : ({ s with sched := { s.sched with enable := false }, cool := c } : State).canonical := h.of_eq rfl

/-! ## Resets -/

theorem applyRepair (i : Nat) : (s.applyRepair i).canonical := h.logs (State.applyRepair_repaired s i).logs

theorem coldBoot : (State.keepOutside State.reset s).boot.canonical := boot ⟨by rfl, h.2.1, by rfl⟩

end State.canonical

/-! ## Events -/

section
variable {s : State} (h : s.canonical)
include h

theorem scanVisit_canonical (core : Nat) : NextIs State.canonical (exec (.scanVisit core) s) := by
  show NextIs _ (execScanVisit core s)
  have hs : ({ s with scanAt := AMap.set s.scanAt (coreStack core) core } : State).canonical := h.of_eq rfl
  unfold execScanVisit
  dsimp only
  split
  · split
    · exact .next (State.canonical.charge (h.modCore ..) ..)
    · exact .next (h.emptyCore core)
  · exact .next h
  · split
    · exact .next h
    · split
      · exact .next (hs.modCore ..)
      · exact .next (State.canonical.emptyCore (hs.modCore ..) core)

theorem scanMoveTimeout_canonical (core t : Nat) : NextIs State.canonical (exec (.scanMoveTimeout core t) s) := by
  show NextIs _ (execScanMoveTimeout core t s)
  unfold execScanMoveTimeout
  split
  · split
    · exact .next (h.requestPre ..)
    · exact .next h
  · exact .next h

theorem scanPreemptWithdraw_canonical (core : Nat) : NextIs State.canonical (exec (.scanPreemptWithdraw core) s) := by
  show NextIs _ (execScanPreemptWithdraw core s)
  unfold execScanPreemptWithdraw
  exact .ite (.next (State.canonical.modCore (h.withdraw ..) ..)) (.next (h.withdraw ..))

theorem scanComplete_canonical (core : Nat) (ok : Bool) : NextIs State.canonical (exec (.scanComplete core ok) s) := by
  show NextIs _ (execScanComplete core ok s)
  unfold execScanComplete
  split
  · split
    · exact .next h
    · split
      · exact .next (State.canonical.schedOpen (State.canonical.corePassed (h.modCore ..) ..))
      · refine .next (State.canonical.schedOpen (State.canonical.coreFailed (State.canonical.hwLog ?_ ..) core))
        exact State.canonical.kpend (h.modCore ..) 7
  · exact .next h

theorem flowChange_canonical (lid good : Bool) : NextIs State.canonical (exec (.flowChange lid good) s) := by
  show NextIs _ (execFlowChange lid good s)
  unfold execFlowChange
  exact .ite (.next h) (.next (State.canonical.hwLog (State.canonical.kpend (h.setCool _) 5) ..))

theorem flowLossBudgetCut_canonical : NextIs State.canonical (exec .flowLossBudgetCut s) := by
  show NextIs _ (execFlowLossBudgetCut s)
  unfold execFlowLossBudgetCut
  dsimp only
  split
  · exact .next (State.canonical.hwLog (h.cutBudgets.setCool _) ..)
  · exact .next h

theorem coolantShutdown_canonical : NextIs State.canonical (exec .coolantShutdown s) := by
  show NextIs _ (execCoolantShutdown s)
  unfold execCoolantShutdown
  split
  · have hs := (h.cutBudgets.hwLog 2 (some 2) 0xFFFF [3])
    refine .next ((hs.stopDispatch _).fold fun v g hv => ?_)
    exact State.canonical.event (hv.killGrid ..) ..
  · exact .next h

theorem coolantRecovery_canonical : NextIs State.canonical (exec .coolantRecovery s) := by
  show NextIs _ (execCoolantRecovery s)
  unfold execCoolantRecovery
  split
  · split
    · exact .next (State.canonical.setCool (State.canonical.setBudgets (h.hwLog ..) _) _)
    · exact .next h
  · exact .next h

theorem coldReset_canonical : NextIs State.canonical (exec .coldReset s) := by
  show NextIs _ (execColdReset s)
  unfold execColdReset
  dsimp only
  split
  · exact .next (State.canonical.of_eq (s := List.foldl State.applyRepair _ _) (h.coldBoot.fold fun _ _ hv => hv.applyRepair _) rfl)
  · exact .next h.coldBoot

theorem computeRelease_canonical : NextIs State.canonical (exec .computeRelease s) := by
  show NextIs _ (execComputeRelease s)
  unfold execComputeRelease
  split
  · exact .next (h.of_eq rfl)
  · exact .next h

theorem lockupReset_canonical : NextIs State.canonical (exec .lockupReset s) := by
  show NextIs _ (execLockupReset s)
  unfold execLockupReset
  split
  · split
    · exact .next h.warmReset
    · exact .next h
  · exact .next h

end

end Sys2Proof.Machine
end

section
/-! PROOFS. Canonical form of the memories through the Kennel's events, the halt windows, the host's accesses and regrouping. -/
namespace Sys2Proof.Machine

namespace State.canonical
variable {s : State} (h : s.canonical)
include h

/-! ## The M space and the update engine -/

theorem setK {k : Kennel} (hk : k.sram = s.k.sram) : ({ s with k := k } : State).canonical := h.of_eq (by simp only [hk])

theorem upcmdWrite (x : Word) : (s.upcmdWrite x).canonical := mwrite_canonical .upcmd x h

theorem sctlAllWrite (core : Nat) (x : Word) : (s.sctlAllWrite core x).canonical := mwrite_canonical (.sctlAll core) x h

theorem install (b : List Byte) (i : Image) : (s.install b i).canonical := .ite (h.of_eq rfl) h

theorem upDone (w : Word) : (s.upDone w).canonical :=
  hwLog (kpend (s := { s with k := { s.k with upstat := w, upjob := none } }) (h.setK rfl) 10) ..

theorem upWrite {a : Nat} {b : List Byte} {u : State} (e : s.upWrite a b = some u) : u.canonical := by
  unfold State.upWrite at e
  split at e
  · cases e
    exact ⟨h.1, h.2.1, Memory.wf_writeN _ _ _ h.2.2⟩
  · split at e
    · cases e
      exact h.memWrite ..
    · cases e

theorem mspaceWrite (a n : Nat) (x : DWord) : (s.mspaceWrite a n x).canonical := by
  unfold State.mspaceWrite
  split
  · exact h.fold fun _ _ hv => mwrite_canonical _ _ hv
  · exact h

/-! ## Halt windows -/

theorem modHalted (core slot : Nat) (f : Group → Group) : (s.modHalted core slot f).canonical := by
  unfold State.modHalted
  split
  · exact h.modGroup ..
  · exact h

theorem writeRegdata (core slot : Nat) (x : Word) : (s.writeRegdata core slot x).canonical := by
  unfold State.writeRegdata
  split
  · exact payCkpt (h.modGroup ..) _
  · exact h

theorem haltAgain (t : Nat) (g : Group) (c : Cause) (a : DWord) (m : Mask) : (s.haltAgain t g c a m).canonical := h.halt ..

theorem resume (core slot : Nat) : (s.resume core slot).canonical := by
  unfold State.resume
  split
  · exact h
  · dsimp only
    split
    · exact h.haltAgain ..
    · split
      · exact h.haltAgain ..
      · exact h.modGroup ..

/-! ## The host link -/

theorem schedWrite (m r : DWord) : (s.schedWrite m r).canonical := .ite h (h.of_eq rfl)

theorem winWrite (core slot o : Nat) (m r : DWord) : (s.winWrite core slot o m r).canonical := by
  unfold State.winWrite
  refine .ite (h.modHalted ..) (.ite (h.modHalted ..) (.ite (h.writeRegdata ..) (.ite ?_ (.ite (h.modHalted ..) h))))
  split
  · exact h
  · refine .ite (h.resume ..) (.ite (h.killTeam ..) (.ite ?_ h))
    split
    · exact h.killGrid ..
    · exact h

theorem setSched (x : Sched) : ({ s with sched := x } : State).canonical := h.of_eq rfl

theorem hput (r : HReg) (m x : DWord) : (s.hput r m x).canonical := by
  cases r with
  | sched => exact h.schedWrite ..
  | frbase | frsize | frcount | evbase | evsize | evcount => exact flushRings (h.setSched _)
  | frdoor => exact .ite (h.frKill _) (h.frRetry _)
  | preempt => exact h.preempt ..
  | release => exact h.unhold ..
  | kill => exact h.hostKill _
  | push q => exact h.push ..
  | qstat q => exact h.modQueue ..
  | qprio q => exact h.modQueue ..
  | wbase w => exact h.of_eq rfl
  | wlen w => exact h.of_eq rfl
  | win c sl o => exact h.winWrite ..

theorem accErr : s.accErr.canonical := h.setSched _

theorem hostWrite (a n : Nat) (x : DWord) : (s.hostWrite a n x).canonical := by
  unfold State.hostWrite
  refine .ite h.accErr ?_
  split
  · exact h
  · dsimp only
    refine .ite (h.hput ..) (.ite h.accErr (.ite (h.hput ..) ?_))
    split
    · exact h
    · exact h.hput ..

theorem hostRead (a n : Nat) : (s.hostRead a n).2.canonical := by
  unfold State.hostRead
  split
  · exact h.accErr
  · split
    · exact h
    · next r _ =>
      have hr : (match r with
          | .win c sl 0x48 => s.modHalted c sl (fun g => if selBad g.regsel then g.refuseEdit s.clk else g)
          | _ => s).canonical := by
        split
        · exact h.modHalted ..
        · exact h
      dsimp only
      split
      · exact hr
      · split <;> exact hr

/-! ## Inputs -/

theorem readBtemp (i : Nat) (t : Int) : (s.readBtemp i t).canonical := by
  have hk (b : List (Nat × Word)) (l : List Nat) : ({ s with k := { s.k with btemp := b, btAlarm := l } } : State).canonical := h.setK rfl
  unfold State.readBtemp
  exact .ite (hwLog (hk ..) ..) (.ite (hwLog (hk ..) ..) (hk _ s.k.btAlarm))

theorem input (e : Env) : (s.input e).canonical := by
  cases e with
  | diode c t => exact .ite h (h.modCore ..)
  | btemp i t => exact .ite (h.readBtemp ..) h
  | pmon i x => exact .ite (h.setK rfl) h
  | rail good => exact h.setCool _
  | bus a d => exact ⟨h.1, Memory.wf_writeN _ _ _ h.2.1, h.2.2⟩
  | mem a d => exact .ite (h.memWrite ..) h
  | hostRead a n => exact h.hostRead ..

/-! ## Regrouping -/

theorem moveBudget (t gi b : Nat) (m : Mask) (f : Filed) : (s.moveBudget t gi b m f).canonical := by
  unfold State.moveBudget
  split
  · exact h
  · exact .ite (h.halt ..) (payCkpt (h.modGroup ..) t)

theorem noteViolation (t gi : Nat) : (match s.team? t, s.group? t gi with
    | some tm, some g => if g.svmask = 0#64 then s else s.modGrid tm.grid (fun x => { x with sviol := true })
    | _, _ => s).canonical := by
  split
  · exact .ite h (h.modGrid ..)
  · exact h

theorem formGroup (t gi n : Nat) (fs : List (DWord × Filed)) : (s.formGroup t gi n fs).canonical := by
  have h1 := (h.noteViolation t gi).modTeam t (fun x =>
    { x.modGroup gi (fun g => g.refill s.clk n fs) with bins := takeOut (fs.map (fun p => p.2.tid)) x.bins })
  unfold State.formGroup
  dsimp only
  cases fs
  · exact h1
  · exact h1.moveBudget ..

theorem netRelease (core : Nat) (fs : List Filed) : (s.netRelease core fs).canonical := h.modCore ..

theorem enterGroup (t n : Nat) (key : DWord) (ps : List ((Nat × Nat) × Filed)) (gi : Nat) :
    (s.enterGroup t n key ps gi).canonical := by
  unfold State.enterGroup
  dsimp only
  split
  · exact h.modTeam ..
  · exact moveBudget (h.modTeam ..) ..

end State.canonical

/-- Where the next slot leaves a state at once, that has the property. -/
def NextSlot.Goes (R : State → Prop) : NextSlot → Prop
  | .bad s => R s
  | .go s => R s
  | .instr _ => True
  | .move _ => True

/-! ## Events -/

section
variable {s : State} (h : s.canonical)
include h

theorem updateDone_canonical : NextIs State.canonical (exec .updateDone s) := by
  show NextIs _ (execUpdateDone s)
  unfold execUpdateDone
  split
  · exact .next h
  · split
    · exact .fault
    · refine .next (State.canonical.upDone ?_ _)
      split
      · exact h.install ..
      · exact h
  · split
    · exact .fault
    · split
      · exact .fault
      · next e => exact .next (State.canonical.upDone (h.upWrite e) 0)

theorem registerWrite_canonical (k : Bool) (a n : Nat) (x : DWord) :
    NextIs State.canonical (exec (.registerWrite k a n x) s) := .next (.ite (h.mspaceWrite ..) (h.hostWrite ..))

theorem interruptEntry_canonical : NextIs State.canonical (exec .interruptEntry s) := by
  show NextIs _ (execInterruptEntry s)
  unfold execInterruptEntry
  refine .ite ?_ (.next h)
  split
  · exact .next (State.canonical.tick ((State.SameStores.kVector ..).canonical h) 1)
  · exact .next h

theorem reformFiling_canonical (t gi l : Nat) : NextIs State.canonical (exec (.reformFiling t gi l) s) := by
  show NextIs _ (execReformFiling t gi l s)
  unfold execReformFiling
  split
  · exact .ite (.next h) (.next (State.canonical.modCore (State.canonical.payCkpt (h.setTeam ..) t) ..))
  · exact .next h

theorem binReleaseFull_canonical (t b : Nat) : NextIs State.canonical (exec (.binReleaseFull t b) s) := by
  show NextIs _ (execBinReleaseFull t b s)
  unfold execBinReleaseFull
  split
  · exact .next h
  · split
    · exact .next h
    · exact .ite (.next h) (.next (State.canonical.netRelease (h.formGroup ..) ..))

theorem binAgeExpire_canonical (t b : Nat) : NextIs State.canonical (exec (.binAgeExpire t b) s) := by
  show NextIs _ (execBinAgeExpire t b s)
  unfold execBinAgeExpire
  split
  · exact .next h
  · refine .ite (.next h) ?_
    split
    · exact .next (State.canonical.netRelease (h.formGroup ..) ..)
    · exact .next (State.canonical.netRelease (h.fold fun _ _ hv => hv.enterGroup ..) ..)

/-! ## A step -/

theorem event_canonical (i : Instr) (hi : isEvent i = true) : NextIs State.canonical (exec i s) := by
  cases i
  case turn => exact turn_canonical h _ _
  case loadLand => exact loadLand_canonical h _ _ _
  case frdoorRetry => exact .next (h.frRetry _)
  case frdoorKill => exact .next (h.frKill _)
  case operandLogReplay => exact operandLogReplay_canonical h _ _
  case parkWake => exact parkWake_canonical h _ _ _
  case reformFiling => exact reformFiling_canonical h _ _ _
  case binReleaseFull => exact binReleaseFull_canonical h _ _
  case binAgeExpire => exact binAgeExpire_canonical h _ _
  case mmaCapture => exact mmaCapture_canonical h _ _ _
  case mmaComplete => exact mmaComplete_canonical h _ _ _
  case mxaccBlock => exact mxaccBlock_canonical h _ _ _
  case commandSignal => exact commandSignal_canonical h _ _
  case segmentReplay => exact segmentReplay_canonical h _ _
  case collComplete => exact collComplete_canonical h _ _ _
  case collTimeout => exact collTimeout_canonical h _ _
  case phaseCommit => exact phaseCommit_canonical h _
  case phaseRestart => exact phaseRestart_canonical h _
  case teamExit => exact teamExit_canonical h _
  case push => exact .next (h.push ..)
  case snapshot => exact snapshot_canonical h _
  case startConditionPoll => exact startConditionPoll_canonical h _
  case dispatch => exact dispatch_canonical h
  case admission => exact admission_canonical h _
  case bankDrain => exact bankDrain_canonical h _ _
  case rangeTranslation => exact rangeTranslation_canonical h _
  case teamStart => exact teamStart_canonical h _
  case prioPreempt => exact prioPreempt_canonical h _
  case preempt => exact preempt_canonical h _ _ _
  case preemptSave => exact preemptSave_canonical h _
  case release => exact release_canonical h _ _
  case kill => exact kill_canonical h _
  case regdataWrite => exact .next (h.writeRegdata ..)
  case cmdResume => exact .next (h.resume ..)
  case cmdKillTeam => exact cmdKillTeam_canonical h _ _
  case cmdKillGrid => exact cmdKillGrid_canonical h _ _
  case registerWrite => exact registerWrite_canonical h _ _ _ _
  case shepherdReading => exact shepherdReading_canonical h _
  case migrationEnd => exact migrationEnd_canonical h _
  case budgetPeriod => exact budgetPeriod_canonical h _ _
  case hopBegin => exact hopBegin_canonical h _ _
  case hopEnd => exact hopEnd_canonical h _ _
  case droopStretch => exact droopStretch_canonical h _
  case stretchEnd => exact stretchEnd_canonical h _
  case hopRetry => exact hopRetry_canonical h _ _
  case leashTrigger => exact leashTrigger_canonical h _ _ _
  case leashStep => exact leashStep_canonical h _ _
  case scanVisit => exact scanVisit_canonical h _
  case scanPreemptWithdraw => exact scanPreemptWithdraw_canonical h _
  case scanComplete => exact scanComplete_canonical h _ _
  case packKill => exact packKill_canonical h _ _
  case eccEvent => exact eccEvent_canonical h _ _ _
  case scrub => exact scrub_canonical h _ _ _
  case flowChange => exact flowChange_canonical h _ _
  case flowLossBudgetCut => exact flowLossBudgetCut_canonical h
  case coolantShutdown => exact coolantShutdown_canonical h
  case coolantRecovery => exact coolantRecovery_canonical h
  case coldReset => exact coldReset_canonical h
  case computeRelease => exact computeRelease_canonical h
  case warmReset => exact .next h.warmReset
  case pcieHotReset => exact .next h.warmReset
  case warmrst => exact .next (h.warmrst _)
  case lockupReset => exact lockupReset_canonical h
  case interruptEntry => exact interruptEntry_canonical h
  case ktimerMatch => exact .next (.ite (h.kpend 8) h)
  case logcommit => exact .next h.logCommit
  case sctlall => exact .next (h.sctlAllWrite ..)
  case enloRead => exact .next (h.setK rfl)
  case upcmdVerify => exact .next (h.upcmdWrite 1)
  case upcmdAttest => exact .next (h.upcmdWrite 2)
  case updateDone => exact updateDone_canonical h
  case retrieverSegment => exact retrieverSegment_canonical h _ _
  case scanMoveTimeout => exact scanMoveTimeout_canonical h _ _
  case br c _ => cases c <;> exact absurd hi Bool.false_ne_true
  case reform x => cases x <;> exact absurd hi Bool.false_ne_true
  all_goals exact absurd hi Bool.false_ne_true

theorem nextSlot_canonical : s.nextSlot.Goes State.canonical := by
  unfold State.nextSlot
  split
  · split
    · trivial
    · exact h.badWord ..
  · split
    · split
      · exact h.tick 1
      · split
        · trivial
        · exact h.kBegin
    · split
      · split
        · exact h.beginClaimed ..
        · split
          · exact h.of_eq rfl
          · trivial
      · exact h.tick 1

theorem word_canonical (i : Instr) (hi : (encode i).isSome = true) : NextIs State.canonical (exec i s) := by
  intro t ht
  by_cases hm : ∃ fs b x m, i = .mmst fs b x m
  · obtain ⟨fs, b, x, m, rfl⟩ := hm
    exact (mmst_keeps ht).1 h
  · exact (word_keeps hi (fun fs b x m e => hm ⟨fs, b, x, m, e⟩) s t ht).canonical h

theorem exec_canonical (i : Instr) : NextIs State.canonical (exec i s) := by
  cases hi : isEvent i
  · exact word_canonical h i (by simpa [isEvent] using hi)
  · exact event_canonical h i hi

theorem runSlot_canonical : NextIs State.canonical (runSlot s) := by
  have hn := nextSlot_canonical h
  unfold runSlot
  split
  · exact exec_canonical h _
  · exact exec_canonical h _
  · next e => rw [e] at hn; exact .next hn
  · next e => rw [e] at hn; exact .next hn

theorem refocus_canonical (a : Agent) : (s.refocus a).canonical := by
  unfold State.refocus
  split <;> exact h.of_eq rfl

theorem stepCore_canonical : NextIs State.canonical (stepCore s) := by
  have ha (r) : ({ s with agenda := r } : State).canonical := h.of_eq rfl
  unfold stepCore
  split
  · exact runSlot_canonical h
  · split
    · exact .next (State.canonical.tick (ha _) _)
    · exact .ite (exec_canonical (ha _) _) (.next (ha _))
    · exact .next (refocus_canonical (ha _) _)
    · exact .next (h.of_eq rfl)
    · exact .next (State.canonical.capture (ha _) ..)
    · exact .next (State.canonical.input (ha _) _)
    · exact runSlot_canonical h

end

/-- Settles O7: the memories are written only by canonical writes, which every instruction and every event keeps to. -/
theorem stepKeepsCanonical : Obligations.StepKeepsCanonical := by
  intro s t h hs
  have hc := stepCore_canonical h
  unfold step at hs
  split at hs
  · next u hu =>
    cases hs
    exact (hc u hu).timer s.clk
  · cases hs
  · cases hs

end Sys2Proof.Machine
end
